-- ==== Sys2Proof/Word.lean ====
section
/-! DEFINITION. Word.lean: the machine's word types (R4, R11, R42). A register of the vector and uniform
classes is 32 bits wide, an even–odd pair and an instruction word are 64 bits wide, and memory is a sequence of
bytes. Nothing here can be mended later, so it holds names only. -/

namespace Sys2Proof

/-- One byte of memory. -/
abbrev Byte := BitVec 8

/-- One vector or uniform register (R11). -/
abbrev Word := BitVec 32

/-- One even–odd register pair (R12), one instruction word (R42), one system register of 64 bits (R358). -/
abbrev DWord := BitVec 64

end Sys2Proof
end

