-- ==== Sys2Proof/Machine/Flags.lean ====
section
/-! DEFINITION. Machine/Flags.lean: the exception flags of an operation and their union into FPSTAT (R30). -/

namespace Sys2Proof.Machine

/-- The exception flags of one operation, in the bit order of FPSTAT (R30). -/
abbrev Flags := BitVec 5

def fNV : Flags := 1
def fDZ : Flags := 2
def fOF : Flags := 4
def fUF : Flags := 8
def fNX : Flags := 16

/-- The union of the flags that the lanes of a word raise (R30, R72). -/
def flagUnion (fs : List Flags) : Flags := fs.foldl (fun a b => a ||| b) 0

/-- FPSTAT after an operation: bits are set, never cleared (R30). -/
def fpstatOr (fpstat : Word) (f : Flags) : Word := fpstat ||| f.setWidth 32

end Sys2Proof.Machine
end

