-- ==== Sys2Proof/Machine/Float.lean ====
section
/-! DEFINITION. Machine/Float.lean: floating-point values and the one rounding of the machine (R23 to R34). A finite
value is held exactly, as a whole number times a power of two; every operation forms its exact result and rounds it
once. -/

namespace Sys2Proof.Machine

/-- A binary format: widths of the exponent and of the fraction (R23, R278). -/
structure Fmt where
  eb : Nat
  fb : Nat
  deriving DecidableEq, Repr

def Fmt.f64 : Fmt := ⟨11, 52⟩
def Fmt.f32 : Fmt := ⟨8, 23⟩
def Fmt.f16 : Fmt := ⟨5, 10⟩
def Fmt.bf16 : Fmt := ⟨8, 7⟩
/-- The accumulator format (R278). -/
def Fmt.af40 : Fmt := ⟨8, 31⟩

def Fmt.bias (f : Fmt) : Int := 2 ^ (f.eb - 1) - 1
def Fmt.width (f : Fmt) : Nat := 1 + f.eb + f.fb
/-- The exponent of the least significant bit of a subnormal. -/
def Fmt.qmin (f : Fmt) : Int := 1 - f.bias - f.fb
/-- The canonical quiet NaN (R24, R28). -/
def Fmt.canon (f : Fmt) : Nat := (2 ^ f.eb - 1) * 2 ^ f.fb + 2 ^ (f.fb - 1)
/-- An infinity. -/
def Fmt.inf (f : Fmt) (neg : Bool) : Nat := (2 ^ f.eb - 1) * 2 ^ f.fb + if neg then 2 ^ (f.eb + f.fb) else 0
/-- The largest finite value. -/
def Fmt.max (f : Fmt) (neg : Bool) : Nat := f.inf neg - 1
/-- A zero. -/
def Fmt.zero (f : Fmt) (neg : Bool) : Nat := if neg then 2 ^ (f.eb + f.fb) else 0

/-- The format of a type code (R50); integer codes read as .f32 and are never asked for. -/
def fmtOf (ty : BitVec 3) : Fmt :=
  match ty.toNat with
  | 5 => .f64
  | 6 => .f16
  | 7 => .bf16
  | _ => .f32

/-- What a bit pattern denotes: a zero, a finite value m × 2^e with m > 0, an infinity or a NaN. -/
inductive FVal where
  | zero (neg : Bool)
  | fin (neg : Bool) (m : Nat) (e : Int)
  | inf (neg : Bool)
  | nan (signalling : Bool)
  deriving DecidableEq, Repr

/-- The value of a pattern (R23, R24). -/
def fval (f : Fmt) (n : Nat) : FVal :=
  let neg := n / 2 ^ (f.eb + f.fb) % 2 == 1
  let x := n / 2 ^ f.fb % 2 ^ f.eb
  let m := n % 2 ^ f.fb
  if x == 2 ^ f.eb - 1 then
    if m == 0 then .inf neg else .nan (m < 2 ^ (f.fb - 1))
  else if x == 0 then
    if m == 0 then .zero neg else .fin neg m f.qmin
  else .fin neg (2 ^ f.fb + m) (f.qmin + (x - 1 : Int))

def FVal.isNan : FVal → Bool
  | .nan _ => true
  | _ => false

def FVal.isSnan : FVal → Bool
  | .nan s => s
  | _ => false

def FVal.neg : FVal → Bool
  | .zero n => n
  | .fin n _ _ => n
  | .inf n => n
  | .nan _ => false

def FVal.isInf : FVal → Bool
  | .inf _ => true
  | _ => false

def FVal.isZero : FVal → Bool
  | .zero _ => true
  | _ => false

/-- NV when any operand is a signalling NaN (R28). -/
def nvOf (vs : List FVal) : Flags := if vs.any FVal.isSnan then fNV else 0

/-- Whether a magnitude rounds up (R25): `odd` the kept part, `rem` of `2 * half`, `st` more beyond it. -/
def roundUp (rm : BitVec 2) (neg odd : Bool) (rem half : Nat) (st : Bool) : Bool :=
  let inexact := rem != 0 || st
  match rm.toNat with
  | 0 => rem > half || rem == half && (st || odd)
  | 1 => false
  | 2 => inexact && !neg
  | _ => inexact && neg

/-- The one rounding (R25, R26, R31): ±m × 2^e with m > 0, and a little more in magnitude when `st`, to a format. -/
def roundTo (f : Fmt) (rm : BitVec 2) (neg : Bool) (m : Nat) (e : Int) (st : Bool) : Nat × Flags :=
  let top := e + Nat.log2 m
  let q := max (top - f.fb) f.qmin
  let r := (q - e).toNat
  let hi := if q > e then m / 2 ^ r else m * 2 ^ (e - q).toNat
  let rem := if q > e then m % 2 ^ r else 0
  let half := if q > e then 2 ^ (r - 1) else 1
  let inexact := rem != 0 || st
  let hi := if roundUp rm neg (hi % 2 == 1) rem half st then hi + 1 else hi
  let bits := (q - f.qmin).toNat * 2 ^ f.fb + hi
  let sign := f.zero neg
  if bits ≥ f.inf false then
    let toInf := match rm.toNat with
      | 0 => true
      | 1 => false
      | 2 => !neg
      | _ => neg
    (if toInf then f.inf neg else f.max neg, fOF ||| fNX)
  else
    let uf := if inexact && bits < 2 ^ f.fb then fUF else 0
    (sign + bits, uf ||| if inexact then fNX else 0)

/-- An exact signed value i × 2^e; an exact zero has the sign that its case gives. -/
def roundInt (f : Fmt) (rm : BitVec 2) (i : Int) (e : Int) (zeroNeg : Bool) : Nat × Flags :=
  if i == 0 then (f.zero zeroNeg, 0) else roundTo f rm (i < 0) i.natAbs e false

/-- A signed significand. -/
def sgn (neg : Bool) (m : Nat) : Int := if neg then -(m : Int) else m

/-- Two exact values brought to one exponent. -/
def align (i : Int) (e : Int) (j : Int) (d : Int) : Int × Int × Int :=
  if e ≤ d then (i, j * 2 ^ (d - e).toNat, e) else (i * 2 ^ (e - d).toNat, j, d)

/-- A zero or finite value as an exact number. -/
def FVal.exact : FVal → Int × Int
  | .fin n m e => (sgn n m, e)
  | _ => (0, 0)

/-- Toward −∞, which decides the sign of a cancelled sum (R25). -/
def isRdn (rm : BitVec 2) : Bool := rm == 3

/-- The sum of two values that are not NaNs (R25, R31, R90). -/
def addVal (f : Fmt) (rm : BitVec 2) (x y : FVal) : Nat × Flags :=
  match x, y with
  | .inf s, .inf t => if s == t then (f.inf s, 0) else (f.canon, fNV)
  | .inf s, _ => (f.inf s, 0)
  | _, .inf t => (f.inf t, 0)
  | x, y =>
    let (i, e) := x.exact
    let (j, d) := y.exact
    let (i, j, e) := align i e j d
    roundInt f rm (i + j) e (if x.neg == y.neg then x.neg else isRdn rm)

/-- The negation of a value. -/
def FVal.negate : FVal → FVal
  | .zero n => .zero (!n)
  | .fin n m e => .fin (!n) m e
  | .inf n => .inf (!n)
  | .nan s => .nan s

/-- The exact product of two values that are not NaNs; none when it is 0 × ∞. -/
def mulVal (x y : FVal) : Option FVal :=
  let s := x.neg != y.neg
  match x, y with
  | .inf _, .zero _ | .zero _, .inf _ => none
  | .inf _, _ | _, .inf _ => some (.inf s)
  | .fin _ m e, .fin _ n d => some (.fin s (m * n) (e + d))
  | _, _ => some (.zero s)

/-- A value delivered in a format (R33). -/
def roundVal (f : Fmt) (rm : BitVec 2) : FVal → Nat × Flags
  | .zero n => (f.zero n, 0)
  | .fin n m e => roundTo f rm n m e false
  | .inf n => (f.inf n, 0)
  | .nan s => (f.canon, if s then fNV else 0)

/-- `fadd` (R90). -/
def fAdd (f : Fmt) (rm : BitVec 2) (a b : Nat) : Nat × Flags :=
  let x := fval f a
  let y := fval f b
  if x.isNan || y.isNan then (f.canon, nvOf [x, y]) else addVal f rm x y

/-- `fsub` (R90). -/
def fSub (f : Fmt) (rm : BitVec 2) (a b : Nat) : Nat × Flags :=
  let x := fval f a
  let y := fval f b
  if x.isNan || y.isNan then (f.canon, nvOf [x, y]) else addVal f rm x y.negate

/-- `fmul` (R90). -/
def fMul (f : Fmt) (rm : BitVec 2) (a b : Nat) : Nat × Flags :=
  let x := fval f a
  let y := fval f b
  if x.isNan || y.isNan then (f.canon, nvOf [x, y])
  else match mulVal x y with
    | none => (f.canon, fNV)
    | some v => roundVal f rm v

/-- `ffma` (R90): 0 × ∞ raises NV whatever the addend. -/
def fFma (f : Fmt) (rm : BitVec 2) (a b c : Nat) : Nat × Flags :=
  let x := fval f a
  let y := fval f b
  let z := fval f c
  let nv := nvOf [x, y, z]
  if x.isZero && y.isInf || x.isInf && y.isZero then (f.canon, fNV)
  else if x.isNan || y.isNan || z.isNan then (f.canon, nv)
  else match mulVal x y with
    | none => (f.canon, fNV)
    | some p => addVal f rm p z

/-- `fdiv` (R90). -/
def fDiv (f : Fmt) (rm : BitVec 2) (a b : Nat) : Nat × Flags :=
  let x := fval f a
  let y := fval f b
  let s := x.neg != y.neg
  if x.isNan || y.isNan then (f.canon, nvOf [x, y])
  else match x, y with
    | .inf _, .inf _ | .zero _, .zero _ => (f.canon, fNV)
    | .inf _, _ => (f.inf s, 0)
    | _, .inf _ => (f.zero s, 0)
    | .zero _, _ => (f.zero s, 0)
    | .fin _ _ _, .zero _ => (f.inf s, fDZ)
    | .fin _ m e, .fin _ n d =>
      let k := f.fb + 4 + Nat.log2 n
      roundTo f rm s (m * 2 ^ k / n) (e - d - k) (m * 2 ^ k % n != 0)
    | _, _ => (f.canon, 0)

/-- The root of n: bit by bit from bit k − 1 down, below the accumulated root r. -/
def rootBits : Nat → Nat → Nat → Nat
  | 0, _, r => r
  | k + 1, n, r => rootBits k n (if (r + 2 ^ k) * (r + 2 ^ k) ≤ n then r + 2 ^ k else r)

/-- The whole part of the square root. -/
def isqrt (n : Nat) : Nat := rootBits (Nat.log2 n / 2 + 1) n 0

/-- `fsqrt` (R31, R33, R90). -/
def fSqrt (f : Fmt) (rm : BitVec 2) (a : Nat) : Nat × Flags :=
  match fval f a with
  | .nan s => (f.canon, if s then fNV else 0)
  | .zero n => (f.zero n, 0)
  | .inf false => (f.inf false, 0)
  | .inf true | .fin true _ _ => (f.canon, fNV)
  | .fin false m e =>
    let k := 2 * f.fb + 8
    let odd := (e % 2 == 1)
    let n := m * 2 ^ (k + if odd then 1 else 0)
    let r := isqrt n
    roundTo f rm false r ((e - (if odd then 1 else 0) - k) / 2) (r * r != n)

/-- x < y for values that are not NaNs; zeros are equal. -/
def ltVal (x y : FVal) : Bool :=
  match x, y with
  | .inf s, .inf t => s && !t
  | .inf s, _ => s
  | _, .inf t => !t
  | x, y =>
    let (i, e) := x.exact
    let (j, d) := y.exact
    let (i, j, _) := align i e j d
    i < j

/-- `fmin` and `fmax` (R32): −0 below +0; one NaN gives the other operand. -/
def fMinMax (f : Fmt) (wantMax : Bool) (a b : Nat) : Nat × Flags :=
  let x := fval f a
  let y := fval f b
  let nv := nvOf [x, y]
  if x.isNan && y.isNan then (f.canon, nv)
  else if x.isNan then (b, nv)
  else if y.isNan then (a, nv)
  else
    let less := ltVal x y || (!ltVal y x && x.neg && !y.neg)
    (if less != wantMax then a else b, nv)

/-- The conditions of `fcmp` (R91) and whether the condition is ordered, so that a quiet NaN raises NV. -/
def fCmp (f : Fmt) (cond : Nat) (a b : Nat) : Bool × Flags :=
  let x := fval f a
  let y := fval f b
  let un := x.isNan || y.isNan
  let nv := if un && (2 ≤ cond && cond ≤ 5) then fNV else nvOf [x, y]
  let lt := !un && ltVal x y
  let gt := !un && ltVal y x
  let r := match cond with
    | 0 => !un && !lt && !gt
    | 1 => un || lt || gt
    | 2 => lt
    | 3 => !un && !gt
    | 4 => gt
    | 5 => !un && !lt
    | 6 => un
    | _ => !un
  (r, nv)

/-- `fclass` (R92). -/
def fClass (f : Fmt) (a : Nat) : Nat :=
  match fval f a with
  | .inf true => 1
  | .inf false => 128
  | .zero true => 8
  | .zero false => 16
  | .nan true => 256
  | .nan false => 512
  | .fin neg m _ =>
    if m < 2 ^ f.fb then (if neg then 4 else 32) else (if neg then 2 else 64)

/-- A value brought to a whole number in a rounding mode, and whether that changed it. -/
def toIntegral (rm : BitVec 2) (neg : Bool) (m : Nat) (e : Int) : Int × Bool :=
  if e ≥ 0 then (sgn neg (m * 2 ^ e.toNat), false)
  else
    let r := (-e).toNat
    let hi := m / 2 ^ r
    let rem := m % 2 ^ r
    let hi := if roundUp rm neg (hi % 2 == 1) rem (2 ^ (r - 1)) false then hi + 1 else hi
    (sgn neg hi, rem != 0)

/-- `frint` (R94). -/
def fRint (f : Fmt) (rm : BitVec 2) (exact : Bool) (a : Nat) : Nat × Flags :=
  match fval f a with
  | .nan s => (f.canon, if s then fNV else 0)
  | .fin neg m e =>
    let (i, inexact) := toIntegral rm neg m e
    ((roundInt f 0 i 0 neg).1, if inexact && exact then fNX else 0)
  | _ => (a, 0)

/-- `fscale` (R96). A scale beyond ±5,000 overflows or underflows every format as ±5,000 does. -/
def fScale (f : Fmt) (rm : BitVec 2) (a : Nat) (k : Int) : Nat × Flags :=
  match fval f a with
  | .nan s => (f.canon, if s then fNV else 0)
  | .fin neg m e => roundTo f rm neg m (e + max (-5000) (min 5000 k)) false
  | _ => (a, 0)

/-- `fgetexp` (R97): 32 bits. -/
def fGetexp (f : Fmt) (a : Nat) : Word × Flags :=
  match fval f a with
  | .fin _ m e => (BitVec.ofInt 32 (e + Nat.log2 m), 0)
  | .zero _ => (0x80000000, fNV)
  | _ => (0x7FFFFFFF, fNV)

/-- `fcopysign` (R98): bits only. -/
def fCopysign (f : Fmt) (variant a b : Nat) : Nat :=
  let top := 2 ^ (f.eb + f.fb)
  let sa := a / top % 2 == 1
  let sb := b / top % 2 == 1
  let s := match variant with
    | 0 => sb
    | 1 => !sb
    | 2 => sa != sb
    | _ => false
  a % top + if s then top else 0

/-- Exact sum of dyadic terms. -/
def sumExact : List (Int × Int) → Int × Int
  | [] => (0, 0)
  | (i, e) :: ts =>
    let (j, d) := sumExact ts
    let (i, j, e) := align i e j d
    (i + j, e)

/-- `fdot2` (R99): two products of 16-bit elements and an FP32 addend, rounded once. -/
def fDot2 (el : Fmt) (rm : BitVec 2) (a b c : Nat) : Nat × Flags :=
  let x0 := fval el (a % 65536)
  let x1 := fval el (a / 65536)
  let y0 := fval el (b % 65536)
  let y1 := fval el (b / 65536)
  let z := fval .f32 c
  let all := [x0, x1, y0, y1, z]
  if all.any FVal.isNan then (Fmt.f32.canon, nvOf all)
  else match mulVal x0 y0, mulVal x1 y1 with
    | some p, some q =>
      let ts := [p, q, z]
      let pinf := ts.any (· == .inf false)
      let ninf := ts.any (· == .inf true)
      if pinf && ninf then (Fmt.f32.canon, fNV)
      else if pinf then (Fmt.f32.inf false, 0)
      else if ninf then (Fmt.f32.inf true, 0)
      else
        let (i, e) := sumExact (ts.map FVal.exact)
        let negs := ts.all FVal.neg
        let mixed := ts.any FVal.neg && !negs
        roundInt .f32 rm i e (negs || mixed && isRdn rm)
    | _, _ => (Fmt.f32.canon, fNV)

/-- Conversion between floating-point formats (R34, R93): equal formats keep the operand but for a NaN. -/
def fConv (src dst : Fmt) (rm : BitVec 2) (a : Nat) : Nat × Flags := roundVal dst rm (fval src a)

/-- Conversion of an exact integer (R34). -/
def intToF (dst : Fmt) (rm : BitVec 2) (i : Int) : Nat × Flags := roundInt dst rm i 0 false

/-- Conversion to an integer between lo and hi (R34). -/
def fToInt (src : Fmt) (rm : BitVec 2) (lo hi : Int) (a : Nat) : Int × Flags :=
  match fval src a with
  | .nan _ => (0, fNV)
  | .inf n => (if n then lo else hi, fNV)
  | .zero _ => (0, 0)
  | .fin neg m e =>
    let (i, inexact) := toIntegral rm neg m e
    if i < lo then (lo, fNV) else if i > hi then (hi, fNV) else (i, if inexact then fNX else 0)

end Sys2Proof.Machine
end

