-- ==== Sys2Proof/Machine/Frozen.lean ====
section
/-! DEFINITION. Machine/Frozen.lean: the frozen transcendentals (R35 to R41). The table rows of R39 are produced by
the generator itself, in whole-number arithmetic: a value of a table function is held as a number of units of
2^-`fpBits`, with an error far below what the quantisation to 2^-28 can see. -/

namespace Sys2Proof.Machine

/-- Fraction bits of the fixed-point values of the generator: R39 asks for at least 100. -/
def fpBits : Nat := 200
def fpOne : Nat := 2 ^ fpBits

/-- The square root of a fixed-point value. -/
def fpRoot (x : Nat) : Nat := isqrt (x * fpOne)

def fpMul (x y : Nat) : Nat := x * y / fpOne

/-- 2^(k/512): the product of the roots of 2 that the bits of k select, from the highest bit down. -/
def exp2Bits : Nat → Nat → Nat → Nat → Nat
  | 0, _, _, acc => acc
  | j + 1, k, root, acc =>
    let root := fpRoot root
    exp2Bits j k root (if k / 2 ^ j % 2 == 1 then fpMul acc root else acc)

/-- The binary digits of log2 y for y in [1, 2), y in units of 2^-400: squaring doubles the logarithm. -/
def log2Bits : Nat → Nat → Nat → Nat
  | 0, _, acc => acc
  | j + 1, y, acc =>
    let y := y * y / 2 ^ 400
    if y ≥ 2 ^ 401 then log2Bits j (y / 2) (2 * acc + 1) else log2Bits j y (2 * acc)

/-- Cosine and sine of the angle (π/2) × k/512, by the addition formulas over the bits of k; `c` is the cosine of
π/2 × 2^-(9 - j). -/
def trigBits : Nat → Nat → Nat → Nat × Nat → Nat × Nat
  | 0, _, _, cs => cs
  | j + 1, k, c, (x, y) =>
    -- halve the angle: c is cos of the last angle; its half has these cosine and sine
    let h := fpRoot ((fpOne + c) / 2)
    let s := fpRoot ((fpOne - c) / 2)
    if k / 2 ^ j % 2 == 1 then
      trigBits j k h (fpMul x h - fpMul y s, fpMul y h + fpMul x s)
    else trigBits j k h (x, y)

/-- The tables (R37). -/
inductive Tab where
  | rcp | rsq | exp2 | log2 | sin | cos
  deriving DecidableEq, Repr

/-- The table function g at t = k/512, the limit from below at t = 1, in fixed point (R37, R39). -/
def Tab.g (t : Tab) (k : Nat) : Nat :=
  match t with
  | .rcp => fpOne * 512 / (512 + k)
  | .rsq => if k < 256 then fpRoot (fpOne * 512 / (512 + 2 * k)) else fpRoot (fpOne * 512 / (4 * k))
  | .exp2 => if k == 512 then 2 * fpOne else exp2Bits 9 k (2 * fpOne) fpOne
  | .log2 => if k == 512 then fpOne else log2Bits 150 (2 ^ 400 * (512 + k) / 512) 0 * 2 ^ (fpBits - 150)
  | .sin => if k == 512 then fpOne else (trigBits 9 k 0 (fpOne, 0)).2
  | .cos => if k == 512 then 0 else (trigBits 9 k 0 (fpOne, 0)).1

/-- Round a fixed-point value times 2^w to a whole number, halves away from zero (R39). Twelve guard digits far below
the quantum carry an exact value that the fixed point holds a unit too low. -/
def quant (w : Nat) (x : Int) : Int :=
  let n := (x.natAbs + 2 ^ 40) / 2 ^ (fpBits - w - 1)
  let r := ((n + 1) / 2 : Nat)
  if x < 0 then -(r : Int) else r

/-- Row i of a table: k0, k1, k2 (R39). -/
def Tab.row (t : Tab) (i : Nat) : Int × Int × Int :=
  let g0 : Int := t.g (2 * i)
  let gm : Int := t.g (2 * i + 1)
  let g1 : Int := t.g (2 * i + 2)
  let c2 := 2 * (g0 - 2 * gm + g1)
  let c1 := g1 - g0 - c2
  (quant 27 g0, quant 26 c1, quant 28 c2)

/-- y of R38, in units of 2^-30. -/
def poly (t : Tab) (i dd : Nat) : Int :=
  let (k0, k1, k2) := t.row i
  k0 * 8 + (k1 * dd).fdiv (2 ^ 11) + (k2 * dd * dd).fdiv (2 ^ 28)

/-- The functions of R35. -/
inductive Trans where
  | rcp | rsq | exp2 | log2 | sin | cos
  deriving DecidableEq, Repr

/-- The flags of a result that R40 does not list: NX; UF when it is subnormal or zero; OF when rounding overflows. -/
def inexactFlags (r : Nat × Flags) : Nat × Flags :=
  let mag := r.1 % 2 ^ 31
  (r.1, fNX ||| (if mag < 2 ^ 23 then fUF else 0) ||| (r.2 &&& fOF))

/-- ±i × 2^e rounded to FP32, as a result that R40 does not list. -/
def assemble (i : Int) (e : Int) : Nat × Flags := inexactFlags (roundInt .f32 0 i e false)

/-- The sine or cosine of x = n + Y × 2^-23 quarter turns (R36, R37); q is the quadrant. -/
def quadrant (q : Nat) (y : Nat) (exact : Bool) : Nat × Flags :=
  let tab := if q % 2 == 0 then Tab.sin else Tab.cos
  let v := poly tab (y / 2 ^ 15) (y % 2 ^ 15)
  let r := roundInt .f32 0 (if q ≥ 2 then -v else v) (-30) false
  if exact then (r.1, 0) else inexactFlags r

/-- One frozen transcendental in FP32 (R37, R38, R40). -/
def frozen32 (t : Trans) (a : Nat) : Nat × Flags :=
  match t, fval .f32 a with
  | _, .nan s => (Fmt.f32.canon, if s then fNV else 0)
  | .rcp, .zero n => (Fmt.f32.inf n, fDZ)
  | .rcp, .inf n => (Fmt.f32.zero n, 0)
  | .rcp, .fin neg m e0 =>
    let e := e0 + Nat.log2 m
    let f := m * 2 ^ (23 - Nat.log2 m) - 2 ^ 23
    if f == 0 && -127 ≤ e && e ≤ 127 then (roundTo .f32 0 neg 1 (-e) false)
    else assemble (sgn neg (poly .rcp (f / 2 ^ 15) (f % 2 ^ 15)).toNat) (-30 - e)
  | .rsq, .zero n => (Fmt.f32.inf n, fDZ)
  | .rsq, .inf n => if n then (Fmt.f32.canon, fNV) else (0, 0)
  | .rsq, .fin neg m e0 =>
    if neg then (Fmt.f32.canon, fNV)
    else
      let e := e0 + Nat.log2 m
      let f := m * 2 ^ (23 - Nat.log2 m) - 2 ^ 23
      let odd := e % 2 == 1
      let h := (e - if odd then 1 else 0) / 2
      if f == 0 && !odd then (roundTo .f32 0 false 1 (-h) false)
      else
        let v := (if odd then 2 ^ 23 else 0) + f
        assemble (poly .rsq (v / 2 ^ 16) (v / 2 % 2 ^ 15)) (-30 - h)
  | .exp2, .zero _ => (0x3F800000, 0)
  | .exp2, .inf n => (if n then 0 else Fmt.f32.inf false, 0)
  | .exp2, .fin neg m e =>
    -- x in units of 2^-200, far finer than any fraction that reaches Y; a large negative x is cut off at −400
    let big := e + Nat.log2 m ≥ 9
    if big && !neg then (Fmt.f32.inf false, fOF ||| fNX)
    else
      let x : Int := if big then -400 * 2 ^ 200 else sgn neg (m * 2 ^ (e + 200).toNat)
      let n := x.fdiv (2 ^ 200)
      let y := ((x - n * 2 ^ 200) / 2 ^ 177).toNat
      if n ≥ 128 then (Fmt.f32.inf false, fOF ||| fNX)
      else if x == n * 2 ^ 200 && -149 ≤ n then roundTo .f32 0 false 1 n false
      else assemble (poly .exp2 (y / 2 ^ 15) (y % 2 ^ 15)) (n - 30)
  | .log2, .zero _ => (Fmt.f32.inf true, fDZ)
  | .log2, .inf n => if n then (Fmt.f32.canon, fNV) else (Fmt.f32.inf false, 0)
  | .log2, .fin neg m e0 =>
    if neg then (Fmt.f32.canon, fNV)
    else
      let e := e0 + Nat.log2 m
      let f := m * 2 ^ (23 - Nat.log2 m) - 2 ^ 23
      if f == 0 then roundInt .f32 0 e 0 false
      else assemble (e * 2 ^ 30 + poly .log2 (f / 2 ^ 15) (f % 2 ^ 15)) (-30)
  | .sin, .inf _ | .cos, .inf _ => (Fmt.f32.canon, fNV)
  | .sin, .zero n => (Fmt.f32.zero n, 0)
  | .cos, .zero _ => (0x3F800000, 0)
  | .sin, .fin neg m e =>
    let x : Int := sgn neg (m * 2 ^ (e + 200).toNat)
    let n := x.fdiv (2 ^ 200)
    quadrant (n % 4).toNat ((x - n * 2 ^ 200) / 2 ^ 177).toNat (x == n * 2 ^ 200)
  | .cos, .fin neg m e =>
    let x : Int := sgn neg (m * 2 ^ (e + 200).toNat)
    let n := x.fdiv (2 ^ 200)
    quadrant ((n + 1) % 4).toNat ((x - n * 2 ^ 200) / 2 ^ 177).toNat (x == n * 2 ^ 200)

/-- A frozen transcendental under a type code (R35): the 16-bit forms go through FP32. -/
def frozen (t : Trans) (ty : BitVec 3) (a : Nat) : Nat × Flags :=
  if ty == 4 then frozen32 t a
  else
    let (x, f1) := fConv (fmtOf ty) .f32 0 a
    let (y, f2) := frozen32 t x
    let (z, f3) := fConv .f32 (fmtOf ty) 0 y
    (z, f1 ||| f2 ||| f3)

end Sys2Proof.Machine
end

