-- ==== Sys2Proof/Syntax.lean ====
section
/-! DEFINITION. Syntax.lean: the instruction type. One constructor per row of the opcode table: the forms of the
full word (R46 to R49), the halves of the pair word (R57), and the hardware events, whose arguments name the agents
and the outside data that they concern. A form's record holds its fields as the word gives them; WellFormed.lean says
which values the form admits. -/

namespace Sys2Proof

/-- What every word carries besides its operation: the live mask word when S is set (R43), the switch marker W and,
in the full form, the guard (R46). -/
structure Hdr where
  live : Option DWord := none
  w : Bool := false
  g : BitVec 4 := 15
  gn : Bool := false
  deriving DecidableEq, Repr

/-- The three-operand layout TRI (R47). TRI-O (R53) has its offset in B and C. -/
structure Tri where
  h : Hdr := {}
  d : BitVec 8 := 0
  a : BitVec 8 := 0
  b : BitVec 8 := 0
  c : BitVec 8 := 0
  ra : Bool := false
  rb : Bool := false
  rm : BitVec 2 := 0
  sf : Bool := false
  ty : BitVec 3 := 0
  sub : BitVec 8 := 0
  deriving DecidableEq, Repr

/-- The immediate layout I32 (R48) and the branch layout BR (R49): one field of 32 bits. -/
structure Imm where
  h : Hdr := {}
  d : BitVec 8 := 0
  a : BitVec 8 := 0
  imm : BitVec 32 := 0
  deriving DecidableEq, Repr

/-- One half of a pair word (R57). -/
structure Half where
  po : BitVec 6 := 0
  d : BitVec 8 := 0
  a : BitVec 8 := 0
  i : BitVec 8 := 0
  deriving DecidableEq, Repr

/-- A pair word (R57) but for the opcode of half X, which the constructor says. -/
structure Pair where
  live : Option DWord := none
  w : Bool := false
  d : BitVec 8 := 0
  a : BitVec 8 := 0
  i : BitVec 8 := 0
  y : Half := {}
  deriving DecidableEq, Repr

/-- The instructions and events of the opcode table. -/
inductive Instr where
  | add (t : Tri)
  | addImm (i : Imm)
  | sub (t : Tri)
  | subImm (i : Imm)
  | mul (t : Tri)
  | mulhi (t : Tri)
  | mad (t : Tri)
  | addc (t : Tri)
  | subb (t : Tri)
  | neg (t : Tri)
  | abs (t : Tri)
  | min (t : Tri)
  | max (t : Tri)
  | and (t : Tri)
  | andImm (i : Imm)
  | or (t : Tri)
  | orImm (i : Imm)
  | xor (t : Tri)
  | xorImm (i : Imm)
  | not (t : Tri)
  | andn (t : Tri)
  | shl (t : Tri)
  | shr (t : Tri)
  | sar (t : Tri)
  | rol (t : Tri)
  | clz (t : Tri)
  | ctz (t : Tri)
  | popc (t : Tri)
  | brev (t : Tri)
  | bfe (t : Tri)
  | bfi (t : Tri)
  | prmt (t : Tri)
  | sel (t : Tri)
  | cmp (t : Tri)
  | mov (t : Tri)
  | movi (i : Imm)
  | movh (i : Imm)
  | cvt (t : Tri)
  | lea (t : Tri)
  | fadd (t : Tri)
  | fsub (t : Tri)
  | fmul (t : Tri)
  | ffma (t : Tri)
  | fmin (t : Tri)
  | fmax (t : Tri)
  | fcmp (t : Tri)
  | fclass (t : Tri)
  | fcvt (t : Tri)
  | frint (t : Tri)
  | fdiv (t : Tri)
  | fsqrt (t : Tri)
  | frcp (t : Tri)
  | frsq (t : Tri)
  | fexp2 (t : Tri)
  | flog2 (t : Tri)
  | fsin (t : Tri)
  | fcos (t : Tri)
  | fscale (t : Tri)
  | fgetexp (t : Tri)
  | fcopysign (t : Tri)
  | fdot2 (t : Tri)
  | uadd (t : Tri)
  | uaddImm (i : Imm)
  | usub (t : Tri)
  | umul (t : Tri)
  | uand (t : Tri)
  | uor (t : Tri)
  | uxor (t : Tri)
  | ushl (t : Tri)
  | ushr (t : Tri)
  | usar (t : Tri)
  | umov (t : Tri)
  | umovi (i : Imm)
  | ucmp (t : Tri)
  | pand (t : Tri)
  | por (t : Tri)
  | pxor (t : Tri)
  | pnot (t : Tri)
  | pmov (t : Tri)
  | vote (t : Tri)
  | ballot (t : Tri)
  | shfl (t : Tri)
  | bcast (t : Tri)
  | redux (t : Tri)
  | ld (t : Tri)
  | st (t : Tri)
  | ldp (t : Tri)
  | stp (t : Tri)
  | atom (t : Tri)
  | red (t : Tri)
  | fence (t : Tri)
  | prs (t : Tri)
  | barArrive (t : Tri)
  | barWait (t : Tri)
  | barSync (t : Tri)
  | barExpect (t : Tri)
  | scopeGet (t : Tri)
  | scopeFreeze (t : Tri)
  | scopeThaw (t : Tri)
  | scopeQuery (t : Tri)
  | bgive (t : Tri)
  | btake (t : Tri)
  | btakeResume (warp gang : Nat)
  | rgive (t : Tri)
  | rclaim (t : Tri)
  | rclaimGrant (block : Nat)
  | rshare (t : Tri)
  | runshare (t : Tri)
  | runshareResume (warp gang : Nat)
  | sharedCellWake (warp lane : Nat)
  | xferIn (t : Tri)
  | xferOut (t : Tri)
  | xfer2d (t : Tri)
  | xferGat (t : Tri)
  | xferSct (t : Tri)
  | xferDsp (t : Tri)
  | xferPeer (t : Tri)
  | chClaimBind (t : Tri)
  | chClaim (t : Tri)
  | chCommit (t : Tri)
  | chAwaitBind (t : Tri)
  | chAwait (t : Tri)
  | chRetire (t : Tri)
  | channelClaimResume (chan : Nat)
  | channelAwaitResume (chan : Nat)
  | obres (t : Tri)
  | obrel (t : Tri)
  | bload (t : Tri)
  | bfree (t : Tri)
  | mma (t : Tri)
  | mmaM (t : Tri)
  | accz (t : Tri)
  | accrd (t : Tri)
  | accwr (t : Tri)
  | accst (t : Tri)
  | accld (t : Tri)
  | matrixWordPerform (word : Nat)
  | spawn (i : Imm)
  | fref (t : Tri)
  | fdrop (t : Tri)
  | fget (t : Tri)
  | fgetResume (warp lane : Nat)
  | fpoll (t : Tri)
  | rpoint (t : Tri)
  | tret (t : Tri)
  | taskFutureComplete (warp fut : Nat)
  | bra (i : Imm)
  | brx (t : Tri)
  | brxRel (t : Tri)
  | call (i : Imm)
  | callx (t : Tri)
  | ret (t : Tri)
  | umark (i : Imm)
  | unwind (t : Tri)
  | exit (t : Tri)
  | nop (t : Tri)
  | trap (i : Imm)
  | brk (i : Imm)
  | join (t : Tri)
  | joinRelease (warp lane : Nat)
  | jleave (t : Tri)
  | jmaskGang (t : Tri)
  | jmaskAdd (t : Tri)
  | jmaskU (t : Tri)
  | wait (t : Tri)
  | waitRelease (warp lane : Nat)
  | waitTimeout (warp lane : Nat)
  | barrierWaiterRelease (warp lane : Nat)
  | sysrd (t : Tri)
  | syswr (t : Tri)
  | eret (t : Tri)
  | notify (t : Tri)
  | notifyEntryWrite (warp : Nat)
  | haltSave (t : Tri)
  | haltEnd (t : Tri)
  | rng (t : Tri)
  | rngU01 (t : Tri)
  | ctxDrain (t : Tri)
  | ctxDrainComplete (warp gang : Nat)
  | ctxVsave (t : Tri)
  | ctxVload (t : Tri)
  | pairNop (p : Pair)
  | pairAddN32 (p : Pair)
  | pairSubN32 (p : Pair)
  | pairMulN32 (p : Pair)
  | pairAnd (p : Pair)
  | pairOr (p : Pair)
  | pairXor (p : Pair)
  | pairAndn (p : Pair)
  | pairMinI32 (p : Pair)
  | pairMaxI32 (p : Pair)
  | pairMinN32 (p : Pair)
  | pairMaxN32 (p : Pair)
  | pairShl (p : Pair)
  | pairShr (p : Pair)
  | pairSar (p : Pair)
  | pairMov (p : Pair)
  | pairAddImm (p : Pair)
  | pairSubImm (p : Pair)
  | pairAndImm (p : Pair)
  | pairOrImm (p : Pair)
  | pairXorImm (p : Pair)
  | pairShlImm (p : Pair)
  | pairShrImm (p : Pair)
  | pairSarImm (p : Pair)
  | pairRolImm (p : Pair)
  | pairMovi (p : Pair)
  | pairFaddF32 (p : Pair)
  | pairFsubF32 (p : Pair)
  | pairFmulF32 (p : Pair)
  | pairFminF32 (p : Pair)
  | pairFmaxF32 (p : Pair)
  | pairFaddF64 (p : Pair)
  | pairFsubF64 (p : Pair)
  | pairFmulF64 (p : Pair)
  | pairFminF64 (p : Pair)
  | pairFmaxF64 (p : Pair)
  | pairAddN64 (p : Pair)
  | pairSubN64 (p : Pair)
  | pairMovN64 (p : Pair)
  | pairAddN64Imm (p : Pair)
  | longResultDelivery (warp op : Nat)
  | effectiveLevelRise (warp : Nat)
  | trapEntry (warp : Nat)
  | safePointTrap (warp : Nat)
  | forcedSave (core : Nat)
  | storageRelease (block : Nat)
  | frameRequestServe (core : Nat)
  | umbraSpillRound (core : Nat)
  | scratchpadBankWake (die base : Nat)
  | loadPresenceResume (warp acc : Nat)
  | memoryAccessPerform (warp acc : Nat)
  | gnomonRmwPerform (mem : Bool) (owner acc : Nat)
  | launchQueueDoorbell (vi q : Nat) (val : BitVec 32)
  | launchRecord
  | restoreRecord
  | blockPlacement (grid : Nat)
  | gridCompletion (grid : Nat)
  | binTimerExpiry (core bin : Nat)
  | binSpaceResume (warp gang : Nat)
  | waveLaunch (core : Nat)
  | taskArgumentRead (warp lane : Nat)
  | parallaxIntervalEnd
  | regroupCommit (die move : Nat)
  | futureRecordWaitResume (warp gang : Nat)
  | copyQueueRoomResume (warp gang : Nat)
  | matrixQueueRoomResume (warp gang : Nat)
  | pageTableWalk (die walk : Nat)
  | copyChunkStart (copy : Nat)
  | copyChunkLanding (copy chunk : Nat)
  | copyCompletion (copy : Nat)
  | doomedCopyStop (copy : Nat)
  | taskReclamation (fut : Nat)
  | faultQueueEntryWrite (vi : Nat)
  | fqresumeRetry (vi token : Nat)
  | fqresumeAccessError (vi token : Nat)
  | fqresumeUnserviceable (vi token : Nat)
  | fqresumeIgnored (vi token : Nat)
  | fqheadWrite (vi : Nat) (val : BitVec 32)
  | cqheadWrite (vi : Nat) (val : BitVec 32)
  | elheadWrite (vi : Nat) (val : BitVec 32)
  | ellostRead (vi : Nat)
  | tlbinvRange (vi : Nat) (val : BitVec 64)
  | tlbinvAll (vi : Nat)
  | tlbInvalidationDone (vi : Nat)
  | futareaWrite (die : Nat) (val : BitVec 64)
  | preqRequest (core : Nat) (val : BitVec 32)
  | preqWithdraw (core : Nat) (val : BitVec 32)
  | qclassWrite (die : Nat) (val : BitVec 64)
  | classChangeEffect (group : Nat)
  | energyAccumulate (die nanojoules : Nat)
  | energyReadLatch (die : Nat)
  | thermalTripChange (die : Nat) (tmax : BitVec 8)
  | registerWrite (bar fn off width : Nat) (val : BitVec 64)
  | hostBar4Access (write : Bool) (addr width : Nat) (val : BitVec 64)
  | hostAtomicop (op addr width : Nat) (x y : BitVec 64)
  | msixPendingSend (vi vec : Nat)
  | limiterStep (group : Nat)
  | mmaPassEnd (core : Nat)
  | mmaMPassFetch (word : Nat)
  | droopDetected (die quad : Nat)
  | hbmPinGroupMark (chan pin : Nat)
  | ringPacketInject (die src dst : Nat)
  | ringHop (die pkt : Nat)
  | ringDelivery (die pkt : Nat)
  | cxlViralOrLinkLoss (die : Nat) (loss : Bool)
  | cxlErrorResponse (poisoned : Bool) (copy line : Nat)
  | pcieErrorCompletion (vi addr : Nat)
  | peerLinkError (copy : Nat)
  | packageReset
  | bootRomVerify
  | hbmTraining (ok : Bool)
  | linkTraining (ok : Bool)
  | cxlEnumeration (caps : List Nat)
  | bringUpReady
  | bootstatRetry
  | flashWindowWrite (off : Nat) (val : BitVec 64)
  | getVersion (req : List (BitVec 8))
  | getCapabilities (req : List (BitVec 8))
  | negotiateAlgorithms (req : List (BitVec 8))
  | getDigests (req : List (BitVec 8))
  | getCertificate (req : List (BitVec 8))
  | challenge (req : List (BitVec 8))
  | getMeasurements (req : List (BitVec 8))
  | spdmUnsupportedRequest (req : List (BitVec 8))
  | regroupCommitEnd (die : Nat)
  | peerAccessReceived (vi op addr width : Nat) (x y : BitVec 64)
  | scratchpadBankGate (die base len : Nat)
  | configurationRequest (fn : Nat) (msixOn msixMask : Bool)
  | registerRead (bar fn off width : Nat)
  deriving DecidableEq, Repr

end Sys2Proof
end

