-- ==== Sys2Proof/WellFormed.lean ====
section
/-! DEFINITION. WellFormed.lean: which field values each form of the opcode table admits (R50 to R59, R76, R88, R89,
R100, R101, R142, R144, R149, R153, R156, R214, R220, R226, R229, R232, R236, R237, R290, R296, R300 to R315, R364 to
R372). A word that is not well formed takes the illegal-instruction trap (R56). What depends on the state (the frame
of a lane, R54) is checked where the word acts. -/

namespace Sys2Proof

/-- Codes whose operands are even–odd pairs: .i64, .n64, .f64 (R50, R83). -/
def wideTy (ty : BitVec 3) : Bool := ty == 2 || ty == 3 || ty == 5

/-- Integer codes, "0–3" in R76. -/
def intTy (ty : BitVec 3) : Bool := ty.ult 4

/-- Floating-point codes. -/
def fpTy (ty : BitVec 3) : Bool := !ty.ult 4

/-- .f32 and .f64. -/
def fp3264 (ty : BitVec 3) : Bool := ty == 4 || ty == 5

/-- The codes that a transcendental admits (R89, R95). -/
def transTy (ty : BitVec 3) : Bool := ty == 4 || ty == 6 || ty == 7

/-- The shift types of R144. -/
def shiftTy (ty : BitVec 3) : Bool := ty.ult 6

/-- What an operand field names (R54): nothing, a vector register or group, a uniform register or pair, a predicate.
`vT` and `sT` have the width of TY. -/
inductive Opd where
  | none | v1 | vT | v2 | v4 | s1 | sT | s2 | pred
  deriving DecidableEq, Repr

/-- How many registers an operand covers under a type code. -/
def Opd.count (ty : BitVec 3) : Opd → Nat
  | .none => 0
  | .v1 | .s1 => 1
  | .vT | .sT => if wideTy ty then 2 else 1
  | .v2 | .s2 => 2
  | .v4 => 4
  | .pred => 1

/-- The operands of a form: destination and sources A, B and C. -/
structure Shape where
  d : Opd := .none
  a : Opd := .none
  b : Opd := .none
  c : Opd := .none
  deriving DecidableEq, Repr

/-- A group of n vector registers begins at a multiple of n (R12, R54). -/
def vecOk (n : Nat) (r : BitVec 8) : Bool := n ≤ 1 || r.toNat % n == 0

/-- A group of n uniform registers lies in s0 to s63 and begins at a multiple of n (R11, R12). -/
def uniOk (n : Nat) (r : BitVec 8) : Bool := r.toNat + n ≤ 64 && (n ≤ 1 || r.toNat % n == 0)

/-- A field that names an operand of this kind; `swap` is BU or CU (R51, R66): vector and uniform change places. -/
def opdOk (ty : BitVec 3) (o : Opd) (swap : Bool) (r : BitVec 8) : Bool :=
  match o with
  | .none => r == 0 && !swap
  | .pred => r.ult 16 && !swap
  | .v1 | .vT | .v2 | .v4 => if swap then uniOk (o.count ty) r else vecOk (o.count ty) r
  | .s1 | .sT | .s2 => if swap then r.ult 64 && vecOk (o.count ty) r else uniOk (o.count ty) r

/-- BU and CU (R51). -/
def Tri.bu (t : Tri) : Bool := t.sub.getLsbD 7
def Tri.cu (t : Tri) : Bool := t.sub.getLsbD 6
/-- SUB bits 5:0, the variant (R51). -/
def Tri.var (t : Tri) : BitVec 6 := t.sub.extractLsb' 0 6

/-- The mask word's bits 1:0 are zero (R64, R65). -/
def liveOk (l : Option DWord) : Bool :=
  match l with
  | none => true
  | some m => m.extractLsb' 0 2 == 0

/-- Guard class L (R55). -/
def Hdr.okL (h : Hdr) : Bool := liveOk h.live && !(h.g == 15 && h.gn)
/-- Guard class W (R55). -/
def Hdr.okW (h : Hdr) : Bool := liveOk h.live && h.g == 15 && !h.gn

/-- A field names no vector or uniform register, so it may carry no reuse hint (R52, R63). -/
def noHint (o : Opd) (hint : Bool) : Bool :=
  match o with
  | .none | .pred => !hint
  | _ => true

/-- The operand fields of a word of the vector-integer, floating-point or uniform block. -/
def Tri.opds (t : Tri) (sh : Shape) : Bool :=
  opdOk t.ty sh.d false t.d && opdOk t.ty sh.a false t.a && opdOk t.ty sh.b t.bu t.b && opdOk t.ty sh.c t.cu t.c
    && noHint sh.a t.ra && noHint sh.b t.rb

/-- A word of those blocks: guard, type, rounding, saturation, variant, operands. -/
def Tri.blk (t : Tri) (sh : Shape) (ty : BitVec 3 → Bool) (rm sf : Bool) (var : BitVec 6 → Bool) : Bool :=
  t.h.okL && ty t.ty && (rm || t.rm == 0) && (sf || !t.sf) && var t.var && t.opds sh

/-- The variant is zero. -/
def var0 (v : BitVec 6) : Bool := v == 0

/-- Integer shapes (R76). -/
def shBin : Shape := ⟨.vT, .vT, .vT, .none⟩
def shTern : Shape := ⟨.vT, .vT, .vT, .vT⟩
def shUn : Shape := ⟨.vT, .vT, .none, .none⟩
def shCarry : Shape := ⟨.v1, .v1, .v1, .pred⟩
def shCount : Shape := ⟨.v1, .vT, .none, .none⟩
def shShift : Shape := ⟨.vT, .vT, .v1, .none⟩
def shBfi : Shape := ⟨.vT, .vT, .vT, .v1⟩
def shWord3 : Shape := ⟨.v1, .v1, .v1, .v1⟩
def shSel : Shape := ⟨.vT, .vT, .vT, .pred⟩
def shCmp : Shape := ⟨.pred, .vT, .vT, .pred⟩
def shMov : Shape := ⟨.vT, .none, .vT, .none⟩
/-- Uniform shapes (R88). -/
def shUBin : Shape := ⟨.sT, .sT, .sT, .none⟩
def shUShift : Shape := ⟨.sT, .sT, .s1, .none⟩
def shUMov : Shape := ⟨.sT, .none, .sT, .none⟩
def shUCmp : Shape := ⟨.pred, .sT, .sT, .pred⟩

/-- A shift by a register or an immediate (R79): with SUB bit 5, B is a count below the width. -/
def Tri.shiftOk (t : Tri) (sh : Shape) : Bool :=
  if t.sub.getLsbD 5 then
    t.h.okL && intTy t.ty && t.rm == 0 && !t.sf && t.var == 0x20 && !t.bu && !t.rb
      && t.b.toNat < (if wideTy t.ty then 64 else 32)
      && opdOk t.ty sh.d false t.d && opdOk t.ty sh.a false t.a && opdOk t.ty .none t.cu t.c
  else t.blk sh intTy false false var0

/-- The width of a conversion's source (R86, R93). -/
def cvtSrc (t : Tri) : Opd := if wideTy (t.sub.extractLsb' 0 3) then .v2 else .v1

/-- `cvt` (R86): an integer source admits SF and no rounding, a floating-point source rounding and no SF. -/
def Tri.cvtOk (t : Tri) : Bool :=
  t.blk ⟨.vT, cvtSrc t, .none, .none⟩ intTy (fpTy (t.sub.extractLsb' 0 3)) (intTy (t.sub.extractLsb' 0 3)) (·.ult 8)

/-- `fcopysign` (R98): the variant .abs reads no B. -/
def Tri.copysignOk (t : Tri) : Bool :=
  t.blk (if t.var == 3 then shUn else shBin) fpTy false false (·.ult 4)

/-- A word in which RA, RB, RM, SF and TY are zero. -/
def Tri.plain (t : Tri) : Bool := !t.ra && !t.rb && t.rm == 0 && !t.sf && t.ty == 0

/-- Every one of D, A, B, C and SUB is zero. -/
def Tri.bare (t : Tri) : Bool := t.plain && t.d == 0 && t.a == 0 && t.b == 0 && t.c == 0 && t.sub == 0

/-- Predicate instructions (R100). -/
def Tri.predOk (t : Tri) (two : Bool) : Bool :=
  t.h.okL && t.plain && t.c == 0 && t.d.ult 16 && t.a.ult 16
    && (if two then t.sub.ult 4 && t.b.ult 16 else t.sub.ult 2 && t.b == 0)

/-- Lane operations (R144). -/
def Tri.voteOk (t : Tri) : Bool :=
  t.h.okL && t.plain && t.d.ult 16 && t.a.ult 16 && t.b == 0 && t.c == 0 && t.sub.ult 8
def Tri.ballotOk (t : Tri) : Bool :=
  t.h.okL && t.plain && uniOk 1 t.d && t.a.ult 16 && t.b == 0 && t.c == 0 && t.sub.ult 2
def Tri.shflOk (t : Tri) : Bool :=
  t.h.okL && !t.ra && !t.rb && t.rm == 0 && !t.sf && shiftTy t.ty && t.c.ult 16
    && opdOk t.ty .vT false t.d && opdOk t.ty .vT false t.a
    && (t.sub.extractLsb' 2 3).ult 6 && !t.sub.getLsbD 6
    && (if t.sub.getLsbD 5 then !t.bu && t.b.ult 32 else opdOk t.ty .v1 t.bu t.b)
def Tri.bcastOk (t : Tri) : Bool :=
  t.h.okL && !t.ra && !t.rb && t.rm == 0 && !t.sf && shiftTy t.ty && t.c.ult 16
    && opdOk t.ty .vT false t.d && opdOk t.ty .vT false t.a
    && t.sub.ult 3 && (if t.sub == 2 then t.b.ult 32 else t.b == 0)
def Tri.reduxOk (t : Tri) : Bool :=
  t.h.okL && !t.ra && !t.rb && t.b == 0 && t.c == 0
    && opdOk t.ty .vT false t.d && opdOk t.ty .vT false t.a
    && (t.sub == 8 || t.rm == 0) && (t.sub == 0 || !t.sf)
    && ((t.sub.ult 6 && intTy t.ty) || (t.sub == 8 || t.sub == 9 || t.sub == 10) && fp3264 t.ty)

/-- Loads and stores (R214). -/
def Tri.ldstOk (t : Tri) : Bool :=
  let size := t.sub.extractLsb' 2 2
  let scope := t.sub.extractLsb' 5 3
  t.h.okL && !t.rb && t.rm == 0 && !t.sf && opdOk t.ty .vT false t.d
    && size != 3 && (size == 0 || t.ty == 0 || t.ty == 1)
    && scope.ult 6 && (t.sub.getLsbD 4 || scope == 0)
/-- `ldp` and `stp` (R214). -/
def Tri.ldpOk (t : Tri) : Bool :=
  t.h.okL && !t.rb && t.rm == 0 && !t.sf && t.ty == 0 && t.sub.ult 4 && vecOk 4 t.d
/-- `prs` (R214). -/
def Tri.prsOk (t : Tri) : Bool :=
  t.h.okL && !t.rb && t.rm == 0 && !t.sf && t.ty == 0 && t.sub.ult 4 && t.d.ult 16

/-- The types that an atomic operation admits (R221). -/
def atomTy (op : BitVec 8) (ty : BitVec 3) : Bool :=
  if op.ult 8 then intTy ty else op.ult 11 && fp3264 ty

/-- `atom` and `red` (R220). -/
def Tri.atomOk (t : Tri) (ret : Bool) : Bool :=
  let sp := t.sub.extractLsb' 0 2
  let strength := t.sub.extractLsb' 6 2
  let scope := t.sub.extractLsb' 3 3
  t.h.okL && !t.sf && (t.c == 8 || t.rm == 0) && atomTy t.c t.ty
    && (if ret then opdOk t.ty .vT false t.d else t.d == 0 && t.c != 7 && !strength.getLsbD 0)
    && vecOk (if sp == 3 then 2 else 1) t.a
    && vecOk ((Opd.count t.ty .vT) * (if t.c == 7 then 2 else 1)) t.b
    && sp != 1 && !t.sub.getLsbD 2 && scope.ult 6 && (strength != 0 || scope == 0)

/-- `fence` (R226). -/
def Tri.fenceOk (t : Tri) : Bool :=
  let scope := t.sub.extractLsb' 2 3
  t.h.okW && t.plain && t.d == 0 && t.b == 0 && t.c == 0 && t.sub.ult 32 && scope.ult 6
    && (if scope == 2 then uniOk 1 t.a else t.a == 0)

/-- Barrier scope, number and handle field (R153, R229). -/
def Tri.barOk (t : Tri) : Bool :=
  let scope := (t.sub.extractLsb' 0 3).toNat
  let num := (t.sub.extractLsb' 3 4).toNat
  t.h.okW && t.plain && t.c == 0 && !t.sub.getLsbD 7 && scope < 5
    && num < (match scope with | 0 => 16 | 1 => 16 | 2 => 8 | _ => 4)
    && (if scope == 2 then uniOk 1 t.b else t.b == 0)

/-- Scope instructions (R232). -/
def Tri.scopeOk (t : Tri) (d a : Opd) : Bool :=
  t.h.okW && t.plain && t.b == 0 && t.c == 0 && opdOk 0 d false t.d && opdOk 0 a false t.a

/-- `rgive` and `rclaim` (R156). -/
def Tri.giveOk (t : Tri) : Bool :=
  t.h.okW && t.plain && t.d == 0 && t.a == 0 && t.b == 0 && t.c == 0 && t.sub != 0 && t.sub.ult 32

/-- `xfer` (R290). -/
def Tri.xferOk (t : Tri) (form : BitVec 8) : Bool :=
  t.h.okW && t.plain && uniOk 1 t.d && uniOk 8 t.a && uniOk 1 t.c && t.sub == form
    && (if form == 3 || form == 4 then vecOk 2 t.b else t.b == 0)

/-- Channel words (R296). -/
def Tri.chOk (t : Tri) (d : Opd) (sub : BitVec 8) : Bool :=
  t.h.okW && t.plain && opdOk 0 d false t.d && uniOk 1 t.a && t.b == 0 && t.c.ult 4 && t.sub == sub

/-- `obres` (R300). -/
def Tri.obresOk (t : Tri) : Bool :=
  let fmt := t.sub.extractLsb' 0 4
  let slay := t.sub.extractLsb' 5 2
  t.h.okW && t.plain && t.d.ult 8 && uniOk 1 t.a && uniOk 1 t.b && t.c == 0 && fmt.ult 9 && slay.ult 3
    && (if t.sub.getLsbD 4 then (4 : BitVec 4).ule fmt && fmt.ule 7 else slay == 0)

/-- `mma` and `mma.m` (R305, R308). -/
def Tri.mmaOk (t : Tri) (stream : Bool) : Bool :=
  t.h.okW && t.plain && uniOk 1 t.d && t.a.extractLsb' 3 2 == 0 && t.b.ult 64
    && (t.sub.extractLsb' 0 4).ult 9 && t.sub.ult 32
    && (if stream then uniOk 8 t.c && !t.sub.getLsbD 4 else true)

/-- A tag code with its handle and tile (R310): F64 pairs begin at even numbers. A tile that the block does not have is
no matter of the encoding. -/
def tagOk (tag : BitVec 2) (k tile : BitVec 8) : Bool :=
  tag != 3 && k.ult 8 && (tag != 2 || !k.getLsbD 0 && !tile.getLsbD 0)

/-- `accrd` and `accwr` (R312, R313): 64-bit types cover four registers. -/
def accVecOk (ty : BitVec 3) (r : BitVec 8) : Bool := vecOk (if ty == 5 || ty == 2 then 4 else 1) r

/-- Future words (R315): the operand A, uniform with SUB bit 0. -/
def Tri.futOk (t : Tri) (d : Opd) (c : Opd) : Bool :=
  t.h.okL && t.plain && t.b == 0 && opdOk 0 d false t.d && opdOk 0 c false t.c
    && t.sub.ult 2 && opdOk 0 .v1 (t.sub.getLsbD 0) t.a

/-- The numbers of R358's table. -/
def sysAssigned (n : BitVec 8) : Bool := n.ule 8 || (0x10 : BitVec 8).ule n && n.ule 0x1F
/-- Registers of 64 bits: REFTICK, TPC, TADDR, TLIVE. -/
def sysWide (n : BitVec 8) : Bool := n == 6 || n == 0x11 || n == 0x13 || n == 0x15
/-- Registers that some privilege may write: FPSTAT, PRIV, TPC, TADDR, TMASK, SAVEPTR, PREQ, KSCR0–7. -/
def sysWritable (n : BitVec 8) : Bool :=
  n == 5 || n == 0x10 || n == 0x11 || n == 0x13 || n == 0x14 || n == 0x16 || n == 0x17
    || (0x18 : BitVec 8).ule n && n.ule 0x1F

/-- `sysrd` and `syswr` (R364): the register operand r. -/
def Tri.sysOk (t : Tri) (r other : BitVec 8) : Bool :=
  t.h.okW && t.plain && t.c == 0 && other == 0 && sysAssigned t.b && t.sub.ult 2
    && opdOk 0 (if sysWide t.b then .v2 else .v1) (t.sub.getLsbD 0) r

/-- `rng` (R368). -/
def Tri.rngOk (t : Tri) (var : BitVec 6) : Bool :=
  t.h.okL && t.rm == 0 && !t.sf && t.ty == 0 && t.c == 0 && t.var == var
    && opdOk 0 .v2 t.cu t.a && opdOk 0 .v2 t.bu t.b && vecOk (if var == 0 then 2 else 1) t.d

/-- `ctx.vsave` and `ctx.vload` (R371). -/
def Tri.ctxOk (t : Tri) : Bool :=
  t.h.okW && t.plain && t.d == 0 && t.c == 0 && uniOk 1 t.a && uniOk 1 t.b && t.sub.ult 11

/-- `wait` (R149). -/
def Tri.waitOk (t : Tri) : Bool :=
  let n := (t.sub.extractLsb' 0 2).toNat
  t.h.okL && t.plain && t.sub.ult 16 && t.a.toNat + n < 64 && t.b.toNat + n < 256
    && (if t.sub.getLsbD 3 then uniOk 1 t.c else t.c == 0)

/-- An I32 word (R48). -/
def Imm.ok (t : Imm) (w : Bool) (d a : Opd) : Bool :=
  (if w then t.h.okW else t.h.okL) && opdOk 0 d false t.d && opdOk 0 a false t.a

/-- The kinds of a pair opcode (R59): its operand is 64 bits wide, it reads A, and what I may hold. -/
structure PairKind where
  wide : Bool := false
  reads : Bool := true
  /-- D is read too ("D op A"). -/
  acc : Bool := false
  /-- How many low bits of I are in use. -/
  ibits : Nat := 0
  deriving DecidableEq, Repr

/-- The pair opcodes (R59). -/
def pairKind (po : BitVec 6) : Option PairKind :=
  match po.toNat with
  | 0x00 => some ⟨false, false, false, 0⟩
  | 0x01 | 0x02 | 0x03 | 0x04 | 0x05 | 0x06 | 0x07 | 0x08 | 0x09 | 0x0A | 0x0B | 0x0C | 0x0D | 0x0E =>
    some ⟨false, true, true, 0⟩
  | 0x0F => some ⟨false, true, false, 0⟩
  | 0x10 | 0x11 | 0x12 | 0x13 | 0x14 => some ⟨false, true, false, 8⟩
  | 0x15 | 0x16 | 0x17 | 0x18 => some ⟨false, true, false, 5⟩
  | 0x19 => some ⟨false, false, false, 8⟩
  | 0x20 | 0x21 | 0x22 => some ⟨false, true, true, 2⟩
  | 0x23 | 0x24 => some ⟨false, true, true, 0⟩
  | 0x28 | 0x29 | 0x2A => some ⟨true, true, true, 2⟩
  | 0x2B | 0x2C => some ⟨true, true, true, 0⟩
  | 0x30 | 0x31 => some ⟨true, true, true, 0⟩
  | 0x32 => some ⟨true, true, false, 0⟩
  | 0x33 => some ⟨true, true, false, 8⟩
  | _ => none

/-- One half of a pair word (R57, R59). -/
def Half.ok (h : Half) : Bool :=
  match pairKind h.po with
  | none => false
  | some k =>
    (if h.po == 0 then h.d == 0 else true)
      && vecOk (if k.wide then 2 else 1) h.d
      && (if k.reads then vecOk (if k.wide then 2 else 1) h.a else h.a == 0)
      && h.i.toNat < 2 ^ k.ibits

/-- Half X of a pair word whose constructor says the opcode. -/
def Pair.x (p : Pair) (po : BitVec 6) : Half := ⟨po, p.d, p.a, p.i⟩

/-- A pair word (R57, R59). The banks of R58 are checked after this, by a trap of their own. -/
def Pair.ok (p : Pair) (po : BitVec 6) : Bool := liveOk p.live && (p.x po).ok && p.y.ok

/-- The instruction's fields hold values that its form admits. An event has no fields of a word. -/
def Instr.wf : Instr → Bool
  | .add t => t.blk shBin intTy false true var0
  | .addImm t => t.ok false .v1 .v1
  | .sub t => t.blk shBin intTy false true var0
  | .subImm t => t.ok false .v1 .v1
  | .mul t => t.blk shBin intTy false true var0
  | .mulhi t => t.blk shBin intTy false false var0
  | .mad t => t.blk shTern intTy false true var0
  | .addc t => t.blk shCarry (· == 1) false true var0
  | .subb t => t.blk shCarry (· == 1) false true var0
  | .neg t => t.blk shUn intTy false true var0
  | .abs t => t.blk shUn (fun ty => ty == 0 || ty == 2) false true var0
  | .min t => t.blk shBin intTy false false var0
  | .max t => t.blk shBin intTy false false var0
  | .and t => t.blk shBin intTy false false var0
  | .andImm t => t.ok false .v1 .v1
  | .or t => t.blk shBin intTy false false var0
  | .orImm t => t.ok false .v1 .v1
  | .xor t => t.blk shBin intTy false false var0
  | .xorImm t => t.ok false .v1 .v1
  | .not t => t.blk shUn intTy false false var0
  | .andn t => t.blk shBin intTy false false var0
  | .shl t => t.shiftOk shShift
  | .shr t => t.shiftOk shShift
  | .sar t => t.shiftOk shShift
  | .rol t => t.shiftOk shShift
  | .clz t => t.blk shCount intTy false false var0
  | .ctz t => t.blk shCount intTy false false var0
  | .popc t => t.blk shCount intTy false false var0
  | .brev t => t.blk shUn intTy false false var0
  | .bfe t => t.blk shShift intTy false false var0
  | .bfi t => t.blk shBfi intTy false false var0
  | .prmt t => t.blk shWord3 (·.ult 2) false false var0
  | .sel t => t.blk shSel (fun _ => true) false false var0
  | .cmp t => t.blk shCmp intTy false false (·.ult 6)
  | .mov t => t.blk shMov (fun _ => true) false false var0
  | .movi t => t.ok false .v1 .none
  | .movh t => t.ok false .v2 .none
  | .cvt t => t.cvtOk
  | .lea t => t.blk shShift intTy false false (·.ult 8)
  | .fadd t => t.blk shBin fpTy true false var0
  | .fsub t => t.blk shBin fpTy true false var0
  | .fmul t => t.blk shBin fpTy true false var0
  | .ffma t => t.blk shTern fpTy true false var0
  | .fmin t => t.blk shBin fpTy false false var0
  | .fmax t => t.blk shBin fpTy false false var0
  | .fcmp t => t.blk shCmp fpTy false false (·.ult 8)
  | .fclass t => t.blk shCount fpTy false false var0
  | .fcvt t => t.blk ⟨.vT, cvtSrc t, .none, .none⟩ fpTy true false (·.ult 8)
  | .frint t => t.blk shUn fpTy true true var0
  | .fdiv t => t.blk shBin fp3264 true false var0
  | .fsqrt t => t.blk shUn fp3264 true false var0
  | .frcp t => t.blk shUn transTy false false var0
  | .frsq t => t.blk shUn transTy false false var0
  | .fexp2 t => t.blk shUn transTy false false var0
  | .flog2 t => t.blk shUn transTy false false var0
  | .fsin t => t.blk shUn transTy false false var0
  | .fcos t => t.blk shUn transTy false false var0
  | .fscale t => t.blk shShift fpTy true false var0
  | .fgetexp t => t.blk shCount fpTy false false var0
  | .fcopysign t => t.copysignOk
  | .fdot2 t => t.blk shWord3 (fun ty => ty == 6 || ty == 7) true false var0
  | .uadd t => t.h.okW && t.blk shUBin intTy false true var0
  | .uaddImm t => t.ok true .s1 .s1
  | .usub t => t.h.okW && t.blk shUBin intTy false true var0
  | .umul t => t.h.okW && t.blk shUBin intTy false true var0
  | .uand t => t.h.okW && t.blk shUBin intTy false false var0
  | .uor t => t.h.okW && t.blk shUBin intTy false false var0
  | .uxor t => t.h.okW && t.blk shUBin intTy false false var0
  | .ushl t => t.h.okW && t.shiftOk shUShift
  | .ushr t => t.h.okW && t.shiftOk shUShift
  | .usar t => t.h.okW && t.shiftOk shUShift
  | .umov t => t.h.okW && t.blk shUMov (fun _ => true) false false var0
  | .umovi t => t.ok true .s1 .none
  | .ucmp t => t.h.okW && t.blk shUCmp intTy false false (·.ult 6)
  | .pand t => t.predOk true
  | .por t => t.predOk true
  | .pxor t => t.predOk true
  | .pnot t => t.predOk false
  | .pmov t => t.predOk false
  | .vote t => t.voteOk
  | .ballot t => t.ballotOk
  | .shfl t => t.shflOk
  | .bcast t => t.bcastOk
  | .redux t => t.reduxOk
  | .ld t => t.ldstOk
  | .st t => t.ldstOk
  | .ldp t => t.ldpOk
  | .stp t => t.ldpOk
  | .atom t => t.atomOk true
  | .red t => t.atomOk false
  | .fence t => t.fenceOk
  | .prs t => t.prsOk
  | .barArrive t => t.barOk && uniOk 1 t.d && t.a == 0
  | .barWait t => t.barOk && t.d == 0 && uniOk 1 t.a
  | .barSync t => t.barOk && t.d == 0 && t.a == 0
  | .barExpect t => t.barOk && t.d == 0 && uniOk 1 t.a
  | .scopeGet t => t.scopeOk .s1 .none && t.sub.ult 6
  | .scopeFreeze t => t.scopeOk .none .s1 && t.sub == 0
  | .scopeThaw t => t.scopeOk .none .s1 && t.sub == 0
  | .scopeQuery t => t.scopeOk .s1 .s1 && uniOk 4 t.d && t.sub == 0
  | .bgive t => t.h.okW && t.plain && uniOk 1 t.d && uniOk 1 t.a && uniOk 1 t.b && t.c == 0 && t.sub == 0
  | .btake t => t.h.okW && t.plain && t.d == 0 && uniOk 1 t.a && t.b == 0 && t.c == 0 && t.sub.ult 8
  | .rgive t => t.giveOk
  | .rclaim t => t.giveOk
  | .rshare t => t.h.okW && t.plain && t.d == 0 && vecOk 8 t.a && t.b.ult 32 && t.c == 0 && !t.sub.getLsbD 7 && (t.sub.extractLsb' 0 6) != 0 && (t.sub.extractLsb' 0 6).ult 32
  | .runshare t => t.h.okW && t.plain && t.d == 0 && t.a == 0 && t.b.ult 32 && t.c == 0 && t.sub == 0
  | .xferIn t => t.xferOk 0
  | .xferOut t => t.xferOk 1
  | .xfer2d t => t.xferOk 2
  | .xferGat t => t.xferOk 3
  | .xferSct t => t.xferOk 4
  | .xferDsp t => t.xferOk 5
  | .xferPeer t => t.xferOk 6
  | .chClaimBind t => t.chOk .none 1
  | .chClaim t => t.chOk .s1 0
  | .chCommit t => t.chOk .none 0
  | .chAwaitBind t => t.chOk .none 1
  | .chAwait t => t.chOk .s2 0
  | .chRetire t => t.chOk .none 0
  | .obres t => t.obresOk
  | .obrel t => t.h.okW && t.plain && t.d == 0 && t.a.ult 8 && t.b == 0 && t.c == 0 && t.sub == 0
  | .bload t => t.h.okW && t.plain && t.d == 0 && t.a.ult 8 && t.c == 0 && t.sub == 0
  | .bfree t => t.h.okW && t.plain && t.d == 0 && t.a == 0 && t.c != 0 && t.c.ule 64 && t.sub == 0
  | .mma t => t.mmaOk false
  | .mmaM t => t.mmaOk true
  | .accz t => t.h.okW && t.plain && t.a == 0 && t.c == 0 && t.sub.ult 4 && tagOk (t.sub.extractLsb' 0 2) t.d t.b
  | .accrd t => t.h.okW && !t.ra && !t.rb && accVecOk t.ty t.d && t.a.ult 8 && uniOk 1 t.b && t.c == 0 && (!t.sf || t.ty == 0) && t.sub == 0
  | .accwr t => t.h.okW && !t.ra && !t.rb && t.d.ult 8 && accVecOk t.ty t.a && uniOk 1 t.b && t.c == 0 && !t.sf && t.sub == 0
  | .accst t => t.h.okW && t.plain && t.d == 0 && t.a.ult 8 && uniOk 1 t.b && t.c == 0 && t.sub.ult 3
  | .accld t => t.h.okW && t.plain && t.a == 0 && uniOk 1 t.b && (t.sub.extractLsb' 0 2) != 3 && t.sub.ult 16 && tagOk (t.sub.extractLsb' 2 2) t.d t.c
  | .spawn t => t.ok false .v1 .v1
  | .fref t => t.futOk .pred .none
  | .fdrop t => t.futOk .none .none
  | .fget t => t.futOk .v2 .pred
  | .fpoll t => t.futOk .pred .none
  | .rpoint t => t.h.okL && t.bare
  | .tret t => t.h.okL && t.plain && t.d == 0 && vecOk 2 t.a && t.b == 0 && t.c == 0 && t.sub == 0
  | .bra t => t.ok false .none .none
  | .brx t => t.h.okL && !t.rb && t.rm == 0 && !t.sf && t.ty == 0 && t.d == 0 && vecOk 2 t.a && t.b == 0 && t.c == 0 && t.sub == 0
  | .brxRel t => t.h.okL && !t.rb && t.rm == 0 && !t.sf && t.ty == 0 && t.d == 0 && t.b == 0 && t.c == 0 && t.sub == 1
  | .call t => t.h.okL && vecOk 8 t.d && t.a != 0 && t.a.ule 32
  | .callx t => t.h.okL && !t.rb && t.rm == 0 && !t.sf && t.ty == 0 && vecOk 8 t.d && vecOk 2 t.a && t.b == 0 && t.c == 0 && t.sub != 0 && t.sub.ule 32
  | .ret t => t.h.okL && t.bare
  | .umark t => t.ok false .s1 .none
  | .unwind t => t.h.okL && t.plain && t.d == 0 && uniOk 1 t.a && t.b == 0 && t.c == 0 && t.sub == 0
  | .exit t => t.h.okL && t.bare
  | .nop t => t.h.okL && t.bare
  | .trap t => t.ok false .none .none
  | .brk t => t.ok false .none .none
  | .join t => t.h.okL && t.plain && t.d == 0 && t.a.ult 8 && t.b == 0 && t.c == 0 && t.sub == 0
  | .jleave t => t.h.okL && t.plain && t.d == 0 && t.a.ult 8 && t.b == 0 && t.c == 0 && t.sub == 0
  | .jmaskGang t => t.h.okL && t.plain && t.d.ult 8 && t.a == 0 && t.b == 0 && t.c == 0 && t.sub == 0
  | .jmaskAdd t => t.h.okL && t.plain && t.d.ult 8 && t.a == 0 && t.b == 0 && t.c == 0 && t.sub == 1
  | .jmaskU t => t.h.okL && t.plain && t.d.ult 8 && t.a == 0 && uniOk 1 t.b && t.c == 0 && t.sub == 2
  | .wait t => t.waitOk
  | .sysrd t => t.sysOk t.d t.a
  | .syswr t => t.sysOk t.a t.d && sysWritable t.b
  | .eret t => t.h.okW && t.bare
  | .notify t => t.h.okW && t.plain && t.d == 0 && uniOk 1 t.a && t.b == 0 && t.c == 0 && t.sub.ult 64
  | .haltSave t => t.h.okW && t.bare
  | .haltEnd t => t.h.okW && t.plain && t.d == 0 && uniOk 1 t.a && t.b == 0 && t.c == 0 && t.sub == 1
  | .rng t => t.rngOk 0
  | .rngU01 t => t.rngOk 1
  | .ctxDrain t => t.h.okW && t.plain && uniOk 1 t.d && t.a == 0 && t.b == 0 && t.c == 0 && t.sub == 0
  | .ctxVsave t => t.ctxOk
  | .ctxVload t => t.ctxOk
  | .pairNop p => p.ok 0x00
  | .pairAddN32 p => p.ok 0x01
  | .pairSubN32 p => p.ok 0x02
  | .pairMulN32 p => p.ok 0x03
  | .pairAnd p => p.ok 0x04
  | .pairOr p => p.ok 0x05
  | .pairXor p => p.ok 0x06
  | .pairAndn p => p.ok 0x07
  | .pairMinI32 p => p.ok 0x08
  | .pairMaxI32 p => p.ok 0x09
  | .pairMinN32 p => p.ok 0x0A
  | .pairMaxN32 p => p.ok 0x0B
  | .pairShl p => p.ok 0x0C
  | .pairShr p => p.ok 0x0D
  | .pairSar p => p.ok 0x0E
  | .pairMov p => p.ok 0x0F
  | .pairAddImm p => p.ok 0x10
  | .pairSubImm p => p.ok 0x11
  | .pairAndImm p => p.ok 0x12
  | .pairOrImm p => p.ok 0x13
  | .pairXorImm p => p.ok 0x14
  | .pairShlImm p => p.ok 0x15
  | .pairShrImm p => p.ok 0x16
  | .pairSarImm p => p.ok 0x17
  | .pairRolImm p => p.ok 0x18
  | .pairMovi p => p.ok 0x19
  | .pairFaddF32 p => p.ok 0x20
  | .pairFsubF32 p => p.ok 0x21
  | .pairFmulF32 p => p.ok 0x22
  | .pairFminF32 p => p.ok 0x23
  | .pairFmaxF32 p => p.ok 0x24
  | .pairFaddF64 p => p.ok 0x28
  | .pairFsubF64 p => p.ok 0x29
  | .pairFmulF64 p => p.ok 0x2A
  | .pairFminF64 p => p.ok 0x2B
  | .pairFmaxF64 p => p.ok 0x2C
  | .pairAddN64 p => p.ok 0x30
  | .pairSubN64 p => p.ok 0x31
  | .pairMovN64 p => p.ok 0x32
  | .pairAddN64Imm p => p.ok 0x33
  | .btakeResume _ _ => true
  | .rclaimGrant _ => true
  | .runshareResume _ _ => true
  | .sharedCellWake _ _ => true
  | .channelClaimResume _ => true
  | .channelAwaitResume _ => true
  | .matrixWordPerform _ => true
  | .fgetResume _ _ => true
  | .taskFutureComplete _ _ => true
  | .joinRelease _ _ => true
  | .waitRelease _ _ => true
  | .waitTimeout _ _ => true
  | .barrierWaiterRelease _ _ => true
  | .notifyEntryWrite _ => true
  | .ctxDrainComplete _ _ => true
  | .longResultDelivery _ _ => true
  | .effectiveLevelRise _ => true
  | .trapEntry _ => true
  | .safePointTrap _ => true
  | .forcedSave _ => true
  | .storageRelease _ => true
  | .frameRequestServe _ => true
  | .umbraSpillRound _ => true
  | .scratchpadBankWake _ _ => true
  | .loadPresenceResume _ _ => true
  | .memoryAccessPerform _ _ => true
  | .gnomonRmwPerform _ _ _ => true
  | .launchQueueDoorbell _ _ _ => true
  | .launchRecord => true
  | .restoreRecord => true
  | .blockPlacement _ => true
  | .gridCompletion _ => true
  | .binTimerExpiry _ _ => true
  | .binSpaceResume _ _ => true
  | .waveLaunch _ => true
  | .taskArgumentRead _ _ => true
  | .parallaxIntervalEnd => true
  | .regroupCommit _ _ => true
  | .futureRecordWaitResume _ _ => true
  | .copyQueueRoomResume _ _ => true
  | .matrixQueueRoomResume _ _ => true
  | .pageTableWalk _ _ => true
  | .copyChunkStart _ => true
  | .copyChunkLanding _ _ => true
  | .copyCompletion _ => true
  | .doomedCopyStop _ => true
  | .taskReclamation _ => true
  | .faultQueueEntryWrite _ => true
  | .fqresumeRetry _ _ => true
  | .fqresumeAccessError _ _ => true
  | .fqresumeUnserviceable _ _ => true
  | .fqresumeIgnored _ _ => true
  | .fqheadWrite _ _ => true
  | .cqheadWrite _ _ => true
  | .elheadWrite _ _ => true
  | .ellostRead _ => true
  | .tlbinvRange _ _ => true
  | .tlbinvAll _ => true
  | .tlbInvalidationDone _ => true
  | .futareaWrite _ _ => true
  | .preqRequest _ _ => true
  | .preqWithdraw _ _ => true
  | .qclassWrite _ _ => true
  | .classChangeEffect _ => true
  | .energyAccumulate _ _ => true
  | .energyReadLatch _ => true
  | .thermalTripChange _ _ => true
  | .registerWrite _ _ _ _ _ => true
  | .hostBar4Access _ _ _ _ => true
  | .hostAtomicop _ _ _ _ _ => true
  | .msixPendingSend _ _ => true
  | .limiterStep _ => true
  | .mmaPassEnd _ => true
  | .mmaMPassFetch _ => true
  | .droopDetected _ _ => true
  | .hbmPinGroupMark _ _ => true
  | .ringPacketInject _ _ _ => true
  | .ringHop _ _ => true
  | .ringDelivery _ _ => true
  | .cxlViralOrLinkLoss _ _ => true
  | .cxlErrorResponse _ _ _ => true
  | .pcieErrorCompletion _ _ => true
  | .peerLinkError _ => true
  | .packageReset => true
  | .bootRomVerify => true
  | .hbmTraining _ => true
  | .linkTraining _ => true
  | .cxlEnumeration _ => true
  | .bringUpReady => true
  | .bootstatRetry => true
  | .flashWindowWrite _ _ => true
  | .getVersion _ => true
  | .getCapabilities _ => true
  | .negotiateAlgorithms _ => true
  | .getDigests _ => true
  | .getCertificate _ => true
  | .challenge _ => true
  | .getMeasurements _ => true
  | .spdmUnsupportedRequest _ => true
  | .regroupCommitEnd _ => true
  | .peerAccessReceived _ _ _ _ _ _ => true
  | .scratchpadBankGate _ _ _ => true
  | .configurationRequest _ _ _ => true
  | .registerRead _ _ _ _ => true

/-- The instruction is a form of an instruction word; every other constructor is an event of the hardware. -/
def Instr.isWord : Instr → Bool
  | .add _ => true
  | .addImm _ => true
  | .sub _ => true
  | .subImm _ => true
  | .mul _ => true
  | .mulhi _ => true
  | .mad _ => true
  | .addc _ => true
  | .subb _ => true
  | .neg _ => true
  | .abs _ => true
  | .min _ => true
  | .max _ => true
  | .and _ => true
  | .andImm _ => true
  | .or _ => true
  | .orImm _ => true
  | .xor _ => true
  | .xorImm _ => true
  | .not _ => true
  | .andn _ => true
  | .shl _ => true
  | .shr _ => true
  | .sar _ => true
  | .rol _ => true
  | .clz _ => true
  | .ctz _ => true
  | .popc _ => true
  | .brev _ => true
  | .bfe _ => true
  | .bfi _ => true
  | .prmt _ => true
  | .sel _ => true
  | .cmp _ => true
  | .mov _ => true
  | .movi _ => true
  | .movh _ => true
  | .cvt _ => true
  | .lea _ => true
  | .fadd _ => true
  | .fsub _ => true
  | .fmul _ => true
  | .ffma _ => true
  | .fmin _ => true
  | .fmax _ => true
  | .fcmp _ => true
  | .fclass _ => true
  | .fcvt _ => true
  | .frint _ => true
  | .fdiv _ => true
  | .fsqrt _ => true
  | .frcp _ => true
  | .frsq _ => true
  | .fexp2 _ => true
  | .flog2 _ => true
  | .fsin _ => true
  | .fcos _ => true
  | .fscale _ => true
  | .fgetexp _ => true
  | .fcopysign _ => true
  | .fdot2 _ => true
  | .uadd _ => true
  | .uaddImm _ => true
  | .usub _ => true
  | .umul _ => true
  | .uand _ => true
  | .uor _ => true
  | .uxor _ => true
  | .ushl _ => true
  | .ushr _ => true
  | .usar _ => true
  | .umov _ => true
  | .umovi _ => true
  | .ucmp _ => true
  | .pand _ => true
  | .por _ => true
  | .pxor _ => true
  | .pnot _ => true
  | .pmov _ => true
  | .vote _ => true
  | .ballot _ => true
  | .shfl _ => true
  | .bcast _ => true
  | .redux _ => true
  | .ld _ => true
  | .st _ => true
  | .ldp _ => true
  | .stp _ => true
  | .atom _ => true
  | .red _ => true
  | .fence _ => true
  | .prs _ => true
  | .barArrive _ => true
  | .barWait _ => true
  | .barSync _ => true
  | .barExpect _ => true
  | .scopeGet _ => true
  | .scopeFreeze _ => true
  | .scopeThaw _ => true
  | .scopeQuery _ => true
  | .bgive _ => true
  | .btake _ => true
  | .rgive _ => true
  | .rclaim _ => true
  | .rshare _ => true
  | .runshare _ => true
  | .xferIn _ => true
  | .xferOut _ => true
  | .xfer2d _ => true
  | .xferGat _ => true
  | .xferSct _ => true
  | .xferDsp _ => true
  | .xferPeer _ => true
  | .chClaimBind _ => true
  | .chClaim _ => true
  | .chCommit _ => true
  | .chAwaitBind _ => true
  | .chAwait _ => true
  | .chRetire _ => true
  | .obres _ => true
  | .obrel _ => true
  | .bload _ => true
  | .bfree _ => true
  | .mma _ => true
  | .mmaM _ => true
  | .accz _ => true
  | .accrd _ => true
  | .accwr _ => true
  | .accst _ => true
  | .accld _ => true
  | .spawn _ => true
  | .fref _ => true
  | .fdrop _ => true
  | .fget _ => true
  | .fpoll _ => true
  | .rpoint _ => true
  | .tret _ => true
  | .bra _ => true
  | .brx _ => true
  | .brxRel _ => true
  | .call _ => true
  | .callx _ => true
  | .ret _ => true
  | .umark _ => true
  | .unwind _ => true
  | .exit _ => true
  | .nop _ => true
  | .trap _ => true
  | .brk _ => true
  | .join _ => true
  | .jleave _ => true
  | .jmaskGang _ => true
  | .jmaskAdd _ => true
  | .jmaskU _ => true
  | .wait _ => true
  | .sysrd _ => true
  | .syswr _ => true
  | .eret _ => true
  | .notify _ => true
  | .haltSave _ => true
  | .haltEnd _ => true
  | .rng _ => true
  | .rngU01 _ => true
  | .ctxDrain _ => true
  | .ctxVsave _ => true
  | .ctxVload _ => true
  | .pairNop _ => true
  | .pairAddN32 _ => true
  | .pairSubN32 _ => true
  | .pairMulN32 _ => true
  | .pairAnd _ => true
  | .pairOr _ => true
  | .pairXor _ => true
  | .pairAndn _ => true
  | .pairMinI32 _ => true
  | .pairMaxI32 _ => true
  | .pairMinN32 _ => true
  | .pairMaxN32 _ => true
  | .pairShl _ => true
  | .pairShr _ => true
  | .pairSar _ => true
  | .pairMov _ => true
  | .pairAddImm _ => true
  | .pairSubImm _ => true
  | .pairAndImm _ => true
  | .pairOrImm _ => true
  | .pairXorImm _ => true
  | .pairShlImm _ => true
  | .pairShrImm _ => true
  | .pairSarImm _ => true
  | .pairRolImm _ => true
  | .pairMovi _ => true
  | .pairFaddF32 _ => true
  | .pairFsubF32 _ => true
  | .pairFmulF32 _ => true
  | .pairFminF32 _ => true
  | .pairFmaxF32 _ => true
  | .pairFaddF64 _ => true
  | .pairFsubF64 _ => true
  | .pairFmulF64 _ => true
  | .pairFminF64 _ => true
  | .pairFmaxF64 _ => true
  | .pairAddN64 _ => true
  | .pairSubN64 _ => true
  | .pairMovN64 _ => true
  | .pairAddN64Imm _ => true
  | .btakeResume _ _ => false
  | .rclaimGrant _ => false
  | .runshareResume _ _ => false
  | .sharedCellWake _ _ => false
  | .channelClaimResume _ => false
  | .channelAwaitResume _ => false
  | .matrixWordPerform _ => false
  | .fgetResume _ _ => false
  | .taskFutureComplete _ _ => false
  | .joinRelease _ _ => false
  | .waitRelease _ _ => false
  | .waitTimeout _ _ => false
  | .barrierWaiterRelease _ _ => false
  | .notifyEntryWrite _ => false
  | .ctxDrainComplete _ _ => false
  | .longResultDelivery _ _ => false
  | .effectiveLevelRise _ => false
  | .trapEntry _ => false
  | .safePointTrap _ => false
  | .forcedSave _ => false
  | .storageRelease _ => false
  | .frameRequestServe _ => false
  | .umbraSpillRound _ => false
  | .scratchpadBankWake _ _ => false
  | .loadPresenceResume _ _ => false
  | .memoryAccessPerform _ _ => false
  | .gnomonRmwPerform _ _ _ => false
  | .launchQueueDoorbell _ _ _ => false
  | .launchRecord => false
  | .restoreRecord => false
  | .blockPlacement _ => false
  | .gridCompletion _ => false
  | .binTimerExpiry _ _ => false
  | .binSpaceResume _ _ => false
  | .waveLaunch _ => false
  | .taskArgumentRead _ _ => false
  | .parallaxIntervalEnd => false
  | .regroupCommit _ _ => false
  | .futureRecordWaitResume _ _ => false
  | .copyQueueRoomResume _ _ => false
  | .matrixQueueRoomResume _ _ => false
  | .pageTableWalk _ _ => false
  | .copyChunkStart _ => false
  | .copyChunkLanding _ _ => false
  | .copyCompletion _ => false
  | .doomedCopyStop _ => false
  | .taskReclamation _ => false
  | .faultQueueEntryWrite _ => false
  | .fqresumeRetry _ _ => false
  | .fqresumeAccessError _ _ => false
  | .fqresumeUnserviceable _ _ => false
  | .fqresumeIgnored _ _ => false
  | .fqheadWrite _ _ => false
  | .cqheadWrite _ _ => false
  | .elheadWrite _ _ => false
  | .ellostRead _ => false
  | .tlbinvRange _ _ => false
  | .tlbinvAll _ => false
  | .tlbInvalidationDone _ => false
  | .futareaWrite _ _ => false
  | .preqRequest _ _ => false
  | .preqWithdraw _ _ => false
  | .qclassWrite _ _ => false
  | .classChangeEffect _ => false
  | .energyAccumulate _ _ => false
  | .energyReadLatch _ => false
  | .thermalTripChange _ _ => false
  | .registerWrite _ _ _ _ _ => false
  | .hostBar4Access _ _ _ _ => false
  | .hostAtomicop _ _ _ _ _ => false
  | .msixPendingSend _ _ => false
  | .limiterStep _ => false
  | .mmaPassEnd _ => false
  | .mmaMPassFetch _ => false
  | .droopDetected _ _ => false
  | .hbmPinGroupMark _ _ => false
  | .ringPacketInject _ _ _ => false
  | .ringHop _ _ => false
  | .ringDelivery _ _ => false
  | .cxlViralOrLinkLoss _ _ => false
  | .cxlErrorResponse _ _ _ => false
  | .pcieErrorCompletion _ _ => false
  | .peerLinkError _ => false
  | .packageReset => false
  | .bootRomVerify => false
  | .hbmTraining _ => false
  | .linkTraining _ => false
  | .cxlEnumeration _ => false
  | .bringUpReady => false
  | .bootstatRetry => false
  | .flashWindowWrite _ _ => false
  | .getVersion _ => false
  | .getCapabilities _ => false
  | .negotiateAlgorithms _ => false
  | .getDigests _ => false
  | .getCertificate _ => false
  | .challenge _ => false
  | .getMeasurements _ => false
  | .spdmUnsupportedRequest _ => false
  | .regroupCommitEnd _ => false
  | .peerAccessReceived _ _ _ _ _ _ => false
  | .scratchpadBankGate _ _ _ => false
  | .configurationRequest _ _ _ => false
  | .registerRead _ _ _ _ => false

end Sys2Proof
end

