-- ==== Sys2Proof/Machine/Alu.lean ====
section
/-! DEFINITION. Machine/Alu.lean: what the integer, floating-point and conversion opcodes compute from their operands
(R21, R22, R73 to R99, R357, R368). An operand is a 64-bit pattern whose bits above its width are zero. -/

namespace Sys2Proof.Machine

/-- width(ty) of R73 for the integer and 32- and 64-bit codes; 16 for the 16-bit formats. -/
def widthOf (ty : BitVec 3) : Nat := if wideTy ty then 64 else if ty == 6 || ty == 7 then 16 else 32

/-- signed(ty) of R73. -/
def signedTy (ty : BitVec 3) : Bool := ty == 0 || ty == 2

/-- A pattern cut to w bits (R73, wrap). -/
def cut (w : Nat) (x : BitVec 64) : BitVec 64 := BitVec.ofNat 64 (x.toNat % 2 ^ w)

/-- An exact integer wrapped to w bits (R73). -/
def wrapInt (w : Nat) (i : Int) : BitVec 64 := BitVec.ofNat 64 (i % 2 ^ w).toNat

/-- The signed value of the low w bits. -/
def sval (w : Nat) (x : BitVec 64) : Int :=
  let n := x.toNat % 2 ^ w
  if n < 2 ^ (w - 1) then n else (n : Int) - 2 ^ w

/-- ival(x, ty) of R73. -/
def ival (ty : BitVec 3) (x : BitVec 64) : Int :=
  if signedTy ty then sval (widthOf ty) x else (x.toNat % 2 ^ widthOf ty : Nat)

/-- Minimum and maximum of an integer type (R21). -/
def minInt (ty : BitVec 3) : Int := if signedTy ty then -2 ^ (widthOf ty - 1) else 0
def maxInt (ty : BitVec 3) : Int := if signedTy ty then 2 ^ (widthOf ty - 1) - 1 else 2 ^ widthOf ty - 1

/-- clamp(v, ty) of R73. -/
def clampInt (ty : BitVec 3) (i : Int) : BitVec 64 := wrapInt (widthOf ty) (max (minInt ty) (min (maxInt ty) i))

/-- A result wrapped, or clamped with the saturate bit (R22). -/
def deliver (ty : BitVec 3) (sf : Bool) (i : Int) : BitVec 64 :=
  if sf then clampInt ty i else wrapInt (widthOf ty) i

/-- The exact results of R77. -/
inductive Arith where
  | add | sub | mul | mulhi | mad | neg | abs | min | max
  deriving DecidableEq, Repr

/-- R77. -/
def arith (op : Arith) (ty : BitVec 3) (sf : Bool) (a b c : BitVec 64) : BitVec 64 :=
  let x := ival ty a
  let y := ival ty b
  let z := ival ty c
  deliver ty sf (match op with
    | .add => x + y
    | .sub => x - y
    | .mul => x * y
    | .mulhi => (x * y).fdiv (2 ^ widthOf ty)
    | .mad => x * y + z
    | .neg => -x
    | .abs => x.natAbs
    | .min => if x ≤ y then x else y
    | .max => if x ≤ y then y else x)

/-- R78: result and carry or borrow out. -/
def addCarry (a b : BitVec 64) (cin : Bool) : BitVec 64 × Bool :=
  let s := a.toNat % 2 ^ 32 + b.toNat % 2 ^ 32 + cin.toNat
  (BitVec.ofNat 64 (s % 2 ^ 32), s ≥ 2 ^ 32)

@[inherit_doc addCarry] def subBorrow (a b : BitVec 64) (cin : Bool) : BitVec 64 × Bool :=
  let s : Int := (a.toNat % 2 ^ 32 : Nat) - (b.toNat % 2 ^ 32 : Nat) - (cin.toNat : Int)
  (wrapInt 32 s, s < 0)

/-- Bitwise operations, shifts and rotation on width(ty) bits (R79). -/
inductive Bits where
  | and | or | xor | andn | not | shl | shr | sar | rol
  deriving DecidableEq, Repr

@[inherit_doc Bits] def bitOp (op : Bits) (w : Nat) (a b : BitVec 64) : BitVec 64 :=
  let n := b.toNat % w
  cut w (match op with
    | .and => a &&& b
    | .or => a ||| b
    | .xor => a ^^^ b
    | .andn => a &&& ~~~b
    | .not => ~~~a
    | .shl => a <<< n
    | .shr => cut w a >>> n
    | .sar => wrapInt w ((sval w a).fdiv (2 ^ n))
    | .rol => if n == 0 then a else (a <<< n) ||| (cut w a >>> (w - n)))

/-- Leading zeros of the low w bits. -/
def leadingZeros : Nat → BitVec 64 → Nat
  | 0, _ => 0
  | w + 1, x => if x.getLsbD w then 0 else leadingZeros w x + 1

/-- Trailing zeros of the low k bits from bit i on. -/
def trailingZeros : Nat → Nat → BitVec 64 → Nat
  | 0, _, _ => 0
  | k + 1, i, x => if x.getLsbD i then 0 else trailingZeros k (i + 1) x + 1

/-- Set bits of the low w bits. -/
def countOnes : Nat → BitVec 64 → Nat
  | 0, _ => 0
  | w + 1, x => (x.getLsbD w).toNat + countOnes w x

/-- The low w bits in reverse order, as a number: bit k moves to bit w − 1 − k. -/
def reverseBits : Nat → BitVec 64 → Nat
  | 0, _ => 0
  | w + 1, x => (x.getLsbD w).toNat + 2 * reverseBits w x

/-- R80: `clz`, `ctz`, `popc`, `brev`. -/
inductive Count where
  | clz | ctz | popc | brev
  deriving DecidableEq, Repr

@[inherit_doc Count] def countOp (op : Count) (w : Nat) (a : BitVec 64) : BitVec 64 :=
  BitVec.ofNat 64 (match op with
    | .clz => leadingZeros w a
    | .ctz => trailingZeros w 0 a
    | .popc => countOnes w a
    | .brev => reverseBits w a)

/-- R81: `bfe`. -/
def bitExtract (ty : BitVec 3) (a ctl : BitVec 64) : BitVec 64 :=
  let w := widthOf ty
  let pos := min (ctl.toNat % 256) w
  let len := min (ctl.toNat / 256 % 256) w
  let x := (ival ty a).fdiv (2 ^ pos)
  if len == 0 then 0
  else if signedTy ty then wrapInt w (sval len (wrapInt len x)) else wrapInt len x

/-- R81: `bfi`. -/
def bitInsert (ty : BitVec 3) (a b ctl : BitVec 64) : BitVec 64 :=
  let w := widthOf ty
  let pos := min (ctl.toNat % 256) w
  let len := min (ctl.toNat / 256 % 256) w
  let n := min (pos + len) w - pos
  let keep := b.toNat % 2 ^ w / 2 ^ (pos + n) * 2 ^ (pos + n) + b.toNat % 2 ^ pos
  BitVec.ofNat 64 (keep + a.toNat % 2 ^ n * 2 ^ pos)

/-- Byte j of the eight bytes of B : A under one selector byte (R82). -/
def permByte (a b : BitVec 64) (sel : Nat) : Nat :=
  let j := sel % 8
  let x := (a.toNat % 2 ^ 32 + b.toNat % 2 ^ 32 * 2 ^ 32) / 256 ^ j % 256
  match sel / 8 % 4 with
  | 0 => x
  | 1 => 0
  | 2 => if x ≥ 128 then 255 else 0
  | _ => reverseBits 8 (BitVec.ofNat 64 x)

/-- R82: `prmt`. -/
def permute (a b c : BitVec 64) : BitVec 64 :=
  let s (k : Nat) := permByte a b (c.toNat / 256 ^ k % 256)
  BitVec.ofNat 64 (s 0 + s 1 * 256 + s 2 * 65536 + s 3 * 16777216)

/-- R84. -/
def intCond (cond : Nat) (x y : Int) : Bool :=
  match cond with
  | 0 => x == y
  | 1 => x != y
  | 2 => x < y
  | 3 => x ≤ y
  | 4 => x > y
  | _ => x ≥ y

/-- R87: the index is 32 bits, sign-extended in the .i64 form. -/
def leaOp (ty : BitVec 3) (k : Nat) (a b : BitVec 64) : BitVec 64 :=
  let x : Int := if ty == 2 then sval 32 b else (b.toNat % 2 ^ 32 : Nat)
  wrapInt (widthOf ty) ((a.toNat : Int) + x * 2 ^ k)

/-- The pattern of an operand in its format: 16-bit formats read bits 15:0 (R14). -/
def fpat (ty : BitVec 3) (a : BitVec 64) : Nat := a.toNat % 2 ^ widthOf ty

/-- R86: `cvt` to an integer type. -/
def cvtOp (ty src : BitVec 3) (rm : BitVec 2) (sf : Bool) (a : BitVec 64) : BitVec 64 × Flags :=
  if intTy src then (deliver ty sf (ival src a), 0)
  else
    let (i, fl) := fToInt (fmtOf src) rm (minInt ty) (maxInt ty) (fpat src a)
    (wrapInt (widthOf ty) i, fl)

/-- R93: `fcvt` to a floating-point type. -/
def fcvtOp (ty src : BitVec 3) (rm : BitVec 2) (a : BitVec 64) : BitVec 64 × Flags :=
  let (n, fl) := if intTy src then intToF (fmtOf ty) rm (ival src a) else fConv (fmtOf src) (fmtOf ty) rm (fpat src a)
  (BitVec.ofNat 64 n, fl)

/-- The two-operand and one-operand floating-point results (R89 to R98). -/
inductive FpOp where
  | add | sub | mul | div | sqrt | fma | min | max | rint | scale | copysign | trans (t : Trans)
  deriving DecidableEq, Repr

/-- A floating-point result and its flags. `var` is SUB's variant, `sf` the flag that `frint` defines. -/
def fpOp (op : FpOp) (ty : BitVec 3) (rm : BitVec 2) (sf : Bool) (var : Nat) (a b c : BitVec 64) :
    BitVec 64 × Flags :=
  let f := fmtOf ty
  let x := fpat ty a
  let y := fpat ty b
  let r := match op with
    | .add => fAdd f rm x y
    | .sub => fSub f rm x y
    | .mul => fMul f rm x y
    | .div => fDiv f rm x y
    | .sqrt => fSqrt f rm x
    | .fma => fFma f rm x y (fpat ty c)
    | .min => fMinMax f false x y
    | .max => fMinMax f true x y
    | .rint => fRint f rm sf x
    | .scale => fScale f rm x (sval 32 b)
    | .copysign => (fCopysign f var x y, 0)
    | .trans t => frozen t ty x
  (BitVec.ofNat 64 r.1, r.2)

/-- R99: `fdot2`. -/
def dot2Op (ty : BitVec 3) (rm : BitVec 2) (a b c : BitVec 64) : BitVec 64 × Flags :=
  let r := fDot2 (fmtOf ty) rm (a.toNat % 2 ^ 32) (b.toNat % 2 ^ 32) (c.toNat % 2 ^ 32)
  (BitVec.ofNat 64 r.1, r.2)

/-- The canonical tree (R148): `k`, the largest power of two below n, halves the list. -/
def treeFold {α : Type} (f : α → α → α) : Nat → List α → Option α
  | 0, xs => xs.head?
  | _, [] => none
  | _, [x] => some x
  | fuel + 1, xs =>
    let k := 2 ^ Nat.log2 (xs.length - 1)
    match treeFold f fuel (xs.take k), treeFold f fuel (xs.drop k) with
    | some a, some b => some (f a b)
    | a, none => a
    | none, b => b

/-- One Feistel round of `rng` (R368). -/
def rngRound (k0 k1 : Nat) (i : Nat) (s : Nat × Nat) : Nat × Nat :=
  let (hi, lo) := s
  let kr := ((if i % 2 == 0 then k0 else k1) + i * 0x9E3779B9) % 2 ^ 32
  let t := Nat.xor (lo * 0xD2B74407 % 2 ^ 32) kr
  let t := Nat.xor t (t / 2 ^ 15)
  let t := t * 0x2C1B3C6D % 2 ^ 32
  let t := Nat.xor t (t / 2 ^ 16)
  (lo, Nat.xor hi t)

/-- R368: the 64-bit result. -/
def rngOp (key ctr : BitVec 64) : BitVec 64 :=
  let k0 := key.toNat % 2 ^ 32
  let k1 := key.toNat / 2 ^ 32
  let (hi, lo) := (List.range 10).foldl (fun s i => rngRound k0 k1 i s) (ctr.toNat / 2 ^ 32, ctr.toNat % 2 ^ 32)
  BitVec.ofNat 64 (hi * 2 ^ 32 + lo)

/-- R368: result bits 63:40 × 2^-24 in FP32, exact. -/
def rngU01 (key ctr : BitVec 64) : BitVec 64 :=
  BitVec.ofNat 64 (roundInt .f32 0 ((rngOp key ctr).toNat / 2 ^ 40 : Nat) (-24) false).1

end Sys2Proof.Machine
end

