-- ==== Sys2Proof/Decode.lean ====
section
/-! DEFINITION. Decode.lean: from bytes to an instruction (R42 to R59, R66), total on any bytes, refusing by name, and
the encoder back. A word is 64 bits, stored little-endian; a word with S set is followed by its live mask word. -/

namespace Sys2Proof

/-- Why a word is not an instruction. Each takes the illegal-instruction trap (R56). -/
inductive Reject where
  /-- Fewer bytes than the word and its mask word take: no word is fetched. -/
  | short
  /-- An opcode, or a sub-operation that selects the form, which R66 does not assign. -/
  | opcode
  /-- Bit 0 of a pair word is 1, or the pair opcode of half X is reserved (R57, R59). -/
  | pair
  /-- A field holds a value that the form does not allow. -/
  | illFormed (i : Instr)
  deriving DecidableEq, Repr

/-- The field of width w at bit lo of a word. -/
def field (n lo w : Nat) : BitVec w := BitVec.ofNat w (n / 2 ^ lo)

/-- One bit of a word. -/
def flag (n lo : Nat) : Bool := n / 2 ^ lo % 2 == 1

/-- S, W and the guard of a full-form word (R46). -/
def hdrOf (n : Nat) (live : Option DWord) : Hdr := ⟨live, flag n 61, field n 49 4, flag n 48⟩

/-- The TRI layout (R47). -/
def triOf (n : Nat) (live : Option DWord) : Tri :=
  ⟨hdrOf n live, field n 40 8, field n 32 8, field n 24 8, field n 16 8, flag n 15, flag n 14, field n 12 2, flag n 11,
    field n 8 3, field n 0 8⟩

/-- The I32 and BR layouts (R48, R49). -/
def immOf (n : Nat) (live : Option DWord) : Imm := ⟨hdrOf n live, field n 40 8, field n 32 8, field n 0 32⟩

/-- A pair word without half X's opcode (R57). -/
def pairOf (n : Nat) (live : Option DWord) : Pair :=
  ⟨live, flag n 61, field n 47 8, field n 39 8, field n 31 8, ⟨field n 25 6, field n 17 8, field n 9 8, field n 1 8⟩⟩

/-- The forms that share an opcode, selected by SUB: `xfer` (R290), channel words (R296), `brx` (R101), `jmask`
(R142), `halt` (R367), `rng` (R368). -/
def xferForm (t : Tri) : Option Instr :=
  match t.sub.toNat with
  | 0 => some (.xferIn t)
  | 1 => some (.xferOut t)
  | 2 => some (.xfer2d t)
  | 3 => some (.xferGat t)
  | 4 => some (.xferSct t)
  | 5 => some (.xferDsp t)
  | 6 => some (.xferPeer t)
  | _ => none

@[inherit_doc xferForm] def pick2 (n : Nat) (x y : Instr) : Option Instr :=
  match n with
  | 0 => some x
  | 1 => some y
  | _ => none

@[inherit_doc xferForm] def jmaskForm (t : Tri) : Option Instr :=
  match t.sub.toNat with
  | 0 => some (.jmaskGang t)
  | 1 => some (.jmaskAdd t)
  | 2 => some (.jmaskU t)
  | _ => none

/-- The full-form opcode map (R66). -/
def fullForm (op : Nat) (t : Tri) (i : Imm) : Option Instr :=
  match op with
  | 0x01 => some (.add t)
  | 0x02 => some (.addImm i)
  | 0x03 => some (.sub t)
  | 0x04 => some (.subImm i)
  | 0x05 => some (.mul t)
  | 0x06 => some (.mulhi t)
  | 0x07 => some (.mad t)
  | 0x08 => some (.addc t)
  | 0x09 => some (.subb t)
  | 0x0A => some (.neg t)
  | 0x0B => some (.abs t)
  | 0x0C => some (.min t)
  | 0x0D => some (.max t)
  | 0x0E => some (.and t)
  | 0x0F => some (.andImm i)
  | 0x10 => some (.or t)
  | 0x11 => some (.orImm i)
  | 0x12 => some (.xor t)
  | 0x13 => some (.xorImm i)
  | 0x14 => some (.not t)
  | 0x15 => some (.andn t)
  | 0x16 => some (.shl t)
  | 0x17 => some (.shr t)
  | 0x18 => some (.sar t)
  | 0x19 => some (.rol t)
  | 0x1A => some (.clz t)
  | 0x1B => some (.ctz t)
  | 0x1C => some (.popc t)
  | 0x1D => some (.brev t)
  | 0x1E => some (.bfe t)
  | 0x1F => some (.bfi t)
  | 0x20 => some (.prmt t)
  | 0x21 => some (.sel t)
  | 0x22 => some (.cmp t)
  | 0x23 => some (.mov t)
  | 0x24 => some (.movi i)
  | 0x25 => some (.movh i)
  | 0x26 => some (.cvt t)
  | 0x27 => some (.lea t)
  | 0x40 => some (.fadd t)
  | 0x41 => some (.fsub t)
  | 0x42 => some (.fmul t)
  | 0x43 => some (.ffma t)
  | 0x44 => some (.fmin t)
  | 0x45 => some (.fmax t)
  | 0x46 => some (.fcmp t)
  | 0x47 => some (.fclass t)
  | 0x48 => some (.fcvt t)
  | 0x49 => some (.frint t)
  | 0x4A => some (.fdiv t)
  | 0x4B => some (.fsqrt t)
  | 0x4C => some (.frcp t)
  | 0x4D => some (.frsq t)
  | 0x4E => some (.fexp2 t)
  | 0x4F => some (.flog2 t)
  | 0x50 => some (.fsin t)
  | 0x51 => some (.fcos t)
  | 0x52 => some (.fscale t)
  | 0x53 => some (.fgetexp t)
  | 0x54 => some (.fcopysign t)
  | 0x55 => some (.fdot2 t)
  | 0x80 => some (.uadd t)
  | 0x81 => some (.uaddImm i)
  | 0x82 => some (.usub t)
  | 0x83 => some (.umul t)
  | 0x84 => some (.uand t)
  | 0x85 => some (.uor t)
  | 0x86 => some (.uxor t)
  | 0x87 => some (.ushl t)
  | 0x88 => some (.ushr t)
  | 0x89 => some (.usar t)
  | 0x8A => some (.umov t)
  | 0x8B => some (.umovi i)
  | 0x8C => some (.ucmp t)
  | 0x90 => some (.pand t)
  | 0x91 => some (.por t)
  | 0x92 => some (.pxor t)
  | 0x93 => some (.pnot t)
  | 0x94 => some (.pmov t)
  | 0x98 => some (.vote t)
  | 0x99 => some (.ballot t)
  | 0x9A => some (.shfl t)
  | 0x9B => some (.bcast t)
  | 0x9C => some (.redux t)
  | 0xA0 => some (.ld t)
  | 0xA1 => some (.st t)
  | 0xA2 => some (.ldp t)
  | 0xA3 => some (.stp t)
  | 0xA4 => some (.atom t)
  | 0xA5 => some (.red t)
  | 0xA6 => some (.fence t)
  | 0xA7 => some (.prs t)
  | 0xA8 => some (.barArrive t)
  | 0xA9 => some (.barWait t)
  | 0xAA => some (.barSync t)
  | 0xAB => some (.barExpect t)
  | 0xAC => some (.scopeGet t)
  | 0xAD => some (.scopeFreeze t)
  | 0xAE => some (.scopeThaw t)
  | 0xAF => some (.scopeQuery t)
  | 0xB0 => some (.bgive t)
  | 0xB1 => some (.btake t)
  | 0xB2 => some (.rgive t)
  | 0xB3 => some (.rclaim t)
  | 0xB4 => some (.rshare t)
  | 0xB5 => some (.runshare t)
  | 0xC0 => xferForm t
  | 0xC1 => pick2 t.sub.toNat (.chClaim t) (.chClaimBind t)
  | 0xC2 => some (.chCommit t)
  | 0xC3 => pick2 t.sub.toNat (.chAwait t) (.chAwaitBind t)
  | 0xC4 => some (.chRetire t)
  | 0xC5 => some (.obres t)
  | 0xC6 => some (.obrel t)
  | 0xC7 => some (.bload t)
  | 0xC8 => some (.bfree t)
  | 0xC9 => some (.mma t)
  | 0xCA => some (.mmaM t)
  | 0xCB => some (.accz t)
  | 0xCC => some (.accrd t)
  | 0xCD => some (.accwr t)
  | 0xCE => some (.accst t)
  | 0xCF => some (.accld t)
  | 0xD0 => some (.spawn i)
  | 0xD1 => some (.fref t)
  | 0xD2 => some (.fdrop t)
  | 0xD3 => some (.fget t)
  | 0xD4 => some (.fpoll t)
  | 0xD5 => some (.rpoint t)
  | 0xD6 => some (.tret t)
  | 0xE0 => some (.bra i)
  | 0xE1 => pick2 t.sub.toNat (.brx t) (.brxRel t)
  | 0xE2 => some (.call i)
  | 0xE3 => some (.callx t)
  | 0xE4 => some (.ret t)
  | 0xE5 => some (.umark i)
  | 0xE6 => some (.unwind t)
  | 0xE7 => some (.exit t)
  | 0xE8 => some (.nop t)
  | 0xE9 => some (.trap i)
  | 0xEA => some (.brk i)
  | 0xEB => some (.join t)
  | 0xEC => some (.jleave t)
  | 0xED => jmaskForm t
  | 0xEE => some (.wait t)
  | 0xF0 => some (.sysrd t)
  | 0xF1 => some (.syswr t)
  | 0xF2 => some (.eret t)
  | 0xF3 => some (.notify t)
  | 0xF4 => pick2 t.sub.toNat (.haltSave t) (.haltEnd t)
  | 0xF5 => pick2 t.var.toNat (.rng t) (.rngU01 t)
  | 0xF6 => some (.ctxDrain t)
  | 0xF7 => some (.ctxVsave t)
  | 0xF8 => some (.ctxVload t)
  | _ => none

/-- The pair opcodes of half X (R59). -/
def pairForm (po : Nat) (p : Pair) : Option Instr :=
  match po with
  | 0x00 => some (.pairNop p)
  | 0x01 => some (.pairAddN32 p)
  | 0x02 => some (.pairSubN32 p)
  | 0x03 => some (.pairMulN32 p)
  | 0x04 => some (.pairAnd p)
  | 0x05 => some (.pairOr p)
  | 0x06 => some (.pairXor p)
  | 0x07 => some (.pairAndn p)
  | 0x08 => some (.pairMinI32 p)
  | 0x09 => some (.pairMaxI32 p)
  | 0x0A => some (.pairMinN32 p)
  | 0x0B => some (.pairMaxN32 p)
  | 0x0C => some (.pairShl p)
  | 0x0D => some (.pairShr p)
  | 0x0E => some (.pairSar p)
  | 0x0F => some (.pairMov p)
  | 0x10 => some (.pairAddImm p)
  | 0x11 => some (.pairSubImm p)
  | 0x12 => some (.pairAndImm p)
  | 0x13 => some (.pairOrImm p)
  | 0x14 => some (.pairXorImm p)
  | 0x15 => some (.pairShlImm p)
  | 0x16 => some (.pairShrImm p)
  | 0x17 => some (.pairSarImm p)
  | 0x18 => some (.pairRolImm p)
  | 0x19 => some (.pairMovi p)
  | 0x20 => some (.pairFaddF32 p)
  | 0x21 => some (.pairFsubF32 p)
  | 0x22 => some (.pairFmulF32 p)
  | 0x23 => some (.pairFminF32 p)
  | 0x24 => some (.pairFmaxF32 p)
  | 0x28 => some (.pairFaddF64 p)
  | 0x29 => some (.pairFsubF64 p)
  | 0x2A => some (.pairFmulF64 p)
  | 0x2B => some (.pairFminF64 p)
  | 0x2C => some (.pairFmaxF64 p)
  | 0x30 => some (.pairAddN64 p)
  | 0x31 => some (.pairSubN64 p)
  | 0x32 => some (.pairMovN64 p)
  | 0x33 => some (.pairAddN64Imm p)
  | _ => none

/-- A form that was found, if its fields are well formed. -/
def checkForm (e : Reject) (i : Option Instr) : Except Reject Instr :=
  match i with
  | none => .error e
  | some i => if i.wf then .ok i else .error (.illFormed i)

/-- The instruction of one word and its mask word (R42, R46, R57). -/
def decodeWord (n : Nat) (live : Option DWord) : Except Reject Instr :=
  if flag n 63 then
    if flag n 0 then .error .pair else checkForm .pair (pairForm (field n 55 6).toNat (pairOf n live))
  else checkForm .opcode (fullForm (field n 53 8).toNat (triOf n live) (immOf n live))

/-- The number that bytes make, the lowest address least significant (R4). -/
def leNat : List Byte → Nat
  | [] => 0
  | b :: bs => b.toNat + 256 * leNat bs

/-- The k lowest bytes of a number, the least significant first (R4). -/
def leBytes : Nat → Nat → List Byte
  | 0, _ => []
  | k + 1, n => BitVec.ofNat 8 n :: leBytes k (n / 256)

/-- The instruction at the start of a list of bytes, and the bytes after it: a word, and its mask word when S is set
(R43). -/
def decode (bs : List Byte) : Except Reject (Instr × List Byte) :=
  if bs.length < 8 then .error .short
  else
    let n := leNat (bs.take 8)
    let rest := bs.drop 8
    if flag n 62 then
      if rest.length < 8 then .error .short
      else (decodeWord n (some (BitVec.ofNat 64 (leNat (rest.take 8))))).map (·, rest.drop 8)
    else (decodeWord n none).map (·, rest)

/-- The instruction that the decoder reads from a word whose bits are numbered from the first word's least significant
bit on, the bits above the row's zero. -/
def decodeTableWord (_nbits w : Nat) : Option Instr :=
  match decode (leBytes 16 w) with
  | .ok (i, _) => some i
  | .error _ => none

/-- The value of one bit at a place. -/
def bitNat (b : Bool) (lo : Nat) : Nat := if b then 2 ^ lo else 0

/-- Bits 63:48 but for the opcode, in a full word (R46). -/
def Hdr.bits (h : Hdr) : Nat := bitNat h.live.isSome 62 + bitNat h.w 61 + h.g.toNat * 2 ^ 49 + bitNat h.gn 48

/-- A TRI word of this opcode (R46, R47). -/
def Tri.word (t : Tri) (op : Nat) : Nat :=
  t.h.bits + op * 2 ^ 53 + t.d.toNat * 2 ^ 40 + t.a.toNat * 2 ^ 32 + t.b.toNat * 2 ^ 24 + t.c.toNat * 2 ^ 16
    + bitNat t.ra 15 + bitNat t.rb 14 + t.rm.toNat * 2 ^ 12 + bitNat t.sf 11 + t.ty.toNat * 2 ^ 8 + t.sub.toNat

/-- An I32 or BR word of this opcode (R46, R48, R49). -/
def Imm.word (i : Imm) (op : Nat) : Nat :=
  i.h.bits + op * 2 ^ 53 + i.d.toNat * 2 ^ 40 + i.a.toNat * 2 ^ 32 + i.imm.toNat

/-- A pair word whose half X has this opcode (R57). -/
def Pair.word (p : Pair) (po : Nat) : Nat :=
  2 ^ 63 + bitNat p.live.isSome 62 + bitNat p.w 61 + po * 2 ^ 55 + p.d.toNat * 2 ^ 47 + p.a.toNat * 2 ^ 39
    + p.i.toNat * 2 ^ 31 + p.y.po.toNat * 2 ^ 25 + p.y.d.toNat * 2 ^ 17 + p.y.a.toNat * 2 ^ 9 + p.y.i.toNat * 2

/-- The word of an instruction and its mask word; an event has none. -/
def encodeWord : Instr → Option (Nat × Option DWord)
  | .add t => some (t.word 0x01, t.h.live)
  | .addImm i => some (i.word 0x02, i.h.live)
  | .sub t => some (t.word 0x03, t.h.live)
  | .subImm i => some (i.word 0x04, i.h.live)
  | .mul t => some (t.word 0x05, t.h.live)
  | .mulhi t => some (t.word 0x06, t.h.live)
  | .mad t => some (t.word 0x07, t.h.live)
  | .addc t => some (t.word 0x08, t.h.live)
  | .subb t => some (t.word 0x09, t.h.live)
  | .neg t => some (t.word 0x0A, t.h.live)
  | .abs t => some (t.word 0x0B, t.h.live)
  | .min t => some (t.word 0x0C, t.h.live)
  | .max t => some (t.word 0x0D, t.h.live)
  | .and t => some (t.word 0x0E, t.h.live)
  | .andImm i => some (i.word 0x0F, i.h.live)
  | .or t => some (t.word 0x10, t.h.live)
  | .orImm i => some (i.word 0x11, i.h.live)
  | .xor t => some (t.word 0x12, t.h.live)
  | .xorImm i => some (i.word 0x13, i.h.live)
  | .not t => some (t.word 0x14, t.h.live)
  | .andn t => some (t.word 0x15, t.h.live)
  | .shl t => some (t.word 0x16, t.h.live)
  | .shr t => some (t.word 0x17, t.h.live)
  | .sar t => some (t.word 0x18, t.h.live)
  | .rol t => some (t.word 0x19, t.h.live)
  | .clz t => some (t.word 0x1A, t.h.live)
  | .ctz t => some (t.word 0x1B, t.h.live)
  | .popc t => some (t.word 0x1C, t.h.live)
  | .brev t => some (t.word 0x1D, t.h.live)
  | .bfe t => some (t.word 0x1E, t.h.live)
  | .bfi t => some (t.word 0x1F, t.h.live)
  | .prmt t => some (t.word 0x20, t.h.live)
  | .sel t => some (t.word 0x21, t.h.live)
  | .cmp t => some (t.word 0x22, t.h.live)
  | .mov t => some (t.word 0x23, t.h.live)
  | .movi i => some (i.word 0x24, i.h.live)
  | .movh i => some (i.word 0x25, i.h.live)
  | .cvt t => some (t.word 0x26, t.h.live)
  | .lea t => some (t.word 0x27, t.h.live)
  | .fadd t => some (t.word 0x40, t.h.live)
  | .fsub t => some (t.word 0x41, t.h.live)
  | .fmul t => some (t.word 0x42, t.h.live)
  | .ffma t => some (t.word 0x43, t.h.live)
  | .fmin t => some (t.word 0x44, t.h.live)
  | .fmax t => some (t.word 0x45, t.h.live)
  | .fcmp t => some (t.word 0x46, t.h.live)
  | .fclass t => some (t.word 0x47, t.h.live)
  | .fcvt t => some (t.word 0x48, t.h.live)
  | .frint t => some (t.word 0x49, t.h.live)
  | .fdiv t => some (t.word 0x4A, t.h.live)
  | .fsqrt t => some (t.word 0x4B, t.h.live)
  | .frcp t => some (t.word 0x4C, t.h.live)
  | .frsq t => some (t.word 0x4D, t.h.live)
  | .fexp2 t => some (t.word 0x4E, t.h.live)
  | .flog2 t => some (t.word 0x4F, t.h.live)
  | .fsin t => some (t.word 0x50, t.h.live)
  | .fcos t => some (t.word 0x51, t.h.live)
  | .fscale t => some (t.word 0x52, t.h.live)
  | .fgetexp t => some (t.word 0x53, t.h.live)
  | .fcopysign t => some (t.word 0x54, t.h.live)
  | .fdot2 t => some (t.word 0x55, t.h.live)
  | .uadd t => some (t.word 0x80, t.h.live)
  | .uaddImm i => some (i.word 0x81, i.h.live)
  | .usub t => some (t.word 0x82, t.h.live)
  | .umul t => some (t.word 0x83, t.h.live)
  | .uand t => some (t.word 0x84, t.h.live)
  | .uor t => some (t.word 0x85, t.h.live)
  | .uxor t => some (t.word 0x86, t.h.live)
  | .ushl t => some (t.word 0x87, t.h.live)
  | .ushr t => some (t.word 0x88, t.h.live)
  | .usar t => some (t.word 0x89, t.h.live)
  | .umov t => some (t.word 0x8A, t.h.live)
  | .umovi i => some (i.word 0x8B, i.h.live)
  | .ucmp t => some (t.word 0x8C, t.h.live)
  | .pand t => some (t.word 0x90, t.h.live)
  | .por t => some (t.word 0x91, t.h.live)
  | .pxor t => some (t.word 0x92, t.h.live)
  | .pnot t => some (t.word 0x93, t.h.live)
  | .pmov t => some (t.word 0x94, t.h.live)
  | .vote t => some (t.word 0x98, t.h.live)
  | .ballot t => some (t.word 0x99, t.h.live)
  | .shfl t => some (t.word 0x9A, t.h.live)
  | .bcast t => some (t.word 0x9B, t.h.live)
  | .redux t => some (t.word 0x9C, t.h.live)
  | .ld t => some (t.word 0xA0, t.h.live)
  | .st t => some (t.word 0xA1, t.h.live)
  | .ldp t => some (t.word 0xA2, t.h.live)
  | .stp t => some (t.word 0xA3, t.h.live)
  | .atom t => some (t.word 0xA4, t.h.live)
  | .red t => some (t.word 0xA5, t.h.live)
  | .fence t => some (t.word 0xA6, t.h.live)
  | .prs t => some (t.word 0xA7, t.h.live)
  | .barArrive t => some (t.word 0xA8, t.h.live)
  | .barWait t => some (t.word 0xA9, t.h.live)
  | .barSync t => some (t.word 0xAA, t.h.live)
  | .barExpect t => some (t.word 0xAB, t.h.live)
  | .scopeGet t => some (t.word 0xAC, t.h.live)
  | .scopeFreeze t => some (t.word 0xAD, t.h.live)
  | .scopeThaw t => some (t.word 0xAE, t.h.live)
  | .scopeQuery t => some (t.word 0xAF, t.h.live)
  | .bgive t => some (t.word 0xB0, t.h.live)
  | .btake t => some (t.word 0xB1, t.h.live)
  | .rgive t => some (t.word 0xB2, t.h.live)
  | .rclaim t => some (t.word 0xB3, t.h.live)
  | .rshare t => some (t.word 0xB4, t.h.live)
  | .runshare t => some (t.word 0xB5, t.h.live)
  | .xferIn t => some (t.word 0xC0, t.h.live)
  | .xferOut t => some (t.word 0xC0, t.h.live)
  | .xfer2d t => some (t.word 0xC0, t.h.live)
  | .xferGat t => some (t.word 0xC0, t.h.live)
  | .xferSct t => some (t.word 0xC0, t.h.live)
  | .xferDsp t => some (t.word 0xC0, t.h.live)
  | .xferPeer t => some (t.word 0xC0, t.h.live)
  | .chClaimBind t => some (t.word 0xC1, t.h.live)
  | .chClaim t => some (t.word 0xC1, t.h.live)
  | .chCommit t => some (t.word 0xC2, t.h.live)
  | .chAwaitBind t => some (t.word 0xC3, t.h.live)
  | .chAwait t => some (t.word 0xC3, t.h.live)
  | .chRetire t => some (t.word 0xC4, t.h.live)
  | .obres t => some (t.word 0xC5, t.h.live)
  | .obrel t => some (t.word 0xC6, t.h.live)
  | .bload t => some (t.word 0xC7, t.h.live)
  | .bfree t => some (t.word 0xC8, t.h.live)
  | .mma t => some (t.word 0xC9, t.h.live)
  | .mmaM t => some (t.word 0xCA, t.h.live)
  | .accz t => some (t.word 0xCB, t.h.live)
  | .accrd t => some (t.word 0xCC, t.h.live)
  | .accwr t => some (t.word 0xCD, t.h.live)
  | .accst t => some (t.word 0xCE, t.h.live)
  | .accld t => some (t.word 0xCF, t.h.live)
  | .spawn i => some (i.word 0xD0, i.h.live)
  | .fref t => some (t.word 0xD1, t.h.live)
  | .fdrop t => some (t.word 0xD2, t.h.live)
  | .fget t => some (t.word 0xD3, t.h.live)
  | .fpoll t => some (t.word 0xD4, t.h.live)
  | .rpoint t => some (t.word 0xD5, t.h.live)
  | .tret t => some (t.word 0xD6, t.h.live)
  | .bra i => some (i.word 0xE0, i.h.live)
  | .brx t => some (t.word 0xE1, t.h.live)
  | .brxRel t => some (t.word 0xE1, t.h.live)
  | .call i => some (i.word 0xE2, i.h.live)
  | .callx t => some (t.word 0xE3, t.h.live)
  | .ret t => some (t.word 0xE4, t.h.live)
  | .umark i => some (i.word 0xE5, i.h.live)
  | .unwind t => some (t.word 0xE6, t.h.live)
  | .exit t => some (t.word 0xE7, t.h.live)
  | .nop t => some (t.word 0xE8, t.h.live)
  | .trap i => some (i.word 0xE9, i.h.live)
  | .brk i => some (i.word 0xEA, i.h.live)
  | .join t => some (t.word 0xEB, t.h.live)
  | .jleave t => some (t.word 0xEC, t.h.live)
  | .jmaskGang t => some (t.word 0xED, t.h.live)
  | .jmaskAdd t => some (t.word 0xED, t.h.live)
  | .jmaskU t => some (t.word 0xED, t.h.live)
  | .wait t => some (t.word 0xEE, t.h.live)
  | .sysrd t => some (t.word 0xF0, t.h.live)
  | .syswr t => some (t.word 0xF1, t.h.live)
  | .eret t => some (t.word 0xF2, t.h.live)
  | .notify t => some (t.word 0xF3, t.h.live)
  | .haltSave t => some (t.word 0xF4, t.h.live)
  | .haltEnd t => some (t.word 0xF4, t.h.live)
  | .rng t => some (t.word 0xF5, t.h.live)
  | .rngU01 t => some (t.word 0xF5, t.h.live)
  | .ctxDrain t => some (t.word 0xF6, t.h.live)
  | .ctxVsave t => some (t.word 0xF7, t.h.live)
  | .ctxVload t => some (t.word 0xF8, t.h.live)
  | .pairNop p => some (p.word 0x00, p.live)
  | .pairAddN32 p => some (p.word 0x01, p.live)
  | .pairSubN32 p => some (p.word 0x02, p.live)
  | .pairMulN32 p => some (p.word 0x03, p.live)
  | .pairAnd p => some (p.word 0x04, p.live)
  | .pairOr p => some (p.word 0x05, p.live)
  | .pairXor p => some (p.word 0x06, p.live)
  | .pairAndn p => some (p.word 0x07, p.live)
  | .pairMinI32 p => some (p.word 0x08, p.live)
  | .pairMaxI32 p => some (p.word 0x09, p.live)
  | .pairMinN32 p => some (p.word 0x0A, p.live)
  | .pairMaxN32 p => some (p.word 0x0B, p.live)
  | .pairShl p => some (p.word 0x0C, p.live)
  | .pairShr p => some (p.word 0x0D, p.live)
  | .pairSar p => some (p.word 0x0E, p.live)
  | .pairMov p => some (p.word 0x0F, p.live)
  | .pairAddImm p => some (p.word 0x10, p.live)
  | .pairSubImm p => some (p.word 0x11, p.live)
  | .pairAndImm p => some (p.word 0x12, p.live)
  | .pairOrImm p => some (p.word 0x13, p.live)
  | .pairXorImm p => some (p.word 0x14, p.live)
  | .pairShlImm p => some (p.word 0x15, p.live)
  | .pairShrImm p => some (p.word 0x16, p.live)
  | .pairSarImm p => some (p.word 0x17, p.live)
  | .pairRolImm p => some (p.word 0x18, p.live)
  | .pairMovi p => some (p.word 0x19, p.live)
  | .pairFaddF32 p => some (p.word 0x20, p.live)
  | .pairFsubF32 p => some (p.word 0x21, p.live)
  | .pairFmulF32 p => some (p.word 0x22, p.live)
  | .pairFminF32 p => some (p.word 0x23, p.live)
  | .pairFmaxF32 p => some (p.word 0x24, p.live)
  | .pairFaddF64 p => some (p.word 0x28, p.live)
  | .pairFsubF64 p => some (p.word 0x29, p.live)
  | .pairFmulF64 p => some (p.word 0x2A, p.live)
  | .pairFminF64 p => some (p.word 0x2B, p.live)
  | .pairFmaxF64 p => some (p.word 0x2C, p.live)
  | .pairAddN64 p => some (p.word 0x30, p.live)
  | .pairSubN64 p => some (p.word 0x31, p.live)
  | .pairMovN64 p => some (p.word 0x32, p.live)
  | .pairAddN64Imm p => some (p.word 0x33, p.live)
  | .btakeResume _ _ => none
  | .rclaimGrant _ => none
  | .runshareResume _ _ => none
  | .sharedCellWake _ _ => none
  | .channelClaimResume _ => none
  | .channelAwaitResume _ => none
  | .matrixWordPerform _ => none
  | .fgetResume _ _ => none
  | .taskFutureComplete _ _ => none
  | .joinRelease _ _ => none
  | .waitRelease _ _ => none
  | .waitTimeout _ _ => none
  | .barrierWaiterRelease _ _ => none
  | .notifyEntryWrite _ => none
  | .ctxDrainComplete _ _ => none
  | .longResultDelivery _ _ => none
  | .effectiveLevelRise _ => none
  | .trapEntry _ => none
  | .safePointTrap _ => none
  | .forcedSave _ => none
  | .storageRelease _ => none
  | .frameRequestServe _ => none
  | .umbraSpillRound _ => none
  | .scratchpadBankWake _ _ => none
  | .loadPresenceResume _ _ => none
  | .memoryAccessPerform _ _ => none
  | .gnomonRmwPerform _ _ _ => none
  | .launchQueueDoorbell _ _ _ => none
  | .launchRecord => none
  | .restoreRecord => none
  | .blockPlacement _ => none
  | .gridCompletion _ => none
  | .binTimerExpiry _ _ => none
  | .binSpaceResume _ _ => none
  | .waveLaunch _ => none
  | .taskArgumentRead _ _ => none
  | .parallaxIntervalEnd => none
  | .regroupCommit _ _ => none
  | .futureRecordWaitResume _ _ => none
  | .copyQueueRoomResume _ _ => none
  | .matrixQueueRoomResume _ _ => none
  | .pageTableWalk _ _ => none
  | .copyChunkStart _ => none
  | .copyChunkLanding _ _ => none
  | .copyCompletion _ => none
  | .doomedCopyStop _ => none
  | .taskReclamation _ => none
  | .faultQueueEntryWrite _ => none
  | .fqresumeRetry _ _ => none
  | .fqresumeAccessError _ _ => none
  | .fqresumeUnserviceable _ _ => none
  | .fqresumeIgnored _ _ => none
  | .fqheadWrite _ _ => none
  | .cqheadWrite _ _ => none
  | .elheadWrite _ _ => none
  | .ellostRead _ => none
  | .tlbinvRange _ _ => none
  | .tlbinvAll _ => none
  | .tlbInvalidationDone _ => none
  | .futareaWrite _ _ => none
  | .preqRequest _ _ => none
  | .preqWithdraw _ _ => none
  | .qclassWrite _ _ => none
  | .classChangeEffect _ => none
  | .energyAccumulate _ _ => none
  | .energyReadLatch _ => none
  | .thermalTripChange _ _ => none
  | .registerWrite _ _ _ _ _ => none
  | .hostBar4Access _ _ _ _ => none
  | .hostAtomicop _ _ _ _ _ => none
  | .msixPendingSend _ _ => none
  | .limiterStep _ => none
  | .mmaPassEnd _ => none
  | .mmaMPassFetch _ => none
  | .droopDetected _ _ => none
  | .hbmPinGroupMark _ _ => none
  | .ringPacketInject _ _ _ => none
  | .ringHop _ _ => none
  | .ringDelivery _ _ => none
  | .cxlViralOrLinkLoss _ _ => none
  | .cxlErrorResponse _ _ _ => none
  | .pcieErrorCompletion _ _ => none
  | .peerLinkError _ => none
  | .packageReset => none
  | .bootRomVerify => none
  | .hbmTraining _ => none
  | .linkTraining _ => none
  | .cxlEnumeration _ => none
  | .bringUpReady => none
  | .bootstatRetry => none
  | .flashWindowWrite _ _ => none
  | .getVersion _ => none
  | .getCapabilities _ => none
  | .negotiateAlgorithms _ => none
  | .getDigests _ => none
  | .getCertificate _ => none
  | .challenge _ => none
  | .getMeasurements _ => none
  | .spdmUnsupportedRequest _ => none
  | .regroupCommitEnd _ => none
  | .peerAccessReceived _ _ _ _ _ _ => none
  | .scratchpadBankGate _ _ _ => none
  | .configurationRequest _ _ _ => none
  | .registerRead _ _ _ _ => none

/-- The bytes of an instruction as they lie in memory (R4, R43); none for an event. -/
def encode (i : Instr) : List Byte :=
  match encodeWord i with
  | none => []
  | some (n, none) => leBytes 8 n
  | some (n, some m) => leBytes 8 n ++ leBytes 8 m.toNat

end Sys2Proof
end

