-- ==== Sys2Proof/Config.lean ====
section
/-! DEFINITION. Config.lean: the free values. What the spec leaves open, and after which the machine goes on, is one
of these constants: each has no body, so nothing can be proved of its value, and a theorem holds whatever it is. -/

namespace Sys2Proof.Config

/-- The choices the spec leaves open, one per draw, numbered by the counter `fresh` of the state: whether a word that
reads the destination of an outstanding long operation sees the old or the new value (R61), which of two values a
contested destination holds (R61), which lane's byte a store word leaves (R218), whether a register that was not live
across a save holds its previous value or zero (R65). Log entry 1. -/
opaque freeBit : Nat → Bool

/-- How long a doom notice takes, per draw, as a number whose remainder modulo 257 is the delay in cycles (R257, R260).
Log entry 1. -/
opaque freeDelay : Nat → Nat

/-- A value that the spec does not state, per draw: what TADDR holds after a trap for which no rule names an address
(R333). Log entry 1. -/
opaque freeWord : Nat → DWord

/-- The channel of its stack that holds a line of HBM, and the bits 15:8 in which an error-log entry names a stack and a
channel (R347): the spec does not say how many channels a stack has, nor how the bits are shared. Log entry 23. -/
opaque hbmChannel : (line : Nat) → Nat
@[inherit_doc hbmChannel] opaque channelCode : (stack channel : Nat) → Byte

/-- The signature check of firmware (R419) and the signature the device makes (R421): SLH-DSA-SHA2-128s (FIPS 205),
which the spec names and does not lay down. Log entry 2. -/
opaque slhVerify : (key : List Byte) → (message signature : List Byte) → Bool

/-- The device's signature over a message (R421). Log entry 2. -/
opaque slhSign : (message : List Byte) → List Byte

/-- The certificate chain of slot 0, from the Nolgen root to the device identity key (R421). Log entry 2. -/
opaque certChain : List Byte

/-- The boot ROM's image, as measurement 1 digests it (R421). Log entry 2. -/
opaque bootRom : List Byte

/-- The requester nonces and responder nonces of SPDM, by draw (R421). Log entry 2. -/
opaque nonce : Nat → List Byte

/-- What a byte of flash reads as once its block has been erased (R419). Log entry 2. -/
opaque erasedByte : Byte

/-- Numbers of the SPDM responder that the spec leaves to the implementation (R421): 0 CTExponent, 1 DataTransferSize,
2 MaxSPDMmsgSize, 3 the algorithm identifier of SLH-DSA-SHA2-128s. Log entry 2. -/
opaque spdmNumber : Nat → BitVec 32

end Sys2Proof.Config
end

