-- ==== Sys2Proof/Machine/State.lean ====
section
/-! DEFINITION. Machine/State.lean: the state of one NG-DB4-M module as plain data. Every piece of state that a
rule of the spec names has its field here, with the rule in its docstring; a field marked MODEL'S OWN is not the
spec's but serves to name which agent moves next or to hold a free choice. Collections are sparse tables: a list of
numbers and records, in which a number that is not listed reads as the collection's default. -/

namespace Sys2Proof.Machine

/-- A sparse table, keyed by a number. A key that is not listed reads as the default of the collection. -/
abbrev Table (α : Type) := List (Nat × α)

/-- Why a run stops. No meaning of this model raises one: every word and every event of the table answers a next
state, and an event that cannot happen in a state leaves it as it is. -/
inductive Fault where
  /-- Raised by nothing; safe, since a run that stops proves nothing of the machine. -/
  | unreachable
  deriving DecidableEq, Repr

/-- Why the model gives an instruction no meaning. -/
inductive Refusal where
  /-- Raised by an arm of the dispatcher that has no meaning yet; safe. -/
  | notModelled (mnemonic : String)
  deriving DecidableEq, Repr

/-- One register cell: its bits and whether it is poisoned (R348). -/
structure Cell where
  val : Word := 0
  bad : Bool := false
  deriving DecidableEq, Repr

/-- A mark of a frame: resume address and serial (R106). -/
structure Mark where
  resume : DWord
  ser : BitVec 8
  deriving DecidableEq, Repr

/-- One frame of one lane (R15, R16). The registers of a frame other than its window lie in `regs`; v0 to v7 of a
called frame are the caller's `win` to `win` + 7. -/
structure Frame where
  g : Nat := 1
  win : Nat := 0
  ret : DWord := 0
  mark : Option Mark := none
  regs : Table Cell := []
  /-- The slice-frame that holds this lane's fresh granules (R171). -/
  sf : Nat := 0
  deriving DecidableEq, Repr

/-- The fresh granules of one frame in one slice (R171), and whether their image lies in the spill stack (R173). -/
structure SliceFrame where
  depth : Nat
  slice : Nat
  lanes : List Nat
  granules : Nat
  spilled : Bool := false
  /-- Slice-granules in the spilled image. -/
  image : Nat := 0
  deriving DecidableEq, Repr

/-- What must have performed before something else may: accesses by warp and number, and off-chip atomics by warp and
copy. An entry whose access has performed no longer counts. -/
abbrev Waits := List (Nat × Nat)

/-- A scoped event of a thread (R192): its place in the order of issue, its scope, and for a cluster scope the member cores
of its instance. -/
structure Point where
  warp : Nat := 0
  lane : Nat := 0
  seq : Nat := 0
  scope : Nat := 0
  cores : List Nat := []
  deriving DecidableEq, Repr

/-- A release whose thread's earlier accesses have not all performed (R198): where it was made, the bytes whose values
carry it, none for an sc fence, and those accesses. -/
structure Rel where
  point : Point
  key : Nat := 0
  size : Nat := 0
  waits : Waits
  deriving DecidableEq, Repr

/-- Something that a lane has accepted (R198): its accesses from this number on perform after what it waits for. -/
structure Sync where
  lane : Nat
  seq : Nat := 0
  waits : Waits
  deriving DecidableEq, Repr

/-- The barriers of the five scopes (R152, R230): scope code, barrier number and the owner's number (warp, block,
cluster, interface and die, or interface). -/
structure BarName where
  scope : Nat
  owner : Nat
  num : Nat
  deriving DecidableEq, Repr

/-- The state of one barrier (R152, R230). ARR is the length of `arrived`; MEM is the number of unended members, which
R121 keeps it equal to. -/
structure Bar where
  /-- The member threads that have arrived in the current generation. -/
  arrived : List Nat := []
  gen : BitVec 16 := 0
  pend : Nat := 0
  /-- A generation of a cluster, die or device barrier is open (R230). -/
  opened : Bool := false
  /-- The members of the open generation of a cluster, die or device barrier, as fixed when it opened (R230). -/
  members : List Nat := []
  /-- The grid that opened a die or device generation (R230). -/
  owner : Nat := 0
  /-- The cores of the threads that have arrived in this generation of a cluster barrier, ended ones included (R186). -/
  came : List Nat := []
  /-- What the arrivals and landings of a generation release and has not performed yet (R155, R198). -/
  waits : List (BitVec 16 × Waits) := []
  deriving DecidableEq, Repr

/-- One condition of a `wait`, with its operands as they stood at issue (R150). -/
inductive WaitCond where
  | future (handle : Word)
  | chanCommitted (chan n : Nat)
  | chanFree (chan n : Nat)
  | barrier (bar : BarName) (token : BitVec 16)
  | present (line : Nat)
  | full (reg : Nat)
  deriving DecidableEq, Repr

/-- What a lane is parked at (R117). -/
inductive Park where
  | no
  /-- At the join word at this address, on this mask (R120). -/
  | join (word : DWord) (k : Nat)
  /-- At a barrier, until its generation is no longer this one (R154); `sync` when the lane has arrived itself. -/
  | barrier (bar : BarName) (token : BitVec 16) (sync : Bool)
  /-- At `wait`: conditions, all or any, deadline in REFTICK, destination, a poisoned operand (R149, R151). -/
  | wait (conds : List WaitCond) (all : Bool) (deadline : Option Nat) (dst : Nat) (bad : Bool)
  /-- At `fget` on a handle: destination pair, predicate and the long operation that will deliver (R320). -/
  | fget (handle : Word) (dst pred op : Nat)
  /-- At a load, `ldp` or atomic, for the accesses of the word of this number that wait for a line, a bank or a
  segment. -/
  | access (word : Nat)
  /-- At a word that reads an empty shared cell or writes a full one: the word is issued again (R159). -/
  | cell (read : Bool) (reg : Nat)
  /-- With its gang, at the request of this number in the warp (R117). -/
  | gang (req : Nat)
  /-- A launching task at its argument record (R317). -/
  | argument
  /-- At a word that takes this trap of R337 once the warp's system code returns. -/
  | denied (cause : BitVec 8) (addr : DWord)
  /-- As a save area gave it back (R370): arrived, deadline and token. The park is that of the word at the TPC. -/
  | restored (arrived : Bool) (deadline : Option Nat) (token : BitVec 16)
  deriving DecidableEq, Repr

/-- One lane of a warp: one thread (R115, R116). -/
structure Lane where
  /-- The thread is unended. -/
  alive : Bool := false
  pc : DWord := 0
  /-- Top frame first (R18). -/
  frames : List Frame := []
  /-- The frames that a saved lane keeps in its warp's spill stack, top first, the current one without registers
  (R370). -/
  stack : List Frame := []
  /-- p0 to p14; bit 15 is not used (R13). -/
  preds : BitVec 16 := 0
  /-- Poisoned predicates (R348). -/
  pbad : BitVec 16 := 0
  /-- The core cycle since which the thread is ready (R118). -/
  since : Nat := 0
  park : Park := .no
  /-- Where a parked lane goes on when its park ends. -/
  next : DWord := 0
  /-- Held at a safe point (R342). -/
  held : Bool := false
  heldMask : DWord := 0
  tpc : DWord := 0
  /-- The park that trap entry recorded for this lane (R333, R370), and where and how the lane goes on when it ends. -/
  parkRec : Park := .no
  nextRec : DWord := 0
  heldRec : DWord := 0
  /-- The lane was held at a safe point when trap entry took it (R370). -/
  wasHeld : Bool := false
  /-- PROT: this lane shadows the lane below it (R351). -/
  shadow : Bool := false
  /-- The future record of the lane's task (R242), by its number in `futs`. -/
  task : Option Nat := none
  /-- The address of the task's argument record (R317). -/
  arg : Word := 0
  /-- The running digest of the thread's stores, atomics and reductions under PROT (R355). -/
  digest : DWord := 0
  /-- Contributions this thread has made to a leaf (R354): the next sequence number. -/
  leaf : Nat := 0
  deriving DecidableEq, Repr

/-- A destination of a long operation: a vector register or predicate of a lane, or a uniform register. -/
inductive Target where
  | vec (lane reg : Nat)
  | pred (lane p : Nat)
  | uni (reg : Nat)
  deriving DecidableEq, Repr

/-- One destination of an outstanding long operation (R60, R61). -/
structure Dest where
  tgt : Target
  /-- The new value, once it is known. -/
  val : Option Cell := none
  /-- A later word, or another long operation, has written the destination (R61). -/
  contested : Bool := false
  deriving DecidableEq, Repr

/-- An outstanding long operation of a warp (R60). -/
structure LongOp where
  dests : List Dest
  /-- FPSTAT bits that it raises when it delivers (R61). -/
  flags : BitVec 5 := 0
  /-- Completions it waits for that write no register: the events of `accst` and `accld` (R314). -/
  waits : Nat := 0
  deriving DecidableEq, Repr

/-- What an atomic does (R221). -/
structure AtomOp where
  op : Nat
  ty : BitVec 3
  rm : BitVec 2
  /-- Operand, or compare value. -/
  x : BitVec 64
  /-- New value of `.cas`. -/
  y : BitVec 64 := 0
  ret : Bool
  deriving DecidableEq, Repr

/-- The storages of the machine (R164). -/
inductive Space where
  | dsp | blk | clp | stk
  deriving DecidableEq, Repr

/-- What an access does when it performs. -/
inductive AccessKind where
  | load (signed : Bool) (reg op : Nat)
  | store (data : BitVec 64) (bad : Bool)
  | rmw (a : AtomOp) (reg op : Nat)
  | presence (p op : Nat)
  /-- The acquiring side of a Fence event (R198, R227); `sc` when it takes part in S (R199). -/
  | fence (sc : Bool)
  deriving DecidableEq, Repr

/-- A memory access of one thread that has issued and has not performed (R190, R387): one event. -/
structure Access where
  /-- Program order among the warp's accesses. -/
  seq : Nat
  lane : Nat
  /-- The key in `mem` of its first byte. -/
  key : Nat
  space : Space
  ea : Word
  size : Nat
  kind : AccessKind
  acq : Bool := false
  rel : Bool := false
  scope : Nat := 0
  /-- The member cores of its instance, for a cluster scope (R192). -/
  cores : List Nat := []
  /-- The word it came from, so that the lanes of one word are one group (R218, R222). -/
  word : Nat := 0
  /-- The lane is parked for it. -/
  parked : Bool := false
  /-- A load or an atomic that found a line of it absent, which has not been present since (R176). -/
  held : Bool := false
  deriving DecidableEq, Repr

/-- A trap that a word has taken and that trap entry has yet to enter (R333). -/
structure Trap where
  cause : BitVec 8
  addr : DWord
  mask : BitVec 32
  /-- TPC of the lanes in the mask; none when it is the address of their next word. -/
  tpc : Option DWord
  deriving DecidableEq, Repr

/-- One side of a copy (R292): a storage and where its bytes lie. -/
inductive Side where
  /-- Contiguous on-chip bytes from this key. -/
  | chip (key : Nat)
  /-- Off-chip rows from a virtual address. -/
  | rows (va row stride : Nat)
  /-- Off-chip elements. -/
  | elems (size : Nat) (vas : List Nat)
  /-- Memory of the peer that this entry names. -/
  | peer (entry va : Nat)
  deriving DecidableEq, Repr

/-- How far the delta scale stream of a fill has been read (R274, R295): nibbles, the last scale, and whether the run is
poisoned. -/
structure Delta where
  pos : Nat := 0
  prev : Int := 0
  bad : Bool := false
  deriving DecidableEq, Repr

/-- The scale part of a fill (R295). -/
structure Fill where
  resv : Nat
  off : Nat
  /-- Where the scale stream lies: an on-chip key, or a virtual address. -/
  scaleKey : Option Nat := none
  scaleVa : Nat := 0
  /-- The extent of the stream in bytes. -/
  scaleBytes : Nat := 0
  first : Nat := 0
  blocks : Nat := 0
  delta : Delta := {}
  deriving DecidableEq, Repr

/-- A chunk of a copy in flight: its number, its bytes as they were read with their poison, and where they land, as
keys and counts (R253). -/
structure Flight where
  chunk : Nat
  bytes : List Byte
  bad : List Bool
  dst : List (Nat × Nat) := []
  /-- The scales that a fill writes with the chunk, with their poison (R274, R295). -/
  scales : List (Byte × Bool) := []
  /-- The dies whose CXL port the chunk uses (R403). -/
  ports : List Nat := []
  deriving DecidableEq, Repr

/-- A copy, or an atomic on `.mem`, in a copy queue (R250). -/
structure Copy where
  core : Nat
  queue : Nat
  seq : Nat
  vi : Nat
  grid : Nat
  block : Nat
  warp : Nat
  lanes : BitVec 32
  src : Side
  dst : Side
  total : Nat
  fill : Option Fill := none
  next : Nat := 0
  flying : List Flight := []
  landed : List Nat := []
  fut : Nat := 0
  bar : Option BarName := none
  /-- The word's address. -/
  pc : DWord := 0
  /-- The chunk whose translation faulted, and the tokens of its unanswered entries, one to a page (R254, R339). -/
  faults : List (Nat × Nat) := []
  /-- 0, or the completion code of a copy that ends early (R254). -/
  code : Nat := 0
  /-- Its unlanded lines are present and its unlanded bytes have left PEND (R254). -/
  cut : Bool := false
  doomed : Bool := false
  /-- The lanes of a `.mem` atomic: lane, physical key, operation, destination and its long operation (R224). -/
  atoms : List (Nat × Nat × AtomOp × Nat × Nat) := []
  /-- What the strength of a `.mem` atomic asks for, with its scope and its instance (R191, R220). -/
  acq : Bool := false
  rel : Bool := false
  scope : Nat := 0
  cores : List Nat := []
  /-- What the issuing lanes had issued before it that has not performed (R197, R200). -/
  waits : Waits := []
  deriving DecidableEq, Repr

/-- A task placed in a bin or waiting for one (R137). -/
structure TaskRec where
  fut : Nat
  arg : Word
  /-- What the spawning lane had issued before that has not performed (R197). -/
  waits : Waits := []
  deriving DecidableEq, Repr

/-- A reservation of the operand buffer (R277, R301). -/
structure Resv where
  block : Nat
  fmt : Nat
  mx : Bool
  slay : Nat
  ord : Bool
  soff : Nat
  len : Nat
  base : Nat
  /-- Ended for later words (R302). -/
  ended : Bool := false
  /-- Its units have returned to the core. -/
  freed : Bool := false
  /-- Its BASE in the save area of its block (R373). -/
  saved : Option Nat := none
  deriving DecidableEq, Repr

/-- What a B slot records once its `bload` has performed (R303). -/
structure BSlot where
  fmt : Nat
  mx : Bool := false
  e8m0 : Bool := false
  rows : Nat := 0
  deriving DecidableEq, Repr

/-- Where an `mma.m` streams A from (R308). -/
structure Stream where
  va : Nat
  stride : Nat
  sva : Nat
  sstride : Nat
  /-- The pass whose elements and scales lie in the staging reservation. -/
  staged : Option Nat := none
  deriving DecidableEq, Repr

/-- A matrix multiplication (R305 to R309). -/
structure Mma where
  fut : Nat
  tile : Nat
  resv : Nat
  slot : Nat
  k : Nat
  fmt : Nat
  /-- What the slot groups record, in the order of the passes, as the word found them at issue (R299). -/
  groups : List BSlot
  stream : Option Stream := none
  /-- Passes that have ended with their results kept. -/
  passes : Nat := 0
  started : Bool := false
  /-- Steps for which it has been passed over as a head (R269). -/
  passed : Nat := 0
  /-- The tokens of the unanswered entries of its faulting pages (R309, R339). -/
  faults : List Nat := []
  code : Nat := 0
  /-- Its results can no longer be kept (R286). -/
  dead : Bool := false
  flags : BitVec 5 := 0
  deriving DecidableEq, Repr

/-- What a matrix word does when it performs (R299). -/
inductive MOp where
  | obrel (resv : Nat)
  | bload (resv slot n : Nat)
  | bfree (slot n : Nat)
  | mma (m : Mma)
  | accz (tile tag : Nat)
  | accrd (tile tag row : Nat) (ty : BitVec 3) (rm : BitVec 2) (sf : Bool) (dst op : Nat)
  | accwr (tile tag row : Nat) (cells : List (Nat × BitVec 64)) (flags : BitVec 5)
  | accst (tile tag key : Nat) (op : Nat)
  | accld (tile tag key : Nat) (op : Nat)
  deriving DecidableEq, Repr

/-- A matrix word in the queue of its scheduler (R269), by its number, which is its issue order in the core. -/
structure MWord where
  warp : Nat
  block : Nat
  core : Nat
  q : Nat
  lanes : BitVec 32
  op : MOp
  /-- What the issuing lanes had issued before it that has not performed (R195, R197). -/
  waits : Waits := []
  deriving DecidableEq, Repr

/-- What a gang is parked for (R117), with what it read at issue (R289). -/
inductive Req where
  /-- A frame request: callee granules, window, targets by lane (call, callx). -/
  | call (g win : Nat) (targets : List (Nat × DWord)) (ret : DWord)
  /-- A refill for `ret` or `unwind` (R174): each lane's destination depth and target. -/
  | refill (dest : List (Nat × Nat × DWord))
  | spawn (entry : DWord) (todo : List (Nat × Nat × Word)) (dst : Nat) (done : List (Nat × Word))
  | rclaim (n : Nat)
  | runshare (share : Nat)
  | btake (win : Nat) (handle : Word)
  | chClaim (chan k dst op : Nat)
  | chAwait (chan k dst op : Nat)
  | obres (dst : Nat) (r : Resv)
  | copyRoom (c : Copy) (dst : Nat)
  | matrixRoom (m : MWord) (dst : Nat)
  | record
  | drain (dst : Nat)
  | ctx (load : Bool) (cls : Nat) (base : Nat) (mask : Word)
  | eret
  | commit
  /-- An instruction fetch, mask fetch, landing check or `.mem` atomic at replayable faults with these tokens, one to a
  page. -/
  | fetch (tokens : List Nat)
  deriving DecidableEq, Repr

/-- A parked gang. -/
structure Gang where
  lanes : BitVec 32
  req : Req
  /-- The word that parked, issued again when it has not been performed. -/
  word : DWord
  /-- The core cycle in which it parked. -/
  since : Nat
  /-- The vector registers that its word reads and whose shared cells it empties as it goes on (R159). -/
  reads : List Nat := []
  deriving DecidableEq, Repr

/-- A binding of an accumulator handle (R310). -/
structure AccBind where
  tile : Nat
  tag : Nat
  deriving DecidableEq, Repr

/-- One warp (R115), by its unique number in `warps`. -/
structure Warp where
  core : Nat
  slot : Nat
  grid : Nat
  vi : Nat
  block : Nat
  wib : Nat := 0
  wave : Bool := false
  bix : Word := 0
  role : BitVec 8 := 0
  prio : Nat := 0
  level : Nat := 0
  /-- Consecutive cycles as a candidate without being chosen (R134). -/
  aged : Nat := 0
  lanes : Table Lane
  /-- s0 to s63. -/
  s : Table Cell := []
  m : Table Word := []
  /-- Valid tile handles and their reservations. -/
  t : Table Nat := []
  a : Table AccBind := []
  /-- Bound channel handles and their channels. -/
  c : Table Nat := []
  fpstat : Word := 0
  cur : Bool := false
  prev : Bool := false
  tcause : Word := 0
  taddr : DWord := 0
  tmask : Word := 0
  tlive : DWord := 0
  kscr : Table Word := []
  energyHi : Word := 0
  markSer : BitVec 8 := 0
  freeze : Nat := 0
  freezeCid : Nat := 0
  slices : Table SliceFrame := []
  longs : Table LongOp := []
  accs : Table Access := []
  /-- What lanes have accepted from others (R198). -/
  syncs : List Sync := []
  /-- Unfinished releases that a lane's reads have taken their values from, by lane (R198). -/
  seen : List (Nat × Rel) := []
  /-- Release fences of the warp's lanes whose earlier accesses have not all performed (R198). -/
  fences : List Rel := []
  gangs : Table Gang := []
  /-- Results of long operations that have arrived and that the lanes of a deterministic grid do not see before their next
  W (R61, R356): the operation, the destination and the value. -/
  late : List (Nat × Target × Cell) := []
  /-- Parked by a switch marker (R60), which these lanes issued. -/
  stall : Bool := false
  stallLanes : BitVec 32 := 0
  /-- Parked at a word that waits for the warp's long operations and is then issued (R62), or for those of parked lanes
  too (R30). -/
  waitLong : Bool := false
  waitAll : Bool := false
  trap : Option Trap := none
  saved : Bool := false
  forced : Bool := false
  /-- Restored, its block record not loaded yet (R365). -/
  restoring : Bool := false
  /-- Tasks whose `tret` or `exit` waits for its stores (R322): record, lane and value. -/
  ending : List (Nat × Nat × DWord) := []
  /-- The notification that waits for the warp's stores (R366): its place in the order of issue, its vector and its value. The
  warp issues no further word before it is written. -/
  notes : List (Nat × Nat × Word) := []
  /-- References held (R246): the record and the lanes that own it; a single lane for a thread reference. -/
  refs : List (Nat × Bool × BitVec 32) := []
  deriving DecidableEq, Repr

/-- A share of register granules between two warps of a block (R158). -/
structure Share where
  exporter : Nat
  importer : Nat
  first : Nat
  n : Nat
  gi : Nat
  startedFull : Bool := false
  /-- Cells by lane × 256 + register offset within the share. -/
  cells : Table Cell := []
  full : List Nat := []
  /-- What the writes that filled cells release, by cell (R198). -/
  waits : List (Nat × Waits) := []
  deriving DecidableEq, Repr

/-- A buffer given away (R178): its handle and its holder. -/
structure Buffer where
  handle : Word
  /-- The block that holds it, or none while it is pending to `core`. -/
  holder : Option Nat
  core : Nat
  home : Nat
  /-- What its `bgive` releases (R198). -/
  waits : Waits := []
  deriving DecidableEq, Repr

/-- What operations in FAULT pinned of a block's storage when the rest of it was released (R345): ranges of block shared
memory, accumulator tiles by the block's index, reservations and B slots. -/
structure Pins where
  lines : List (Nat × Nat) := []
  tiles : List Nat := []
  resvs : List Nat := []
  slots : List Nat := []
  deriving DecidableEq, Repr

/-- One block, by its unique number in `blocks` (R115, R128). -/
structure Block where
  grid : Nat
  vi : Nat
  bix : Nat
  core : Nat
  cid : Nat
  /-- MODEL'S OWN: the serial of its cluster. -/
  serial : Nat := 0
  warps : List Nat
  /-- The spill area under which it was placed, as first byte and end (R166). -/
  area : Nat × Nat := (0, 0)
  /-- First 4 KiB unit and the size in KiB of its block shared memory. -/
  unit : Nat := 0
  bshm : Nat := 0
  /-- Physical accumulator tiles, by the block's tile index. -/
  tiles : List Nat := []
  windows : Table Word := []
  exchange : Nat := 0
  shares : Table Share := []
  saveptr : Word := 0
  /-- Bytes of `.stk` of each warp (R166). -/
  stk : Nat := 0
  saved : Bool := false
  released : Bool := false
  brecLoaded : Bool := true
  /-- What stays on its core while it is saved (R345), until its restore has loaded the rest. -/
  pins : Pins := {}
  /-- The forced save writes the block classes too (R374). -/
  hwSave : Bool := false
  /-- An accepted restore that waits for a core: the target CIX of its record (R375, R396). -/
  restore : Option Nat := none
  live : Bool := true
  /-- The record of a wave, which counts as a block of one warp (R139, R152). -/
  wave : Bool := false
  deriving DecidableEq, Repr

/-- The fields of a launch record (R124). -/
structure LaunchRec where
  entry : DWord := 0
  nblk : Nat := 1
  warps : Nat := 0
  demand : Nat := 0
  tdemand : Nat := 0
  prio : Nat := 0
  opclass : Nat := 0
  clsize : Nat := 0
  bshm : Nat := 0
  acct : Nat := 0
  bint : Nat := 0
  relaunch : Bool := false
  determ : Bool := false
  prot : Bool := false
  nwave : Nat := 0
  uarg : List Word := []
  roles : List Byte := []
  deriving DecidableEq, Repr

/-- One grid, by its number in `grids`. -/
structure Grid where
  vi : Nat
  q : Nat
  seq : Nat
  launch : LaunchRec
  /-- Block indices still to be placed. -/
  todo : List Nat := []
  /-- The next index that has never been placed. -/
  next : Nat := 0
  relaunches : Nat := 0
  failed : Option Nat := none
  serial : Bool := false
  /-- Contributions of a deterministic grid (R354): key of x, leaf, sequence and value, with the type code. -/
  leaves : List (Nat × Nat × Nat × BitVec 64 × BitVec 3) := []
  done : Bool := false
  deriving DecidableEq, Repr

/-- A cluster, by die × 1,024 + CID (R181, R182). -/
structure Cluster where
  grid : Nat := 0
  /-- MODEL'S OWN: tells the clusters that have had this identifier apart. -/
  serial : Nat := 0
  live : Bool := false
  gen : BitVec 16 := 0
  /-- Member cores, as CIX, of the current generation and of the three before it, newest first (R184). -/
  sets : List (BitVec 16 × List Nat) := []
  /-- The segment in the die scratchpad (R180). -/
  base : Nat := 0
  size : Nat := 0
  deriving DecidableEq, Repr

/-- The states of a future record (R245). -/
inductive FutState where
  | free | run | fault | done | doom
  deriving DecidableEq, Repr

/-- What a future's operation is. -/
inductive FutKind where
  | task | copy | matrix
  deriving DecidableEq, Repr

/-- A future record, by die × 2²² + IDX (R243 to R246). -/
structure Fut where
  st : FutState := .free
  gen : BitVec 8 := 1
  count : Nat := 0
  value : DWord := 0
  kind : FutKind := .task
  /-- The copy or matrix word that it stands for. -/
  op : Nat := 0
  /-- The core cycle, on the operation's core, by which a doom notice has arrived (R257). -/
  notice : Nat := 0
  deriving DecidableEq, Repr

/-- A claim or take of a channel (R263): first granule, count and owner threads (warp × 32 + lane). -/
structure Claim where
  first : Word
  k : Nat
  owners : List Nat
  deriving DecidableEq, Repr

/-- The Gnomon's own state of a channel (R262, R263), by die × 2²⁷ + record address. Its counters lie in memory. -/
structure Chan where
  /-- How many handles of resident or saved warps are bound to it. -/
  bound : Nat := 0
  claims : List Claim := []
  takes : List Claim := []
  /-- Parked gangs, oldest first: warp and gang number. -/
  claimers : List (Nat × Nat) := []
  takers : List (Nat × Nat) := []
  /-- What its commits, and its retires, release (R198, R265). -/
  commits : Waits := []
  retires : Waits := []
  deriving DecidableEq, Repr

/-- The pass that holds an array (R284): the word, its draw, its start and its granted end in core cycles. -/
structure Pass where
  word : Nat
  e : Nat
  start : Nat
  stop : Nat
  deriving DecidableEq, Repr

/-- A task bin (R137, R138). -/
structure Bin where
  grid : Nat
  entry : DWord
  tasks : List TaskRec
  /-- REFTICK when its first task entered. -/
  start : Nat
  timer : Nat
  prio : Nat
  bix : Word
  block : Nat
  /-- The order in which it became due. -/
  due : Option Nat := none
  deriving DecidableEq, Repr

/-- One core, by die × 96 + CIX. -/
structure Core where
  /-- The free count and the reserve level of the register pool (R170). -/
  free : Nat := 16128
  reserve : Nat := 256
  holder : Option Nat := none
  bins : Table Bin := []
  preq : Word := 0x400
  /-- The core cycle at which the bound expires, while a request stands (R341). -/
  bound : Option Nat := none
  /-- The cycle after the one in which each scheduler last issued. -/
  issued : Table Nat := []
  /-- The cell of the array (R267). -/
  pass : Option Pass := none
  /-- The word that has started and keeps the array between passes (R307). -/
  keeps : Option Nat := none
  /-- The B slots that each block's words have left loaded, by block × 64 + slot (R299, R303). -/
  slots : Table BSlot := []
  /-- The block that holds each B slot (R303). -/
  holders : Table Nat := []
  /-- The array's draw in the last step (R283). -/
  draw : Nat := 0
  /-- The step in which each presented word that has no grant yet was first presented (R284). -/
  presented : Table Nat := []
  /-- The heads that have been set aside for CAP (R287). -/
  aside : List Nat := []
  /-- The ends of the passes of the last 16 steps, in core cycles, with the warps that issued them (R288). -/
  recent : List (Nat × Nat) := []
  deriving DecidableEq, Repr

/-- One rail group (R283, R413, R417), by die × 12 + group: its class, its clock and its limiter. -/
structure Group where
  cls : Nat := 0
  /-- The class written and not yet in effect (R414). -/
  pend : Option Nat := none
  /-- When the wait of R414 began. -/
  emptySince : Option Nat := none
  /-- Core cycles counted up to `since`, in time units (R412). -/
  cycles : Nat := 0
  since : Nat := 0
  boosted : Bool := false
  /-- Consecutive steps with G + 16 ≤ CAP (R417). -/
  calm : Nat := 0
  slewcap : Word := 0x00404000
  /-- G of the last step. -/
  g : Nat := 0
  /-- The last step at which the limiter acted. -/
  step : Option Nat := none
  deriving DecidableEq, Repr

/-- A packet on a ring (R380 to R384). -/
structure Packet where
  cw : Bool
  dst : Nat
  hops : Nat
  /-- Where it stands: at the input port of this stop, or in its injection port. -/
  stop : Nat
  injecting : Bool
  vc : Nat
  crossed : Bool := false
  /-- The fabric cycle in which its head can be sent on. -/
  ready : Nat
  arrived : Nat
  /-- The die and the stop for which it is bound, which may lie beyond a bridge (R386). -/
  far : Nat × Nat := (0, 0)
  deriving DecidableEq, Repr

/-- A ring input port (R381, R398): its counts, the reservations that return later, and its busy link. -/
structure Port where
  shared : Nat := 16
  escape : Nat := 4
  escCnt : BitVec 16 := 0
  /-- Slots to give back: the fabric cycle, and whether they are escape slots. -/
  returns : List (Nat × Bool) := []
  /-- The fabric cycle until which the output link serves a packet. -/
  busy : Nat := 0
  /-- The fabric cycle until which the local sinks take a packet of this ring (R382). -/
  sink : Nat := 0
  deriving DecidableEq, Repr

/-- A move of a proposal (R186, R187): the grid, the core and the two clusters. -/
structure Regroup where
  die : Nat
  core : Nat
  x : Nat
  y : Nat
  /-- The serials of the two clusters. -/
  xs : Nat := 0
  ys : Nat := 0
  /-- Where its commit began in the order of issue (R205). -/
  began : Nat := 0
  deriving DecidableEq, Repr

/-- What asked for a translation (R336, R337). -/
inductive Requester where
  | copy (copy chunk : Nat) (write : Bool)
  | matrix (word pass : Nat) (scale : Bool)
  | atom (warp gang : Nat) (lanes : BitVec 32)
  | fetch (warp gang : Nat)
  deriving DecidableEq, Repr

/-- A walk of a die's MMU (R392). -/
structure Walk where
  vi : Nat
  va : Nat
  write : Bool
  exec : Bool
  who : Requester
  deriving DecidableEq, Repr

/-- A fault of an interface (R338): its requester and what became of it. -/
structure FaultRec where
  va : Nat
  fut : Word
  kind : Nat
  wr : Bool
  die : Nat
  cix : Nat
  who : Requester
  /-- Where its entry lies once written, as a device physical address. -/
  entry : Option Nat := none
  cancelled : Bool := false
  deriving DecidableEq, Repr

/-- A cached translation of a quad (R392): virtual page, its size, the physical page and the leaf's bits. -/
structure TlbEntry where
  vi : Nat
  va : Nat
  size : Nat
  dpa : Nat
  x : Bool
  wr : Bool
  deriving DecidableEq, Repr

/-- A ring of entries in memory (R338, R395). -/
structure Ring where
  base : DWord := 0
  head : BitVec 17 := 0
  tail : BitVec 17 := 0
  deriving DecidableEq, Repr

/-- One entry of an MSI-X table with its pending bit (R366, R393). -/
structure MsixEntry where
  addr : DWord := 0
  data : Word := 0
  masked : Bool := true
  pending : Bool := false
  deriving DecidableEq, Repr

/-- A completion entry (R396) but for its PHASE: its bytes, the vector that follows it, 64 standing for CQVEC, and the core
and the block index of the word that made it (R397). -/
structure CqEntry where
  bytes : List Byte
  vec : Nat
  core : Nat := 0
  bix : Word := 0
  deriving DecidableEq, Repr

/-- One virtual interface (R395). -/
structure Vi where
  en : Bool := false
  trapvec : DWord := 0
  restvec : DWord := 0
  ptbase : DWord := 0
  /-- The held low half of TLBINV and of FQRESUME (R394). -/
  tlbinvLo : Word := 0
  fqresumeLo : Word := 0
  tlbBusy : Bool := false
  /-- The invalidation under way: first page and count, or every page. -/
  tlbinv : Option (Option (Nat × Nat)) := none
  fq : Ring := {}
  cq : Ring := {}
  el : Ring := {}
  digtab : DWord := 0
  vectors : Word := 0
  ellost : Word := 0
  lq : Table Ring := []
  /-- The launch queue whose turn is next (R396). -/
  lqTurn : Nat := 0
  peers : Table DWord := []
  quads : Table (BitVec 24) := []
  hbmBase : Nat := 0
  hbmSize : Nat := 0
  /-- Entries of the completion and fault queues that wait for room (R339, R399). -/
  cqWait : List CqEntry := []
  fqWait : List Nat := []
  faults : Table FaultRec := []
  token : Nat := 1
  msixOn : Bool := false
  msixMask : Bool := false
  msix : Table MsixEntry := []
  deriving DecidableEq, Repr

/-- One die: its management block (R398, R413 to R418, R423) and its Gnomon, Parallax, Umbra and MMU state. -/
structure Die where
  spillArea : Word := 0
  clpArea : Word := 0
  futArea : DWord := 0
  route : BitVec 2 := 0
  energy : DWord := 0
  /-- Nanojoules that have not made a whole microjoule (R418). -/
  energyFrac : Nat := 0
  energyLatch : Word := 0
  /-- MODEL'S OWN: how many of the periods of 100 rt have been added (R418). -/
  energyAt : Nat := 0
  tmax : BitVec 8 := 0
  trip : Bool := false
  boostEn : BitVec 12 := 0
  cxlwin : BitVec 11 := 0
  /-- The CXL link is up. -/
  cxlUp : Bool := false
  /-- Power-gated banks, and waking banks with the time by which they are awake (R169). -/
  gated : List (Nat × Nat) := []
  waking : List (Nat × Nat × Nat) := []
  /-- Scores of pairs of cores in this interval, by i × 96 + j with i < j (R186). -/
  scores : Table Nat := []
  /-- The core that last wrote each cluster-pool line, by line number in the scratchpad (R186). -/
  writers : Table Nat := []
  moves : Table Regroup := []
  /-- The moves whose commits are under way, in the order in which they began (R188). -/
  commit : List Regroup := []
  /-- The commits that have ended (R205): where each began and ended in the order of issue, and the cores of its two
  clusters. -/
  commits : List (Nat × Nat × List Nat) := []
  ports : Table Port := []
  packets : Table Packet := []
  walks : Table Walk := []
  /-- TLB entries, by quad (R392). -/
  tlb : Table (List TlbEntry) := []
  /-- Allocations of the spill area: base, length and the warp or block that holds them (R167). -/
  spill : List (Nat × Nat × Nat) := []
  /-- The cores that have triggered a round of the escape spill engine, in the order in which they did (R173). -/
  spillQueue : List Nat := []
  deriving DecidableEq, Repr

/-- Where bring-up stands (R422). -/
inductive Phase where
  | reset | verified | memory | links | windows | ready | recovery
  deriving DecidableEq, Repr

/-- Firmware, fuses and attestation (R419 to R421). -/
structure Boot where
  phase : Phase := .reset
  /-- The four fused key digests, the revocation fuses and the fused minimum SVN. -/
  digests : List (BitVec 256) := []
  revoked : BitVec 4 := 0
  minSvn : Word := 0
  fail : BitVec 8 := 0
  slot : Bool := false
  /-- 64 KiB blocks of slot B erased since recovery began. -/
  erased : List Nat := []
  /-- SPDM: the messages of the connection so far, whether versions, capabilities and algorithms are agreed. -/
  transcript : List Byte := []
  version : Bool := false
  caps : Bool := false
  algs : Bool := false
  deriving DecidableEq, Repr

/-- What the module has sent to the outside world, oldest first: the model's record of it. -/
inductive Sent where
  | msix (fn vec : Nat) (addr : DWord) (data : Word)
  | readData (width : Nat) (val : DWord)
  | config (retry : Bool)
  | atomicOp (addr op width : Nat) (x y : DWord)
  | peer (val : DWord) (ok : Bool)
  | spdm (bytes : List Byte)
  deriving DecidableEq, Repr

/-- What is being issued (MODEL'S OWN): the warp, its gang's lanes and the word's address, for the meaning that
`step` calls. -/
structure Issue where
  warp : Nat := 0
  lanes : BitVec 32 := 0
  pc : DWord := 0
  deriving DecidableEq, Repr

/-- Which agent moves next (MODEL'S OWN). -/
inductive Move where
  /-- A scheduler of a core issues. -/
  | issue (core sched : Nat)
  /-- An event of the table happens. -/
  | event (i : Instr)
  /-- Time passes. -/
  | tick (units : Nat)
  deriving DecidableEq, Repr

/-- The state of the module. -/
structure State where
  /-- Time since package reset, in units of 1/297 ns (R5, R412): 110 to a core cycle at 2.7 GHz, 220 to a fabric
  cycle, 2,970 to a reference tick. -/
  now : Nat
  /-- Every byte of every storage, by the keys of Machine/Memory.lean, in one canonical form. -/
  mem : List Host.Cell
  /-- Poisoned storage, in 8-byte units, by key (R348). -/
  poison : List Nat
  /-- Errors in HBM lines: line, symbol and the bits that differ (R347). -/
  hbmErr : List (Nat × Nat × Byte)
  /-- Pin groups marked failed, by channel, and corrections confined to a group with their times (R347). A channel's number is
  die × 3 + stack + 12 × its number in the stack. -/
  pinMarks : Table Nat
  pinHits : List (Nat × Nat × Nat)
  warps : Table Warp
  blocks : Table Block
  grids : Table Grid
  clusters : Table Cluster
  cores : Table Core
  groups : Table Group
  dies : Table Die
  vis : Table Vi
  futs : Table Fut
  copies : Table Copy
  /-- The lines whose presence bit is 0 (R176), by key / 64. -/
  absent : List Nat
  chans : Table Chan
  resvs : Table Resv
  mwords : Table MWord
  bars : List (BarName × Bar)
  /-- Releases whose earlier accesses have not all performed (R198, R199). -/
  rels : List Rel
  buffers : List Buffer
  boot : Boot
  sent : List Sent
  /-- Meridian's round robin: the interface whose turn is next (R396). -/
  turn : Nat
  /-- MODEL'S OWN: how many intervals Parallax has closed (R186). -/
  interval : Nat
  /-- MODEL'S OWN: the next unused number of a warp, block, grid, copy, matrix word, reservation, access or gang. -/
  uid : Nat
  /-- MODEL'S OWN: how many free values the machine has drawn (see Config.freeBit). -/
  fresh : Nat
  /-- MODEL'S OWN: what is being issued, and which agents move next. -/
  cur : Issue
  agenda : List Move
  deriving DecidableEq, Repr

/-- The module right after package reset (phase 1 of R422): every register at its reset value, REFTICK 0, no
interface enabled, every partition empty, memory with nothing listed. -/
def State.reset : State where
  now := 0
  mem := []
  poison := []
  hbmErr := []
  pinMarks := []
  pinHits := []
  warps := []
  blocks := []
  grids := []
  clusters := []
  cores := []
  groups := []
  dies := []
  vis := []
  futs := []
  copies := []
  absent := []
  chans := []
  resvs := []
  mwords := []
  bars := []
  rels := []
  buffers := []
  boot := {}
  sent := []
  turn := 0
  interval := 0
  uid := 1
  fresh := 0
  cur := {}
  agenda := []

end Sys2Proof.Machine
end

