-- ==== Sys2Proof/Machine/Table.lean ====
section
/-! DEFINITION. Machine/Table.lean: reading and writing the sparse tables of the state. A table keeps its keys strictly
rising, so that equal contents are equal tables. -/

namespace Sys2Proof.Machine

/-- The entry of a key. -/
def tget {α : Type} : Table α → Nat → Option α
  | [], _ => none
  | (k, v) :: t, i => if k = i then some v else tget t i

/-- The table with an entry for a key, in place or in its order. -/
def tset {α : Type} : Table α → Nat → α → Table α
  | [], i, a => [(i, a)]
  | (k, v) :: t, i, a =>
    if k = i then (i, a) :: t else if i < k then (i, a) :: (k, v) :: t else (k, v) :: tset t i a

/-- The table without a key. -/
def tdel {α : Type} (t : Table α) (i : Nat) : Table α := t.filter (fun p => p.1 != i)

/-- The entry of a key, or the collection's default. -/
def tgetD {α : Type} (t : Table α) (i : Nat) (d : α) : α := (tget t i).getD d

/-- An entry changed, from the default when it is not listed. -/
def tmod {α : Type} (t : Table α) (i : Nat) (d : α) (f : α → α) : Table α := tset t i (f (tgetD t i d))

/-- An entry changed when it is listed. -/
def tupd {α : Type} (t : Table α) (i : Nat) (f : α → α) : Table α :=
  match tget t i with
  | none => t
  | some v => tset t i (f v)

/-- Every entry changed. -/
def tmap {α : Type} (t : Table α) (f : Nat → α → α) : Table α := t.map (fun p => (p.1, f p.1 p.2))

/-- The lowest number from i on, among n, that a table does not list. -/
def freeKey {α : Type} (t : Table α) : Nat → Nat → Option Nat
  | 0, _ => none
  | n + 1, i => if (tget t i).isNone then some i else freeKey t n (i + 1)

/-- The lanes of a mask, ascending. -/
def lanesOf (m : BitVec 32) : List Nat := (List.range 32).filter (fun l => m.getLsbD l)

/-- The mask of lanes. -/
def maskOf (ls : List Nat) : BitVec 32 := ls.foldl (fun m l => m ||| BitVec.twoPow 32 l) 0

end Sys2Proof.Machine
end

