-- ==== Sys2Proof/Machine/Memory.lean ====
section
/-! DEFINITION. Machine/Memory.lean: every byte of every storage in one list of cells, keyed by storage, unit and
offset. A byte that is not listed reads as zero: the reset contents of HBM and of the die scratchpad (R422), and the
model's choice for every other storage (log entry 7: DESIGN CHOICE). -/

namespace Sys2Proof.Machine

/-- The key of a byte: storage code, unit (die, core, warp or peer) and offset in the unit. -/
def memKey (code unit off : Nat) : Nat := code * 2 ^ 100 + unit * 2 ^ 60 + off

/-- Device physical addresses: HBM, CXL tier, host and peer windows (R388). -/
def dpaKey (a : Nat) : Nat := memKey 0 0 a
/-- Die scratchpad of a die (R19), cluster-pool segments included. -/
def dspKey (die a : Nat) : Nat := memKey 1 die a
/-- Block shared memory of a core, 256 KiB (R164). -/
def blkKey (core a : Nat) : Nat := memKey 2 core a
/-- The `.stk` space of a warp (R167). -/
def stkKey (warp a : Nat) : Nat := memKey 3 warp a
/-- Operand buffer of a core, 512 KiB. -/
def obKey (core a : Nat) : Nat := memKey 4 core a
/-- B store of a core (R266): 8 keys to each cell of slot, row and column, of which two hold its bytes. -/
def slotKey (core a : Nat) : Nat := memKey 5 core a
/-- Scale store of a core, 512 bytes a slot (R266): 8 keys to each byte, of which one holds it. -/
def scaleKey (core a : Nat) : Nat := memKey 6 core a
/-- Accumulator memory of a core (R278): 8 keys to each of the 4,096 cells of a tile, of which five hold its bytes. -/
def accKey (core a : Nat) : Nat := memKey 7 core a
/-- Memory of a peer module that an interface names (R404). -/
def peerKey (vi entry a : Nat) : Nat := memKey 8 (vi * 16 + entry) a
/-- Flash: slot A from 0, slot B from 2^32 (R419). -/
def flashKey (a : Nat) : Nat := memKey 9 0 a

/-- Poison of the scale bytes of the operand buffer, one unit to each byte (R275, R348). -/
def obScaleKey (core a : Nat) : Nat := memKey 11 core (8 * a)

/-- The 8-byte unit and the 64-byte line of a byte (R348). -/
def unitOf (key : Nat) : Nat := key / 8
def lineOf (key : Nat) : Nat := key / 64

/-- What a byte that is not listed reads as. Log entry 7: DESIGN CHOICE. -/
def emptyByte : Byte := 0

/-- One byte of a list of cells. -/
def cellGet : List Host.Cell → Nat → Byte
  | [], _ => emptyByte
  | (k, v) :: m, a => if k = a then v else cellGet m a

/-- A list of cells without one address. -/
def cellDel : List Host.Cell → Nat → List Host.Cell
  | [], _ => []
  | (k, v) :: m, a => if k = a then cellDel m a else (k, v) :: cellDel m a

/-- A list of cells with a byte put at an address, in its order. -/
def cellPut : List Host.Cell → Nat → Byte → List Host.Cell
  | [], a, b => [(a, b)]
  | (k, v) :: m, a, b =>
    if a < k then (a, b) :: (k, v) :: m else if k = a then (a, b) :: m else (k, v) :: cellPut m a b

/-- A byte written: the value that an unlisted byte reads as is not listed. -/
def cellSet (m : List Host.Cell) (a : Nat) (b : Byte) : List Host.Cell :=
  if b = emptyByte then cellDel m a else cellPut m a b

/-- The canonical form: addresses strictly rising, no cell equal to what an unlisted byte reads as. -/
def Memory.wf : List Host.Cell → Bool
  | [] => true
  | [(_, v)] => v != emptyByte
  | (k, v) :: (k', v') :: m => k < k' && v != emptyByte && Memory.wf ((k', v') :: m)

/-- n bytes from a key. -/
def bytesAt (m : List Host.Cell) (key : Nat) : Nat → List Byte
  | 0 => []
  | n + 1 => cellGet m key :: bytesAt m (key + 1) n

/-- Bytes written from a key on. -/
def putBytes : List Host.Cell → Nat → List Byte → List Host.Cell
  | m, _, [] => m
  | m, key, b :: bs => putBytes (cellSet m key b) (key + 1) bs

/-- Bytes written where they differ from another list: keys and bytes. -/
def putList (m : List Host.Cell) (ws : List (Nat × Byte)) : List Host.Cell :=
  ws.foldl (fun m w => cellSet m w.1 w.2) m

/-- The little-endian number of n bytes from a key (R4). -/
def numAt (m : List Host.Cell) (key n : Nat) : Nat := leNat (bytesAt m key n)

/-- One byte of storage. -/
def State.byte (s : State) (key : Nat) : Byte := cellGet s.mem key

/-- n bytes of storage as a number. -/
def State.num (s : State) (key n : Nat) : Nat := numAt s.mem key n

/-- The 8-byte units that n bytes from a key touch. -/
def unitsOf (key n : Nat) : List Nat := (List.range ((key + n + 7) / 8 - key / 8)).map (· + key / 8)

/-- A byte range of storage holds poison (R348). -/
def State.tainted (s : State) (key n : Nat) : Bool := (unitsOf key n).any (fun u => s.poison.contains u)

/-- Bytes written, with their poison (R348): a unit written from poisoned data is poisoned, one written from clean
data is clean. -/
def State.write (s : State) (key : Nat) (bs : List Byte) (bad : Bool) : State :=
  let us := unitsOf key bs.length
  let kept := s.poison.filter (fun u => !us.contains u)
  { s with
    mem := putBytes s.mem key bs
    poison := if bad then us ++ kept else kept }

/-- A number written in n bytes. -/
def State.writeNum (s : State) (key n v : Nat) (bad : Bool) : State := s.write key (leBytes n v) bad

end Sys2Proof.Machine
end

