-- ==== Sys2Proof/Machine/Regs.lean ====
section
/-! DEFINITION. Machine/Regs.lean: the parts of the state by their numbers, the clocks (R5, R412), and the registers of
a thread and a warp with their frames, windows, shares and outstanding destinations (R11 to R17, R61, R158). -/

namespace Sys2Proof.Machine

/-- The state with one warp changed; a number that names no warp changes nothing. -/
def State.updWarp (s : State) (w : Nat) (f : Warp → Warp) : State := { s with warps := tupd s.warps w f }

/-- The warp of a number; a number that names none gives a warp with no lane. -/
def State.warp (s : State) (w : Nat) : Warp :=
  tgetD s.warps w { core := 0, slot := 0, grid := 0, vi := 0, block := 0, lanes := [] }

def State.block (s : State) (b : Nat) : Block :=
  tgetD s.blocks b { grid := 0, vi := 0, bix := 0, core := 0, cid := 0, warps := [], live := false }
def State.updBlock (s : State) (b : Nat) (f : Block → Block) : State := { s with blocks := tupd s.blocks b f }

def State.grid (s : State) (g : Nat) : Grid := tgetD s.grids g { vi := 0, q := 0, seq := 0, launch := {} }
def State.updGrid (s : State) (g : Nat) (f : Grid → Grid) : State := { s with grids := tupd s.grids g f }

def State.core (s : State) (c : Nat) : Core := tgetD s.cores c {}
def State.updCore (s : State) (c : Nat) (f : Core → Core) : State := { s with cores := tmod s.cores c {} f }

def State.die (s : State) (d : Nat) : Die := tgetD s.dies d {}
def State.updDie (s : State) (d : Nat) (f : Die → Die) : State := { s with dies := tmod s.dies d {} f }

def State.vi (s : State) (v : Nat) : Vi := tgetD s.vis v {}
def State.updVi (s : State) (v : Nat) (f : Vi → Vi) : State := { s with vis := tmod s.vis v {} f }

def State.group (s : State) (g : Nat) : Group := tgetD s.groups g {}
def State.updGroup (s : State) (g : Nat) (f : Group → Group) : State := { s with groups := tmod s.groups g {} f }

def State.cluster (s : State) (c : Nat) : Cluster := tgetD s.clusters c {}
def State.updCluster (s : State) (c : Nat) (f : Cluster → Cluster) : State :=
  { s with clusters := tmod s.clusters c {} f }

def State.fut (s : State) (f : Nat) : Fut := tgetD s.futs f {}
def State.updFut (s : State) (f : Nat) (g : Fut → Fut) : State := { s with futs := tmod s.futs f {} g }

def State.chan (s : State) (c : Nat) : Chan := tgetD s.chans c {}
def State.updChan (s : State) (c : Nat) (f : Chan → Chan) : State := { s with chans := tmod s.chans c {} f }

/-- Die, core number on the die, quad, rail group and ring stop of a core (R123, R283, R379). -/
def dieOf (core : Nat) : Nat := core / 96
def cixOf (core : Nat) : Nat := core % 96
def quadOf (core : Nat) : Nat := cixOf core / 4
def groupOf (core : Nat) : Nat := dieOf core * 12 + cixOf core / 8
def schedOf (slot : Nat) : Nat := slot / 64
/-- The number of cluster CID of a die. -/
def clusterNo (die cid : Nat) : Nat := die * 1024 + cid

/-- The block of a warp: for a wave the one that its BLOCK register names, the latest of that index (R139, R219). -/
def State.homeBlock (s : State) (w : Nat) : Nat :=
  let W := s.warp w
  if W.wave then
    ((s.blocks.filter (fun x => !x.2.wave && x.2.grid == W.grid && x.2.bix == W.bix.toNat)).getLast?.map (·.1)).getD W.block
  else W.block

/-- The cluster of a warp: its block's, or for a wave that of the block which its BLOCK register names (R182). -/
def State.clusterOf (s : State) (w : Nat) : Nat :=
  let W := s.warp w
  clusterNo (dieOf W.core) (s.block (s.homeBlock w)).cid

/-- The member cores, as core numbers, of the current cluster of a warp's block (R182). -/
def State.memberCores (s : State) (w : Nat) : List Nat :=
  let c := s.clusterOf w
  ((s.cluster c).sets.headD (0, [])).2.map (· + c / 1024 * 96)

/-- The cluster of a warp has not ended (R180, R219). -/
def State.clusterLive (s : State) (w : Nat) : Bool :=
  let k := s.cluster (s.clusterOf w)
  k.live && k.serial == (s.block (s.homeBlock w)).serial

/-- Time units of one core cycle in a class (R412): 2.7, 2.2, 1.5 GHz, 2.97 GHz under boost; class 3 has no clock. -/
def cycleUnits (cls : Nat) (boosted : Bool) : Nat :=
  match cls with
  | 0 => if boosted then 100 else 110
  | 1 => 135
  | 2 => 198
  | _ => 0

/-- The cycle count of a rail group's cores (R412). -/
def Group.count (g : Group) (now : Nat) : Nat :=
  if g.cls ≥ 3 then g.cycles else g.cycles + (now - g.since) / cycleUnits g.cls g.boosted

/-- The cycle count of a core (R412). -/
def State.cycle (s : State) (core : Nat) : Nat := (s.group (groupOf core)).count s.now

/-- The fabric cycle (R5). -/
def State.fabric (s : State) : Nat := s.now / 220
/-- REFTICK (R362). -/
def State.refTick (s : State) : Nat := s.now / 2970

def Warp.lane (w : Warp) (l : Nat) : Lane := tgetD w.lanes l {}
def Warp.updLane (w : Warp) (l : Nat) (f : Lane → Lane) : Warp := { w with lanes := tmod w.lanes l {} f }
/-- Some lanes of a warp changed. -/
def Warp.updLanes (w : Warp) (m : BitVec 32) (f : Nat → Lane → Lane) : Warp :=
  { w with lanes := tmap w.lanes (fun l x => if m.getLsbD l then f l x else x) }
/-- The lanes of a warp that satisfy a property. -/
def Warp.mask (w : Warp) (p : Lane → Bool) : BitVec 32 := maskOf ((w.lanes.filter (fun x => p x.2)).map Prod.fst)
/-- The unended lanes. -/
def Warp.alive (w : Warp) : BitVec 32 := w.mask (·.alive)

/-- The current frame (R15); a lane without one has a frame of no granule. -/
def Lane.top (l : Lane) : Frame := l.frames.headD { g := 0 }
def Lane.depth (l : Lane) : Nat := l.frames.length

/-- A thread as a number: warp × 32 + lane. -/
def threadNo (w l : Nat) : Nat := w * 32 + l

/-- Where a register of the current frame lies: the frame's place from the top, and the register there (R16). -/
def resolve : List Frame → Nat → Nat → Nat × Nat
  | f :: f' :: fs, i, r => if r < 8 then resolve (f' :: fs) (i + 1) (f.win + r) else (i, r)
  | _, i, r => (i, r)

/-- The share that holds a launch-frame register of a warp, and the cell's key there (R158). -/
def shareCell (shares : Table Share) (w l r : Nat) : Option (Nat × Nat) :=
  match shares with
  | [] => none
  | (k, h) :: hs =>
    if h.exporter == w && h.first * 8 ≤ r && r < (h.first + h.n) * 8 then some (k, l * 256 + (r - h.first * 8))
    else if h.importer == w && h.gi * 8 ≤ r && r < (h.gi + h.n) * 8 then some (k, l * 256 + (r - h.gi * 8))
    else shareCell hs w l r

/-- The shared cell that a register of the current frame is, if any. -/
def State.sharedAt (s : State) (w l r : Nat) : Option (Nat × Nat) :=
  let W := s.warp w
  let L := W.lane l
  let (i, r) := resolve L.frames 0 r
  if i + 1 == L.frames.length then shareCell (s.block W.block).shares w l r else none

/-- Register r of frame i from the top. -/
def Lane.frameReg (l : Lane) (i r : Nat) : Cell := tgetD ((l.frames.getD i {}).regs) r {}

/-- A register of the current frame as it stands (R11, R16, R159). -/
def State.vreg (s : State) (w l r : Nat) : Cell :=
  match s.sharedAt w l r with
  | some (k, c) => tgetD (tgetD (s.block (s.warp w).block).shares k { exporter := 0, importer := 0, first := 0, n := 0, gi := 0 }).cells c {}
  | none =>
    let L := (s.warp w).lane l
    let (i, r) := resolve L.frames 0 r
    L.frameReg i r

/-- The bytes of an accumulator image (R314). -/
def accBytes (tag : Nat) : Nat := if tag == 2 then 40960 else 20480

/-- The image that a queued matrix word stores or loads (R314): its first key and its length. -/
def MWord.image (m : MWord) : List (Nat × Nat) :=
  match m.op with
  | .accst _ tag key _ => [(key, accBytes tag)]
  | .accld _ tag key _ => [(key, accBytes tag)]
  | _ => []

/-- Those of some accesses that have not performed. -/
def State.undone (s : State) (ws : Waits) : Waits :=
  ws.filter (fun r => (tget (s.warp r.1).accs r.2).isSome || (tget s.copies r.2).isSome || (tget s.mwords r.2).isSome)

/-- Some accesses have all performed. -/
def State.settled (s : State) (ws : Waits) : Bool := (s.undone ws).isEmpty

/-- What a lane has issued or accepted before a place in the order of issue and has not performed: what a release made
there carries (R198). -/
def State.pendingOf (s : State) (w l n : Nat) : Waits :=
  let W := s.warp w
  (W.accs.filter (fun a => a.2.lane == l && a.2.seq < n)).map (fun a => (w, a.1))
    ++ (s.copies.filter (fun c => c.2.warp == w && c.1 < n && c.2.atoms.any (·.1 == l))).map (fun c => (w, c.1))
    ++ (s.mwords.filter (fun m => m.2.warp == w && m.1 < n && m.2.lanes.getLsbD l && !m.2.image.isEmpty)).map
        (fun m => (w, m.1))
    ++ s.undone ((W.syncs.filter (fun x => x.lane == l && x.seq ≤ n)).flatMap (·.waits))

/-- What some lanes of a warp release now. -/
def State.releases (s : State) (w : Nat) (ls : List Nat) : Waits := ls.flatMap (fun l => s.pendingOf w l s.uid)

/-- Lanes accept what others have released (R198): their later accesses perform after it. -/
def State.accept (s : State) (w : Nat) (ls : List Nat) (ws : Waits) : State :=
  match s.undone ws with
  | [] => s
  | ws => s.updWarp w (fun W => { W with
      syncs := W.syncs.filter (fun x => !s.settled x.waits) ++ ls.map (fun l => ⟨l, s.uid, ws⟩) })

/-- A register file with one cell written; a cell that reads as the default is not listed. -/
def setCell (t : Table Cell) (r : Nat) (c : Cell) : Table Cell := if c = {} then tdel t r else tset t r c

/-- Some frames with register r of frame i written. -/
def setFrameReg : List Frame → Nat → Nat → Cell → List Frame
  | [], _, _, _ => []
  | f :: fs, 0, r, c => { f with regs := setCell f.regs r c } :: fs
  | f :: fs, i + 1, r, c => f :: setFrameReg fs i r c

/-- A shared cell filled (R159), with what its write releases (R198). -/
def Share.fill (h : Share) (key : Nat) (c : Cell) (ws : Waits) : Share :=
  { h with
    cells := setCell h.cells key c
    full := if h.full.contains key then h.full else key :: h.full
    waits := h.waits.filter (·.1 != key) ++ if ws.isEmpty then [] else [(key, ws)] }

/-- A register of the current frame written (R11, R16, R159); a shared cell becomes full. -/
def State.setVreg (s : State) (w l r : Nat) (c : Cell) : State :=
  match s.sharedAt w l r with
  | some (k, key) =>
    s.updBlock (s.warp w).block (fun b => { b with
      shares := tupd b.shares k (·.fill key c (s.releases w [l])) })
  | none =>
    s.updWarp w (fun W => W.updLane l (fun L =>
      let (i, r) := resolve L.frames 0 r
      { L with frames := setFrameReg L.frames i r c }))

/-- What the writes of some shared cells of a block have released (R198). -/
def Block.cellWaits (b : Block) (keys : List (Nat × Nat)) : Waits :=
  b.shares.flatMap (fun h => (h.2.waits.filter (fun x => keys.contains (h.1, x.1))).flatMap (·.2))

/-- Cells that some lanes of a warp have read become empty (R159); each lane accepts what their writes have released
(R198). -/
def State.emptyShared (s : State) (w : Nat) (ls reads : List Nat) : State :=
  let b := (s.warp w).block
  if (s.block b).shares.isEmpty then s
  else
    let cells (l : Nat) := reads.filterMap (fun r => s.sharedAt w l r)
    let keys := ls.flatMap cells
    let s := ls.foldl (fun s l => s.accept w [l] ((s.block b).cellWaits (cells l))) s
    s.updBlock b (fun b => { b with shares := tmap b.shares (fun k h =>
      { h with full := h.full.filter (fun c => !keys.contains (k, c)) }) })

/-- The newest outstanding value of a destination, if it is known (R61). -/
def pendingVal (longs : Table LongOp) (t : Target) : Option Cell :=
  longs.foldl (fun o x => x.2.dests.foldl (fun o d => if d.tgt = t then d.val <|> o else o) o) none

/-- The warp's grid runs in deterministic mode (R353). -/
def State.determOf (s : State) (w : Nat) : Bool := (s.grid (s.warp w).grid).launch.determ

/-- A register that an outstanding long operation will write may read as its old or its new value (R61): in a deterministic
grid as its old one (log entry 65: DESIGN CHOICE), so that two runs of it read the same (R356). -/
def State.hazard (s : State) (w : Nat) (t : Target) (pos : Nat) (old : Cell) : Cell :=
  match pendingVal (s.warp w).longs t with
  | none => old
  | some new => if !s.determOf w && Config.freeBit (s.fresh + pos) then new else old

/-- A source register as a word reads it; `pos` tells the reads of one word apart. -/
def State.readV (s : State) (w l r pos : Nat) : Cell :=
  s.hazard w (.vec l r) (pos * 32 + l) (s.vreg w l r)

/-- A uniform register as a word reads it. -/
def State.readS (s : State) (w r pos : Nat) : Cell :=
  s.hazard w (.uni r) (1024 + pos) (tgetD (s.warp w).s r {})

/-- A predicate as a word reads it, with its poison; p15 reads as true (R13). -/
def State.readP (s : State) (w l p pos : Nat) : Bool × Bool :=
  if p == 15 then (true, false)
  else
    let L := (s.warp w).lane l
    let c := s.hazard w (.pred l p) (2048 + pos * 32 + l) ⟨if L.preds.getLsbD p then 1 else 0, L.pbad.getLsbD p⟩
    (c.val != 0, c.bad)

/-- Bit i of a mask set to b. -/
def setBit {n : Nat} (m : BitVec n) (i : Nat) (b : Bool) : BitVec n :=
  if b then m ||| BitVec.twoPow n i else m &&& ~~~(BitVec.twoPow n i)

/-- A predicate written; a write to p15 is discarded (R13). -/
def State.setPred (s : State) (w l p : Nat) (v bad : Bool) : State :=
  if p ≥ 15 then s
  else s.updWarp w (fun W => W.updLane l (fun L =>
    { L with preds := setBit L.preds p v, pbad := setBit L.pbad p bad }))

/-- A uniform register written. -/
def State.setUni (s : State) (w r : Nat) (c : Cell) : State :=
  s.updWarp w (fun W => { W with s := setCell W.s r c })

/-- A destination that a later word, or another operation's result, writes becomes contested in every outstanding operation
that has it (R61). -/
def State.contest (s : State) (w : Nat) (t : Target) : State :=
  if (s.warp w).longs.isEmpty then s
  else s.updWarp w (fun W => { W with longs := tmap W.longs (fun _ o =>
    { o with dests := o.dests.map (fun d => if d.tgt = t then { d with contested := true } else d) }) })

/-- A register as it stands, written. -/
def State.putTarget (s : State) (w : Nat) (t : Target) (c : Cell) : State :=
  match t with
  | .vec l r => s.setVreg w l r c
  | .pred l p => s.setPred w l p (c.val != 0) c.bad
  | .uni r => s.setUni w r c

/-- A register written by a word (R61, R72). -/
def State.writeTarget (s : State) (w : Nat) (t : Target) (c : Cell) : State :=
  let s := s.contest w t
  let s := if (s.warp w).late.isEmpty then s
    else s.updWarp w (fun W => { W with late := W.late.filter (fun x => x.2.1 != t) })
  s.putTarget w t c

/-- A destination in a lane. -/
def Target.of (t : Target) (l : Nat) : Bool :=
  match t with
  | .vec k _ => k == l
  | .pred k _ => k == l
  | .uni _ => false

/-- The flags of a word united into FPSTAT (R30). -/
def State.raise (s : State) (w : Nat) (f : Flags) : State :=
  if f == 0 then s else s.updWarp w (fun W => { W with fpstat := fpstatOr W.fpstat f })

/-- An unused number, and the state in which it is used. -/
def State.take (s : State) : Nat × State := (s.uid, { s with uid := s.uid + 1 })

end Sys2Proof.Machine
end

