-- ==== Sys2Proof/Machine/Barrier.lean ====
section
/-! DEFINITION. Machine/Barrier.lean: the state of barriers and the completion of a generation (R152 to R155, R230),
the error log of an interface (R397, R399), and messages to the host (R366, R399). -/

namespace Sys2Proof.Machine

/-- A barrier by its name; one that is not listed has its launch state. -/
def barOf : List (BarName × Bar) → BarName → Bar
  | [], _ => {}
  | (n, b) :: bs, m => if n = m then b else barOf bs m

/-- A barrier replaced. -/
def barPut : List (BarName × Bar) → BarName → Bar → List (BarName × Bar)
  | [], m, b => [(m, b)]
  | (n, x) :: bs, m, b => if n = m then (m, b) :: bs else (n, x) :: barPut bs m b

def State.bar (s : State) (n : BarName) : Bar := barOf s.bars n
def State.setBar (s : State) (n : BarName) (b : Bar) : State := { s with bars := barPut s.bars n b }

/-- The unended threads of a warp that count as threads: under PROT the visible lanes (R152, R351). -/
def Warp.threads (w : Nat) (W : Warp) : List Nat :=
  (W.lanes.filter (fun x => x.2.alive && !x.2.shadow)).map (fun x => threadNo w x.1)

/-- A thread is unended. -/
def State.threadAlive (s : State) (t : Nat) : Bool := ((s.warp (t / 32)).lane (t % 32)).alive

/-- The unended threads of the warps that satisfy a property. -/
def State.threadsOf (s : State) (p : Warp → Bool) : List Nat :=
  s.warps.flatMap (fun x => if p x.2 then Warp.threads x.1 x.2 else [])

/-- The interface and die of a die barrier's owner number, which is interface × 4 + die (R230). -/
def dieBarOwner (vi die : Nat) : Nat := vi * 4 + die

/-- The threads that a generation of a barrier would have as members if it opened now (R152, R230). -/
def State.barMembers (s : State) (n : BarName) (grid : Nat) : List Nat :=
  match n.scope with
  | 0 => Warp.threads n.owner (s.warp n.owner)
  | 1 => s.threadsOf (fun W => W.block == n.owner)
  | 2 => s.threadsOf (fun W => !W.wave && clusterNo (dieOf W.core) (s.block W.block).cid == n.owner)
  | 3 => s.threadsOf (fun W => !W.wave && W.grid == grid && dieOf W.core == n.owner % 4)
  | _ => s.threadsOf (fun W => !W.wave && W.grid == grid)

/-- MEM of a barrier now (R152, R121). -/
def State.barMem (s : State) (n : BarName) : Nat :=
  if n.scope < 2 then (s.barMembers n 0).length else ((s.bar n).members.filter s.threadAlive).length

/-- A score between two cores of a die rises (R186). -/
def Die.score (d : Die) (i j n : Nat) : Die :=
  if i == j then d else { d with scores := tmod d.scores (min i j * 96 + max i j) 0 (· + n) }

/-- The pairs of a list, each once. -/
def pairsOf : List Nat → List (Nat × Nat)
  | [] => []
  | x :: xs => xs.map (fun y => (x, y)) ++ pairsOf xs

/-- The weight-4 event of a cluster-barrier generation: pairs of cores with arrivals (R186). -/
def State.scoreBarrier (s : State) (n : BarName) (cores : List Nat) : State :=
  if n.scope != 2 then s
  else
    s.updDie (n.owner / 1024) (fun d => (pairsOf cores).foldl (fun d p => d.score p.1 p.2 4) d)

/-- A generation completes when ARR = MEM and PEND = 0 (R152): GEN increments, ARR and the ARRIVED bits clear, and a
generation of a wider scope closes. One that no thread has joined and that is not open does not complete. -/
def State.barCheck (s : State) (n : BarName) : State :=
  let b := s.bar n
  if b.arrived.length == s.barMem n && b.pend == 0 && (b.opened || !b.arrived.isEmpty) then
    (s.scoreBarrier n b.came).setBar n
      { b with gen := b.gen + 1, arrived := [], opened := false, members := [], came := [] }
  else s

/-- A generation of a wider scope opens at its first arrival or `bar.expect` (R230). -/
def State.barOpen (s : State) (n : BarName) (grid : Nat) : State :=
  let b := s.bar n
  if n.scope < 2 || b.opened then s
  else s.setBar n { b with opened := true, members := s.barMembers n grid, owner := grid }

/-- Something is released into the generation in progress of a barrier (R155, R198). -/
def State.barRelease (s : State) (b : Bar) (ws : Waits) : Bar :=
  { b with waits := b.waits.filter (fun x => !s.settled x.2) ++ if s.settled ws then [] else [(b.gen, ws)] }

/-- What a thread accepts that a generation of a barrier releases (R155, R198). -/
def Bar.released (b : Bar) (tok : BitVec 16) : Waits := (b.waits.filter (·.1 == tok)).flatMap (·.2)

/-- Threads arrive (R154), each a release (R155). -/
def State.barArrive (s : State) (n : BarName) (ts : List Nat) : State :=
  let b := s.barRelease (s.bar n) (ts.flatMap (fun t => s.pendingOf (t / 32) (t % 32) s.uid))
  let came := ts.map (fun t => cixOf (s.warp (t / 32)).core)
  (s.setBar n { b with
    arrived := b.arrived ++ ts
    came := if n.scope == 2 then (b.came ++ came).eraseDups else b.came }).barCheck n

/-- A thread that has ended leaves every barrier (R121, R152): it no longer counts in MEM, nor in ARR. -/
def State.barLeave (s : State) (t : Nat) : State :=
  s.bars.foldl (fun s x =>
    let b := s.bar x.1
    (s.setBar x.1 { b with arrived := b.arrived.filter (· != t) }).barCheck x.1) s

/-- A message of an interface's function (R366, R399): with MSI-X enabled, sent, or left pending when masked.
Log entry 6: PRESUMED. -/
def State.msix (s : State) (vi vec : Nat) : State :=
  let V := s.vi vi
  let e := tgetD V.msix vec {}
  if !V.msixOn then s
  else if V.msixMask || e.masked then
    s.updVi vi (fun V => { V with msix := tmod V.msix vec {} (fun e => { e with pending := true }) })
  else { s with sent := s.sent ++ [.msix vi vec e.addr e.data] }

/-- The entry count of a ring, as a power of two (R338). -/
def Ring.log2n (r : Ring) : Nat := max 4 (min 16 (r.base.toNat % 32))
/-- The address of a ring (R338). -/
def Ring.addr (r : Ring) : Nat := r.base.toNat / 4096 % 2 ^ 45 * 4096
/-- How many entries stand in a ring. -/
def Ring.used (r : Ring) : Nat := (r.tail - r.head).toNat
/-- The PHASE bit of the next entry: bit LOG2N of TAIL before it (R338). -/
def Ring.phase (r : Ring) : Bool := r.tail.getLsbD r.log2n
/-- The address of the next entry. -/
def Ring.slot (r : Ring) (size : Nat) : Nat := r.addr + r.tail.toNat % 2 ^ r.log2n * size
def Ring.push (r : Ring) : Ring := { r with tail := r.tail + 1 }

/-- Where a device physical address lies (R388). -/
inductive Target388 where
  | hbm (die stack : Nat) | cxl (die : Nat) | host | peer | nowhere
  deriving DecidableEq, Repr

@[inherit_doc Target388] def dpaTarget (s : State) (a : Nat) : Target388 :=
  if a < 0xC000000000 then
    let die := a / 0x3000000000
    .hbm die ((a - die * 0x3000000000) / 4096 % 3)
  else if a / 2 ^ 56 % 2 == 1 then .host
  else if a / 2 ^ 55 % 2 == 1 then .peer
  else if 0x10000000000 ≤ a && a < 0x50000000000 then
    let die := a / 0x10000000000 - 1
    if a % 0x10000000000 < (s.die die).cxlwin.toNat * 2 ^ 30 then .cxl die else .nowhere
  else .nowhere

/-- An address lies in the interface's HBM partition (R400). -/
def Vi.ownsHbm (v : Vi) (a : Nat) : Bool :=
  let lo := v.hbmBase * 2 ^ 30
  let hi := min 768 (v.hbmBase + v.hbmSize) * 2 ^ 30
  lo ≤ a && a < hi

/-- A whole ring lies where the device may use it (R424). -/
def State.ringOk (s : State) (vi : Nat) (r : Ring) (size : Nat) : Bool :=
  let lo := r.addr
  let hi := lo + 2 ^ r.log2n * size - 1
  match dpaTarget s lo, dpaTarget s hi with
  | .host, .host => true
  | .cxl d, .cxl e => d == e
  | .hbm _ _, .hbm _ _ => (s.vi vi).ownsHbm lo && (s.vi vi).ownsHbm hi
  | _, _ => false

/-- A vector number of VECTORS (R399): 0 CQVEC, 1 FQVEC, 2 ELVEC. -/
def Vi.vec (v : Vi) (i : Nat) : Nat := v.vectors.toNat / 2 ^ (8 * i) % 64

/-- An error-log entry (R397): code, die, CIX, block index, address; and for a double trap its cause in bits 31:24 of the
first word and its TPC at 0x10, as R335 lets the log receive them and R397 gives them no place (log entry 64: DESIGN
CHOICE). A full log, or one that lies where it may not, drops the entry and counts it in ELLOST (R399, R424). -/
def State.errEntry (s : State) (vi code die cix : Nat) (bix : Word) (addr : Nat) (cause : BitVec 8) (tpc : DWord) :
    State :=
  let V := s.vi vi
  let r := V.el
  if r.used ≥ 2 ^ r.log2n || !s.ringOk vi r 32 then s.updVi vi (fun V => { V with ellost := V.ellost + 1 })
  else
    let bytes := leBytes 4 (code + die * 2 ^ 8 + cix * 2 ^ 10 + cause.toNat * 2 ^ 24) ++ leBytes 4 bix.toNat
      ++ leBytes 8 addr ++ leBytes 8 tpc.toNat ++ leBytes 8 r.phase.toNat
    let s := s.write (dpaKey (r.slot 32)) bytes false
    (s.updVi vi (fun V => { V with el := V.el.push })).msix vi (V.vec 2)

/-- An error-log entry of any other event. -/
def State.errLog (s : State) (vi code die cix : Nat) (bix : Word) (addr : Nat) : State :=
  s.errEntry vi code die cix bix addr 0 0

/-- An entry logged for a core's work. -/
def State.errLogAt (s : State) (w code addr : Nat) : State :=
  let W := s.warp w
  s.errLog W.vi code (dieOf W.core) (cixOf W.core) W.bix addr

/-- A landing takes bytes off PEND (R155), with what its copy's issuers had issued before it (R197, R198): below zero PEND
stays zero and the landing is logged, in an entry that names no die, core, block or address. Log entry 53: DESIGN
CHOICE. -/
def State.barLand (s : State) (n : BarName) (vi bytes : Nat) (ws : Waits) : State :=
  let b := s.barRelease (s.bar n) ws
  let s := if bytes > b.pend then s.errLog vi 0x02 0 0 0 0 else s
  (s.setBar n { b with pend := b.pend - bytes }).barCheck n

end Sys2Proof.Machine
end

