-- ==== Sys2Proof/Machine/Lines.lean ====
section
/-! DEFINITION. Machine/Lines.lean: the code that protects HBM lines (R347): what a read of a line with errors delivers, and
the marking of pin groups. A stored error is a symbol of a line and the bits in which it differs. -/

namespace Sys2Proof.Machine

/-- Multiplication in GF(2⁸) modulo x⁸ + x⁴ + x³ + x² + 1 (R347): by the bits of b, from the highest of n down. -/
def gfMulFrom (a b : Nat) : Nat → Nat → Nat
  | 0, acc => acc
  | n + 1, acc =>
    let x := if acc ≥ 128 then Nat.xor (2 * acc) 0x11D else 2 * acc
    gfMulFrom a b n (if b.testBit n then Nat.xor x a else x)

@[inherit_doc gfMulFrom] def gfMul (a b : Nat) : Nat := gfMulFrom a b 8 0

/-- A power of α = 2. -/
def gfPow : Nat → Nat
  | 0 => 1
  | n + 1 => gfMul (gfPow n) 2

/-- The inverse of a nonzero element: its power 254. -/
def gfInv (a : Nat) : Nat :=
  let p2 := gfMul a a
  let p4 := gfMul p2 p2
  let p8 := gfMul p4 p4
  let p16 := gfMul p8 p8
  let p32 := gfMul p16 p16
  let p64 := gfMul p32 p32
  let p128 := gfMul p64 p64
  gfMul p2 (gfMul p4 (gfMul p8 (gfMul p16 (gfMul p32 (gfMul p64 p128)))))

/-- The locator of a symbol: symbol 0 is the coefficient of the highest power (log entry 23: PRESUMED). -/
def locator (sym : Nat) : Nat := gfPow (67 - sym)

/-- The syndrome of some errors at a power of α. -/
def syndrome (errs : List (Nat × Byte)) (i : Nat) : Nat :=
  errs.foldl (fun x e => Nat.xor x (gfMul e.2.toNat (gfPow ((67 - e.1) * i % 255)))) 0

/-- The error of a pin group, in its two symbols, that has a syndrome (R347), if there is one. -/
def groupError (s0 s1 s2 s3 g : Nat) : Option (Nat × Nat) :=
  let a := locator (2 * g)
  let b := locator (2 * g + 1)
  let e1 := gfMul (Nat.xor s1 (gfMul b s0)) (gfInv (Nat.xor a b))
  let e2 := Nat.xor s0 e1
  let at2 := Nat.xor (gfMul e1 (gfMul a a)) (gfMul e2 (gfMul b b))
  let at3 := Nat.xor (gfMul e1 (gfMul a (gfMul a a))) (gfMul e2 (gfMul b (gfMul b b)))
  if at2 == s2 && at3 == s3 then some (e1, e2) else none

/-- What a read of a line makes of its errors (R347): delivered with what still differs, and the group whose error it
corrected; or a detected error. -/
inductive Decoded where
  | as (diff : List (Nat × Byte)) (group : Option Nat)
  | detected
  deriving DecidableEq, Repr

/-- A correction applied to some errors. -/
def fixed (errs : List (Nat × Byte)) (sym e : Nat) : List (Nat × Byte) :=
  match errs.find? (fun x => x.1 == sym) with
  | some x => (errs.filter (fun y => y.1 != sym)) ++ (if x.2.toNat == e then [] else [(sym, BitVec.ofNat 8 (Nat.xor x.2.toNat e))])
  | none => if e == 0 then errs else errs ++ [(sym, BitVec.ofNat 8 e)]

/-- The decoding of a line (R347), with the marked pin group of its channel, if there is one. -/
def decodeLine (errs : List (Nat × Byte)) (mark : Option Nat) : Decoded :=
  match mark with
  | some g => if errs.all (fun e => e.1 / 2 == g) then .as [] none else .detected
  | none =>
    let s (i : Nat) : Nat := syndrome errs i
    if s 0 == 0 && s 1 == 0 && s 2 == 0 && s 3 == 0 then .as errs none
    else
      match (List.range 34).findSome? (fun g => (groupError (s 0) (s 1) (s 2) (s 3) g).map (fun e => (g, e))) with
      | some (g, e1, e2) => .as (fixed (fixed errs (2 * g) e1) (2 * g + 1) e2) (some g)
      | none => .detected

/-- The number of an HBM channel: die × 3 + stack + 12 × the channel of its stack. -/
def State.channelOf (s : State) (line : Nat) : Nat :=
  match dpaTarget s (64 * line) with
  | .hbm die stack => die * 3 + stack + 12 * Config.hbmChannel line
  | _ => 0

/-- One line is read (R347, R348): a corrected error of a pin group is counted, a detected one poisons the line. -/
def State.readLine (s : State) (line : Nat) : State × List (Nat × Byte) :=
  let errs := (s.hbmErr.filter (fun e => e.1 == line)).map (fun e => (e.2.1, e.2.2))
  if errs.isEmpty then (s, [])
  else
    let c := s.channelOf line
    match decodeLine errs (tget s.pinMarks c) with
    | .as diff none => (s, diff)
    | .as diff (some g) => ({ s with pinHits := s.pinHits ++ [(c, g, s.now)] }, diff)
    | .detected =>
      let units := (List.range 8).map (· + 8 * line)
      ({ s with poison := units.filter (fun u => !s.poison.contains u) ++ s.poison }, [])

/-- Bytes read at a device physical address, each with its poison (R347, R348). -/
def State.readOff (s : State) (key n : Nat) : State × List (Byte × Bool) :=
  if s.hbmErr.isEmpty || key ≥ 0xC000000000 then
    (s, (List.range n).map (fun i => (s.byte (key + i), s.poison.contains (unitOf (key + i)))))
  else
    let lines := (List.range ((key + n + 63) / 64 - key / 64)).map (· + key / 64)
    let (s, diffs) := lines.foldl (fun (a : State × List (Nat × Byte)) l =>
      let (t, d) := a.1.readLine l
      (t, a.2 ++ (d.filter (fun x => x.1 < 64)).map (fun x => (64 * l + x.1, x.2)))) (s, [])
    (s, (List.range n).map (fun i =>
      let b := (diffs.filter (fun d => d.1 == key + i)).foldl (fun b d => b ^^^ d.2) (s.byte (key + i))
      (b, s.poison.contains (unitOf (key + i)))))

/-- A number of n bytes read at a key, and whether it is poisoned (R347, R348). -/
def State.readNum (s : State) (key n : Nat) : State × Nat × Bool :=
  if s.hbmErr.isEmpty || key ≥ 0xC000000000 then (s, s.num key n, s.tainted key n)
  else
    let (t, bs) := s.readOff key n
    (t, leNat (bs.map (·.1)), bs.any (·.2))

/-- What a fetch or a walk reads at a key of 8 bytes. A poisoned line gives it a free value, as the spec does not say what it
makes of one. Log entry 23: DESIGN CHOICE. -/
def State.lineWord (s : State) (key : Nat) : Nat :=
  let r := s.readNum key 8
  if r.2.2 then (Config.freeWord (s.fresh + 8193)).toNat else r.2.1

/-- A read of 8 bytes counts for the channel of its line (R347). -/
def State.sense (s : State) (key : Nat) : State := (s.readNum key 8).1

/-- HBM_PIN_GROUP_MARK (R347): after corrections on 16 reads within 10 ms the controller marks the group failed, the first
of its channel, with an entry in every interface's log. -/
def execHbmPinGroupMark (chan pin : Nat) (s : State) : Host.Outcome State Fault Refusal :=
  .next (
    let hits := s.pinHits.filter (fun h => h.1 == chan && h.2.1 == pin && s.now - h.2.2 ≤ 2970000000)
    if (tget s.pinMarks chan).isSome || hits.length < 16 then s
    else
      let s := { s with pinMarks := tset s.pinMarks chan pin, pinHits := s.pinHits.filter (fun h => h.1 != chan) }
      let code := (Config.channelCode (chan % 12 % 3) (chan / 12)).toNat
      (List.range 64).foldl (fun s v => s.errLog v 0x0F (chan % 12 / 3) 0 0 (code * 256 + pin)) s)

end Sys2Proof.Machine
end

