-- ==== Sys2Proof/Machine/Future.lean ====
section
/-! DEFINITION. Machine/Future.lean: future records, their references and their doom (R242 to R249, R256 to R260,
R318, R319, R339). -/

namespace Sys2Proof.Machine

/-- The handle of a record (R243). -/
def futHandle (f : Nat) (gen : BitVec 8) : Word :=
  BitVec.ofNat 32 (f / 2 ^ 22 * 2 ^ 30 + f % 2 ^ 22 * 2 ^ 8 + gen.toNat)

/-- The record that a handle names (R243). -/
def futNo (h : Word) : Nat := h.toNat / 2 ^ 30 * 2 ^ 22 + h.toNat / 2 ^ 8 % 2 ^ 22

/-- A handle is current while its GEN is its record's (R243); GEN 0 names no record. -/
def State.current (s : State) (h : Word) : Bool :=
  h.setWidth 8 != 0 && h.setWidth 8 == (s.fut (futNo h)).gen

/-- Records of a die: the SRAM's and those of the overflow area (R244). -/
def State.futLimit (s : State) (die : Nat) : Nat :=
  262144 + 4096 * min 960 ((s.die die).futArea.toNat / 2 ^ 54)

/-- The free record of lowest index from i on, among n (R244). -/
def State.futScan (s : State) (die : Nat) : Nat → Nat → Option Nat
  | 0, _ => none
  | n + 1, i =>
    if i ≥ s.futLimit die then none
    else if (s.fut (die * 2 ^ 22 + i)).st = .free then some (die * 2 ^ 22 + i) else s.futScan die n (i + 1)

/-- The record that a new future of a die takes (R244). -/
def State.futFind (s : State) (die : Nat) : Option Nat := s.futScan die (s.futs.length + 1) 0

/-- A record taken for new work, with the issuer's reference (R245, R246). -/
def State.futTake (s : State) (f : Nat) (kind : FutKind) (op : Nat) : State :=
  s.updFut f (fun r => { r with st := .run, count := 1, value := 0, kind := kind, op := op })

/-- The next generation (R243): 255 is followed by 1. -/
def nextGen (g : BitVec 8) : BitVec 8 := if g == 255 then 1 else g + 1

/-- A record becomes FREE and its generation advances (R245). -/
def State.futRelease (s : State) (f : Nat) : State :=
  s.updFut f (fun r => { r with st := .free, gen := nextGen r.gen, count := 0, value := 0 })

/-- A future completes with a value (R248): a doomed one delivers nothing and is freed. -/
def State.futComplete (s : State) (f : Nat) (v : DWord) : State :=
  match (s.fut f).st with
  | .run | .fault => s.updFut f (fun r => { r with st := .done, value := v })
  | .doom => s.futRelease f
  | _ => s

/-- The status word of an engine operation (R248). -/
def statusWord (chk code : Nat) : DWord := BitVec.ofNat 64 (chk * 2 ^ 32 + code)

/-- Chunks of a copy (R253). -/
def Copy.chunks (c : Copy) : Nat := (c.total + 4095) / 4096

/-- Two byte ranges meet. -/
def meets (a n b m : Nat) : Bool := a < b + m && b < a + n

/-- A line's presence bit is 0 (R176). -/
def State.lineAbsent (s : State) (line : Nat) : Bool := s.absent.contains line

/-- The lines that a range touches. -/
def linesIn (key size : Nat) : List Nat := (List.range ((key + size + 63) / 64 - key / 64)).map (key / 64 + ·)

/-- The on-chip bytes of one side of a copy: first key and count. -/
def Side.chipRange (x : Side) (total : Nat) : Option (Nat × Nat) :=
  match x with
  | .chip k => some (k, total)
  | _ => none

/-- The on-chip scale stream of a fill (R295). -/
def Copy.streamRange (c : Copy) : Option (Nat × Nat) :=
  match c.fill with
  | some f => if f.blocks == 0 then none else f.scaleKey.map (fun k => (k, f.scaleBytes))
  | none => none

/-- The on-chip ranges of a copy: source, destination and scale stream, as first keys and counts (R293). -/
def Copy.chipRanges (c : Copy) : List (Nat × Nat) :=
  [c.src.chipRange c.total, c.dst.chipRange c.total, c.streamRange].filterMap id

/-- Every line that a range touches is present. -/
def State.present (s : State) (key size : Nat) : Bool := (linesIn key size).all (fun l => !s.lineAbsent l)

/-- Presence bits cleared (R176). -/
def State.clearPresence (s : State) (ls : List Nat) : State :=
  { s with absent := ls ++ s.absent.filter (fun l => !ls.contains l) }

/-- Presence bits set (R176): what a line's absence held goes on. -/
def State.setPresence (s : State) (ls : List Nat) : State :=
  let s := { s with absent := s.absent.filter (fun l => !ls.contains l) }
  { s with warps := tmap s.warps (fun _ W => { W with accs := tmap W.accs (fun _ a =>
    if a.held && s.present a.key a.size then { a with held := false } else a) }) }

/-- The on-chip lines that a copy writes. Those of a fill lie in the operand buffer, whose presence nothing looks at. -/
def Copy.lines (c : Copy) : List Nat :=
  match c.dst with
  | .chip k => linesIn k c.total
  | _ => []

/-- A chunk of a copy has yet to land bytes in a line. -/
def Copy.owes (c : Copy) (line : Nat) : Bool :=
  match c.dst with
  | .chip k => (List.range c.chunks).any (fun j => !c.landed.contains j
      && meets (line * 64) 64 (k + j * 4096) (min 4096 (c.total - j * 4096)))
  | _ => false

/-- A copy that ends before all of it has landed: the lines that it has yet to write are present (R176, R254, R259). -/
def State.copyLines (s : State) (c : Copy) : State :=
  match c.lines.filter c.owes with
  | [] => s
  | ls => s.setPresence ls

/-- CANCEL is set in the entry of a fault whose work has been doomed or killed (R339). -/
def State.cancelFault (s : State) (vi token : Nat) : State :=
  match tget (s.vi vi).faults token with
  | none => s
  | some f =>
    let s := s.updVi vi (fun V => { V with faults := tupd V.faults token (fun f => { f with cancelled := true }) })
    match f.entry with
    | none => s
    | some a => s.writeNum (dpaKey (a + 0x14)) 4 1 false

/-- The bytes of a copy that its landed chunks hold. -/
def Copy.landedBytes (c : Copy) : Nat := (c.landed.map (fun j => min 4096 (c.total - 4096 * j))).sum

/-- A doomed copy has stopped (R259): its lines are present, its locks and entry free, the bytes that never started
leave PEND, its record is FREE. -/
def State.copyStop (s : State) (id : Nat) : State :=
  match tget s.copies id with
  | none => s
  | some c =>
    let s := { s with copies := tdel s.copies id }
    let s :=
      if c.cut then s
      else match c.bar with
        | some n => (s.copyLines c).barLand n c.vi (c.total - c.landedBytes) c.waits
        | none => s.copyLines c
    let s := c.faults.foldl (fun s f => s.cancelFault c.vi f.2) s
    if c.atoms.isEmpty then s.futRelease c.fut else s

/-- A doomed matrix operation has stopped (R260): its word leaves its queue, its record is FREE. -/
def State.matrixStop (s : State) (word : Nat) : State :=
  match tget s.mwords word with
  | none => s
  | some m =>
    match m.op with
    | .mma o =>
      let s := { s with mwords := tdel s.mwords word }
      let s := s.updCore m.core (fun c => { c with keeps := if c.keeps = some word then none else c.keeps })
      let s := s.raise m.warp o.flags
      let s := o.faults.foldl (fun s tok => s.cancelFault (s.block m.block).vi tok) s
      s.futRelease o.fut
    | _ => s

/-- The core on which a future's work stands, for the cycles of its doom notice (R257). -/
def State.futCore (s : State) (r : Fut) : Nat :=
  match r.kind with
  | .copy => match tget s.copies r.op with | some c => c.core | none => 0
  | .matrix => match tget s.mwords r.op with | some m => m.core | none => 0
  | .task => r.op

/-- A record's count has reached 0 (R245, R256): DONE becomes FREE; RUN and FAULT become DOOM, and the notice goes
out. An engine operation in FAULT stops at once (R259, R260), with the
chunks of a copy that are in flight landing first. Log entry 14: DESIGN CHOICE. -/
def State.futDoom (s : State) (f : Nat) : State :=
  let r := s.fut f
  match r.st with
  | .done => s.futRelease f
  | .run | .fault =>
    let delay := Config.freeDelay s.fresh % 257
    let s := { s with fresh := s.fresh + 1 }
    let s := s.updFut f (fun r => { r with st := .doom, notice := s.cycle (s.futCore r) + delay })
    match r.kind with
    | .task => s
    | .copy =>
      let s := { s with copies := tupd s.copies r.op (fun c => { c with doomed := true }) }
      if r.st = .fault && (tget s.copies r.op).any (·.flying.isEmpty) then s.copyStop r.op else s
    | .matrix => if r.st = .fault then s.matrixStop r.op else s
  | _ => s

/-- One reference to a record is dropped (R247). -/
def State.futDrop (s : State) (f : Nat) : State :=
  let s := s.updFut f (fun r => { r with count := r.count - 1 })
  if (s.fut f).count == 0 then s.futDoom f else s

/-- The doom notice of a record has reached its core (R257). -/
def State.noticed (s : State) (f : Nat) : Bool :=
  let r := s.fut f
  r.st = .doom && r.notice ≤ s.cycle (s.futCore r)

/-- A lane's task is doomed and its notice has arrived. -/
def State.laneDoomed (s : State) (L : Lane) : Bool :=
  match L.task with
  | none => false
  | some f => s.noticed f

/-- The first reference of a list that a lane holds to a record: a thread reference before a gang reference (R319). -/
def refFind (refs : List (Nat × Bool × BitVec 32)) (f l : Nat) : Option (Nat × Bool × BitVec 32) :=
  let own (gang : Bool) (x : Nat × Bool × BitVec 32) : Bool := x.1 == f && x.2.1 == gang && x.2.2.getLsbD l
  refs.find? (own false) <|> refs.find? (own true)

/-- Insertion by ascending record index (R247). -/
def insertAsc (x : Nat) : List Nat → List Nat
  | [] => [x]
  | y :: ys => if x ≤ y then x :: y :: ys else y :: insertAsc x ys

def sortAsc (xs : List Nat) : List Nat := xs.foldr insertAsc []

/-- A thread that has ended drops its references in ascending record index; a gang reference is dropped with the last
of its threads (R247). -/
def State.dropAll (s : State) (w l : Nat) : State :=
  let refs := (s.warp w).refs
  let mine := refs.filter (fun x => x.2.2.getLsbD l)
  let rest := (refs.map (fun x => (x.1, x.2.1, setBit x.2.2 l false))).filter (fun x => x.2.2 != 0)
  let gone := sortAsc ((mine.filter (fun x => setBit x.2.2 l false == 0)).map (·.1))
  gone.foldl State.futDrop (s.updWarp w (fun W => { W with refs := rest }))

end Sys2Proof.Machine
end

