-- ==== Sys2Proof/Machine/Channel.lean ====
section
/-! DEFINITION. Machine/Channel.lean: channel records and what the Gnomon does with them (R261 to R264). A channel is
numbered die × 2^27 + address of its record; its counters and its granule map lie in the die scratchpad. -/

namespace Sys2Proof.Machine

def chanDie (c : Nat) : Nat := c / 2 ^ 27
def chanAddr (c : Nat) : Nat := c % 2 ^ 27

/-- A word of a channel record (R261). -/
def State.chanWord (s : State) (c off : Nat) : Word := BitVec.ofNat 32 (s.num (dspKey (chanDie c) (chanAddr c + off)) 4)

def State.chanBase (s : State) (c : Nat) : Nat := (s.chanWord c 0x00).toNat
def State.chanSize (s : State) (c : Nat) : Nat := 2 ^ ((s.chanWord c 0x04).toNat % 32)
def State.chanMap (s : State) (c : Nat) : Nat := (s.chanWord c 0x08).toNat
def State.chanClaim (s : State) (c : Nat) : Word := s.chanWord c 0x0C
def State.chanCommit (s : State) (c : Nat) : Word := s.chanWord c 0x10
def State.chanTaken (s : State) (c : Nat) : Word := s.chanWord c 0x14
def State.chanRetire (s : State) (c : Nat) : Word := s.chanWord c 0x18

/-- A counter written by the Gnomon. -/
def State.setChanWord (s : State) (c off : Nat) (v : Word) : State :=
  s.writeNum (dspKey (chanDie c) (chanAddr c + off)) 4 v.toNat false

/-- The byte of the granule map that holds a granule's pair, and the pair's place in it. -/
def State.mapByte (s : State) (c : Nat) (g : Word) : Nat × Nat :=
  let i := g.toNat % s.chanSize c
  (dspKey (chanDie c) (s.chanMap c + i / 4), i % 4 * 2)

/-- Bit 0 (DONE) or bit 1 (VOID) of a granule. -/
def State.mapBit (s : State) (c : Nat) (g : Word) (bit : Nat) : Bool :=
  let (k, p) := s.mapByte c g
  (s.byte k).getLsbD (p + bit)

def State.setMapBit (s : State) (c : Nat) (g : Word) (bit : Nat) (v : Bool) : State :=
  let (k, p) := s.mapByte c g
  s.writeNum k 1 (setBit (s.byte k) (p + bit) v).toNat false

/-- DONE is set for granules first to first + k − 1, and VOID with it for a void commit. -/
def State.markDone (s : State) (c : Nat) (first : Word) (void : Bool) : Nat → State
  | 0 => s
  | k + 1 =>
    let s := s.setMapBit c first 0 true
    let s := if void then s.setMapBit c first 1 true else s
    s.markDone c (first + 1) void k

/-- COMMIT, or RETIRE, moves over granules that are DONE, up to its limit (R263). -/
def State.advance (s : State) (c off : Nat) (limit : Word) (clearVoid : Bool) : Nat → State
  | 0 => s
  | n + 1 =>
    let p := s.chanWord c off
    if p == limit || !s.mapBit c p 0 then s
    else
      let s := s.setMapBit c p 0 false
      let s := if clearVoid then s.setMapBit c p 1 false else s
      (s.setChanWord c off (p + 1)).advance c off limit clearVoid n

/-- A claim is committed (R263, R264). -/
def State.chanCommitOp (s : State) (c : Nat) (x : Claim) (void : Bool) : State :=
  let s := s.updChan c (fun h => { h with claims := h.claims.filter (· ≠ x) })
  let s := s.markDone c x.first void x.k
  s.advance c 0x10 (s.chanClaim c) false (s.chanSize c)

/-- A take is retired (R263, R264). -/
def State.chanRetireOp (s : State) (c : Nat) (x : Claim) : State :=
  let s := s.updChan c (fun h => { h with takes := h.takes.filter (· ≠ x) })
  let s := s.markDone c x.first false x.k
  s.advance c 0x18 (s.chanTaken c) true (s.chanSize c)

/-- The condition of a claim of k granules (R263). -/
def State.canClaim (s : State) (c k : Nat) : Bool :=
  (s.chanClaim c - s.chanRetire c).toNat + k ≤ s.chanSize c && (s.chan c).claims.length < 32

/-- The condition of an await of k granules (R263). -/
def State.canAwait (s : State) (c k : Nat) : Bool :=
  (s.chanCommit c - s.chanTaken c).toNat ≥ k && (s.chan c).takes.length < 32

/-- claim(k) performed (R263): the first granule. -/
def State.chanClaimOp (s : State) (c k : Nat) (owners : List Nat) : State × Word :=
  let first := s.chanClaim c
  let s := s.setChanWord c 0x0C (first + BitVec.ofNat 32 k)
  (s.updChan c (fun h => { h with claims := h.claims ++ [⟨first, k, owners⟩] }), first)

/-- The VOID bits of granules first to first + n − 1, bit j for granule first + j (R297). -/
def State.voidBits (s : State) (c : Nat) (first : Word) : Nat → Nat
  | 0 => 0
  | n + 1 => s.voidBits c first n + if s.mapBit c (first + BitVec.ofNat 32 n) 1 then 2 ^ n else 0

/-- await(k) performed (R263, R297): the first granule and the VOID bits of the first 32. -/
def State.chanAwaitOp (s : State) (c k : Nat) (owners : List Nat) : State × Word × Word :=
  let first := s.chanTaken c
  let v := s.voidBits c first (min k 32)
  let s := s.setChanWord c 0x14 (first + BitVec.ofNat 32 k)
  (s.updChan c (fun h => { h with takes := h.takes ++ [⟨first, k, owners⟩] }), first, BitVec.ofNat 32 v)

/-- A thread that has ended leaves the owners of its claims and takes; a claim whose owners have all ended is void and
committed, a take whose owners have all ended is retired (R264). -/
def State.chanLeave (s : State) (t : Nat) : State :=
  s.chans.foldl (fun s x =>
    let h := s.chan x.1
    let strip (c : Claim) : Claim := { c with owners := c.owners.filter (· != t) }
    let s := s.updChan x.1 (fun h => { h with claims := h.claims.map strip, takes := h.takes.map strip })
    let s := ((h.claims.map strip).filter (·.owners.isEmpty)).foldl (fun s c => s.chanCommitOp x.1 c true) s
    ((h.takes.map strip).filter (·.owners.isEmpty)).foldl (fun s c => s.chanRetireOp x.1 c) s) s

/-- A handle's binding is released (R262, R297). -/
def State.unbind (s : State) (c : Nat) : State := s.updChan c (fun h => { h with bound := h.bound - 1 })

/-- A record is bound, so that a thread store or a copy that writes its line is discarded (R262). -/
def State.boundLine (s : State) (key : Nat) : Bool :=
  s.chans.any (fun x => x.2.bound != 0 && lineOf (dspKey (chanDie x.1) (chanAddr x.1)) == lineOf key)

end Sys2Proof.Machine
end

