-- ==== Sys2Proof/Machine/Thread.lean ====
section
/-! DEFINITION. Machine/Thread.lean: the register pool's counts (R170, R171), and the end of threads, warps, blocks and
clusters (R109, R121, R128, R181, R185, R247, R264). -/

namespace Sys2Proof.Machine

/-- Freed slice-granules raise V to 256 first and then F (R171); V = 256 ends the holding of the reserve (R172). -/
def Core.release (c : Core) (n : Nat) : Core :=
  let up := min n (256 - c.reserve)
  let v := c.reserve + up
  { c with reserve := v, free := c.free + (n - up), holder := if v ≥ 256 then none else c.holder }

/-- The resident slice-granules of a slice-frame. -/
def SliceFrame.resident (x : SliceFrame) : Nat := if x.spilled then x.granules - x.image else x.granules

/-- A range given back to the spill area (R167). -/
def State.freeSpill (s : State) (die owner : Nat) : State :=
  s.updDie die (fun d => { d with spill := d.spill.filter (fun x => x.2.2 != owner) })

/-- A lane leaves a slice-frame; the last one frees it, image included (R171, R108). -/
def State.leaveSlice (s : State) (w l sf : Nat) : State :=
  let W := s.warp w
  match tget W.slices sf with
  | none => s
  | some x =>
    let rest := x.lanes.filter (· != l)
    if rest.isEmpty then
      let s := if x.spilled then s.freeSpill (dieOf W.core) sf else s
      (s.updWarp w (fun W => { W with slices := tdel W.slices sf })).updCore W.core (·.release x.resident)
    else s.updWarp w (fun W => { W with slices := tset W.slices sf { x with lanes := rest } })

/-- The outstanding long operations of a warp have a destination in a lane. -/
def Warp.laneLong (W : Warp) (l : Nat) : Bool :=
  W.longs.any (fun x => x.2.dests.any (fun d => match d.tgt with
    | .vec k _ => k == l
    | .pred k _ => k == l
    | .uni _ => false))

/-- The call frames of an ended lane are freed once its long results have arrived (R109, R257). The launch frame
stays with its block or wave (R128, R130). -/
def State.reapLane (s : State) (w l : Nat) : State :=
  let W := s.warp w
  let L := W.lane l
  if L.alive || L.frames.length ≤ 1 || W.laneLong l then s
  else
    let s := (L.frames.take (L.frames.length - 1)).foldl (fun s f => s.leaveSlice w l f.sf) s
    s.updWarp w (fun W => W.updLane l (fun L => { L with frames := L.frames.drop (L.frames.length - 1) }))

/-- The destinations of a long operation without those of a lane. -/
def LongOp.without (o : LongOp) (l : Nat) : LongOp :=
  { o with dests := o.dests.filter (fun d => match d.tgt with
    | .vec k _ => k != l
    | .pred k _ => k != l
    | .uni _ => true) }

/-- A long operation that nothing is outstanding of. -/
def LongOp.done (o : LongOp) : Bool := o.dests.isEmpty && o.waits == 0

/-- The accesses that an ended lane was parked at are dropped; its outstanding results are discarded as they arrive
(R109, R257), and those that no access in flight will bring are discarded now. -/
def Warp.dropParked (W : Warp) (l : Nat) : Warp :=
  let parked := match (W.lane l).park, (W.lane l).parkRec with
    | .no, .no => false
    | _, _ => true
  { W with
    accs := W.accs.filter (fun x => !(x.2.lane == l && x.2.parked))
    longs := if parked then (tmap W.longs (fun _ o => o.without l)).filter (fun x => !x.2.done) else W.longs }

/-- The long operation to which the results of a request belong. -/
def Req.op? : Req → Option Nat
  | .chClaim _ _ _ op => some op
  | .chAwait _ _ _ op => some op
  | .copyRoom c _ => c.atoms.head?.map (·.2.2.2.2)
  | _ => none

/-- A lane leaves the parked gangs that it is in; a gang without lanes is gone, and with it the results that it waited
for (R109, R257). -/
def Warp.leaveGangs (W : Warp) (l : Nat) : Warp :=
  let gs := tmap W.gangs (fun _ g => { g with lanes := setBit g.lanes l false })
  let gone := (gs.filter (fun x => x.2.lanes == 0)).filterMap (·.2.req.op?)
  { W with
    gangs := gs.filter (fun x => x.2.lanes != 0)
    longs := W.longs.filter (fun x => !gone.contains x.1) }

/-- One thread ends, as `exit` ends it (R109, R121, R247, R264): rejoin bits, barriers, references, claims, and what it
waited for at a fault (R339). -/
def State.endThread (s : State) (w l : Nat) : State :=
  if !((s.warp w).lane l).alive then s
  else
    let dead (g : Gang) : List Nat := match g.req with
      | .fetch toks => if setBit g.lanes l false == 0 then toks else []
      | _ => []
    let vi := (s.warp w).vi
    let s := ((s.warp w).gangs.flatMap (fun g => dead g.2)).foldl (fun (s : State) tok => s.cancelFault vi tok) s
    let s := s.updWarp w (fun W =>
      let W := { W.dropParked l with late := W.late.filter (fun x => !x.2.1.of l) }
      let W := W.updLane l (fun L => { L with alive := false, park := .no, parkRec := .no, held := false })
      { W.leaveGangs l with m := tmap W.m (fun _ x => setBit x l false) })
    let s := s.barLeave (threadNo w l)
    let s := s.dropAll w l
    let s := s.chanLeave (threadNo w l)
    s.reapLane w l

/-- A cluster with no block left ends (R181): its generation moves on, its segment and identifier return, and its
barriers are those of the next cluster's launch (R230). -/
def State.clusterCheck (s : State) (c : Nat) : State :=
  let busy := s.blocks.any (fun x => x.2.live && !x.2.wave && clusterNo (dieOf x.2.core) x.2.cid == c)
  if busy || !(s.cluster c).live then s
  else
    let s := { s with bars := s.bars.filter (fun x => !(x.1.scope == 2 && x.1.owner == c)) }
    s.updCluster c (fun k => { k with live := false, gen := k.gen + 1, sets := ((k.gen + 1, []) :: k.sets).take 4 })

/-- A matrix word of the core names a reservation. -/
def MOp.resv? : MOp → Option Nat
  | .obrel r => some r
  | .bload r _ _ => some r
  | .mma m => some m.resv
  | _ => none

/-- The reservations of a block that nothing outstanding reads or fills are freed (R302); B slots likewise (R304). -/
def State.freeMatrix (s : State) (b : Nat) : State :=
  let busyResv (r : Nat) : Bool :=
    s.mwords.any (fun x => x.2.op.resv? == some r)
      || s.copies.any (fun x => match x.2.fill with | some f => f.resv == r | none => false)
  let busySlots : Bool := s.mwords.any (fun x => x.2.block == b)
  let core := (s.block b).core
  let s := { s with resvs := tmap s.resvs (fun k r =>
    if r.block == b then { r with ended := true, freed := r.freed || !busyResv k } else r) }
  if busySlots then s
  else s.updCore core (fun c => { c with
    slots := c.slots.filter (fun x => x.1 / 64 != b)
    holders := c.holders.filter (fun x => x.2 != b) })

/-- The launch frames of a warp return to the pool with its block or wave (R128): what is resident of them. -/
def State.freeLaunch (s : State) (w : Nat) : State :=
  let W := s.warp w
  let n := W.slices.foldl (fun n x => n + x.2.resident) 0
  let s := W.slices.foldl (fun s x => if x.2.spilled then s.freeSpill (dieOf W.core) x.1 else s) s
  (s.updWarp w (fun W => { W with slices := [] })).updCore W.core (·.release n)

/-- Whether any thread of a warp is unended. -/
def Warp.live (W : Warp) : Bool := W.lanes.any (fun x => x.2.alive)

/-- A warp whose threads have all ended releases its channel handles (R262); a wave returns its slot and frames, and what it
has frozen (R185). -/
def State.warpCheck (s : State) (w : Nat) : State :=
  let W := s.warp w
  if W.live then s
  else
    let s := W.c.foldl (fun s x => s.unbind x.2) s
    let s := s.updWarp w (fun W => { W with c := [] })
    if W.wave then
      let back := (W.slices.filter (fun x => x.2.depth == 1)).length * (s.block W.block).exchange
      let s := (s.freeLaunch w).freeSpill (dieOf W.core) w
      let s := s.updCore W.core (·.release back)
      let s := s.updWarp w (fun W => { W with freeze := 0 })
      s.updBlock W.block (fun B => { B with live := false, released := true, exchange := 0 })
    else s

/-- The buffers of a block that has ended return to it, whoever holds them: no window holds them any more (R179), and those
that the block itself held in windows stay with no holder (R178). -/
def State.returnBuffers (s : State) (b : Nat) : State :=
  let mine := s.buffers.filter (fun x => x.home == b)
  let s := mine.foldl (fun s x => match x.holder with
    | some h => s.updBlock h (fun B => { B with windows := B.windows.filter (fun y => y.2 != x.handle) })
    | none => s) s
  { s with buffers := s.buffers.filter (fun x => x.home != b) }

/-- A block whose threads have all ended returns its resources (R128, R157, R166, R177, R185), and its cluster is
looked at. -/
def State.blockCheck (s : State) (b : Nat) : State :=
  let B := s.block b
  if !B.live || B.warps.any (fun w => (s.warp w).live) then s
  else
    let s := s.updBlock b (fun B => { B with live := false, released := true, exchange := 0, windows := [], shares := [] })
    let s := if B.released then s else B.warps.foldl State.freeLaunch s
    let s := if B.released then s else s.updCore B.core (·.release (8 * B.exchange))
    let s := B.warps.foldl (fun s w => (s.updWarp w (fun W => { W with freeze := 0 })).freeSpill (dieOf B.core) w) s
    let s := s.returnBuffers b
    let s := s.freeMatrix b
    s.clusterCheck (clusterNo (dieOf B.core) B.cid)

/-- PREQ.SAVED is set when every user warp of a core is saved or ended (R341, R367). -/
def State.checkSaved (s : State) (core : Nat) : State :=
  if s.warps.all (fun x => x.2.core != core || x.2.saved || !x.2.live) then
    s.updCore core (fun c => { c with preq := c.preq ||| 0x20000000 })
  else s

/-- Threads of one warp end (R109), and what follows from it for the warp, its block and its core. -/
def State.endThreads (s : State) (w : Nat) (m : BitVec 32) : State :=
  let s := (lanesOf m).foldl (fun s l => s.endThread w l) s
  let s := s.warpCheck w
  let s := if (s.warp w).wave then s else s.blockCheck (s.warp w).block
  if (s.warp w).live then s else s.checkSaved (s.warp w).core

end Sys2Proof.Machine
end

