-- ==== Sys2Proof/Machine/Kill.lean ====
section
/-! DEFINITION. Machine/Kill.lean: killing a gang's kill set, and what becomes of its grid (R335, R349, R350, R352). -/

namespace Sys2Proof.Machine

/-- The warps of a grid on some cores. -/
def State.warpsOn (s : State) (grid : Nat) (cores : List Nat) : List Nat :=
  (s.warps.filter (fun x => x.2.grid == grid && x.2.live && cores.contains x.2.core)).map (·.1)

/-- A record is referenced by a thread of a warp outside a list (R349). -/
def State.outsideRef (s : State) (ws : List Nat) (f : Nat) : Bool :=
  s.warps.any (fun x => !ws.contains x.1 && x.2.refs.any (fun r => r.1 == f))

/-- The on-chip storage of the blocks of some warps (R349): block shared memory, the segments of their clusters, and their
reservations of the operand buffer. -/
def State.ownedRanges (s : State) (ws : List Nat) : List (Nat × Nat) :=
  let bs := (ws.map (fun w => (s.warp w).block)).eraseDups
  let ks := (ws.map s.clusterOf).eraseDups
  bs.map (fun b => (blkKey (s.block b).core ((s.block b).unit * 4096), (s.block b).bshm * 1024))
    ++ ks.map (fun k => (dspKey (k / 1024) (s.cluster k).base, (s.cluster k).size))
    ++ (s.resvs.filter (fun r => bs.contains r.2.block)).map (fun r =>
        (obKey (s.block r.2.block).core (r.2.base * 256), (r.2.len + 1) * 256))

/-- A copy has a range in some storage. -/
def Copy.inRanges (c : Copy) (rs : List (Nat × Nat)) : Bool :=
  c.chipRanges.any (fun x => rs.any (fun r => meets x.1 x.2 r.1 r.2))

/-- The kill set must widen to the grid (R349, step 1). -/
def State.mustWiden (s : State) (ws : List Nat) : Bool :=
  ws.any (fun w => (s.warp w).lanes.any (fun x => match x.2.task with
    | some f => x.2.alive && s.outsideRef ws f
    | none => false))
  || s.copies.any (fun c => s.outsideRef ws c.2.fut && c.2.inRanges (s.ownedRanges ws))
  || s.mwords.any (fun m => match m.2.op with
    | .mma o => ws.contains m.2.warp && s.outsideRef ws o.fut
    | _ => false)

/-- The kill set of a warp's gang, as warps, and whether it is the whole grid (R349). -/
def State.killSet (s : State) (w : Nat) : List Nat × Bool :=
  let g := (s.warp w).grid
  let ws := s.warpsOn g (s.memberCores w)
  let ws := if ws.contains w then ws else w :: ws
  if s.mustWiden ws then ((s.warps.filter (fun x => x.2.grid == g && x.2.live)).map (·.1), true) else (ws, false)

/-- The matrix words of killed warps: a running pass goes on with its results discarded, everything else stops
(R286, R349). -/
def State.killMatrix (s : State) (ws : List Nat) : State :=
  s.mwords.foldl (fun s x =>
    if !ws.contains x.2.warp then s
    else match x.2.op with
      | .mma o =>
        if (s.core x.2.core).pass.any (fun p => p.word == x.1) then
          { s with mwords := tset s.mwords x.1 { x.2 with op := .mma { o with dead := true } } }
        else s.matrixStop x.1
      | _ => { s with mwords := tdel s.mwords x.1 }) s

/-- Every thread of some warps ends as killed; their traps and pending completions end with them (R349). -/
def State.killWarps (s : State) (ws : List Nat) : State :=
  let s := s.killMatrix ws
  let s := ws.foldl (fun s w => s.updWarp w (fun W => { W with trap := none, stall := false, saved := false })) s
  ws.foldl (fun s w => s.endThreads w (s.warp w).alive) s

/-- A grid whose kill set has been killed is relaunched, or fails (R350). -/
def State.afterKill (s : State) (g : Nat) (idx : List Nat) (wide : Bool) : State :=
  let G := s.grid g
  if G.launch.relaunch && G.relaunches < 4 then
    let again := if wide then List.range G.next else idx
    s.updGrid g (fun G => { G with
      relaunches := G.relaunches + 1
      todo := sortAsc (again ++ G.todo.filter (fun i => !again.contains i)) })
  else
    let s := s.updGrid g (fun G => { G with
      failed := some (if G.launch.relaunch then 6 else 5), todo := [], next := G.launch.nblk })
    s.killWarps ((s.warps.filter (fun x => x.2.grid == g && x.2.live)).map (·.1))

/-- A gang is killed (R349): its kill set ends, an entry is logged, and the grid goes on as R350 states. -/
def State.killBy (s : State) (w : Nat) (log : State → State) : State :=
  let (ws, wide) := s.killSet w
  let g := (s.warp w).grid
  let idx := sortAsc ((ws.filter (fun w => !(s.warp w).wave)).map (fun w => (s.warp w).bix.toNat)).eraseDups
  ((log s).killWarps ws).afterKill g idx wide

/-- A gang is killed, and the entry names a code and an address. -/
def State.killGang (s : State) (w code addr : Nat) : State := s.killBy w (·.errLogAt w code addr)

/-- A double trap (R335): the kill set of the gang is killed, and the error log receives its cause, TPC and TADDR. -/
def State.doubleTrap (s : State) (w : Nat) (t : Trap) : State :=
  let W := s.warp w
  let tpc := t.tpc.getD (W.lane ((lanesOf t.mask).headD 0)).pc
  s.killBy w (fun s => s.errEntry W.vi 0x06 (dieOf W.core) (cixOf W.core) W.bix t.addr.toNat t.cause tpc)

end Sys2Proof.Machine
end

