-- ==== Sys2Proof/Machine/Ops.lean ====
section
/-! DEFINITION. Machine/Ops.lean: taking an exception and returning from it (R332 to R335, R358 to R361, R365), the
instruction being issued and its lanes (R55, R72, R102, R117, R118), parking and waking, outstanding long operations
(R60 to R62). -/

namespace Sys2Proof.Machine

/-- The codes of TCAUSE (R361). -/
def cIllegal : BitVec 8 := 0x01
def cPairing : BitVec 8 := 0x02
def cPrivilege : BitVec 8 := 0x03
def cLanding : BitVec 8 := 0x04
def cFetch : BitVec 8 := 0x05
def cRange : BitVec 8 := 0x06
def cAlign : BitVec 8 := 0x07
def cOwner : BitVec 8 := 0x08
def cLock : BitVec 8 := 0x09
def cOverlap : BitVec 8 := 0x0A
def cStale : BitVec 8 := 0x0B
def cFreeze : BitVec 8 := 0x0C
def cBarrier : BitVec 8 := 0x0D
def cTransfer : BitVec 8 := 0x0E
def cOrphan : BitVec 8 := 0x0F
def cDepth : BitVec 8 := 0x10
def cSpill : BitVec 8 := 0x11
def cMark : BitVec 8 := 0x12
def cChannel : BitVec 8 := 0x13
def cCopy : BitVec 8 := 0x14
def cFormat : BitVec 8 := 0x15
def cConverge : BitVec 8 := 0x16
def cReference : BitVec 8 := 0x17
def cAtomic : BitVec 8 := 0x18
def cAccess : BitVec 8 := 0x19
def cDeterm : BitVec 8 := 0x1A
def cDigest : BitVec 8 := 0x1B
def cSoftware : BitVec 8 := 0x20
def cBreak : BitVec 8 := 0x21
def cSafe : BitVec 8 := 0x30

/-- The mask word that marks every register live: TLIVE of every trap but the safe point's (R342, R358). -/
def allLive : DWord := 0xFFFFFFFFFFFFFFFC

/-- The address of the word after this one: past its mask word when it is a safe point (R43, R102). -/
def afterWord (h : Hdr) (pc : DWord) : DWord := pc + if h.live.isSome then 16 else 8

/-- What a lane of a safe-point word carries while it is parked: the mask word, with bit 0 set, which is zero in every
mask word that is executed (R65); zero for a word that is no safe point. -/
def safeTag (h : Hdr) : DWord :=
  match h.live with
  | none => 0
  | some m => m ||| 1

/-- A park that holds a lane. -/
def Park.on : Park → Bool
  | .no => false
  | _ => true

/-- A lane that may issue (R117), but for what its warp waits for. -/
def Lane.ready (l : Lane) : Bool := l.alive && !l.park.on && !l.held

/-- The lanes of a parked gang that still stand at its request. -/
def Warp.gangLanes (W : Warp) (id : Nat) : BitVec 32 := W.mask (fun L => L.park = .gang id)

/-- A gang is parked at its request now; while system code runs in its warp it is not (R333). -/
def Warp.parked (W : Warp) (id : Nat) : Bool := W.gangLanes id != 0

/-- An access at which a lane is parked waits while system code runs in the warp (R333). -/
def Warp.asleep (W : Warp) (a : Access) : Bool :=
  a.parked && match (W.lane a.lane).park with
    | .access k => k != a.word
    | _ => true

/-- The results of an access belong to a destination of a long operation: its registers, in its lane and under PROT in
the lane that shadows it (R351). -/
def Warp.brings (W : Warp) (a : Access) (op l r : Nat) : Bool :=
  let mine (reg o : Nat) : Bool := o == op && reg ≤ r && r < reg + (if a.size == 8 then 2 else 1)
    && (l == a.lane || l == a.lane + 1 && (W.lane l).shadow)
  match a.kind with
  | .load _ reg o => mine reg o
  | .rmw x reg o => x.ret && mine reg o
  | _ => false

/-- A lane's park at `fget` for a long operation (R320). -/
def Park.fgetFor (op : Nat) : Park → Bool
  | .fget _ _ _ o => o == op
  | _ => false

/-- A destination waits at a park of its word, so that nothing of it is in flight; with `asleep`, at a park that trap
entry has recorded and system code suspends (R333). -/
def Warp.parkedFor (W : Warp) (asleep : Bool) (op : Nat) (d : Dest) : Bool :=
  let atAccess (l r : Nat) : Bool := W.accs.any (fun x =>
    x.2.parked && W.brings x.2 op l r && (!asleep || W.asleep x.2))
  let atFget (l : Nat) : Bool := (!asleep && (W.lane l).park.fgetFor op) || (W.lane l).parkRec.fgetFor op
  d.val.isNone && (W.gangs.any (fun g => g.2.req.op? == some op && (!asleep || !W.parked g.1))
    || match d.tgt with
      | .vec l r => atAccess l r || atFget l
      | .pred l _ => atFget l
      | .uni _ => false)

/-- The warp has long operations outstanding other than those of parked lanes (R62, R333). -/
def Warp.busyLong (W : Warp) : Bool :=
  W.longs.any (fun x => x.2.waits != 0 || x.2.dests.any (fun d => !W.parkedFor false x.1 d))

/-- A switch marker would park the warp (R60): long operations are outstanding other than those that system code
suspends. -/
def Warp.outstanding (W : Warp) : Bool :=
  W.longs.any (fun x => x.2.waits != 0 || x.2.dests.any (fun d => !W.parkedFor true x.1 d))

/-- A result is for every lane of a warp, or for one of some lanes. -/
def Target.among (t : Target) (m : BitVec 32) : Bool :=
  match t with
  | .vec l _ => m.getLsbD l
  | .pred l _ => m.getLsbD l
  | .uni _ => true

/-- The results that some lanes of a deterministic grid have not seen become visible to them, in the order of their
operations (R61, R356). -/
def State.showLate (s : State) (w : Nat) (m : BitVec 32) : State :=
  let W := s.warp w
  if W.late.isEmpty then s
  else
    let mine := W.late.filter (fun x => x.2.1.among m)
    let s := s.updWarp w (fun W => { W with late := W.late.filter (fun x => !x.2.1.among m) })
    (sortAsc (mine.map (·.1)).eraseDups).foldl (fun s op =>
      (mine.filter (·.1 == op)).foldl (fun s x => s.putTarget w x.2.1 x.2.2) s) s

/-- Trap entry (R333): every unended lane gets its TPC and keeps its park in its park record; TCAUSE, TADDR, TMASK and
TLIVE are written; CUR goes to PREV and system privilege is set; every unended lane stands, ready, at the trap
vector. -/
def State.enterTrap (s : State) (w : Nat) (t : Trap) (live : DWord) : State :=
  let vec := (s.vi (s.warp w).vi).trapvec
  let cyc := s.cycle (s.warp w).core
  (s.showLate w (BitVec.allOnes 32)).updWarp w (fun W =>
    let W := W.updLanes W.alive (fun l L =>
      let mine := t.mask.getLsbD l
      { L with
        tpc := if mine then t.tpc.getD L.pc else L.pc
        parkRec := if mine then .no else L.park
        nextRec := L.next
        heldRec := L.heldMask
        wasHeld := L.held
        park := .no
        held := false
        pc := vec
        since := cyc + 1 })
    { W with
      tcause := t.cause.setWidth 32, taddr := t.addr, tmask := t.mask, tlive := live
      prev := W.cur, cur := true, trap := none, stall := false, waitLong := false, waitAll := false })

/-- A trap taken by some lanes of a warp (R72, R332): entered at once when no long operation is outstanding, by
TRAP_ENTRY afterwards when some is (R333). At system privilege it is a double trap: the kill set of the gang is killed
and the cause goes to the error log (R335). -/
def State.trapWarp (s : State) (w : Nat) (t : Trap) : State :=
  let W := s.warp w
  if W.cur then s.doubleTrap w t
  else if W.busyLong then s.updWarp w (fun W => { W with trap := some t })
  else s.enterTrap w t allLive

/-- The word being issued takes a trap: TPC of the lanes concerned is the word (R332). -/
def State.trapAt (s : State) (cause : BitVec 8) (addr : DWord) (mask : BitVec 32) : State :=
  s.trapWarp s.cur.warp ⟨cause, addr, mask, some s.cur.pc⟩

/-- A trap for which no rule names the address that TADDR holds: a free value. Log entry 15: DESIGN CHOICE. -/
def State.trapOpen (s : State) (cause : BitVec 8) (mask : BitVec 32) : State :=
  { s with fresh := s.fresh + 1 }.trapAt cause (Config.freeWord s.fresh) mask

/-- The word takes the illegal-instruction trap in every lane of the gang (R56). -/
def State.illegal (s : State) : State := s.trapOpen cIllegal s.cur.lanes

/-- The return from system code (R334, R365): CUR := PREV and PREV := 0; each unended lane resumes at its TPC, or
parked as its park record says. -/
def State.leaveTrap (s : State) (w : Nat) : State :=
  let cyc := s.cycle (s.warp w).core
  s.updWarp w (fun W =>
    let W := W.updLanes W.alive (fun _ L => { L with
      pc := L.tpc, park := L.parkRec, parkRec := .no, next := L.nextRec, heldMask := L.heldRec, since := cyc + 1 })
    { W with cur := W.prev, prev := false })

/-- The warp and the privilege of what is being issued. -/
def State.w (s : State) : Nat := s.cur.warp
def State.wp (s : State) : Warp := s.warp s.cur.warp
/-- The cycle count of the issuing core. -/
def State.cyc (s : State) : Nat := s.cycle s.wp.core

/-- The lanes of a mask go on at an address, ready from the next cycle on (R102, R118). -/
def State.goto (s : State) (m : BitVec 32) (pc : DWord) : State :=
  let c := s.cyc + 1
  s.updWarp s.w (fun W => W.updLanes m (fun _ L => { L with pc := pc, since := c }))

/-- Some lanes of the gang park at the word; they go on at the word after it when the park ends (R117).
Log entry 16: DESIGN CHOICE. -/
def State.parkLanes (s : State) (m : BitVec 32) (h : Hdr) (p : Nat → Park) : State :=
  let pc := afterWord h s.cur.pc
  s.updWarp s.w (fun W => W.updLanes m (fun l L => { L with park := p l, next := pc, heldMask := safeTag h }))

/-- Pre-emption of a core's user warps is requested (R341). -/
def State.requested (s : State) (core : Nat) : Bool := (s.core core).preq.getLsbD 31

/-- A parked lane goes on at its next address in the next cycle; it is held there when its word is a safe point and
pre-emption is requested (R342). -/
def State.wake (s : State) (w l : Nat) : State :=
  let W := s.warp w
  let c := s.cycle W.core + 1
  let hold := s.requested W.core && !W.cur
  s.updWarp w (fun W => W.updLane l (fun L =>
    { L with park := .no, pc := L.next, since := c, held := hold && L.heldMask.getLsbD 0 }))

/-- A parked lane issues its word again in the next cycle. -/
def State.retry (s : State) (w l : Nat) : State :=
  let c := s.cycle (s.warp w).core + 1
  s.updWarp w (fun W => W.updLane l (fun L => { L with park := .no, since := c }))

/-- A gang parks at the word with a request (R117); the shared cells of the registers that the word reads stay full until it
goes on (R159). -/
def State.parkReading (s : State) (m : BitVec 32) (h : Hdr) (r : Req) (reads : List Nat) : State :=
  let (id, s) := s.take
  let c := s.cyc
  let s := s.parkLanes m h (fun _ => .gang id)
  s.updWarp s.w (fun W => { W with gangs := tset W.gangs id ⟨m, r, s.cur.pc, c, reads⟩ })

@[inherit_doc State.parkReading] def State.parkGang (s : State) (m : BitVec 32) (h : Hdr) (r : Req) : State :=
  s.parkReading m h r []

/-- A parked gang has been served: it empties the shared cells that its word reads, and its lanes go on. -/
def State.wakeGang (s : State) (w id : Nat) : State :=
  let ls := lanesOf ((s.warp w).gangLanes id)
  let s := s.emptyShared w ls (((tget (s.warp w).gangs id).map (·.reads)).getD [])
  ls.foldl (fun s l => s.wake w l) (s.updWarp w (fun W => { W with gangs := tdel W.gangs id }))

/-- A parked gang issues its word again. -/
def State.retryGang (s : State) (w id : Nat) : State :=
  let ls := lanesOf ((s.warp w).gangLanes id)
  ls.foldl (fun s l => s.retry w l) (s.updWarp w (fun W => { W with gangs := tdel W.gangs id }))

/-- A long operation begins (R60). -/
def State.pend (s : State) (w : Nat) (dests : List Dest) (flags : Flags) (waits : Nat) : Nat × State :=
  let (id, s) := s.take
  (id, s.updWarp w (fun W => { W with longs := tset W.longs id ⟨dests, flags, waits⟩ }))

/-- A destination's new value becomes known, with flags to raise when it delivers. -/
def State.learn (s : State) (w op : Nat) (t : Target) (c : Cell) (f : Flags) : State :=
  s.updWarp w (fun W => { W with longs := tupd W.longs op (fun o =>
    { o with
      flags := o.flags ||| f
      dests := o.dests.map (fun d => if d.tgt = t then { d with val := some c } else d) }) })

/-- A completion without a register. -/
def State.learnDone (s : State) (w op : Nat) : State :=
  s.updWarp w (fun W => { W with longs := tupd W.longs op (fun o => { o with waits := o.waits - 1 }) })

/-- What a warp waits for is over (R60, R62): its switch marker, or the long operations before a word. -/
def Warp.unstalled (W : Warp) (c : Nat) : Warp :=
  { W with
    stall := W.stall && W.outstanding
    waitLong := W.waitLong && W.busyLong
    waitAll := W.waitAll && W.outstanding
    lanes := tmap W.lanes (fun _ L => if L.ready then { L with since := max L.since c } else L) }

/-- The warp parked by a switch marker, or at a word that waits, goes on once nothing is outstanding (R60, R62). -/
def State.unstall (s : State) (w : Nat) : State :=
  let W := s.warp w
  let s := if W.stall && !W.outstanding then s.showLate w W.stallLanes else s
  if W.stall && !W.outstanding || W.waitLong && !W.busyLong || W.waitAll && !W.outstanding then
    s.updWarp w (fun W => W.unstalled (s.cycle W.core + 1))
  else s

/-- A result of a long operation arrives (R61): a destination that a later word, or the result of another operation, has
written since may hold either value. In a deterministic grid it holds the later word's, and the result shows at the
lane's next W (R356). Log entry 65: DESIGN CHOICE. -/
def State.arriveAt (s : State) (w op : Nat) (d : Dest) : State :=
  let c := d.val.getD {}
  if s.determOf w then
    if d.contested then s else s.updWarp w (fun W => { W with late := W.late ++ [(op, d.tgt, c)] })
  else if d.contested then
    let s1 := { s with fresh := s.fresh + 1 }
    if Config.freeBit s.fresh then s1 else (s1.contest w d.tgt).putTarget w d.tgt c
  else (s.contest w d.tgt).putTarget w d.tgt c

/-- The known results of a long operation reach their registers (R60, R61, R62); those of ended lanes are discarded
(R109). -/
def State.deliver (s : State) (w op : Nat) : State :=
  match tget (s.warp w).longs op with
  | none => s
  | some o =>
    let known := o.dests.filter (fun d => d.val.isSome)
    let rest : LongOp := { o with dests := o.dests.filter (fun d => d.val.isNone), flags := 0 }
    let s := s.updWarp w (fun W => { W with longs := if rest.done then tdel W.longs op else tset W.longs op rest })
    let alive (t : Target) : Bool := match t with
      | .vec l _ => ((s.warp w).lane l).alive
      | .pred l _ => ((s.warp w).lane l).alive
      | .uni _ => true
    let s := known.foldl (fun s d => if alive d.tgt then s.arriveAt w op d else s) s
    let s := s.raise w o.flags
    let s := (List.range 32).foldl (fun s l => s.reapLane w l) s
    s.unstall w

/-- A word that R62 makes wait for the warp's long operations waits for them, and is then issued. Those of parked lanes do
not hold it up, and no other thread of the warp issues meanwhile. Log entry 63: DESIGN CHOICE. -/
def State.awaitLong (s : State) (k : State → State) : State :=
  if s.wp.busyLong then s.updWarp s.w (fun W => { W with waitLong := true }) else k (s.showLate s.w s.cur.lanes)

/-- An access to FPSTAT waits for every earlier long operation of the warp, those of parked lanes too (R30), but for those
that system code suspends (R333). -/
def State.awaitAll (s : State) (k : State → State) : State :=
  if s.wp.outstanding then s.updWarp s.w (fun W => { W with waitAll := true }) else k (s.showLate s.w s.cur.lanes)

end Sys2Proof.Machine
end

