-- ==== Sys2Proof/Machine/Translate.lean ====
section
/-! DEFINITION. Machine/Translate.lean: virtual addresses (R336, R388 to R392, R426), replayable faults and their
queue entries (R338, R339), instruction fetch (R42, R43), and the landing check (R44, R45). -/

namespace Sys2Proof.Machine

/-- The outcome of a translation (R336). -/
inductive Xlate where
  | ok (dpa : Nat)
  | replay
  | bad
  /-- The die's MMU runs as many walks as it can (R392): nothing is known yet. -/
  | busy
  deriving DecidableEq, Repr

/-- Address bits below the index of a level (R389), and entries of its table. -/
def levelShift (level : Nat) : Nat :=
  match level with
  | 0 => 12
  | 1 => 21
  | 2 => 33
  | _ => 45

@[inherit_doc levelShift] def levelCount (level : Nat) : Nat := if level == 0 then 512 else 4096

/-- Bytes of a page of size code SZ (R391). -/
def pageSize (sz : Nat) : Nat := if sz ≤ 4 then 2 ^ (12 + 2 * sz) else if sz == 5 then 2 ^ 21 else 2 ^ (10 + 2 * sz)

/-- The span of the entry that maps a page of this size (R391). -/
def pageSpan (size : Nat) : Nat := if size < 2 ^ 21 then 2 ^ 12 else 2 ^ 21

/-- A bit of a table entry (R390): V 0, P 1, WR 2, X 3, LEAF 4. -/
def pteBit (e i : Nat) : Bool := e / 2 ^ i % 2 == 1
def pteAddr (e : Nat) : Nat := e / 2 ^ 12 % 2 ^ 45 * 2 ^ 12
def pteSz (e : Nat) : Nat := e / 32 % 16

/-- A valid entry at a level (R390). -/
def pteValid (e level : Nat) : Bool :=
  pteBit e 0 && e / 2 ^ 57 == 0 && e / 2 ^ 9 % 8 == 0
    && (if pteBit e 4 then
          if level == 0 then pteSz e ≤ 4 else level == 1 && 5 ≤ pteSz e && pteSz e ≤ 11
        else level != 0 && pteSz e == 0)

/-- A translated address lies where the interface may go (R388, R400). -/
def State.dpaOk (s : State) (vi a : Nat) : Bool :=
  match dpaTarget s a with
  | .hbm _ _ => (s.vi vi).ownsHbm a
  | .nowhere => false
  | _ => true

/-- The key of a byte at a device physical address; a peer address names a byte of the peer's memory (R388). -/
def dpaByte (vi a : Nat) : Nat :=
  if a / 2 ^ 56 % 2 == 0 && a / 2 ^ 55 % 2 == 1 then peerKey vi (a / 2 ^ 51 % 16) (a % 2 ^ 51) else dpaKey a

/-- A walk from level n − 1 down (R426): the outcome, and the translation to cache. A table that lies where the interface
may not go is no valid entry (R8, R400). -/
def State.walkFrom (s : State) (vi va : Nat) (wr ex : Bool) : Nat → Nat → Xlate × Option TlbEntry
  | 0, _ => (.bad, none)
  | level + 1, table =>
    let at_ := table + va / 2 ^ levelShift level % levelCount level * 8
    let e := s.lineWord (dpaByte vi at_)
    if !s.dpaOk vi at_ || !pteValid e level then (.bad, none)
    else if pteBit e 4 then
      if ex && !pteBit e 3 || wr && !pteBit e 2 then (.bad, none)
      else if !pteBit e 1 then (.replay, none)
      else
        let span := 2 ^ levelShift level
        let a := pteAddr e + va % span
        if s.dpaOk vi a then
          (.ok a, some ⟨vi, va - va % span, pageSize (pteSz e), pteAddr e, pteBit e 3, pteBit e 2⟩)
        else (.bad, none)
    else if !pteBit e 1 then (.replay, none)
    else s.walkFrom vi va wr ex level (pteAddr e)

/-- The entries that such a walk reads count for the channels of their lines (R347). -/
def State.senseFrom (s : State) (vi va : Nat) : Nat → Nat → State
  | 0, _ => s
  | level + 1, table =>
    let at_ := dpaByte vi (table + va / 2 ^ levelShift level % levelCount level * 8)
    let e := s.lineWord at_
    let s := s.sense at_
    if !pteValid e level || pteBit e 4 || !pteBit e 1 then s else s.senseFrom vi va level (pteAddr e)

/-- The top table of an interface (R395). -/
def Vi.tables (v : Vi) : Nat := v.ptbase.toNat / 2 ^ 12 % 2 ^ 45 * 2 ^ 12

/-- A walk of the tables for a virtual address of 57 bits (R389, R426). -/
def State.walk (s : State) (vi va : Nat) (wr ex : Bool) : Xlate × Option TlbEntry :=
  if va ≥ 2 ^ 57 then (.bad, none) else s.walkFrom vi va wr ex 4 (s.vi vi).tables

/-- What a walk leaves at the tables that it reads (R347). -/
def State.walked (s : State) (vi va : Nat) : State :=
  if s.hbmErr.isEmpty || va ≥ 2 ^ 57 then s else s.senseFrom vi va 4 (s.vi vi).tables

/-- A cached translation covers an address of an interface (R392). -/
def TlbEntry.hits (e : TlbEntry) (vi va : Nat) : Bool := e.vi == vi && e.va ≤ va && va < e.va + pageSpan e.size

/-- The outcome that a cached translation gives. -/
def State.useTlb (s : State) (e : TlbEntry) (va : Nat) (wr ex : Bool) : Xlate :=
  let a := e.dpa + (va - e.va)
  if ex && !e.x || wr && !e.wr || !s.dpaOk e.vi a then .bad else .ok a

/-- The TLB of a core's quad. -/
def State.tlbOf (s : State) (core : Nat) : List TlbEntry := tgetD (s.die (dieOf core)).tlb (quadOf core) []

/-- A walk that begins and ends in one step (R392): it waits while the die's MMU has 64 earlier walks to do. -/
def State.walkNow (s : State) (vi core va : Nat) (wr ex : Bool) : Xlate × Option TlbEntry :=
  if (s.die (dieOf core)).walks.length < 64 then s.walk vi va wr ex else (.busy, none)

/-- A translation for a core (R336, R392): by the quad's TLB while it still holds the page, otherwise by a walk. The
spec does not say when a TLB drops a page: a free choice. Log entry 36: DESIGN CHOICE. -/
def State.xlate (s : State) (vi core va : Nat) (wr ex : Bool) : Xlate × Option TlbEntry :=
  match (s.tlbOf core).find? (·.hits vi va) with
  | some e =>
    let t := s.useTlb e va wr ex
    let x := s.walkNow vi core va wr ex
    if t = x.1 then x else if Config.freeBit (s.fresh + 8192) then (t, none) else x
  | none => s.walkNow vi core va wr ex

/-- A completed walk fills the quad's TLB (R392). -/
def State.tlbFill (s : State) (core : Nat) (e : Option TlbEntry) : State :=
  match e with
  | none => s
  | some e => s.updDie (dieOf core) (fun d => { d with tlb := tmod d.tlb (quadOf core) [] (fun es =>
      e :: es.filter (fun x => !(x.vi == e.vi && x.va == e.va))) })

/-- The token after a token: nonzero, of 32 bits. -/
def nextToken (t : Nat) : Nat := if t + 1 ≥ 2 ^ 32 then 1 else t + 1

/-- The first token from one on, among n + 1, that no unanswered fault has (R338). -/
def freeToken (fs : Table FaultRec) : Nat → Nat → Nat
  | 0, t => t
  | n + 1, t => if (tget fs t).isSome then freeToken fs n (nextToken t) else t

/-- A new fault of an interface (R338, R339): its token, and its entry waiting to be written. -/
def State.newFault (s : State) (vi : Nat) (f : FaultRec) : Nat × State :=
  let V := s.vi vi
  let tok := freeToken V.faults V.faults.length V.token
  (tok, s.updVi vi (fun V => { V with
    token := nextToken tok
    faults := tset V.faults tok f
    fqWait := V.fqWait ++ [tok] }))

/-- A gang parks before the word at a replayable fault of an instruction fetch, a mask-word fetch or a landing check
(R43, R45, R337). -/
def State.parkFetch (s : State) (w : Nat) (m : BitVec 32) (pc : DWord) (va : Nat) : State :=
  let W := s.warp w
  let (id, s) := s.take
  let (tok, s) := s.newFault W.vi ⟨va, 0, 5, false, dieOf W.core, cixOf W.core, .fetch w id, none, false⟩
  let c := s.cycle W.core
  s.updWarp w (fun W =>
    let W := W.updLanes m (fun _ L => { L with park := .gang id, next := pc })
    { W with gangs := tset W.gangs id ⟨m, .fetch [tok], pc, c, []⟩ })

/-- One word of 8 bytes at a virtual address (R42). -/
def State.fetchAt (s : State) (vi core va : Nat) : Xlate × Option TlbEntry × Nat :=
  if va % 8 != 0 then (.bad, none, 0)
  else match s.xlate vi core va false true with
    | (.ok a, e) => (.ok a, e, s.lineWord (dpaByte vi a))
    | (x, e) => (x, e, 0)

/-- What fetching a word and its mask word gives. -/
inductive Fetched where
  | word (n : Nat) (live : Option DWord)
  /-- A walk waits its turn (R392): nothing is fetched yet. -/
  | busy
  /-- A replayable fault at this address. -/
  | replay (va : Nat)
  /-- The instruction-fetch trap, for the word at this address. -/
  | bad (va : Nat)
  deriving DecidableEq, Repr

/-- What a fetch of 8 bytes leaves at the lines that it reads (R347): those of a walk, and its own. -/
def State.fetched (s : State) (vi core va : Nat) : State :=
  if s.hbmErr.isEmpty then s
  else
    let t := if (s.tlbOf core).any (·.hits vi va) then s else s.walked vi va
    match (s.xlate vi core va false true).1 with
    | .ok a => t.sense (dpaByte vi a)
    | _ => t

/-- A word with its live mask word (R42, R43), and the state with the translations cached. -/
def State.fetch (s : State) (w : Nat) (pc : DWord) : Fetched × State :=
  let W := s.warp w
  let s := s.fetched W.vi W.core pc.toNat
  match s.fetchAt W.vi W.core pc.toNat with
  | (.bad, _, _) => (.bad pc.toNat, s)
  | (.replay, _, _) => (.replay pc.toNat, s)
  | (.busy, _, _) => (.busy, s)
  | (.ok _, e, n) =>
    if !flag n 62 then (.word n none, s.tlbFill W.core e)
    else
      let s := s.fetched W.vi W.core (pc.toNat + 8)
      match s.fetchAt W.vi W.core (pc.toNat + 8) with
      | (.bad, _, _) => (.bad (pc.toNat + 8), s.tlbFill W.core e)
      | (.replay, _, _) => (.replay (pc.toNat + 8), s.tlbFill W.core e)
      | (.busy, _, _) => (.busy, s.tlbFill W.core e)
      | (.ok _, e', m) => (.word n (some (BitVec.ofNat 64 m)), (s.tlbFill W.core e).tlbFill W.core e')

/-- An instruction fetch that translation denies writes an entry of the error log (R336); an address that is no multiple
of 8 is not translated. Log entry 17: DEDUCED. -/
def State.logFetch (s : State) (w va : Nat) : State := if va % 8 == 0 then s.errLogAt w 0x09 va else s

/-- The outcome of a landing check (R45); `denied`: translation gave an access error. -/
inductive Landing where
  | ok
  | bad (denied : Bool)
  | replay (va : Nat)
  /-- A walk waits its turn (R392): the word is issued again. -/
  | busy
  deriving DecidableEq, Repr

def Landing.isBad : Landing → Bool
  | .bad _ => true
  | _ => false

/-- Whether the word before `8 * n` begins a run of words with bit 62 set that makes the word there a mask word (R44):
the parity of the run. The count stops at the first word with bit 62 clear, and where no instruction memory is mapped,
which this model takes as the start of the code section. Log entry 37: DEDUCED. -/
def State.maskRun (s : State) (vi core : Nat) : Nat → Bool → Landing
  | 0, odd => if odd then .bad false else .ok
  | n + 1, odd =>
    match s.fetchAt vi core (8 * n) with
    | (.ok _, _, x) => if flag x 62 then s.maskRun vi core n (!odd) else if odd then .bad false else .ok
    | (.bad, _, _) => if odd then .bad false else .ok
    | (.replay, _, _) => .replay (8 * n)
    | (.busy, _, _) => .busy

/-- The landing check of a target (R45). -/
def State.landing (s : State) (vi core : Nat) (pc : DWord) : Landing :=
  match s.fetchAt vi core pc.toNat with
  | (.bad, _, _) => .bad (pc.toNat % 8 == 0)
  | (.replay, _, _) => .replay pc.toNat
  | (.busy, _, _) => .busy
  | (.ok _, _, _) => s.maskRun vi core (pc.toNat / 8) false

/-- The error-log entry of a landing check that translation denied (R336): one for a word, of its first such target.
Log entry 17: DEDUCED. -/
def State.logLanding (s : State) (w : Nat) (rs : List (Landing × DWord)) : State :=
  match rs.find? (fun r => r.1 = .bad true) with
  | some r => s.errLogAt w 0x09 r.2.toNat
  | none => s

end Sys2Proof.Machine
end

