-- ==== Sys2Proof/Machine/Operands.lean ====
section
/-! DEFINITION. Machine/Operands.lean: how a word reads its operands and writes its results. Every word of the machine
goes through `State.vet` (the checks of R55, R56, R65, R159 and R349 that do not depend on its operation) and, when
it completes, through `State.close` (R60, R64, R342). -/

namespace Sys2Proof.Machine

/-- The vector registers that a word reads and writes, as ranges (first, count). With `lead`, only the lowest acting
lane reads them (R66, uniform block). -/
structure Uses where
  reads : List (Nat × Nat) := []
  writes : List (Nat × Nat) := []
  lead : Bool := false
  deriving DecidableEq, Repr

/-- The registers of some ranges. -/
def regsOf (rs : List (Nat × Nat)) : List Nat := (rs.flatMap (fun r => (List.range r.2).map (· + r.1))).eraseDups

/-- The acting lanes of a word (R55), and whether a guard that decides it is poisoned (R349). -/
def State.guards (s : State) (h : Hdr) : BitVec 32 × Bool :=
  if h.g == 15 then (if h.gn then 0 else s.cur.lanes, false)
  else
    let ls := lanesOf s.cur.lanes
    (maskOf (ls.filter (fun l => (s.readP s.w l h.g.toNat 60).1 != h.gn)),
      ls.any (fun l => (s.readP s.w l h.g.toNat 60).2))

/-- The gang is killed for using poisoned data (R349). -/
def State.poisoned (s : State) (addr : Nat) : State := s.killGang s.w 0x07 addr

/-- The frame of a lane holds every register of some ranges (R15, R54). -/
def Lane.fits (L : Lane) (rs : List (Nat × Nat)) : Bool := rs.all (fun r => r.1 + r.2 ≤ 8 * L.top.g)

/-- The live mask word names granules of a lane's frame only, and its reserved bits are zero (R65). -/
def Lane.liveFits (L : Lane) (live : Option DWord) : Bool :=
  match live with
  | none => true
  | some m => (m >>> 32).toNat < 2 ^ L.top.g

/-- The lanes of a mask with a property of the lane. -/
def State.lanesWhere (s : State) (m : BitVec 32) (p : Nat → Lane → Bool) : BitVec 32 :=
  maskOf ((lanesOf m).filter (fun l => p l (s.wp.lane l)))

/-- A shared cell of a lane's register: its share, whether it is full, whether the other warp has ended (R159). -/
def State.cellAt (s : State) (w l r : Nat) : Option (Nat × Nat × Bool × Bool) :=
  match s.sharedAt w l r with
  | none => none
  | some (k, key) =>
    match tget (s.block (s.warp w).block).shares k with
    | none => none
    | some h =>
      let other := if h.exporter == w then h.importer else h.exporter
      some (k, key, h.full.contains key, !(s.warp other).live)

/-- What the shared cells of a lane let a word do (R159). -/
inductive CellWait where
  | go
  | read (r : Nat)
  | write (r : Nat)
  | orphan
  deriving DecidableEq, Repr

/-- The first cell that stops a lane, if any: an empty one that it reads, or a full one that it only writes. -/
def State.cellWait (s : State) (w l : Nat) (reads writes : List Nat) : CellWait :=
  match reads.find? (fun r => match s.cellAt w l r with | some (_, _, full, _) => !full | none => false) with
  | some r => match s.cellAt w l r with
    | some (_, _, _, true) => .orphan
    | _ => .read r
  | none =>
    match writes.find? (fun r => !reads.contains r && match s.cellAt w l r with
        | some (_, _, full, ended) => full && !ended
        | none => false) with
    | some r => .write r
    | none => .go

/-- The block of the issuing warp has shared granules. -/
def State.sharing (s : State) : Bool := !(s.block s.wp.block).shares.isEmpty

/-- A lane that cells stop parks at the word, to issue it again (R159). -/
def State.parkCell (s : State) (l : Nat) (x : CellWait) : State :=
  let p := match x with
    | .read r => Park.cell true r
    | .write r => Park.cell false r
    | _ => Park.no
  s.updWarp s.w (fun W => W.updLane l (fun L => { L with park := p, next := s.cur.pc, heldMask := 0 }))

/-- The lanes of a word once the shared cells have let them go or stopped them (R159): an orphaned read traps; a lane
that must wait parks; the others act, as if the parked ones were inactive, and what every acting lane would read counts as
read. A word of the uniform block parks its lowest lane only, and the others issue it again. Log entry 61: DESIGN
CHOICE. -/
def State.admitCells (s : State) (m : BitVec 32) (u : Uses) (k : State → BitVec 32 → State) : State :=
  if !s.sharing then k s m
  else
    let reads := regsOf u.reads
    let writes := regsOf u.writes
    let ls := lanesOf m
    let ls := if u.lead then ls.take 1 else ls
    let waits := ls.map (fun l => (l, s.cellWait s.w l reads writes))
    let orphans := maskOf ((waits.filter (fun x => x.2 = .orphan)).map (·.1))
    if orphans != 0 then s.trapOpen cOrphan orphans
    else
      let stopped := waits.filter (fun x => x.2 != .go)
      let s := stopped.foldl (fun s x => s.parkCell x.1 x.2) s
      let off := if u.lead && !stopped.isEmpty then m else maskOf (stopped.map (·.1))
      if off != 0 && m &&& ~~~off == 0 then s else k s (m &&& ~~~off)

/-- The checks that every word passes before it acts (R15, R55, R56, R65, R72, R159, R349). Its live mask word and the
registers that it names are held against the frame of every active lane, acting or not, as the word is checked whole
before its acting lanes are fixed; then come its guard, its privilege and its shared cells. `ill` is the
illegal-instruction trap as the word takes it; `k` goes on with the acting lanes. -/
def State.admitAs (s : State) (ill : State → BitVec 32 → State) (h : Hdr) (sys : Bool) (u : Uses)
    (k : State → BitVec 32 → State) : State :=
  let bad := s.lanesWhere s.cur.lanes (fun _ L => !(L.liveFits h.live && L.fits (u.reads ++ u.writes)))
  if bad != 0 then ill s bad
  else
    let (m, taint) := s.guards h
    if taint then s.poisoned 0
    else if sys && !s.wp.cur then s.trapOpen cPrivilege m
    else s.admitCells m u k

/-- A word outside the engine block is admitted: no rule names what TADDR holds after its illegal-instruction trap. -/
def State.vet (s : State) (h : Hdr) (sys : Bool) (u : Uses) (k : State → BitVec 32 → State) : State :=
  s.admitAs (fun s m => s.trapOpen cIllegal m) h sys u k

/-- An engine word is admitted: TADDR of its illegal-instruction trap is the word's address (R289). -/
def State.admitEngine (s : State) (h : Hdr) (u : Uses) (k : State → BitVec 32 → State) : State :=
  s.admitAs (fun s m => s.trapAt cIllegal s.cur.pc m) h false u k

/-- An engine word with guard W is admitted: its traps hold every active lane of the gang (R289). -/
def State.admitWhole (s : State) (h : Hdr) (u : Uses) (k : State → BitVec 32 → State) : State :=
  s.admitAs (fun s _ => s.trapAt cIllegal s.cur.pc s.cur.lanes) h false u k

/-- What a word's S and W bits do once it has completed (R60, R64, R342): with W the warp parks while long operations
are outstanding; with S the lanes that go on are held while pre-emption is requested. The free choices that the word's
reads may have used are spent. -/
def State.close (s : State) (h : Hdr) : State :=
  let W := s.wp
  let s := if W.longs.isEmpty then s else { s with fresh := s.fresh + 16384 }
  let s := if !h.w then s
    else if W.outstanding then s.updWarp s.w (fun W => { W with stall := true, stallLanes := s.cur.lanes })
    else s.showLate s.w s.cur.lanes
  if h.live.isSome && s.requested W.core && !W.cur then
    s.updWarp s.w (fun W => W.updLanes s.cur.lanes (fun _ L =>
      if L.ready then { L with held := true, heldMask := safeTag h } else L))
  else s

/-- A word completes (R72): every lane of the gang that stands ready goes on at the next word. -/
def State.finish (s : State) (h : Hdr) : State :=
  let m := s.wp.mask Lane.ready &&& s.cur.lanes
  (s.goto m (afterWord h s.cur.pc)).close h

/-- Cells that acting lanes of the issuing warp have read become empty (R159). -/
def State.emptyCells (s : State) (m : BitVec 32) (reads : List Nat) : State := s.emptyShared s.w (lanesOf m) reads

/-- A word that reads a shared cell in some lane is a long operation (R60, R159). -/
def State.readsCell (s : State) (m : BitVec 32) (reads : List Nat) : Bool :=
  s.sharing && (lanesOf m).any (fun l => reads.any (fun r => (s.sharedAt s.w l r).isSome))

/-- The results of a word reach their registers (R61, R72): at once for a short operation, by LONG_RESULT_DELIVERY
for a long one. -/
def State.results (s : State) (long : Bool) (rs : List (Target × Cell)) (f : Flags) : State :=
  if long then (s.pend s.w (rs.map (fun r => ⟨r.1, some r.2, false⟩)) f 0).2
  else (rs.foldl (fun s r => s.writeTarget s.w r.1 r.2) s).raise s.w f

/-- A word completes with results (R72). -/
def State.settle (s : State) (h : Hdr) (m : BitVec 32) (u : Uses) (long : Bool) (rs : List (Target × Cell))
    (f : Flags) : State :=
  let reads := regsOf u.reads
  let long := long || s.readsCell (if u.lead then maskOf ((lanesOf m).take 1) else m) reads
  ((s.emptyCells m reads).results (long && !rs.isEmpty) rs f).finish h

/-- Whether an operand names a vector register, when BU or CU does not say otherwise (R51, R66). -/
def isVec : Opd → Bool
  | .v1 | .vT | .v2 | .v4 => true
  | _ => false

/-- The vector registers that an operand field names. -/
def opdRange (o : Opd) (ty : BitVec 3) (swap : Bool) (r : BitVec 8) : List (Nat × Nat) :=
  match o with
  | .none | .pred => []
  | o => if isVec o != swap then [(r.toNat, o.count ty)] else []

/-- A register or pair as a 64-bit pattern, with its poison (R12). -/
def pairVal (lo hi : Cell) : BitVec 64 × Bool := (hi.val ++ lo.val, lo.bad || hi.bad)

/-- n registers, one or two, read through a function (R12). -/
def readWide (n : Nat) (rd : Nat → Cell) : BitVec 64 × Bool :=
  if n == 2 then pairVal (rd 0) (rd 1) else ((rd 0).val.setWidth 64, (rd 0).bad)

/-- An operand of a lane (R11 to R14, R51, R54). -/
def State.operand (s : State) (l : Nat) (ty : BitVec 3) (o : Opd) (swap : Bool) (r : BitVec 8) (pos : Nat) :
    BitVec 64 × Bool :=
  match o with
  | .none => (0, false)
  | .pred =>
    let (v, bad) := s.readP s.w l r.toNat pos
    (if v then 1 else 0, bad)
  | o =>
    readWide (o.count ty) (fun i =>
      if isVec o != swap then s.readV s.w l (r.toNat + i) (pos + i) else s.readS s.w (r.toNat + i) (pos + i))

/-- A value as the cells of a destination of n registers (R12). -/
def wideCells (n : Nat) (v : BitVec 64) (bad : Bool) : List Cell :=
  if n == 2 then [⟨v.setWidth 32, bad⟩, ⟨v.extractLsb' 32 32, bad⟩] else [⟨v.setWidth 32, bad⟩]

/-- A value for the vector registers from r on of a lane. -/
def vecResult (l r n : Nat) (v : BitVec 64) (bad : Bool) : List (Target × Cell) :=
  match wideCells n v bad with
  | [a, b] => [(.vec l r, a), (.vec l (r + 1), b)]
  | [a] => [(.vec l r, a)]
  | _ => []

/-- A value for the uniform registers from r on. -/
def uniResult (r n : Nat) (v : BitVec 64) (bad : Bool) : List (Target × Cell) :=
  match wideCells n v bad with
  | [a, b] => [(.uni r, a), (.uni (r + 1), b)]
  | [a] => [(.uni r, a)]
  | _ => []

/-- A value for a predicate. -/
def predResult (l p : Nat) (v bad : Bool) : List (Target × Cell) := [(.pred l p, ⟨if v then 1 else 0, bad⟩)]

/-- A value for the destination D of a form. -/
def opdResult (o : Opd) (ty : BitVec 3) (l : Nat) (r : BitVec 8) (v : BitVec 64) (bad : Bool) :
    List (Target × Cell) :=
  match o with
  | .none => []
  | .pred => predResult l r.toNat (v != 0) bad
  | .v1 | .vT | .v2 | .v4 => vecResult l r.toNat (o.count ty) v bad
  | .s1 | .sT | .s2 => uniResult r.toNat (o.count ty) v bad

/-- The vector registers of a word of the vector-integer, floating-point or uniform block. -/
def triUses (t : Tri) (sh : Shape) (lead : Bool) : Uses where
  reads := opdRange sh.a t.ty false t.a ++ opdRange sh.b t.ty t.bu t.b ++ opdRange sh.c t.ty t.cu t.c
  writes := opdRange sh.d t.ty false t.d
  lead := lead

/-- A word that acts lane by lane (R72): every acting lane reads its sources, then every lane's results are written,
and the flags united. `f` gives a lane's results from the state before the word. -/
def State.byLane (s : State) (h : Hdr) (u : Uses) (long : Bool)
    (f : State → Nat → List (Target × Cell) × Flags) : State :=
  s.vet h false u fun s m =>
    let outs := (lanesOf m).map (f s)
    s.settle h m u long (outs.flatMap (·.1)) (flagUnion (outs.map (·.2)))

/-- The three sources of a lane, and whether one is poisoned. -/
def State.sources (s : State) (t : Tri) (sh : Shape) (l : Nat) : BitVec 64 × BitVec 64 × BitVec 64 × Bool :=
  let a := s.operand l t.ty sh.a false t.a 0
  let b := s.operand l t.ty sh.b t.bu t.b 4
  let c := s.operand l t.ty sh.c t.cu t.c 8
  (a.1, b.1, c.1, a.2 || b.2 || c.2)

/-- What a lane of a TRI word with one destination writes. -/
def State.triLane (t : Tri) (sh : Shape) (f : BitVec 64 → BitVec 64 → BitVec 64 → BitVec 64 × Flags) (s : State)
    (l : Nat) : List (Target × Cell) × Flags :=
  let (a, b, c, bad) := s.sources t sh l
  let r := f a b c
  (opdResult sh.d t.ty l t.d r.1 bad, r.2)

/-- A TRI word of the vector-integer or floating-point block with one destination (R72, R76, R89). -/
def State.triWord (s : State) (t : Tri) (sh : Shape) (long : Bool)
    (f : BitVec 64 → BitVec 64 → BitVec 64 → BitVec 64 × Flags) : State :=
  s.byLane t.h (triUses t sh false) long (State.triLane t sh f)

/-- An I32 word with a vector destination and, with `reads`, a vector source (R48). -/
def State.immWord (s : State) (t : Imm) (reads : Bool) (f : BitVec 64 → BitVec 64) : State :=
  let u : Uses := ⟨if reads then [(t.a.toNat, 1)] else [], [(t.d.toNat, 1)], false⟩
  s.byLane t.h u false (fun s l =>
    let a := if reads then s.operand l 1 .v1 false t.a 0 else (0, false)
    (vecResult l t.d.toNat 1 (f a.1) a.2, 0))

/-- A word of the uniform block (R66, R88): a vector source is that of the lowest acting lane. -/
def State.uniWord (s : State) (t : Tri) (sh : Shape)
    (f : State → Nat → List (Target × Cell)) : State :=
  let u := triUses t sh true
  s.vet t.h false u fun s m =>
    match lanesOf m with
    | [] => s.finish t.h
    | l :: _ => s.settle t.h m u false (f s l) 0

end Sys2Proof.Machine
end

