-- ==== Sys2Proof/Machine/Digest.lean ====
section
/-! DEFINITION. Machine/Digest.lean: the store digests of deterministic mode (R355). -/

namespace Sys2Proof.Machine

/-- CRC-64/ECMA-182 over the bits of one byte. -/
def crcByte (c : BitVec 64) (b : Byte) : BitVec 64 :=
  (List.range 8).foldl (fun c _ => if c.msb then (c <<< 1) ^^^ 0x42F0E1EBA9EA3693 else c <<< 1)
    (c ^^^ (b.setWidth 64 <<< 56))

/-- The running CRC over some bytes (R355). -/
def crc64 (c : BitVec 64) (bs : List Byte) : BitVec 64 := bs.foldl crcByte c

/-- The record of one store (R355): space, size, address and data. -/
def storeRecord (space size : Nat) (addr : Word) (data : BitVec 64) : List Byte :=
  leBytes 1 space ++ leBytes 1 size ++ leBytes 2 0 ++ leBytes 4 addr.toNat ++ leBytes 8 data.toNat

/-- The grid of the issuing warp runs in deterministic mode. -/
def State.determ (s : State) : Bool := (s.grid s.wp.grid).launch.determ

/-- A thread's digest after a store (R355). Log entry 25: DEDUCED. -/
def State.digestStore (s : State) (l : Nat) (rec : List Byte) : State :=
  if s.determ then s.updWarp s.w (fun W => W.updLane l (fun L => { L with digest := crc64 L.digest rec })) else s

/-- The digest of a wave: over its 32 lane digests in lane order. -/
def Warp.waveDigest (W : Warp) : BitVec 64 :=
  crc64 0 ((List.range 32).flatMap (fun l => leBytes 8 (W.lane l).digest.toNat))

/-- The number of a persistent wave (R353). -/
def State.waveNo (s : State) (w : Nat) : Nat :=
  let W := s.warp w
  W.bix.toNat * (s.grid W.grid).launch.nwave + W.wib

/-- At the last word of a persistent wave its digest is compared or recorded as DIGTAB says (R355): a mismatch makes
the word take the digest trap before the threads end, and the grid runs serially from then on. An entry that lies where
the interface may not go is neither read nor written (R8; log entry 66: DESIGN CHOICE). -/
def State.digestCheck (s : State) (m : BitVec 32) (k : State → State) : State :=
  let W := s.wp
  if !s.determ || W.wave || W.alive &&& ~~~m != 0 || m == 0 then k s
  else
    let tab := (s.vi W.vi).digtab
    let i := s.waveNo s.w
    let a := tab.toNat / 8 % 2 ^ 54 * 8 + 8 * i
    let key := dpaByte W.vi a
    let d := W.waveDigest
    if !s.dpaOk W.vi a then k s
    else
      let (s, v, _) := s.readNum key 8
      if tab.getLsbD 1 && v != d.toNat then
        (s.updGrid W.grid (fun g => { g with serial := true })).trapAt cDigest (BitVec.ofNat 64 i) m
      else k (if tab.getLsbD 0 then s.writeNum key 8 d.toNat false else s)

end Sys2Proof.Machine
end

