-- ==== Sys2Proof/Machine/Frames.lean ====
section
/-! DEFINITION. Machine/Frames.lean: frame requests and the register pool (R15 to R18, R104, R105, R108, R170 to R174),
and a doomed task at a reclamation word (R256, R257). -/

namespace Sys2Proof.Machine

/-- A frame request of n slice-granules served from a core's pool (R172): from F; otherwise, for the warp that holds the
reserve or when none holds it, all of F and the rest from V. -/
def Core.cover (c : Core) (w n : Nat) : Option Core :=
  if n ≤ c.free then some { c with free := c.free - n }
  else if (c.holder = none || c.holder = some w) && n ≤ c.free + c.reserve then
    some { c with free := 0, reserve := c.reserve - (n - c.free), holder := some w }
  else none

/-- A request that waits for frames (R172). -/
def Req.frame : Req → Bool
  | .call _ _ _ _ => true
  | .refill _ => true
  | _ => false

/-- Some frame request of a core is blocked. -/
def State.frameBlocked (s : State) (core : Nat) : Bool :=
  s.warps.any (fun x => x.2.core == core && x.2.gangs.any (fun g => g.2.req.frame && x.2.parked g.1))

/-- The slices that hold some lanes. -/
def slicesOf (ls : List Nat) : List Nat := (ls.map (· / 4)).eraseDups

/-- The slice-granules that a call needs (R170). -/
def callNeed (g : Nat) (ls : List Nat) : Nat := (g - 1) * (slicesOf ls).length

/-- A called frame in one lane (R16). -/
def Lane.push (L : Lane) (g win : Nat) (ret : DWord) (sf : Nat) : Lane :=
  { L with frames := ⟨g, win, ret, none, [], sf⟩ :: L.frames }

/-- The new frames of a call (R104, R171): one slice-frame for each participating slice. -/
def State.pushFrames (s : State) (w g win : Nat) (ret : DWord) (ls : List Nat) : State :=
  (slicesOf ls).foldl (fun s k =>
    let mine := ls.filter (fun l => l / 4 == k)
    let (id, s) := s.take
    let depth := ((s.warp w).lane (mine.headD 0)).depth + 1
    s.updWarp w (fun W =>
      let W := mine.foldl (fun W l => W.updLane l (·.push g win ret (if g == 1 then 0 else id))) W
      if g == 1 then W else { W with slices := tset W.slices id ⟨depth, k, mine, g - 1, false, 0⟩ })) s

/-- A lane's top frame popped (R17, R105). -/
def State.popFrame (s : State) (w l : Nat) : State :=
  let L := (s.warp w).lane l
  let s := s.updWarp w (fun W => W.updLane l (fun L => { L with frames := L.frames.drop 1 }))
  s.leaveSlice w l L.top.sf

/-- Frames popped until a depth is reached (R108). -/
def State.popTo (s : State) (w l d : Nat) : State :=
  (List.range (((s.warp w).lane l).depth - d)).foldl (fun s _ => s.popFrame w l) s

/-- The frame of a lane at a depth, 1 for the launch frame. -/
def Lane.frameAt (L : Lane) (d : Nat) : Option Frame :=
  if d == 0 || L.frames.length < d then none else L.frames[L.frames.length - d]?

/-- The spilled slice-frames that the frame at a depth needs before it can be current again (R174). -/
def Warp.spilledAt (W : Warp) (ls : List Nat) (d : Nat → Nat) : List Nat :=
  (ls.filterMap (fun l => match (W.lane l).frameAt (d l) with
    | none => none
    | some f => match tget W.slices f.sf with
      | some x => if x.spilled then some f.sf else none
      | none => none)).eraseDups

/-- The slice-granules of some spilled images (R170, R174). -/
def Warp.imageNeed (W : Warp) (sfs : List Nat) : Nat :=
  sfs.foldl (fun n k => n + match tget W.slices k with | some x => x.image | none => 0) 0

/-- Images copied back and their space released (R174). -/
def State.refillAll (s : State) (w : Nat) (sfs : List Nat) : State :=
  let s := sfs.foldl (fun s k => s.freeSpill (dieOf (s.warp w).core) k) s
  s.updWarp w (fun W => { W with slices := tmap W.slices (fun k x =>
    if sfs.contains k then { x with spilled := false, image := 0 } else x) })

/-- The granules of a slice-frame that a frame above it has as its window (R173): they are never spilled. -/
def Warp.windowsOf (W : Warp) (sf : Nat) (x : SliceFrame) : List Nat :=
  (x.lanes.flatMap (fun l =>
    let fs := (W.lane l).frames
    (List.range fs.length).filterMap (fun i =>
      let below := fs.drop (i + 1)
      match fs[i]?, below with
      | some f, _ :: _ =>
        let (j, r) := resolve below 0 f.win
        if ((below.getD j {}).sf) == sf then some (r / 8) else none
      | _, _ => none))).eraseDups

/-- Lanes of a doomed task that reach a reclamation word end there (R257): the record becomes free. -/
def State.reclaim (s : State) (w : Nat) (m : BitVec 32) : State :=
  let futs := (lanesOf m).filterMap (fun l => ((s.warp w).lane l).task)
  futs.eraseDups.foldl State.futRelease (s.endThreads w m)

/-- The doomed tasks of a warp that are parked and whose notice has arrived end where they stand, before anything lets their
lanes go on (R257). -/
def State.sweep (s : State) (w : Nat) : State :=
  let m := maskOf (((s.warp w).lanes.filter (fun x => x.2.alive && x.2.park.on && s.laneDoomed x.2)).map (·.1))
  if m == 0 then s else s.reclaim w m

/-- A reclamation word (R257): the lanes of doomed tasks whose notice has arrived do not act and end; the others
perform the word as if those lanes were inactive. Log entry 48: DEDUCED. -/
def State.reclaimFirst (s : State) (m : BitVec 32) (k : State → BitVec 32 → State) : State :=
  let d := s.lanesWhere m (fun _ L => s.laneDoomed L)
  if d == 0 then k s m
  else
    let s := s.reclaim s.w d
    let s := { s with cur := { s.cur with lanes := s.cur.lanes &&& ~~~d } }
    if s.cur.lanes == 0 then s else k s (m &&& ~~~d)

end Sys2Proof.Machine
end

