-- ==== Sys2Proof/Machine/Control.lean ====
section
/-! DEFINITION. Machine/Control.lean: the control words (R101 to R111, R142, R321, R322). -/

namespace Sys2Proof.Machine

/-- The warp's grid runs in protected launch mode (R351). -/
def State.prot (s : State) : Bool := (s.grid s.wp.grid).launch.prot

/-- Under PROT, a pair of lanes disagrees: on whether it acts, or on a compared value (R351). -/
def State.mismatch (s : State) (m : BitVec 32) (f : Nat → List DWord) : Bool :=
  s.prot && (List.range 16).any (fun j =>
    m.getLsbD (2 * j) != m.getLsbD (2 * j + 1) || m.getLsbD (2 * j) && f (2 * j) != f (2 * j + 1))

/-- A compared point of a word (R351, R352): on a mismatch the word performs nothing and the kill set is killed. -/
def State.compare (s : State) (m : BitVec 32) (f : Nat → List DWord) (k : State → State) : State :=
  if s.mismatch m f then s.poisoned 0 else k s

/-- Lanes at targets after a control word (R102): the acting lanes at theirs, the others at the next word. -/
def State.jump (s : State) (h : Hdr) (ts : List (Nat × DWord)) : State :=
  let s := s.goto (s.wp.mask Lane.ready &&& s.cur.lanes) (afterWord h s.cur.pc)
  let s := ts.foldl (fun s t => s.updWarp s.w (fun W => W.updLane t.1 (fun L => { L with pc := t.2 }))) s
  s.close h

/-- The landing check of every target before any lane moves (R45, R103): an illegal one traps, a page that is not
present parks the gang. -/
def State.checkLanding (s : State) (ts : List (Nat × DWord)) (k : State → State) : State :=
  let W := s.wp
  let rs := ts.map (fun t => (t.1, s.landing W.vi W.core t.2, t.2))
  let bad := maskOf ((rs.filter (fun r => r.2.1.isBad)).map (·.1))
  if bad != 0 then (s.logLanding s.w (rs.map (·.2))).trapOpen cLanding bad
  else match rs.findSome? (fun r => match r.2.1 with | .replay va => some va | _ => none) with
    | some va => s.parkFetch s.w s.cur.lanes s.cur.pc va
    | none => if rs.any (fun r => r.2.1 = .busy) then s else k s

/-- The target of a BR word (R49). -/
def branchTo (pc : DWord) (imm : BitVec 32) : DWord := pc + imm.signExtend 64 * 8

/-- A branch of acting lanes to their targets (R102, R103): a taken backward branch is a reclamation point. -/
def State.branch (s : State) (h : Hdr) (m : BitVec 32) (rd : List Nat) (target : Nat → DWord) : State :=
  let back := s.lanesWhere m (fun l _ => (target l).ule s.cur.pc)
  s.reclaimFirst back fun s _ =>
    let ls := lanesOf (m &&& s.cur.lanes)
    let ts := ls.map (fun l => (l, target l))
    s.checkLanding ts fun s => s.compare (maskOf ls) (fun l => [target l]) fun s =>
      (s.emptyCells (maskOf ls) rd).jump h ts

/-- R103: to the word's address plus 8 × offset. -/
def execBra (t : Imm) (s : State) : Host.Outcome State Fault Refusal :=
  .next (s.vet t.h false {} fun s m => s.branch t.h m [] (fun _ => branchTo s.cur.pc t.imm))

/-- The lanes' values of a vector register or pair, and whether one is poisoned. -/
def State.laneVals (s : State) (m : BitVec 32) (n r : Nat) (pos : Nat) : List (Nat × BitVec 64) × Bool :=
  let vs := (lanesOf m).map (fun l => (l, readWide n (fun i => s.readV s.w l (r + i) (pos + i))))
  (vs.map (fun v => (v.1, v.2.1)), vs.any (fun v => v.2.2))

/-- The value of a lane in a list. -/
def valOf (vs : List (Nat × BitVec 64)) (l : Nat) : BitVec 64 := ((vs.find? (fun v => v.1 == l)).map (·.2)).getD 0

/-- R103: to the address in the lane's pair. -/
def execBrx (t : Tri) (s : State) : Host.Outcome State Fault Refusal :=
  let u : Uses := ⟨[(t.a.toNat, 2)], [], false⟩
  .next (s.vet t.h false u fun s m =>
    let (vs, bad) := s.laneVals m 2 t.a.toNat 0
    if bad then s.poisoned 0
    else s.branch t.h m (regsOf u.reads) (valOf vs))

/-- R103: to the word's address plus 8 × the lane's register. -/
def execBrxRel (t : Tri) (s : State) : Host.Outcome State Fault Refusal :=
  let u : Uses := ⟨[(t.a.toNat, 1)], [], false⟩
  .next (s.vet t.h false u fun s m =>
    let (vs, bad) := s.laneVals m 1 t.a.toNat 0
    if bad then s.poisoned 0
    else s.branch t.h m (regsOf u.reads) (fun l =>
      s.cur.pc + ((valOf vs l).setWidth 32).signExtend 64 * 8))

/-- A lane of a call cannot have its window (R16). -/
def Lane.noWindow (L : Lane) (win : Nat) : Bool := win + 7 ≥ 8 * L.top.g

/-- A called frame becomes current in some lanes, at their targets (R104). -/
def State.enterCall (s : State) (w g win : Nat) (ret : DWord) (ts : List (Nat × DWord)) : State :=
  s.pushFrames w g win ret (ts.map (·.1))

/-- A call (R104): checks, the wait for long operations, and the frame request; the lanes block when the pool cannot
serve it or earlier requests wait (R172). -/
def State.callWord (s : State) (h : Hdr) (g win : Nat) (m : BitVec 32) (rd : List Nat) (target : Nat → DWord) : State :=
  s.reclaimFirst m fun s m =>
    if m == 0 then s.finish h
    else
      let ls := lanesOf m
      let ts := ls.map (fun l => (l, target l))
      let noWin := s.lanesWhere m (fun _ L => L.noWindow win)
      let deep := s.lanesWhere m (fun _ L => L.depth ≥ 1024)
      if noWin != 0 then s.trapOpen cIllegal noWin
      else if deep != 0 then s.trapOpen cDepth deep
      else s.checkLanding ts fun s =>
        let inShare := s.lanesWhere m (fun l _ => (s.sharedAt s.w l win).isSome)
        if inShare != 0 then s.trapOpen cTransfer inShare
        else s.compare m (fun l => [target l]) fun s => s.awaitLong fun s =>
          let s := s.emptyCells m rd
          let need := callNeed g ls
          let ret := afterWord h s.cur.pc
          let core := s.wp.core
          match (if need == 0 then some (s.core core)
              else if s.frameBlocked core then none else (s.core core).cover s.w need) with
          | some c =>
            let s := { s with cores := tset s.cores core c }
            (s.enterCall s.w g win ret ts).jump h ts
          | none => (s.parkGang m h (.call g win ts ret)).finish h

/-- R104: a call to a fixed target. -/
def execCall (t : Imm) (s : State) : Host.Outcome State Fault Refusal :=
  .next (s.vet t.h false {} fun s m =>
    s.callWord t.h t.a.toNat t.d.toNat m [] (fun _ => branchTo s.cur.pc t.imm))

/-- R104: a call to the address in the lane's pair. -/
def execCallx (t : Tri) (s : State) : Host.Outcome State Fault Refusal :=
  let u : Uses := ⟨[(t.a.toNat, 2)], [], false⟩
  .next (s.vet t.h false u fun s m =>
    s.reclaimFirst m fun s m =>
      let (vs, bad) := s.laneVals m 2 t.a.toNat 0
      if bad then s.poisoned 0
      else s.callWord t.h t.sub.toNat t.d.toNat m (regsOf u.reads) (valOf vs))

/-- Lanes whose destination frames are spilled, in requests of which each has at most one slice-frame of a slice, and so at
most the 256 slice-granules of R175 (R174). -/
def Warp.refills (W : Warp) (depth : Nat → Nat) : Nat → List Nat → List (List Nat)
  | 0, ls => if ls.isEmpty then [] else [ls]
  | n + 1, ls =>
    let first (l : Nat) : Bool := match ls.find? (fun k => k / 4 == l / 4) with
      | some k => W.spilledAt [l] depth == W.spilledAt [k] depth
      | none => true
    if ls.isEmpty then [] else ls.filter first :: W.refills depth n (ls.filter (fun l => !first l))

/-- One refill served at once, when the pool can and no request waits (R172, R174); or its lanes park. -/
def State.refillWord (s : State) (h : Hdr) (depth : Nat → Nat) (target : Nat → DWord) (ls : List Nat) : State :=
  let W := s.wp
  let sfs := W.spilledAt ls depth
  match (if s.frameBlocked W.core then none else (s.core W.core).cover s.w (W.imageNeed sfs)) with
  | some c => { s with cores := tset s.cores W.core c }.refillAll s.w sfs
  | none => s.parkGang (maskOf ls) h (.refill (ls.map (fun l => (l, depth l, target l))))

/-- Lanes return to their callers' frames, or a frame at a depth becomes current in them (R105, R108): those whose
frame is spilled block until it is refilled (R174), at once when the pool can serve it. -/
def State.intoFrame (s : State) (h : Hdr) (m : BitVec 32) (depth : Nat → Nat) (target : Nat → DWord) : State :=
  let W := s.wp
  let far := (lanesOf m).filter (fun l => !(W.spilledAt [l] depth).isEmpty)
  let s := (W.refills depth 4 far).foldl (fun s ls => s.refillWord h depth target ls) s
  let near := (lanesOf m).filter (fun l => !(s.wp.lane l).park.on)
  (near.foldl (fun s l => s.popTo s.w l (depth l)) s).jump h (near.map (fun l => (l, target l)))

/-- R105: the return to the caller. -/
def execRet (t : Tri) (s : State) : Host.Outcome State Fault Refusal :=
  .next (s.vet t.h false {} fun s m => s.reclaimFirst m fun s m =>
    let top := s.lanesWhere m (fun _ L => L.depth ≤ 1)
    if top != 0 then s.trapOpen cDepth top
    else
      let W := s.wp
      let target (l : Nat) := (W.lane l).top.ret
      s.compare m (fun l => [target l]) fun s => s.awaitLong fun s =>
        s.intoFrame t.h m (fun l => (W.lane l).depth - 1) target)

/-- A frame's mark replaced at a depth. -/
def Lane.setMark (L : Lane) (d : Nat) (m : Mark) : Lane :=
  let i := L.frames.length - d
  { L with frames := L.frames.mapIdx (fun j f => if j == i then { f with mark := some m } else f) }

/-- R107: marks the current frame of the acting lanes, which must be at one depth. -/
def execUmark (t : Imm) (s : State) : Host.Outcome State Fault Refusal :=
  .next (s.vet t.h false {} fun s m =>
    let depths := (lanesOf m).map (fun l => (s.wp.lane l).depth)
    match depths with
    | [] => s.finish t.h
    | d :: ds =>
      if ds.any (· != d) then s.trapOpen cMark m
      else
        let n := s.wp.markSer + 1
        let mark : Mark := ⟨branchTo s.cur.pc t.imm, n⟩
        let s := s.updWarp s.w (fun W => { (W.updLanes m (fun _ L => L.setMark d mark)) with markSer := n })
        let tok : Word := BitVec.ofNat 32 (n.toNat * 2 ^ 16 + (d - 1))
        (s.writeTarget s.w (.uni t.d.toNat) ⟨tok, false⟩).finish t.h)

/-- R108: pops every frame above the marked one and resumes at the mark. -/
def execUnwind (t : Tri) (s : State) : Host.Outcome State Fault Refusal :=
  .next (s.vet t.h false {} fun s m => s.reclaimFirst m fun s m =>
    let tok := s.readS s.w t.a.toNat 0
    if tok.bad then s.poisoned 0
    else
      let d := tok.val.toNat % 2 ^ 10 + 1
      let ser : BitVec 8 := tok.val.extractLsb' 16 8
      let shape := tok.val.extractLsb' 24 8 == 0 && tok.val.extractLsb' 10 6 == 0
      let mark (L : Lane) : Option Mark := ((L.frameAt d).bind (·.mark)).filter (fun k => shape && k.ser == ser)
      let W := s.wp
      let off := s.lanesWhere m (fun _ L => (mark L).isNone)
      if off != 0 then s.trapOpen cMark off
      else
        let target (l : Nat) : DWord := ((mark (W.lane l)).map (·.resume)).getD 0
        s.checkLanding ((lanesOf m).map (fun l => (l, target l))) fun s =>
          s.compare m (fun l => [target l]) fun s => s.awaitLong fun s => s.intoFrame t.h m (fun _ => d) target)

/-- Threads end with a value for their tasks' futures, which complete once the threads' stores have performed (R109,
R320, R322). -/
def State.finishThreads (s : State) (h : Hdr) (m : BitVec 32) (v : Nat → DWord) : State :=
  s.compare m (fun _ => [0]) fun s => s.digestCheck m fun s =>
    let ls := (lanesOf m).filter (fun l => !(s.wp.lane l).shadow)
    let tasks := ls.filterMap (fun l => (s.wp.lane l).task.map (fun f => (f, l, v l)))
    let s := s.updWarp s.w (fun W => { W with ending := W.ending ++ tasks })
    (s.finish h).endThreads s.w m

/-- R109: the thread ends; a task's future receives 0. -/
def execExit (t : Tri) (s : State) : Host.Outcome State Fault Refusal :=
  .next (s.vet t.h false {} fun s m => s.finishThreads t.h m (fun _ => 0))

/-- R322: the thread ends; a task's future receives the value of the pair. -/
def execTret (t : Tri) (s : State) : Host.Outcome State Fault Refusal :=
  let u : Uses := ⟨[(t.a.toNat, 2)], [], false⟩
  .next (s.admitEngine t.h u fun s m =>
    let (vs, bad) := s.laneVals m 2 t.a.toNat 0
    if bad then s.poisoned 0
    else (s.emptyCells m (regsOf u.reads)).finishThreads t.h m (valOf vs))

/-- R110: no effect but those of S and W. -/
def execNop (t : Tri) (s : State) : Host.Outcome State Fault Refusal :=
  .next (s.vet t.h false {} fun s _ => s.finish t.h)

/-- R321: a reclamation point. -/
def execRpoint (t : Tri) (s : State) : Host.Outcome State Fault Refusal :=
  .next (s.admitEngine t.h {} fun s m => s.reclaimFirst m fun s _ => s.finish t.h)

/-- The lanes of the gang that do not act at a control word go on at the next one (R102). -/
def State.passBy (s : State) (h : Hdr) (m : BitVec 32) : State :=
  s.goto (s.cur.lanes &&& ~~~m) (afterWord h s.cur.pc)

/-- R111: enters system code in the acting lanes; `eret` continues after the word. -/
def execTrap (t : Imm) (s : State) : Host.Outcome State Fault Refusal :=
  .next (s.vet t.h false {} fun s m =>
    if m == 0 then s.finish t.h
    else (s.passBy t.h m).trapWarp s.w ⟨cSoftware, t.imm.setWidth 64, m, some (afterWord t.h s.cur.pc)⟩)

/-- R111: enters system code in the acting lanes; `eret` continues at the word. -/
def execBrk (t : Imm) (s : State) : Host.Outcome State Fault Refusal :=
  .next (s.vet t.h false {} fun s m =>
    if m == 0 then s.finish t.h else (s.passBy t.h m).trapAt cBreak (t.imm.setWidth 64) m)

end Sys2Proof.Machine
end

