-- ==== Sys2Proof/Machine/Lanes.lean ====
section
/-! DEFINITION. Machine/Lanes.lean: the lane operations (R144 to R148), the rejoin masks (R142, R143) and `wait` (R149 to
R151). -/

namespace Sys2Proof.Machine

/-- The participants of a lane operation in the groups that see each other, with the number of a lane: under PROT the
visible lanes count, and the shadow lanes mirror them (R351). Log entry 25: DEDUCED. -/
def State.teams (s : State) (m : BitVec 32) : List (List Nat) :=
  if s.prot then [(lanesOf m).filter (· % 2 == 0), (lanesOf m).filter (· % 2 == 1)] else [lanesOf m]

@[inherit_doc State.teams] def State.laneNo (s : State) (l : Nat) : Nat := if s.prot then l / 2 else l

/-- A lane of a team by its number. -/
def State.laneWith (s : State) (team : List Nat) (n : Nat) : Option Nat := team.find? (fun l => s.laneNo l == n)

/-- A lane operation (R141): each team of participants gives its results from the state before the word. -/
def State.teamWord (s : State) (h : Hdr) (u : Uses) (f : State → List Nat → List (Target × Cell) × Flags) : State :=
  s.vet h false u fun s m =>
    let outs := ((s.teams m).filter (!·.isEmpty)).map (f s)
    s.settle h m u false (outs.flatMap (·.1)) (flagUnion (outs.map (·.2)))

/-- Lanes in which a predicate operand, perhaps inverted, is true; and whether one is poisoned. -/
def State.truths (s : State) (team : List Nat) (p : Nat) (inv : Bool) : List Nat × Bool :=
  (team.filter (fun l => (s.readP s.w l p 0).1 != inv), team.any (fun l => (s.readP s.w l p 0).2))

/-- R145: a vote of a mode. -/
def voteOf (mode c n : Nat) : Bool :=
  match mode with
  | 0 => c == n
  | 1 => c ≥ 1
  | 2 => c == 0 || c == n
  | _ => 2 * c > n

/-- R145. -/
def execVote (t : Tri) (s : State) : Host.Outcome State Fault Refusal :=
  .next (s.teamWord t.h {} fun s team =>
    let (a, bad) := s.truths team t.a.toNat (t.sub.getLsbD 2)
    let v := voteOf (t.sub.toNat % 4) a.length team.length
    (team.flatMap (fun l => predResult l t.d.toNat v bad), 0))

/-- R145: the set of acting lanes in which the predicate is true. -/
def execBallot (t : Tri) (s : State) : Host.Outcome State Fault Refusal :=
  .next (s.vet t.h false {} fun s m =>
    match (s.teams m).filter (!·.isEmpty) with
    | [] => s.finish t.h
    | team :: _ =>
      let (a, bad) := s.truths team t.a.toNat (t.sub.getLsbD 0)
      let v := maskOf (a.map s.laneNo)
      s.settle t.h m {} false (uniResult t.d.toNat 1 (v.setWidth 64) bad) 0)

/-- R146: the source lane's number. -/
def shflSource (mode e l b : Nat) : Nat :=
  let s := 2 ^ e
  let base := l - l % s
  let off := l % s
  let c := b % s
  match mode with
  | 0 => base + c
  | 1 => base + (off + c) % s
  | 2 => base + Nat.xor off c
  | _ => base + (c + s - off) % s

/-- The vector registers of `shfl` and `bcast`. -/
def moveUses (t : Tri) (b : List (Nat × Nat)) : Uses :=
  ⟨(t.a.toNat, Opd.count t.ty .vT) :: b, [(t.d.toNat, Opd.count t.ty .vT)], false⟩

/-- A value of vector operand A in a lane. -/
def State.opA (s : State) (t : Tri) (l : Nat) : BitVec 64 × Bool := s.operand l t.ty .vT false t.a 0

/-- R146. -/
def execShfl (t : Tri) (s : State) : Host.Outcome State Fault Refusal :=
  let imm := t.sub.getLsbD 5
  let u := moveUses t (if imm then [] else opdRange .v1 t.ty t.bu t.b)
  .next (s.teamWord t.h u fun s team =>
    (team.flatMap (fun l =>
      let (b, bb) := if imm then (t.b.setWidth 64, false) else s.operand l t.ty .v1 t.bu t.b 4
      let src := s.laneWith team (shflSource (t.sub.toNat % 4) (t.sub.toNat / 4 % 8) (s.laneNo l) b.toNat)
      let (v, bad) := s.opA t (src.getD l)
      vecResult l t.d.toNat (Opd.count t.ty .vT) v (bad || bb) ++ predResult l t.c.toNat src.isSome bb), 0))

/-- R147. -/
def execBcast (t : Tri) (s : State) : Host.Outcome State Fault Refusal :=
  .next (s.teamWord t.h (moveUses t []) fun s team =>
    let src := match t.sub.toNat with
      | 0 => team.head?
      | 1 => team.getLast?
      | _ => s.laneWith team t.b.toNat
    (team.flatMap (fun l =>
      let (v, bad) := s.opA t (src.getD l)
      vecResult l t.d.toNat (Opd.count t.ty .vT) v bad ++ predResult l t.c.toNat src.isSome false), 0))

/-- An integer reduction (R148). -/
def reduxInt (op : Nat) (ty : BitVec 3) (sf : Bool) (xs : List (BitVec 64)) : BitVec 64 :=
  let vs := xs.map (ival ty)
  match op with
  | 0 => deliver ty sf (vs.foldl (· + ·) 0)
  | 1 => wrapInt (widthOf ty) (vs.foldl min (maxInt ty))
  | 2 => wrapInt (widthOf ty) (vs.foldl max (minInt ty))
  | 3 => cut (widthOf ty) (xs.foldl (· &&& ·) (BitVec.allOnes 64))
  | 4 => cut (widthOf ty) (xs.foldl (· ||| ·) 0)
  | _ => cut (widthOf ty) (xs.foldl (· ^^^ ·) 0)

/-- A floating-point combine of R148, with the flags so far. -/
def reduxFp (op : Nat) (ty : BitVec 3) (rm : BitVec 2) (x y : BitVec 64 × Flags) : BitVec 64 × Flags :=
  let o : FpOp := if op == 8 then .add else if op == 9 then .min else .max
  let r := fpOp o ty rm false 0 x.1 y.1 0
  (r.1, x.2 ||| y.2 ||| r.2)

/-- A reduction over the leaves in lane order (R148): a NaN anywhere in a `.fadd` gives the canonical NaN. -/
def reduxOf (op : Nat) (ty : BitVec 3) (rm : BitVec 2) (sf : Bool) (xs : List (BitVec 64)) : BitVec 64 × Flags :=
  if op < 8 then (reduxInt op ty sf xs, 0)
  else
    let r := (treeFold (reduxFp op ty rm) xs.length (xs.map (fun x => (x, 0)))).getD (0, 0)
    let nan := op == 8 && (fval (fmtOf ty) (fpat ty r.1)).isNan
    (if nan then BitVec.ofNat 64 (fmtOf ty).canon else r.1, r.2)

/-- R148. -/
def execRedux (t : Tri) (s : State) : Host.Outcome State Fault Refusal :=
  .next (s.teamWord t.h (moveUses t []) fun s team =>
    let xs := team.map (s.opA t)
    let bad := xs.any (·.2)
    let r := reduxOf t.sub.toNat t.ty t.rm t.sf (xs.map (·.1))
    (team.flatMap (fun l => vecResult l t.d.toNat (Opd.count t.ty .vT) r.1 bad), r.2))

/-- A rejoin mask. -/
def Warp.rejoin (W : Warp) (k : Nat) : Word := tgetD W.m k 0
def Warp.setRejoin (W : Warp) (k : Nat) (v : Word) : Warp := { W with m := if v == 0 then tdel W.m k else tset W.m k v }

/-- R120, R143: each acting lane parks at the join. -/
def execJoin (t : Tri) (s : State) : Host.Outcome State Fault Refusal :=
  .next (s.vet t.h false {} fun s m => s.reclaimFirst m fun s m =>
    (s.parkLanes m t.h (fun _ => .join s.cur.pc t.a.toNat)).finish t.h)

/-- R143: clears the acting lanes' bits. -/
def execJleave (t : Tri) (s : State) : Host.Outcome State Fault Refusal :=
  .next (s.vet t.h false {} fun s m =>
    (s.updWarp s.w (fun W => W.setRejoin t.a.toNat (W.rejoin t.a.toNat &&& ~~~m))).finish t.h)

/-- R143: the mask becomes the set of acting lanes. -/
def execJmaskGang (t : Tri) (s : State) : Host.Outcome State Fault Refusal :=
  .next (s.vet t.h false {} fun s m =>
    if m == 0 then s.finish t.h else (s.updWarp s.w (·.setRejoin t.d.toNat m)).finish t.h)

/-- R143: the acting lanes join the mask. -/
def execJmaskAdd (t : Tri) (s : State) : Host.Outcome State Fault Refusal :=
  .next (s.vet t.h false {} fun s m =>
    (s.updWarp s.w (fun W => W.setRejoin t.d.toNat (W.rejoin t.d.toNat ||| m))).finish t.h)

/-- R143: the mask becomes a uniform register's value, provided that a lane acts. -/
def execJmaskU (t : Tri) (s : State) : Host.Outcome State Fault Refusal :=
  .next (s.vet t.h false {} fun s m =>
    let v := (s.readS s.w t.b.toNat 0).val
    if m == 0 then s.finish t.h else (s.updWarp s.w (·.setRejoin t.d.toNat v)).finish t.h)

/-- The barrier that a scope code and number name for a warp (R152, R230). -/
def State.barName (s : State) (w scope num : Nat) : BarName :=
  let W := s.warp w
  match scope with
  | 0 => ⟨0, w, num⟩
  | 1 => ⟨1, W.block, num⟩
  | 2 => ⟨2, s.clusterOf w, num⟩
  | 3 => ⟨3, dieBarOwner W.vi (dieOf W.core), num⟩
  | _ => ⟨4, W.vi, num⟩

/-- How many barriers a scope has (R153). -/
def barLimit (scope : Nat) : Nat :=
  match scope with
  | 0 | 1 => 16
  | 2 => 8
  | 3 | 4 => 4
  | _ => 0

/-- A commit of a warp's cluster is under way (R188). -/
def State.committing (s : State) (w : Nat) : Bool :=
  (s.die (dieOf (s.warp w).core)).commit.any (fun r =>
    clusterNo r.die r.x == s.clusterOf w || clusterNo r.die r.y == s.clusterOf w)

end Sys2Proof.Machine
end

