-- ==== Sys2Proof/Machine/Space.lean ====
section
/-! DEFINITION. Machine/Space.lean: from an effective address to the bytes of a storage, and the checks of an access
(R165 to R169, R176, R177, R179, R188, R219). -/

namespace Sys2Proof.Machine

/-- The space of a code (R53). -/
def spaceOf (code : Nat) : Space :=
  match code with
  | 0 => .dsp
  | 1 => .blk
  | 2 => .clp
  | _ => .stk

/-- The spill area of a die, as first byte and end (R166). -/
def Die.spillRange (d : Die) : Nat × Nat :=
  let b := d.spillArea.toNat % 128 * 2 ^ 20
  (b, min (2 ^ 27) (b + min 128 (d.spillArea.toNat / 2 ^ 16 % 256) * 2 ^ 20))

/-- The cluster-pool area of a die (R166). -/
def Die.clpRange (d : Die) : Nat × Nat :=
  let b := d.clpArea.toNat % 128 * 2 ^ 20
  (b, min (2 ^ 27) (b + min 128 (d.clpArea.toNat / 2 ^ 8 % 256) * 2 ^ 20))

/-- `.stk` bytes of a warp placed now (R166). -/
def Die.stkBytes (d : Die) : Nat := 256 * min 64 (d.spillArea.toNat / 2 ^ 24 % 128)

/-- A number lies in a half-open range. -/
def within (a : Nat) (r : Nat × Nat) : Bool := r.1 ≤ a && a < r.2

/-- A byte of the die scratchpad holds a stack or a frame image (R167). -/
def Die.holdsStack (d : Die) (a : Nat) : Bool := d.spill.any (fun x => within a (x.1, x.1 + x.2.1))

/-- A byte of the die scratchpad lies in a segment of a live cluster. -/
def State.inSegment (s : State) (die a : Nat) : Bool :=
  s.clusters.any (fun x => x.1 / 1024 == die && x.2.live && within a (x.2.base, x.2.base + x.2.size))

/-- A byte that user privilege may not reach with `.dsp` (R168): in one of the areas, or in what blocks and clusters
placed under earlier areas still hold (R166). -/
def State.reserved (s : State) (die a : Nat) : Bool :=
  let d := s.die die
  within a d.spillRange || within a d.clpRange || d.holdsStack a || s.inSegment die a

/-- Bytes that read as zero and discard what is written: those of R167 under system privilege. -/
def voidKey (die a : Nat) : Nat := memKey 10 die a
def isVoid (key : Nat) : Bool := key / 2 ^ 100 == 10

/-- How an access fails (R219). -/
inductive MemFail where
  | range | align | owner
  | lock (byte : Nat)
  deriving DecidableEq, Repr

/-- The order of causes, and the trap of each (R219). -/
def MemFail.rank : MemFail → Nat
  | .range => 0
  | .align => 1
  | .owner => 2
  | .lock _ => 3

@[inherit_doc MemFail.rank] def MemFail.cause : MemFail → BitVec 8
  | .range => cRange
  | .align => cAlign
  | .owner => cOwner
  | .lock _ => cLock

/-- The fields of a buffer handle (R177): home core number on the die, first unit, units. -/
def bufCore (h : Word) : Nat := h.toNat / 2 ^ 25
def bufUnit (h : Word) : Nat := h.toNat / 2 ^ 19 % 64
def bufUnits (h : Word) : Nat := h.toNat / 2 ^ 13 % 64 + 1

/-- The first 4 KiB unit of a buffer, counted from the first of its block's (R177): a block whose storage does not lie in
one run of its core's 64 units has numbers from 64 on, of which a handle holds the last six bits. -/
def Block.bufOff (B : Block) (h : Word) : Nat := (bufUnit h + 64 - B.unit % 64) % 64

/-- The first 4 KiB unit of a buffer of a die in its home core. -/
def State.bufFirst (s : State) (die : Nat) (h : Word) : Nat :=
  match s.buffers.find? (fun x => x.handle == h && dieOf (s.block x.home).core == die) with
  | some x => if (s.block x.home).unit < 64 then bufUnit h else (s.block x.home).unit + (s.block x.home).bufOff h
  | none => bufUnit h

/-- A local range of a block is part of a buffer that the block does not hold (R179). -/
def State.givenAway (s : State) (b : Nat) (off size : Nat) : Bool :=
  let B := s.block b
  s.buffers.any (fun x => x.home == b && x.holder != some b
    && (let lo := B.bufOff x.handle * 4096
        off < lo + bufUnits x.handle * 4096 && lo < off + size))

/-- The range of an address in its space (R165, R168), and where its first byte lies: a key, or a failure. The address
decides; the bytes of an aligned access lie with it. `size` is what an ownership check looks at (R179). -/
def State.locate (s : State) (w : Nat) (sp : Space) (ea : Word) (size : Nat) : Except MemFail Nat :=
  let W := s.warp w
  let die := dieOf W.core
  let B := s.block W.block
  let a := ea.toNat
  match sp with
  | .stk => if a ≥ B.stk then .error .range else .ok (stkKey w a)
  | .blk =>
    if a < 2 ^ 31 then
      if a ≥ B.bshm * 1024 then .error .range
      else if s.givenAway W.block a size then .error .owner
      else .ok (blkKey W.core (B.unit * 4096 + a))
    else if a / 2 ^ 21 % 2 ^ 10 != 0 then .error .range
    else match tget B.windows (a / 2 ^ 18 % 8) with
      | none => .error .owner
      | some h =>
        let off := a % 2 ^ 18
        if off ≥ bufUnits h * 4096 then .error .range
        else .ok (blkKey (die * 96 + bufCore h) (s.bufFirst die h * 4096 + off))
  | .clp =>
    let k := s.cluster (s.clusterOf w)
    if !s.clusterLive w || a ≥ k.size then .error .range else .ok (dspKey die (k.base + a))
  | .dsp =>
    if a ≥ 2 ^ 27 then .error .range
    else if !W.cur && s.reserved die a then .error .range
    else if W.cur && (s.die die).holdsStack a then .ok (voidKey die a)
    else .ok (dspKey die a)

/-- The smallest range of one storage that holds two (R251); of two storages, both. -/
def joinRanges (a b : Nat × Nat) : List (Nat × Nat) :=
  if a.1 / 2 ^ 60 != b.1 / 2 ^ 60 then [a, b]
  else
    let lo := min a.1 b.1
    [(lo, max (a.1 + a.2) (b.1 + b.2) - lo)]

/-- The on-chip ranges that a copy locks (R176, R251, R293): its source with its scale stream, and its destination. -/
def Copy.locks (c : Copy) : List (Nat × Nat) :=
  let src := match c.src.chipRange c.total, c.streamRange with
    | some a, some b => joinRanges a b
    | some a, none | none, some a => [a]
    | none, none => []
  src ++ (c.dst.chipRange c.total).toList

/-- The first byte of a range that an outstanding copy of a core has locked (R176). -/
def State.lockedByte (s : State) (core key size : Nat) : Option Nat :=
  let hits := s.copies.flatMap (fun c =>
    if c.2.core != core then []
    else c.2.locks.filterMap (fun r =>
      if meets key size r.1 r.2 then some (max key r.1) else none))
  hits.foldl (fun o k => match o with | none => some k | some j => some (min j k)) none

/-- Every bank that a range of the die scratchpad touches begins to wake when it is gated (R169). -/
def State.rouseRange (s : State) (key n : Nat) : State :=
  if key / 2 ^ 100 != 1 then s
  else
    let die := key / 2 ^ 60 % 2 ^ 40
    ((s.die die).gated.filter (fun g => meets g.1 g.2 (key % 2 ^ 60) n)).foldl (fun s g =>
      s.updDie die (fun d => { d with
        gated := d.gated.filter (· != g), waking := d.waking ++ [(g.1, g.2, s.now + 594000)] })) s

/-- A byte of the die scratchpad lies in a stack or a frame image: a copy reads it as zero and its write is discarded
(R167, R168). -/
def State.underStack (s : State) (key : Nat) : Bool :=
  key / 2 ^ 100 == 1 && (s.die (key / 2 ^ 60 % 2 ^ 40)).holdsStack (key % 2 ^ 60)

/-- A bank of the die scratchpad is gated, or not yet awake (R169). -/
def State.asleep (s : State) (die a : Nat) : Bool :=
  let d := s.die die
  d.gated.any (fun g => within a (g.1, g.1 + g.2))
    || d.waking.any (fun g => within a (g.1, g.1 + g.2.1) && s.now < g.2.2)

/-- An access reaches a gated bank: it begins to wake, for at most 2 µs (R169). -/
def State.rouse (s : State) (die a : Nat) : State :=
  let hit := (s.die die).gated.filter (fun g => within a (g.1, g.1 + g.2))
  if hit.isEmpty then s
  else s.updDie die (fun d => { d with
    gated := d.gated.filter (fun g => !within a (g.1, g.1 + g.2))
    waking := d.waking ++ hit.map (fun g => (g.1, g.2, s.now + 594000)) })

/-- The bank of a byte of a die scratchpad begins to wake when it is gated; no other storage has such banks. -/
def State.rouseKey (s : State) (key : Nat) : State :=
  if key / 2 ^ 100 == 1 then s.rouse (key / 2 ^ 60 % 2 ^ 40) (key % 2 ^ 60) else s

/-- A commit that rehouses the segment of a cluster-pool key (R188) is under way, and something issued at a place in the
order of issue comes after it began. -/
def State.rehousedSince (s : State) (key seq : Nat) : Bool :=
  s.dies.any (fun d => d.2.commit.any (fun r => r.began ≤ seq && [r.x, r.y].any (fun c =>
    let k := s.cluster (clusterNo d.1 c)
    within key (dspKey d.1 k.base, dspKey d.1 (k.base + k.size)))))

/-- The segment of a cluster-pool key is being rehoused now (R188). -/
def State.rehousing (s : State) (key : Nat) : Bool := s.rehousedSince key s.uid

/-- The bank of a byte is awake (R169). -/
def State.awake (s : State) (key : Nat) : Bool :=
  !(key / 2 ^ 100 == 1 && s.asleep (key / 2 ^ 60 % 2 ^ 40) (key % 2 ^ 60))

/-- What an access must wait for before it can perform (R169, R176, R188): its lines, its bank, its segment. -/
def State.accessible (s : State) (key size : Nat) : Bool :=
  s.present key size && !s.rehousing key && s.awake key

/-- A lane's access once its checks have passed. -/
structure Place where
  lane : Nat
  ea : Word
  key : Nat
  deriving DecidableEq, Repr

/-- The checks of one access in order (R219): range, alignment, ownership, and a range lock for what writes. -/
def State.checkAccess (s : State) (w : Nat) (sp : Space) (ea : Word) (size al : Nat) (writes : Bool) :
    Except MemFail Nat :=
  match s.locate w sp ea size with
  | .error .range => .error .range
  | r =>
    if ea.toNat % al != 0 then .error .align
    else match r with
      | .error e => .error e
      | .ok key => match (if writes then s.lockedByte (s.warp w).core key size else none) with
        | some b => .error (.lock b)
        | none => .ok key

/-- What a failed check puts into TADDR (R176, R219): the effective address of the lowest lane, or the first locked
byte, as the issuing thread would name it. -/
def failAddr (ea : Word) (key : Nat) (e : MemFail) : DWord :=
  match e with
  | .lock b => BitVec.ofNat 64 (ea.toNat + (b - key))
  | _ => ea.setWidth 64

/-- The checks of every lane of a word, and the trap of the first cause in the order of R219 that a lane fails; an
ownership trap is also logged (R179). -/
def State.checkAll (s : State) (sp : Space) (eas : List (Nat × Word)) (size al : Nat) (writes : Bool)
    (k : State → List Place → State) : State :=
  let rs := eas.map (fun x => (x.1, x.2, s.checkAccess s.w sp x.2 size al writes))
  let bad (n : Nat) := rs.filter (fun r => match r.2.2 with | .error e => e.rank == n | .ok _ => false)
  match [0, 1, 2, 3].find? (fun n => !(bad n).isEmpty) with
  | some n =>
    match bad n with
    | (l, ea, .error e) :: more =>
      let mask := maskOf (l :: more.map (·.1))
      let key := match s.locate s.w sp ea size with | .ok k => k | .error _ => 0
      let s := if n == 2 then s.errLogAt s.w 0x01 ea.toNat else s
      s.trapAt e.cause (failAddr ea key e) mask
    | _ => s
  | none => k s (rs.filterMap (fun r => match r.2.2 with | .ok key => some ⟨r.1, r.2.1, key⟩ | .error _ => none))

end Sys2Proof.Machine
end

