-- ==== Sys2Proof/Machine/Waiting.lean ====
section
/-! DEFINITION. Machine/Waiting.lean: `wait` (R149 to R151) and the barrier words of every scope (R152 to R155, R228 to
R231). -/

namespace Sys2Proof.Machine

/-- A condition of `wait` holds for a lane now (R150). Log entry 20: DEDUCED. -/
def State.condHolds (s : State) (w l : Nat) : WaitCond → Bool
  | .future h => !s.current h || (s.fut (futNo h)).st = .done
  | .chanCommitted c n => n ≤ (s.chanCommit c - s.chanTaken c).toNat
  | .chanFree c n => (s.chanClaim c - s.chanRetire c).toNat + n ≤ s.chanSize c
  | .barrier b tok => (s.bar b).gen != tok
  | .present line => !s.lineAbsent line
  | .full r => match s.cellAt w l r with
    | some (_, _, full, _) => full
    | none => true

/-- The HELD bits of some conditions (R151). -/
def heldBits (hs : List Bool) : Nat := (hs.zipIdx.map (fun x => if x.1 then 2 ^ x.2 else 0)).sum

/-- The selected combination (R149). -/
def combine (all : Bool) (hs : List Bool) : Bool := if all then hs.all id else hs.any id

/-- One descriptor of `wait` with its operand (R150): the condition, or the cause of its trap. Of the token of a barrier
condition only bits 15:0 count. Log entry 54: DESIGN CHOICE. -/
def State.waitCond (s : State) (w l : Nat) (d x : Word) : Except (BitVec 8) WaitCond :=
  let n := d.toNat
  match n / 2 ^ 28 with
  | 0 => if n % 2 ^ 28 == 0 then .ok (.future x) else .error cIllegal
  | 1 =>
    let N := n % 2 ^ 24
    match tget (s.warp w).c (n / 2 ^ 26 % 4) with
    | some c =>
      if d.getLsbD 24 || N == 0 then .error cIllegal
      else .ok (if d.getLsbD 25 then .chanFree c N else .chanCommitted c N)
    | none => .error cIllegal
  | 2 =>
    let sc := n / 2 ^ 25 % 8
    let b := n / 2 ^ 21 % 16
    if n % 2 ^ 21 != 0 || b ≥ barLimit sc then .error cIllegal
    else .ok (.barrier (s.barName w sc b) (x.setWidth 16))
  | 3 =>
    let sp := n / 2 ^ 26 % 4
    if n % 2 ^ 26 != 0 || sp == 3 then .error cIllegal
    else match s.locate w (spaceOf sp) x 1 with
      | .ok key => .ok (.present (lineOf key))
      | .error .range => .error cRange
      | .error e => .error e.cause
  | 4 =>
    if n % 2 ^ 28 / 2 ^ 8 != 0 || n % 256 ≥ 8 * ((s.warp w).lane l).top.g then .error cIllegal
    else .ok (.full (n % 256))
  | _ => .error cIllegal

/-- The conditions among the answers for a lane's descriptors, and the causes among them. -/
def condsOf (xs : List (Except (BitVec 8) WaitCond)) : List WaitCond :=
  xs.filterMap (fun x => match x with | .ok c => some c | .error _ => none)
@[inherit_doc condsOf] def causesOf (xs : List (Except (BitVec 8) WaitCond)) : List (BitVec 8) :=
  xs.filterMap (fun x => match x with | .ok _ => none | .error e => some e)

/-- What the barrier conditions that hold have released to a lane (R151, R198). -/
def State.condWaits (s : State) (cs : List WaitCond) : Waits :=
  cs.flatMap (fun c => match c with
    | .barrier b tok => if (s.bar b).gen == tok then [] else (s.bar b).released tok
    | _ => [])

/-- The operands that descriptors of `wait` read (R150): those of channel and register conditions are ignored. -/
def waitReads (ds : List Word) (b : Nat) : List (Nat × Nat) :=
  ((ds.zipIdx.filter (fun x => x.1.toNat / 2 ^ 28 != 1 && x.1.toNat / 2 ^ 28 != 4)).map (fun x => (b + x.2, 1)))

/-- What `wait` writes to D (R151). -/
def waitResult (all : Bool) (hs : List Bool) (timeout : Bool) : Word :=
  BitVec.ofNat 32 (heldBits hs + if timeout && !combine all hs then 16 else 0)

/-- A descriptor of `wait` names the cluster barrier of a cluster (R150). -/
def namesCluster (d : Word) : Bool := d.toNat / 2 ^ 28 == 2 && d.toNat / 2 ^ 25 % 8 == 2

/-- R149: each acting lane parks until its combination of conditions holds, or its timeout. -/
def execWait (t : Tri) (s : State) : Host.Outcome State Fault Refusal :=
  let n := t.sub.toNat % 4 + 1
  let all := t.sub.getLsbD 2
  let ds := (List.range n).map (fun k => s.readS s.w (t.a.toNat + k) k)
  let reads := waitReads (ds.map (·.val)) t.b.toNat
  let u : Uses := ⟨reads, [(t.d.toNat, 1)], false⟩
  let unfit := s.lanesWhere s.cur.lanes (fun _ L =>
    !(L.liveFits t.h.live && L.fits [(t.b.toNat, n), (t.d.toNat, 1)]))
  .next (if unfit != 0 then s.trapOpen cIllegal unfit else s.vet t.h false u fun s m => s.reclaimFirst m fun s m =>
    let limit := s.readS s.w t.c.toNat 8
    let xs (l : Nat) := (List.range n).map (fun k =>
      if reads.contains (t.b.toNat + k, 1) then s.readV s.w l (t.b.toNat + k) (16 + k) else {})
    let timed := t.sub.getLsbD 3
    let taint (l : Nat) := ds.any (·.bad) || timed && limit.bad || (xs l).any (·.bad)
    let badAddr (l : Nat) := (ds.zip (xs l)).any (fun p => p.1.val.toNat / 2 ^ 28 == 3 && (p.1.bad || p.2.bad))
    if (lanesOf m).any badAddr then s.poisoned 0
    else if m != 0 && ds.any (fun d => namesCluster d.val) && s.committing s.w then
      (s.parkGang s.cur.lanes t.h .commit)
    else
      let cs := (lanesOf m).map (fun l =>
        (l, (ds.zip (xs l)).map (fun p => s.waitCond s.w l p.1.val p.2.val)))
      let failing (c : BitVec 8) := maskOf ((cs.filter (fun x => (causesOf x.2).contains c)).map (·.1))
      if failing cIllegal != 0 then s.trapOpen cIllegal (failing cIllegal)
      else if failing cRange != 0 then s.trapOpen cRange (failing cRange)
      else if failing cOwner != 0 then s.trapOpen cOwner (failing cOwner)
      else
        let s := s.emptyCells m (regsOf u.reads)
        let s := cs.foldl (fun s x =>
          let conds := condsOf x.2
          let hs := conds.map (s.condHolds s.w x.1)
          let now := timed && limit.val == 0
          if combine all hs || now then
            (s.writeTarget s.w (.vec x.1 t.d.toNat) ⟨waitResult all hs now, taint x.1⟩).accept s.w [x.1]
              (s.condWaits conds)
          else s.parkLanes (maskOf [x.1]) t.h (fun _ =>
            .wait conds all (if timed then some (s.refTick + limit.val.toNat) else none) t.d.toNat (taint x.1))) s
        s.finish t.h)

/-- A cluster handle is current for a warp's cluster (R183, R228). -/
def State.handleOk (s : State) (w : Nat) (h : Word) : Bool :=
  let c := s.clusterOf w
  s.clusterLive w && h.toNat / 2 ^ 16 == (s.cluster c).gen.toNat && h.toNat / 2 ^ 14 % 4 == c / 1024 && h.toNat / 2 ^ 11 % 8 == 2
    && !h.getLsbD 10 && h.toNat % 1024 == c % 1024

/-- A word that names its cluster by a handle (R228, R231, R234): it parks while a commit is under way, and a handle that
is not current takes the stale-scope fault. A `bar.arrive` or `bar.expect` parks so too, and its park counts as a wait
point. Log entry 55: DESIGN CHOICE. -/
def State.withHandle (s : State) (h : Hdr) (m : BitVec 32) (reg : Nat) (k : State → State) : State :=
  let v := s.readS s.w reg 32
  if v.bad then s.poisoned 0
  else if s.committing s.w then s.parkGang s.cur.lanes h .commit
  else if !s.handleOk s.w v.val then s.trapOpen cStale m
  else k s

/-- The scope code and the barrier of a barrier word (R153, R229). -/
def barScope (t : Tri) : Nat := t.sub.toNat % 8
def State.barOf (s : State) (t : Tri) : BarName := s.barName s.w (barScope t) (t.sub.toNat / 8 % 16)

/-- The threads among some lanes that count at a barrier: under PROT the visible ones (R152, R351). -/
def State.visible (s : State) (m : BitVec 32) : List Nat :=
  (lanesOf m).filter (fun l => !(s.wp.lane l).shadow)

/-- The checks that a barrier word makes before it acts (R154, R231). `joins` is an arrival or `bar.expect`. -/
def State.barWord (s : State) (t : Tri) (joins : Bool) (k : State → BitVec 32 → State) : State :=
  s.vet t.h false {} fun s m =>
    let go (s : State) : State :=
      let b := s.bar (s.barOf t)
      if barScope t ≥ 2 && s.wp.wave then s.trapOpen cBarrier m
      else if barScope t ≥ 3 && joins && b.opened && b.owner != s.wp.grid then s.trapOpen cBarrier m
      else k s m
    if barScope t == 2 then s.withHandle t.h m t.b.toNat go else go s

/-- The threads of the issuing warp in some lanes. -/
def State.threads (s : State) (ls : List Nat) : List Nat := ls.map (threadNo s.w)

/-- An arrival of the visible threads of some lanes (R154): the barrier trap when one has arrived already. An open
generation that a thread is no member of takes no arrival of it (R230). `k` goes on with the token. -/
def State.arrive (s : State) (t : Tri) (m : BitVec 32) (k : State → BitVec 16 → State) : State :=
  let n := s.barOf t
  let s0 := s.barOpen n s.wp.grid
  let again := (lanesOf m).filter (fun l => (s.bar n).arrived.contains (threadNo s.w l))
  if !again.isEmpty then s.trapOpen cBarrier (maskOf again)
  else
    let tok := (s0.bar n).gen
    k (s0.barArrive n (s0.threads (s0.visible m))) tok

/-- A thread of a block that was placed while a generation is open takes part from the next one (R230). -/
def State.late (s : State) (t : Tri) (m : BitVec 32) : Bool :=
  let b := s.bar (s.barOf t)
  barScope t ≥ 2 && b.opened && (s.visible m).any (fun l => !b.members.contains (threadNo s.w l))

/-- The gang parks until the open generation is over, and issues its word again (R117, R230). -/
def State.deferArrive (s : State) (t : Tri) (m : BitVec 32) : State :=
  let n := s.barOf t
  let g := (s.bar n).gen
  s.updWarp s.w (fun W => W.updLanes m (fun _ L =>
    { L with park := .barrier n g false, next := s.cur.pc, heldMask := 0 }))

/-- R154: the participants arrive, and s[D] receives the generation joined. -/
def execBarArrive (t : Tri) (s : State) : Host.Outcome State Fault Refusal :=
  .next (s.barWord t true fun s m =>
    if s.late t m then s.deferArrive t m
    else s.arrive t m fun s tok =>
      (s.writeTarget s.w (.uni t.d.toNat) ⟨tok.setWidth 32, false⟩).finish t.h)

/-- Lanes park while a barrier's generation is this one (R154). -/
def State.parkBarrier (s : State) (h : Hdr) (m : BitVec 32) (n : BarName) (tok : BitVec 16) (sync : Bool) : State :=
  if (s.bar n).gen != tok then (s.accept s.w (lanesOf m) ((s.bar n).released tok)).finish h else (s.parkLanes m h (fun _ => .barrier n tok sync)).finish h

/-- R154: the participants park while GEN is the token's. -/
def execBarWait (t : Tri) (s : State) : Host.Outcome State Fault Refusal :=
  .next (s.barWord t false fun s m => s.reclaimFirst m fun s m =>
    let v := s.readS s.w t.a.toNat 0
    if v.val.extractLsb' 16 16 != 0 then s.trapOpen cBarrier m
    else s.parkBarrier t.h m (s.barOf t) (v.val.setWidth 16) false)

/-- R154: an arrival into an internal token, and the wait on it. -/
def execBarSync (t : Tri) (s : State) : Host.Outcome State Fault Refusal :=
  .next (s.barWord t true fun s m => s.reclaimFirst m fun s m =>
    if s.late t m then s.deferArrive t m
    else s.arrive t m fun s tok => s.parkBarrier t.h m (s.barOf t) tok true)

/-- R154: bytes added to PEND. -/
def execBarExpect (t : Tri) (s : State) : Host.Outcome State Fault Refusal :=
  .next (s.barWord t true fun s m =>
    let v := s.readS s.w t.a.toNat 0
    let n := s.barOf t
    let s0 := s.barOpen n s.wp.grid
    let b := s0.bar n
    if b.pend + v.val.toNat ≥ 2 ^ 40 then s.trapOpen cBarrier m
    else (s0.setBar n { b with pend := b.pend + v.val.toNat }).finish t.h)

end Sys2Proof.Machine
end

