-- ==== Sys2Proof/Machine/Access.lean ====
section
/-! DEFINITION. Machine/Access.lean: accesses of threads, from the words that issue them (R214 to R223, R226, R227) to the
step in which each performs at its home (R190, R387). The order in which the
accesses of one warp perform is that of R195 (log entry 12: DEDUCED). -/

namespace Sys2Proof.Machine

/-- The signed 16-bit offset of the TRI-O layout (R53). -/
def triOffset (t : Tri) : Word := (t.b ++ t.c).signExtend 32

/-- The effective addresses of the acting lanes (R165), and whether an address register is poisoned. -/
def State.addresses (s : State) (t : Tri) (m : BitVec 32) : List (Nat × Word) × Bool :=
  let (vs, bad) := s.laneVals m 1 t.a.toNat 0
  (vs.map (fun v => (v.1, v.2.setWidth 32 + triOffset t)), bad)

/-- The access size of `ld` and `st` (R215). -/
def accessSize (t : Tri) : Nat :=
  match t.sub.toNat / 4 % 4 with
  | 1 => 1
  | 2 => 2
  | _ => if t.ty == 6 || t.ty == 7 then 2 else if wideTy t.ty then 8 else 4

/-- The space, the acquire or release bit and the scope of a load or store (R53, R214). -/
def memSpace (t : Tri) : Space := spaceOf (t.sub.toNat % 4)
def memOrdered (t : Tri) : Bool := t.sub.getLsbD 4
def memScope (t : Tri) : Nat := t.sub.toNat / 32

/-- The member cores of the instance that a scope has for what a warp issues now (R192): those of its current cluster for a
cluster scope. -/
def State.instanceOf (s : State) (w scope : Nat) : List Nat :=
  if scope != 2 then [] else s.memberCores w

/-- A new access of the issuing warp; its number is its place in program order. -/
def State.issueAccess (s : State) (a : Access) : Nat × State :=
  let (id, s) := s.take
  (id, s.updWarp s.w (fun W => { W with accs := tset W.accs id { a with seq := id } }))

/-- A lane parks at its access until it can perform (R176); under PROT the shadow of an atomic's lane parks with it. -/
def State.parkAccess (s : State) (h : Hdr) (a : Access) : State :=
  let rmw := match a.kind with
    | .rmw _ _ _ => true
    | _ => false
  s.parkLanes (maskOf (if rmw && s.prot then [a.lane, a.lane + 1] else [a.lane])) h (fun _ => .access a.word)

/-- An access issued for a lane: the lane parks when the access must wait (R169, R176, R188), and waking begins for a
gated bank. Log entry 18: DEDUCED. -/
def State.beginAccess (s : State) (h : Hdr) (a : Access) : State :=
  let go := s.accessible a.key a.size
  let s := if go then s else s.rouseKey a.key
  let s := (s.issueAccess { a with parked := !go, held := !s.present a.key a.size }).2
  if go then s else s.parkAccess h a

/-- The destinations of a load of n registers in some lanes. -/
def loadDests (ps : List Place) (r n : Nat) : List Dest :=
  ps.flatMap (fun p => (List.range n).map (fun i => ⟨.vec p.lane (r + i), none, false⟩))

/-- R215: a load of one event for each acting lane. -/
def execLd (t : Tri) (s : State) : Host.Outcome State Fault Refusal :=
  let n := Opd.count t.ty .vT
  let size := accessSize t
  let u : Uses := ⟨[(t.a.toNat, 1)], [(t.d.toNat, n)], false⟩
  .next (s.vet t.h false u fun s m =>
    let (eas, bad) := s.addresses t m
    if bad then s.poisoned 0
    else s.checkAll (memSpace t) eas size size false fun s ps =>
      let s := s.emptyCells m [t.a.toNat]
      if ps.isEmpty then s.finish t.h
      else
        let (op, s) := s.pend s.w (loadDests ps t.d.toNat n) 0 0
        let s := ps.foldl (fun s p => s.beginAccess t.h
          { seq := 0, lane := p.lane, key := p.key, space := memSpace t, ea := p.ea, size := size
            kind := .load (t.ty == 0 && size < 4) t.d.toNat op
            acq := memOrdered t, scope := memScope t, cores := s.instanceOf s.w (memScope t), word := op }) s
        s.finish t.h)

/-- R216: a load of two events of 8 bytes. -/
def execLdp (t : Tri) (s : State) : Host.Outcome State Fault Refusal :=
  let u : Uses := ⟨[(t.a.toNat, 1)], [(t.d.toNat, 4)], false⟩
  .next (s.vet t.h false u fun s m =>
    let (eas, bad) := s.addresses t m
    if bad then s.poisoned 0
    else s.checkAll (memSpace t) eas 16 16 false fun s ps =>
      let s := s.emptyCells m [t.a.toNat]
      if ps.isEmpty then s.finish t.h
      else
        let (op, s) := s.pend s.w (loadDests ps t.d.toNat 4) 0 0
        let s := ps.foldl (fun s p =>
          let half (k : Nat) : Access :=
            { seq := 0, lane := p.lane, key := p.key + 8 * k, space := memSpace t, ea := p.ea, size := 8
              kind := .load false (t.d.toNat + 2 * k) op, word := op }
          (s.beginAccess t.h (half 0)).beginAccess t.h (half 1)) s
        s.finish t.h)

/-- The registers of store data in a lane as bytes, and whether one is poisoned. -/
def State.storeData (s : State) (l r n : Nat) : List Word × Bool :=
  let cs := (List.range n).map (fun i => s.readV s.w l (r + i) (8 + i))
  (cs.map (·.val), cs.any (·.bad))

/-- The address of a word whose data is poisoned (R349): that of the lowest lane concerned, and zero where an address is
itself poisoned. -/
def badAddress (unknown : Bool) (ls : List Nat) (p : Nat → Bool) (ea : Nat → Nat) : Nat :=
  if unknown then 0 else ((ls.find? p).map ea).getD 0

/-- Two registers as a doubleword; one alone is zero-extended. -/
def dword : List Word → DWord
  | [a] => a.setWidth 64
  | a :: b :: _ => b ++ a
  | [] => 0

/-- R215, R216: stores of each acting lane, one event of `size` bytes or two of 8. Under PROT the pair is compared and
stores once (R351). -/
def State.storeWord (s : State) (t : Tri) (n size al : Nat) : State :=
  let u : Uses := ⟨[(t.a.toNat, 1), (t.d.toNat, n)], [], false⟩
  s.vet t.h false u fun s m =>
    let (eas, bad) := s.addresses t m
    let data (l : Nat) := s.storeData l t.d.toNat n
    let ea (l : Nat) : Word := ((eas.find? (fun x => x.1 == l)).map (·.2)).getD 0
    if bad || (lanesOf m).any (fun l => (data l).2) then
      s.poisoned (badAddress bad (lanesOf m) (fun l => (data l).2) (fun l => (ea l).toNat))
    else s.checkAll (memSpace t) eas size al true fun s ps =>
      s.compare m (fun l => (ea l).setWidth 64 :: (data l).1.map (·.setWidth 64)) fun s =>
        let s := s.emptyCells m (regsOf u.reads)
        let (word, s) := s.take
        let step := min size 8
        let s := ps.foldl (fun s p =>
          (List.range (size / step)).foldl (fun s k =>
            let v : DWord := dword ((data p.lane).1.drop (2 * k))
            let v := cut (8 * step) v
            let s := s.digestStore p.lane
              (storeRecord (t.sub.toNat % 4) step (p.ea + BitVec.ofNat 32 (8 * k)) v)
            if (s.wp.lane p.lane).shadow then s
            else (s.issueAccess
              { seq := 0, lane := p.lane, key := p.key + 8 * k, space := memSpace t, ea := p.ea, size := step
                kind := .store v false, rel := memOrdered t, scope := memScope t
                cores := s.instanceOf s.w (memScope t), word := word }).2) s) s
        s.finish t.h

/-- R215. -/
def execSt (t : Tri) (s : State) : Host.Outcome State Fault Refusal :=
  .next (s.storeWord t (Opd.count t.ty .vT) (accessSize t) (accessSize t))

/-- R216. -/
def execStp (t : Tri) (s : State) : Host.Outcome State Fault Refusal :=
  .next (s.storeWord t 4 16 16)

/-- R217: the presence bit of the line that holds the address. -/
def execPrs (t : Tri) (s : State) : Host.Outcome State Fault Refusal :=
  let u : Uses := ⟨[(t.a.toNat, 1)], [], false⟩
  .next (s.vet t.h false u fun s m =>
    let (eas, bad) := s.addresses t m
    if bad then s.poisoned 0
    else s.checkAll (memSpace t) eas 1 1 false fun s ps =>
      let s := s.emptyCells m [t.a.toNat]
      if ps.isEmpty then s.finish t.h
      else
        let dests := ps.map (fun p => (⟨.pred p.lane t.d.toNat, none, false⟩ : Dest))
        let (op, s) := s.pend s.w dests 0 0
        let s := ps.foldl (fun s p => (s.issueAccess
          { seq := 0, lane := p.lane, key := p.key, space := memSpace t, ea := p.ea, size := 1
            kind := .presence t.d.toNat op, word := op }).2) s
        s.finish t.h)

/-- The kind and the scope of a fence (R226): it acquires but for `.rel`, and releases but for `.acq`. -/
def fenceKind (t : Tri) : Nat := t.sub.toNat % 4
@[inherit_doc fenceKind] def fenceScope (t : Tri) : Nat := t.sub.toNat / 4 % 8

/-- A fence of one lane (R191, R198, R227): its release stands at once, carried by the lane's later writes while the
earlier accesses have not all performed; its acquire is an access that performs in its turn. -/
def State.fenceLane (s : State) (t : Tri) (word l : Nat) : State :=
  let cores := s.instanceOf s.w (fenceScope t)
  let ws := s.releases s.w [l]
  let s := if fenceKind t == 0 || ws.isEmpty then s
    else s.updWarp s.w (fun W => { W with
      fences := W.fences.filter (fun f => !s.settled f.waits) ++ [⟨⟨s.w, l, s.uid, fenceScope t, cores⟩, 0, 0, ws⟩] })
  if fenceKind t == 1 then s
  else (s.issueAccess { seq := 0, lane := l, key := 0, space := .dsp, ea := 0, size := 0
                        kind := .fence (fenceKind t == 3), scope := fenceScope t, cores := cores, word := word }).2

/-- R227: one Fence event for each active thread. -/
def execFence (t : Tri) (s : State) : Host.Outcome State Fault Refusal :=
  .next (s.vet t.h false {} fun s m =>
    let go (s : State) : State :=
      let (word, s) := s.take
      ((s.visible m).foldl (fun s l => s.fenceLane t word l) s).finish t.h
    if fenceScope t == 2 then s.withHandle t.h m t.a.toNat go else go s)

/-- What an RMW writes, with the flags of its operation (R221). -/
def rmwNew (a : AtomOp) (old : BitVec 64) : BitVec 64 × Flags :=
  let w := widthOf a.ty
  match a.op with
  | 0 => (arith .add a.ty false old a.x 0, 0)
  | 1 => (arith .min a.ty false old a.x 0, 0)
  | 2 => (arith .max a.ty false old a.x 0, 0)
  | 3 => (bitOp .and w old a.x, 0)
  | 4 => (bitOp .or w old a.x, 0)
  | 5 => (bitOp .xor w old a.x, 0)
  | 6 => (cut w a.x, 0)
  | 7 => (if old == cut w a.x then cut w a.y else old, 0)
  | 8 => fpOp .add a.ty a.rm false 0 old a.x 0
  | 9 => fpOp .min a.ty 0 false 0 old a.x 0
  | _ => fpOp .max a.ty 0 false 0 old a.x 0

/-- A floating-point addition of a DETERM grid without return is a contribution to a leaf (R354). -/
def AtomOp.leaf (a : AtomOp) : Bool := a.op == 8 && !a.ret

/-- The operands of an atomic in a lane: the operand or compare value, and the new value of `.cas` (R220). -/
def State.atomArgs (s : State) (t : Tri) (l : Nat) : BitVec 64 × BitVec 64 × Bool :=
  let n := Opd.count t.ty .vT
  let (x, b1) := readWide n (fun i => s.readV s.w l (t.b.toNat + i) (8 + i))
  if t.c == 7 then
    let (y, b2) := readWide n (fun i => s.readV s.w l (t.b.toNat + n + i) (12 + i))
    (x, y, b1 || b2)
  else (x, 0, b1)

/-- The atomic of a word in a lane (R220). -/
def State.atomOp (s : State) (t : Tri) (ret : Bool) (l : Nat) : AtomOp :=
  let (x, y, _) := s.atomArgs t l
  ⟨t.c.toNat, t.ty, t.rm, x, y, ret⟩

/-- The vector registers of an atomic word. -/
def atomUses (t : Tri) (ret : Bool) : Uses :=
  let n := Opd.count t.ty .vT
  ⟨[(t.a.toNat, if t.sub.toNat % 4 == 3 then 2 else 1), (t.b.toNat, if t.c == 7 then 2 * n else n)],
    if ret then [(t.d.toNat, n)] else [], false⟩

/-- The long operation of an atomic with return (R60): none for a reduction. -/
def State.pendAtom (s : State) (t : Tri) (ret : Bool) (ls : List Nat) : Nat × State :=
  if !ret || ls.isEmpty then (0, s)
  else s.pend s.w (ls.flatMap (fun l => (List.range (Opd.count t.ty .vT)).map (fun i =>
    ⟨.vec l (t.d.toNat + i), none, false⟩))) 0 0

/-- An atomic on `.dsp` or `.clp` (R222, R223). -/
def State.atomChip (s : State) (t : Tri) (ret : Bool) (m : BitVec 32) : State :=
  let sp := spaceOf (t.sub.toNat % 4)
  let size := if wideTy t.ty then 8 else 4
  let (vs, bad) := s.laneVals m 1 t.a.toNat 0
  let eas := vs.map (fun v => (v.1, v.2.setWidth 32))
  let args (l : Nat) := s.atomArgs t l
  if bad || (lanesOf m).any (fun l => (args l).2.2) then
    s.poisoned (badAddress bad (lanesOf m) (fun l => (args l).2.2) (fun l => (valOf vs l).toNat % 2 ^ 32))
  else s.checkAll sp eas size size true fun s ps =>
    s.compare m (fun l => [valOf vs l, (args l).1, (args l).2.1]) fun s =>
      let ops := ps.map (fun p => (p, s.atomOp t ret p.lane))
      let s := s.emptyCells m (regsOf (atomUses t ret).reads)
      let (op, s) := s.pendAtom t ret (ps.map (·.lane))
      let (word, s) := s.take
      let ordered := t.sub.toNat / 64
      let s := ops.foldl (fun s x =>
        if (s.wp.lane x.1.lane).shadow then s
        else s.beginAccess t.h
          { seq := 0, lane := x.1.lane, key := x.1.key, space := sp, ea := x.1.ea, size := size
            kind := .rmw x.2 t.d.toNat op, acq := ordered % 2 == 1, rel := ordered / 2 == 1
            scope := t.sub.toNat / 8 % 8, cores := s.instanceOf s.w (t.sub.toNat / 8 % 8), word := word }) s
      s.finish t.h

/-- Two accesses of one thread touch a common byte. -/
def Access.overlaps (a b : Access) : Bool := meets a.key a.size b.key b.size

/-- The banks of block shared memory that an access touches: bits 6:2 of its bytes' offsets (R195). -/
def Access.banks (a : Access) : List Nat :=
  (List.range ((a.key + a.size + 3) / 4 - a.key / 4)).map (fun i => (a.key / 4 + i) % 32)

/-- Two accesses of one warp reach one bank of one core's block shared memory, or one line elsewhere (R195). -/
def Access.sharesPort (a b : Access) : Bool :=
  a.size != 0 && b.size != 0
    && (if a.space = .blk then b.space = .blk && a.key / 2 ^ 60 == b.key / 2 ^ 60 && a.banks.any (b.banks.contains ·)
        else b.space != .blk && lineOf a.key == lineOf b.key)

/-- An access is the acquiring side of a fence. -/
def Access.isFence (a : Access) : Bool :=
  match a.kind with
  | .fence _ => true
  | _ => false

/-- An access reads memory (R189). -/
def Access.reads (a : Access) : Bool :=
  match a.kind with
  | .load _ _ _ | .rmw _ _ _ => true
  | _ => false

/-- What later accesses of its thread wait for, whatever bytes they touch: an acquire (R198). -/
def Access.acquires (a : Access) : Bool := a.acq || a.isFence

/-- An access of a warp touches the image of a matrix word: a byte of it, its line, or a bank of block shared memory, all of
which an image takes (R195). -/
def Access.atImage (a : Access) (i : Nat × Nat) : Bool :=
  a.size != 0 && if i.1 / 2 ^ 100 == 2 then a.space = .blk && a.key / 2 ^ 60 == i.1 / 2 ^ 60
    else a.space != .blk && lineOf a.key ≤ lineOf (i.1 + i.2 - 1) && lineOf i.1 ≤ lineOf (a.key + a.size - 1)

/-- An earlier matrix word of the warp has still to store or load an image that an access touches (R195, R314). -/
def State.imageFirst (s : State) (w : Nat) (a : Access) : Bool :=
  s.mwords.any (fun m => m.2.warp == w && m.1 < a.seq && m.2.image.any a.atImage)

/-- An access must perform after an earlier one of its warp (R195, R198): of its thread where they touch the same bytes,
after an acquire, and a fence after the reads whose releases it takes in; of any thread, from an earlier word, at the
same bank or line. A release holds back nothing: its bytes carry what has not performed. Log entry 12: DEDUCED. -/
def Access.after (a e : Access) : Bool :=
  e.seq < a.seq
    && (e.lane == a.lane && (a.overlaps e || e.acquires || a.isFence && e.reads)
      || e.word != a.word && a.sharesPort e)

/-- A scoped event of a warp's lane (R192). -/
def Access.point (a : Access) (w : Nat) : Point := ⟨w, a.lane, a.seq, a.scope, a.cores⟩

/-- The threads of a warp lie in the instance of a scoped event (R192). -/
def State.inInstance (s : State) (p : Point) (w : Nat) : Bool :=
  match p.scope with
  | 0 => p.warp == w
  | 1 => (s.warp p.warp).block == (s.warp w).block
  | 2 => p.cores.contains (s.warp w).core
  | 3 => dieOf (s.warp p.warp).core == dieOf (s.warp w).core
  | _ => true

/-- A regroup commit lies between two cluster-scope events of its clusters' cores (R205). -/
def State.acrossCommit (s : State) (p q : Point) : Bool :=
  let a := (s.warp p.warp).core
  let b := (s.warp q.warp).core
  p.scope == 2 && q.scope == 2 && dieOf a == dieOf b && (s.die (dieOf a)).commits.any (fun c =>
    p.seq < c.1 && c.2.1 ≤ q.seq && c.2.2.contains a && c.2.2.contains b)

/-- Two scoped events are scope-inclusive (R193, R205). -/
def State.inclusive (s : State) (p q : Point) : Bool :=
  s.inInstance p q.warp && s.inInstance q p.warp || s.acrossCommit p q || s.acrossCommit q p

/-- Two scoped events of one thread. -/
def Point.sameThread (p q : Point) : Bool := p.warp == q.warp && p.lane == q.lane

/-- The releases that some bytes carry and that have not finished (R198). -/
def State.relsAt (s : State) (key size : Nat) : List Rel :=
  s.rels.filter (fun r => r.size != 0 && meets r.key r.size key size)

/-- An acquire may take in some releases (R198): what those that it synchronises with carry has performed. -/
def State.takesIn (s : State) (p : Point) (rs : List Rel) : Bool :=
  rs.all (fun r => r.point.sameThread p || !s.inclusive r.point p || s.settled r.waits)

/-- What a lane has accepted lets its accesses from a place in the order of issue on perform, and it has no earlier
acquire among its off-chip atomics (R198). -/
def State.laneOrdered (s : State) (w l n : Nat) : Bool :=
  (s.warp w).syncs.all (fun x => x.lane != l || n < x.seq || s.settled x.waits)
    && !s.copies.any (fun c => c.2.warp == w && c.2.acq && c.1 < n && c.2.atoms.any (·.1 == l))

/-- An engine operation that some lanes issued at a place may access memory (R197, R200): their earlier acquires have
performed. -/
def State.gangOrdered (s : State) (w : Nat) (m : BitVec 32) (n : Nat) : Bool :=
  (lanesOf m).all (fun l => s.laneOrdered w l n
    && !(s.warp w).accs.any (fun a => a.2.lane == l && a.2.seq < n && a.2.acquires))

/-- The acquires among the accesses that perform here take in what they find (R198, R199). -/
def State.acquireReady (s : State) (w : Nat) (a : Access) : Bool :=
  let p := a.point w
  match a.kind with
  | .fence sc =>
    s.takesIn p (((s.warp w).seen.filter (·.1 == a.lane)).map (·.2))
      && (!sc || s.takesIn p (s.rels.filter (·.size == 0)))
      && !s.copies.any (fun c => c.2.warp == w && c.1 < a.seq && c.2.atoms.any (·.1 == a.lane))
  | _ => !a.acq || s.takesIn p (s.relsAt a.key a.size)

/-- The parts of a release's bytes that a write of some bytes leaves. -/
def Rel.without (r : Rel) (key size : Nat) : List Rel :=
  (if r.key < key then [{ r with size := min r.size (key - r.key) }] else [])
    ++ if key + size < r.key + r.size then
        [{ r with key := max r.key (key + size), size := r.key + r.size - max r.key (key + size) }]
      else []

/-- Bytes written carry no earlier release; an RMW of the same bytes continues its release sequence (R198). Releases
that have finished are forgotten. -/
def State.overwrite (s : State) (key size : Nat) (rmw : Bool) : State :=
  if s.rels.isEmpty then s
  else { s with rels := (s.rels.filter (fun r => !s.settled r.waits)).flatMap (fun r =>
    if r.size == 0 || !meets r.key r.size key size || rmw && r.key == key && r.size == size then [r]
    else r.without key size) }

/-- Releases that bytes carry from now on, while what they wait for has not performed (R198). -/
def State.bear (s : State) (rs : List Rel) : State :=
  match rs.filter (fun r => !s.settled r.waits) with
  | [] => s
  | rs => { s with rels := s.rels ++ rs }

/-- The bytes of a write carry the release fences that its thread has made before it (R198). -/
def State.carryFences (s : State) (w : Nat) (a : Access) : State :=
  let fences := (s.warp w).fences.filter (fun f => f.point.lane == a.lane && f.point.seq < a.seq)
  s.bear (fences.map (fun (f : Rel) => { f with key := a.key, size := a.size }))

/-- A thread's write has performed: its bytes carry its own release and those of the release fences before it (R198). -/
def State.carry (s : State) (w : Nat) (a : Access) (rmw : Bool) : State :=
  let s := s.overwrite a.key a.size rmw
  let own : List Rel := if a.rel then [⟨a.point w, a.key, a.size, s.pendingOf w a.lane a.seq⟩] else []
  (s.bear own).carryFences w a

/-- A thread's read has taken bytes: a later acquire fence of the thread takes in the releases that they carry (R198). -/
def State.notice (s : State) (w : Nat) (a : Access) : State :=
  match (s.relsAt a.key a.size).filter (fun r => !r.point.sameThread (a.point w) && !s.settled r.waits) with
  | [] => s
  | rs => s.updWarp w (fun W => { W with
      seen := W.seen.filter (fun x => !s.settled x.2.waits) ++ rs.map (fun r => (a.lane, r)) })

/-- What an access waits for at its home: a load or an atomic for the lines that were absent at its issue, every access
for its bank (R169, R176), and one that was issued after a commit that rehouses its segment began for its end (R188). A
store waits for no line, and `prs` reads the presence bit itself. -/
def State.reachable (s : State) (a : Access) : Bool :=
  !s.rehousedSince a.key a.seq && match a.kind with
    | .fence _ => true
    | .load _ _ _ | .rmw _ _ _ => !a.held && s.awake a.key
    | .store _ _ | .presence _ _ => s.awake a.key

/-- An access of a warp may perform now. -/
def State.mayPerform (s : State) (w : Nat) (a : Access) : Bool :=
  let W := s.warp w
  !W.asleep a && !W.accs.any (fun x => a.after x.2 && !W.asleep x.2) && !s.imageFirst w a && s.reachable a
    && s.laneOrdered w a.lane a.seq && s.acquireReady w a

/-- An access has performed. -/
def State.endAccess (s : State) (w id : Nat) : State := s.updWarp w (fun W => { W with accs := tdel W.accs id })

/-- An access of a core to a cluster-pool line of a die: it scores when another core of the die has written the line last,
and a write is remembered (R186). -/
def State.scoreLine (s : State) (core die line : Nat) (writes : Bool) : State :=
  if die != dieOf core then s
  else s.updDie die (fun d =>
    let d := match tget d.writers line with
      | some j => d.score (cixOf core) j 1
      | none => d
    if writes then { d with writers := tset d.writers line (cixOf core) } else d)

/-- Parallax counts a cluster-pool access to a line that another core has written last, and remembers the writer
(R186). -/
def State.scoreAccess (s : State) (w : Nat) (a : Access) (writes : Bool) : State :=
  if a.space != .clp then s
  else s.scoreLine (s.warp w).core (dieOf (s.warp w).core) (lineOf (a.key % 2 ^ 60)) writes

/-- Parallax counts what a copy or an accumulator image of a core reads or writes in cluster segments, line by line, as it
counts a thread's accesses (R186). Log entry 56: DEDUCED. -/
def State.scoreBytes (s : State) (core : Nat) (rs : List (Nat × Nat)) (writes : Bool) : State :=
  (rs.flatMap (fun r => linesIn r.1 r.2)).foldl (fun s line =>
    let key := line * 64
    if key / 2 ^ 100 != 1 || !s.inSegment (key / 2 ^ 60 % 2 ^ 40) (key % 2 ^ 60) then s
    else s.scoreLine core (key / 2 ^ 60 % 2 ^ 40) (key % 2 ^ 60 / 64) writes) s

/-- The value that a load of a size delivers (R215). -/
def loadValue (size : Nat) (signed : Bool) (x : Nat) : BitVec 64 :=
  if signed then wrapInt 32 (sval (8 * size) (BitVec.ofNat 64 x)) else BitVec.ofNat 64 x

/-- The cells of a loaded value: two registers for 8 bytes. -/
def loadCells (l reg size : Nat) (v : BitVec 64) (bad : Bool) : List (Target × Cell) :=
  vecResult l reg (if size == 8 then 2 else 1) v bad

/-- Values that a long operation's destinations receive. -/
def State.learnAll (s : State) (w op : Nat) (rs : List (Target × Cell)) (f : Flags) : State :=
  rs.foldl (fun s (r : Target × Cell) => s.learn w op r.1 r.2 f) s

/-- Bytes written at a device physical address (R348): poisoned data poisons every line that it touches, and a line is
clean again once the whole of it has been written from clean data. -/
def State.writeOff (s : State) (key : Nat) (bs : List Byte) (bad : Bool) : State :=
  let lines := (List.range ((key + bs.length + 63) / 64 - key / 64)).map (· + key / 64)
  let whole (l : Nat) : Bool := key ≤ 64 * l && 64 * l + 64 ≤ key + bs.length
  let units (l : Nat) : List Nat := (List.range 8).map (· + 8 * l)
  { s with
    mem := putBytes s.mem key bs
    hbmErr := s.hbmErr.filter (fun e => !(lines.contains e.1 && whole e.1))
    poison := if bad then
        (lines.flatMap units).filter (fun u => !s.poison.contains u) ++ s.poison
      else s.poison.filter (fun u => !(lines.contains (u / 8) && whole (u / 8))) }

/-- Bytes that a thread or a copy writes (R262): a line that holds a bound channel record keeps its contents, and the
write is logged; bytes of R167 keep theirs. -/
def State.storeBytes (s : State) (vi die cix : Nat) (key : Nat) (bs : List Byte) (bad : Bool) : State :=
  if isVoid key then s
  else if s.boundLine key then s.errLog vi 0x03 die cix 0 (key % 2 ^ 60)
  else if key < 2 ^ 100 then s.writeOff key bs bad
  else s.write key bs bad

/-- One RMW at its home (R222, R354): the old value goes to the lane, and under PROT to its shadow; a contribution of a
DETERM grid is kept for its tree. -/
def State.performRmw (s : State) (w : Nat) (a : Access) (x : AtomOp) (reg op : Nat) : State :=
  let W := s.warp w
  let (read, v, bad) := s.readNum a.key a.size
  let old := BitVec.ofNat 64 v
  let G := s.grid W.grid
  if G.launch.determ && x.leaf then
    let no := if G.launch.prot then a.lane / 2 else a.lane
    let seq := (W.lane a.lane).leaf
    let s := s.updWarp w (fun W => W.updLane a.lane (fun L => { L with leaf := seq + 1 }))
    s.updGrid W.grid (fun g => { g with leaves := g.leaves ++ [(a.key, s.waveNo w * 32 + no, seq, x.x, x.ty)] })
  else
    let r := rmwNew x old
    let s := read.storeBytes W.vi (dieOf W.core) (cixOf W.core) a.key (leBytes a.size r.1.toNat) bad
    let s := (s.notice w a).carry w a true
    let s := s.scoreAccess w a true
    if !x.ret then s
    else
      let ls := if G.launch.prot then [a.lane, a.lane + 1] else [a.lane]
      s.learnAll w op (ls.flatMap (fun l => loadCells l reg a.size old bad)) r.2

/-- One access performs at its home (R190). -/
def State.perform (s : State) (w id : Nat) (a : Access) : State :=
  let W := s.warp w
  let s := match a.kind with
    | .load signed reg op =>
      let v := loadValue a.size signed (s.num a.key a.size)
      let s := (s.scoreAccess w a false).notice w a
      s.learnAll w op (loadCells a.lane reg a.size v (s.tainted a.key a.size)) 0
    | .store data bad =>
      let s := s.storeBytes W.vi (dieOf W.core) (cixOf W.core) a.key (leBytes a.size data.toNat) bad
      (s.carry w a false).scoreAccess w a true
    | .rmw x reg op => s.performRmw w a x reg op
    | .presence p op =>
      s.learnAll w op (predResult a.lane p (!s.lineAbsent (lineOf a.key)) false) 0
    | .fence sc =>
      let r : Rel := ⟨a.point w, 0, 0, s.pendingOf w a.lane a.seq⟩
      if sc && !s.settled r.waits then { s with rels := s.rels ++ [r] } else s
  s.endAccess w id

/-- The accesses of one atomic word to the same bytes, in lane order: they perform together (R222). -/
def Warp.together (W : Warp) (a : Access) : List (Nat × Access) :=
  W.accs.filter (fun x => x.2.word == a.word && x.2.key == a.key && match x.2.kind with
    | .rmw _ _ _ => true
    | _ => false)

/-- Lanes whose accesses have performed go on. -/
def State.releaseAccess (s : State) (w : Nat) : State :=
  let W := s.warp w
  let free (l : Nat) (L : Lane) : Bool := match L.park with
    | .access k => !W.accs.any (fun x => x.2.parked && x.2.word == k && (x.2.lane == l || L.shadow && x.2.lane + 1 == l))
    | _ => false
  ((W.lanes.filter (fun x => free x.1 x.2)).map (·.1)).foldl (fun s l => s.wake w l) s

end Sys2Proof.Machine
end

