-- ==== Sys2Proof/Machine/Format.lean ====
section
/-! DEFINITION. Machine/Format.lean: the matrix element formats and their parameters (R266, R267, R270 to R272), block
scales and their layouts (R273 to R275), the chunked accumulation (R278 to R280) and the toggle estimate (R282). -/

namespace Sys2Proof.Machine

/-- Bits of an element (R266, R267). -/
def elemBits (fmt : Nat) : Nat :=
  match fmt with
  | 0 | 1 => 16
  | 2 => 32
  | 3 => 64
  | 7 => 4
  | _ => 8

/-- k positions of a pass, kp(f). -/
def passK (fmt : Nat) : Nat :=
  match fmt with
  | 0 | 1 | 2 | 3 => 64
  | 7 => 256
  | _ => 128

/-- Slots of a group. -/
def groupSlots (fmt : Nat) : Nat :=
  match fmt with
  | 2 => 2
  | 3 => 4
  | _ => 1

/-- Chunk length L(f). -/
def chunkK (fmt : Nat) : Nat :=
  match fmt with
  | 2 => 8
  | 3 => 4
  | _ => 32

/-- Cycles per row, c(f). -/
def rowCycles (fmt : Nat) : Nat :=
  match fmt with
  | 2 => 3
  | 3 => 7
  | _ => 1

/-- A bits per k per cycle. -/
def digitBits (fmt : Nat) : Nat :=
  match fmt with
  | 1 => 12
  | 4 | 5 | 6 => 4
  | 7 => 2
  | _ => 8

/-- The class of a format (R277): E4M3, E5M2 and G8 mix. -/
def fmtClass (fmt : Nat) : Nat := if fmt == 5 || fmt == 6 then 4 else fmt

/-- The tag that a multiplication of a format needs (R306): 0 AF40, 1 INT, 2 F64. -/
def fmtTag (fmt : Nat) : Nat := if fmt == 8 then 1 else if fmt == 3 then 2 else 0

/-- An element of G8 (R271): the marker bit says the widths of its exponent and fraction. -/
def g8Val (n : Nat) : FVal :=
  let c := n % 128
  let neg := n / 128 % 2 == 1
  if c == 0 then (if neg then .nan false else .zero false)
  else
    let z := 6 - Nat.log2 c
    let fw : Nat := match z with | 0 | 1 => 3 | 2 => 2 | 3 => 1 | _ => 0
    let base : Int := match z with | 0 => 0 | 1 => -4 | 2 => -8 | 3 => -12 | 4 => -16 | 5 => -18 | _ => -19
    let low := c - 2 ^ Nat.log2 c
    .fin neg (2 ^ fw + low % 2 ^ fw) (base + (low / 2 ^ fw : Nat) - fw)

/-- An element of E4M3 (R270). -/
def e4m3Val (n : Nat) : FVal :=
  let neg := n / 128 % 2 == 1
  let x := n / 8 % 16
  let f := n % 8
  if x == 15 && f == 7 then .nan false
  else if x == 0 then (if f == 0 then .zero neg else .fin neg f (-9))
  else .fin neg (8 + f) ((x : Int) - 10)

/-- An element of E2M1 (R270). -/
def e2m1Val (n : Nat) : FVal :=
  let neg := n / 8 % 2 == 1
  let x := n / 2 % 4
  let f := n % 2
  if x == 0 then (if f == 0 then .zero neg else .fin neg 1 (-1)) else .fin neg (2 + f) ((x : Int) - 2)

/-- The value of an element pattern. -/
def elemVal (fmt n : Nat) : FVal :=
  match fmt with
  | 0 => fval .bf16 n
  | 1 => fval .f16 n
  | 2 => fval .f32 n
  | 3 => fval .f64 n
  | 4 => e4m3Val n
  | 5 => fval ⟨5, 2⟩ n
  | 6 => g8Val n
  | 7 => e2m1Val n
  | _ => if n % 256 == 0 then .zero false
         else if n % 256 < 128 then .fin false (n % 256) 0 else .fin true (256 - n % 256) 0

/-- A block's scale as the array reads it (R273, R274). -/
inductive Scale where
  | shift (s : Int)
  | zero
  | nan
  deriving DecidableEq, Repr

/-- A stored scale byte: plain, or E8M0 (R274). -/
def scaleOf (e8m0 : Bool) (b : Byte) : Scale :=
  if e8m0 then (if b == 255 then .nan else .shift ((b.toNat : Int) - 127))
  else if b == 0x80 then .zero else .shift b.toInt

/-- An element under its block's scale, which is applied to the chunk (R273, R279): an element of an all-zero block is
+0, one of a NaN block a NaN. -/
def scaledElem (s : Scale) (v : FVal) : FVal :=
  match s with
  | .shift _ => v
  | .zero => .zero false
  | .nan => .nan false

/-- The shift count of a scale. -/
def Scale.count : Scale → Int
  | .shift s => s
  | _ => 0

/-- The accumulator's format (R278, R279). -/
def accFmt (fmt : Nat) : Fmt := if fmt == 3 then .f64 else .af40

/-- A chunk's exact sum, scaled and rounded once (R279, R280). -/
def chunkSum (f : Fmt) (ps : List (FVal × FVal)) (scale : Int) : Nat × Flags :=
  let all := ps.flatMap (fun p => [p.1, p.2])
  let nan := all.any FVal.isNan
  let good := ps.filter (fun p => !p.1.isNan && !p.2.isNan)
  let prods := good.map (fun p => mulVal p.1 p.2)
  let invalid := prods.any Option.isNone
  let vs := prods.filterMap id
  let pinf := vs.any (· == .inf false)
  let ninf := vs.any (· == .inf true)
  let nv : Flags := nvOf all ||| if invalid || pinf && ninf then fNV else 0
  if nan || invalid || pinf && ninf then (f.canon, nv)
  else if pinf then (f.inf false, 0)
  else if ninf then (f.inf true, 0)
  else
    let (i, e) := sumExact (vs.map FVal.exact)
    roundInt f 0 i (e + scale) false

/-- One chunk added to a cell (R279): the cell's new pattern, and the flags. -/
def addChunk (fmt : Nat) (c : Nat) (ps : List (FVal × FVal)) (scale : Int) : Nat × Flags :=
  if fmt == 8 then
    let x := (sumExact (ps.filterMap (fun p => (mulVal p.1 p.2).map FVal.exact))).1
    ((((c : Int) + x) % 2 ^ 40).toNat, 0)
  else
    let f := accFmt fmt
    let (r, fl) := chunkSum f ps scale
    let (v, fl2) := fAdd f 0 c r
    (v, fl ||| fl2)

/-- The significand that an element sends (R267): 0 for an infinity, a NaN and a zero. -/
def signif : FVal → Nat
  | .fin _ m _ => m
  | _ => 0

/-- The digits that a significand sends over the cycles of a row, most significant first (R267). -/
def digitsOf (fmt m : Nat) : List Nat :=
  (List.range (rowCycles fmt)).map (fun c => m / 2 ^ (digitBits fmt * (rowCycles fmt - 1 - c)) % 2 ^ digitBits fmt)

/-- Bits that change along a sequence of digits, from zero. -/
def togglesFrom (prev : Nat) : List Nat → Nat
  | [] => 0
  | d :: ds => countOnes 64 (BitVec.ofNat 64 (Nat.xor d prev)) + togglesFrom d ds

/-- The toggle estimate (R282) of columns of A: for each k position of a pass, the significands in the order of the
rows of the operation. `cycles` counts every cycle of the operation. -/
def estimateOf (fmt cycles : Nat) (cols : List (List Nat)) : Nat :=
  let t := (cols.map (fun ms => togglesFrom 0 (ms.flatMap (digitsOf fmt)))).sum
  let tmax := passK fmt * digitBits fmt * cycles
  2 * min 4 (max 1 ((8 * t + tmax - 1) / tmax))

/-- Bytes of a delta scale stream, with their poison, as nibbles, low nibble first (R274): 16 is added to a nibble of a
poisoned byte. -/
def nibbles (bs : List (Byte × Bool)) : List Nat :=
  bs.flatMap (fun b =>
    let p := if b.2 then 16 else 0
    [b.1.toNat % 16 + p, b.1.toNat / 16 + p])

/-- A byte of two nibbles, and whether one is poisoned. -/
def nibbleByte : List Nat → Byte × Bool
  | a :: b :: _ => (BitVec.ofNat 8 (a % 16 + 16 * (b % 16)), a ≥ 16 || b ≥ 16)
  | [a] => (BitVec.ofNat 8 (a % 16), true)
  | [] => (0, true)

/-- The scale of block i of a delta stream, where the stream has been read so far, from the nibbles that follow (R274,
R275): it and its poison, how far the stream is read then, and the nibbles left. -/
def deltaNext (i : Nat) (d : Delta) (ns : List Nat) : (Byte × Bool) × Delta × List Nat :=
  let full (ns : List Nat) (bad : Bool) (used : Nat) : (Byte × Bool) × Delta × List Nat :=
    let (b, p) := nibbleByte ns
    ((b, bad || p), ⟨d.pos + used, b.toInt, bad || p⟩, ns.drop 2)
  if i % 16 == 0 then
    let pad := d.pos % 2
    full (ns.drop pad) false (2 + pad)
  else
    let x := ns.headD 16
    let bad := d.bad || x ≥ 16
    if x % 16 == 8 then full (ns.drop 1) bad 3
    else
      let v := d.prev + if x % 16 < 8 then (x % 16 : Int) else (x % 16 : Int) - 16
      let bad := bad || d.prev == -128 || v < -127 || v > 127
      ((BitVec.ofInt 8 v, bad), ⟨d.pos + 1, v, bad⟩, ns.drop 1)

/-- The scales of n blocks from block i on of a delta stream, read in order (R295). -/
def deltaPart : Nat → Nat → Delta → List Nat → List (Byte × Bool) × Delta
  | 0, _, d, _ => ([], d)
  | n + 1, i, d, ns =>
    let (b, d, ns) := deltaNext i d ns
    let (bs, d) := deltaPart n (i + 1) d ns
    (b :: bs, d)

/-- Bytes of the scale stream of n blocks, as a fill fixes its extent (R295). -/
def scaleExtent (slay n : Nat) : Nat :=
  if slay == 1 then n / 16 * 24 + (if n % 16 == 0 then 0 else (3 * (n % 16) - 1 + 1) / 2) else n

/-- An accumulator cell read as a type (R312): tag 0 AF40, 1 INT, 2 F64. None is a pairing that the table does not
have. -/
def accRead (tag : Nat) (ty : BitVec 3) (rm : BitVec 2) (sf : Bool) (c : Nat) : Option (BitVec 64 × Flags) :=
  let i : Int := if c % 2 ^ 40 < 2 ^ 39 then (c % 2 ^ 40 : Nat) else (c % 2 ^ 40 : Nat) - 2 ^ 40
  let num (r : Nat × Flags) : Option (BitVec 64 × Flags) := some (BitVec.ofNat 64 r.1, r.2)
  match tag, ty.toNat with
  | 0, 4 => num (fConv .af40 .f32 rm c)
  | 0, 7 => num (fConv .af40 .bf16 rm c)
  | 0, 5 => num (fConv .af40 .f64 rm c)
  | 1, 0 => some (deliver 0 sf i, 0)
  | 1, 2 => some (wrapInt 64 i, 0)
  | 1, 4 => num (intToF .f32 rm i)
  | 2, 5 => num (fConv .f64 .f64 rm c)
  | 2, 4 => num (fConv .f64 .f32 rm c)
  | _, _ => none

/-- A value as an accumulator cell (R313). -/
def accWrite (tag : Nat) (ty : BitVec 3) (rm : BitVec 2) (v : BitVec 64) : Option (Nat × Flags) :=
  match tag, ty.toNat with
  | 0, 4 => some (fConv .f32 .af40 rm (v.toNat % 2 ^ 32))
  | 0, 7 => some (fConv .bf16 .af40 rm (v.toNat % 2 ^ 16))
  | 0, 5 => some (fConv .f64 .af40 rm v.toNat)
  | 1, 0 => some ((wrapInt 40 (sval 32 v)).toNat, 0)
  | 2, 5 => some (fConv .f64 .f64 rm v.toNat)
  | 2, 4 => some (fConv .f32 .f64 rm (v.toNat % 2 ^ 32))
  | _, _ => none

end Sys2Proof.Machine
end

