-- ==== Sys2Proof/Machine/Copy.lean ====
section
/-! DEFINITION. Machine/Copy.lean: the copy words (R289 to R295), atomics on `.mem` (R224), and the ranges that copies
register (R176, R251, R252). -/

namespace Sys2Proof.Machine

/-- A trap of an engine word in every active lane, with the word's address (R289). -/
def State.engineTrap (s : State) (cause : BitVec 8) : State := s.trapAt cause s.cur.pc s.cur.lanes
/-- A trap of an engine word that names an address (R289). -/
def State.engineTrapAt (s : State) (cause : BitVec 8) (addr : Nat) : State :=
  s.trapAt cause (BitVec.ofNat 64 addr) s.cur.lanes

/-- A failed check of an engine word: its place in the order of R289, its cause and its address. -/
structure EngFail where
  order : Nat
  cause : BitVec 8
  addr : Nat
  deriving DecidableEq, Repr

/-- A check that a word makes: nothing, or its failure. -/
def check (bad : Bool) (order : Nat) (cause : BitVec 8) (addr : Nat) : List EngFail :=
  if bad then [⟨order, cause, addr⟩] else []

/-- The first failure in the order of R289, and in the order of the checks within one place. -/
def firstFail (fs : List EngFail) : Option EngFail :=
  fs.foldl (fun o f => match o with
    | none => some f
    | some g => if f.order < g.order then some f else o) none

/-- A word that has passed every check goes on; otherwise it takes its trap, an ownership trap with its log entry. -/
def State.passing (s : State) (fs : List EngFail) (k : State → State) : State :=
  match firstFail fs with
  | none => k s
  | some f =>
    let s := if f.cause == cOwner then s.errLogAt s.w 0x01 f.addr else s
    s.engineTrapAt f.cause f.addr

/-- The first byte of an on-chip range that lies outside its space (R165, R168), if any. -/
def State.firstBad (s : State) (w : Nat) (sp : Space) (a n : Nat) : Option Nat :=
  let out (x : Nat) : Bool := x ≥ 2 ^ 32 || (match s.locate w sp (BitVec.ofNat 32 x) 1 with
    | .error .range => true
    | _ => false)
  let d := s.die (dieOf (s.warp w).core)
  let edges := [a, 2 ^ 27, 2 ^ 32, d.spillRange.1, d.clpRange.1, (s.block (s.warp w).block).bshm * 1024,
    (s.block (s.warp w).block).stk, (s.cluster (s.clusterOf w)).size]
    ++ d.spill.map (·.1) ++ s.clusters.map (·.2.base)
    ++ (match tget (s.block (s.warp w).block).windows (a / 2 ^ 18 % 8) with
        | some h => [a / 2 ^ 18 * 2 ^ 18 + bufUnits h * 4096]
        | none => [])
  let bad := edges.filter (fun x => a ≤ x && x < a + n && out x)
  bad.foldl (fun o x => match o with | none => some x | some y => some (min x y)) none

/-- The checks of an on-chip range of a copy (R165, R168, R179, R293): the failures, and its first key. What lies under
stacks is set apart when the copy reads and lands (R167). -/
def State.chipChecks (s : State) (w : Nat) (sp : Space) (die a n al : Nat) : List EngFail × Nat :=
  let far := sp = .dsp && die != dieOf (s.warp w).core
  let range := if far then
      (if a + n > 2 ^ 27 then some (max a (2 ^ 27))
       else if (s.warp w).cur then none
       else [a, (s.die die).spillRange.1, (s.die die).clpRange.1].find? (fun x => a ≤ x && x < a + n && s.reserved die x))
    else s.firstBad w sp a n
  let at_ : Except MemFail Nat :=
    if sp = .dsp && a < 2 ^ 27 then .ok (dspKey die a) else s.locate w sp (BitVec.ofNat 32 a) (min n 1)
  let owner := match at_ with
    | .error .owner => true
    | _ => sp = .blk && a < 2 ^ 31 && s.givenAway (s.warp w).block a n
  let key := match at_ with | .ok k => k | .error _ => 0
  (check range.isSome 4 cRange (range.getD 0) ++ check (a % al != 0) 5 cAlign a ++ check owner 6 cOwner a, key)

/-- A byte range of one space of addresses: on-chip by key, off-chip by virtual address of an interface, the peer's by
its entry (R251). -/
structure Span where
  /-- 0 on-chip, 1 + interface off-chip, 65 + 16 × interface + entry of its peer table. -/
  space : Nat
  lo : Nat
  hi : Nat
  deriving DecidableEq, Repr

/-- The smallest range that holds the bytes of a side (R251). -/
def Side.span (x : Side) (vi total : Nat) : Option Span :=
  match x with
  | .chip k => some ⟨0, k, k + total⟩
  | .rows va row stride => some ⟨1 + vi, va, va + (if row == 0 then 0 else (total / row - 1) * stride) + row⟩
  | .elems size vas => match vas with
    | [] => none
    | v :: vs => some ⟨1 + vi, vs.foldl min v, vs.foldl max v + size⟩
  | .peer e va => some ⟨65 + 16 * vi + e, va, va + total⟩

/-- The smallest range that holds two in one space. -/
def Span.join (a : Span) (b : Option Span) : Span :=
  match b with
  | some b => if a.space == b.space then { a with lo := min a.lo b.lo, hi := max a.hi b.hi } else a
  | none => a

/-- Where the scale stream of a fill lies (R295). -/
def Copy.stream (c : Copy) : Option Span :=
  match c.fill with
  | none => none
  | some f =>
    if f.blocks == 0 then none
    else
      match f.scaleKey with
      | some k => some ⟨0, k, k + f.scaleBytes⟩
      | none => some ⟨1 + c.vi, f.scaleVa, f.scaleVa + f.scaleBytes⟩

/-- The source and destination ranges of a copy (R251, R293, R295): a fill's destination is in the operand buffer, with
the scales that it writes. -/
def State.spans (s : State) (c : Copy) : Option Span × Option Span :=
  let r := match c.fill with
    | none => none
    | some f => tget s.resvs f.resv
  let src := (c.src.span c.vi c.total).map (·.join c.stream)
  let scales : Option Span := match c.fill, r with
    | some f, some r =>
      if f.blocks == 0 then none
      else
        let k := obKey c.core (r.base * 256 + r.soff * 16 + f.first)
        some ⟨0, k, k + f.blocks⟩
    | _, _ => none
  (src, (c.dst.span c.vi c.total).map (·.join scales))

/-- The first common byte of two ranges. -/
def Span.clash (a b : Option Span) : Option Nat :=
  match a, b with
  | some a, some b => if a.space == b.space && a.lo < b.hi && b.lo < a.hi then some (max a.lo b.lo) else none
  | _, _ => none

/-- The first byte by which a new copy overlaps copies of its core in other queues (R252). -/
def State.overlap (s : State) (c : Copy) : Option Nat :=
  let (src, dst) := s.spans c
  let off (x : Option Span) : Option Span := x.filter (fun y => y.space != 0)
  let hits := s.copies.flatMap (fun x =>
    if x.2.core != c.core || x.2.queue == c.queue || !x.2.atoms.isEmpty then []
    else
      let (src', dst') := s.spans x.2
      [Span.clash dst dst', Span.clash dst src', Span.clash (off src) (off dst')].filterMap id)
  hits.foldl (fun o k => match o with | none => some k | some j => some (min j k)) none

/-- How many entries of a copy queue are taken (R250). -/
def State.queueUsed (s : State) (core q : Nat) : Nat :=
  (s.copies.filter (fun x => x.2.core == core && x.2.queue == q)).length

/-- A copy can enter its queue now: an entry and a record are free (R244, R250). A `.mem` atomic needs no record. -/
def State.copyReady (s : State) (c : Copy) : Bool :=
  s.queueUsed c.core c.queue < 32 && (!c.atoms.isEmpty || (s.futFind (dieOf c.core)).isSome)

/-- A copy enters its queue (R294): record, ranges, presence; the handle and the gang reference go to the gang. It carries
what its lanes have issued before it and has not performed (R197); gated banks that it uses begin to wake (R169). -/
def State.copyEnter (s : State) (c : Copy) (dst : Nat) : State :=
  let c := { c with waits := s.releases c.warp (lanesOf c.lanes) }
  let s := c.chipRanges.foldl (fun s r => s.rouseRange r.1 r.2) s
  let (id, s) := s.take
  if !c.atoms.isEmpty then { s with copies := tset s.copies id { c with seq := id } }
  else
    match s.futFind (dieOf c.core) with
    | none => s
    | some f =>
      let s := s.futTake f .copy id
      let h := futHandle f (s.fut f).gen
      let s := { s with copies := tset s.copies id { c with seq := id, fut := f } }.clearPresence c.lines
      let s := s.updWarp c.warp (fun W => { W with refs := W.refs ++ [(f, true, c.lanes)] })
      s.writeTarget c.warp (.uni dst) ⟨h, false⟩

/-- A checked copy, or `.mem` atomic, that reads some registers enters its queue, or its lanes park until it can (R244, R250,
R289). -/
def State.copyIssue (s : State) (h : Hdr) (c : Copy) (dst : Nat) (reads : List Nat) : State :=
  if s.copyReady c then ((s.emptyCells c.lanes reads).copyEnter c dst).finish h
  else (s.parkReading c.lanes h (.copyRoom c dst) reads).finish h

/-- The first operand of R246: the warp would hold more than 4,096 references. -/
def State.refsFull (s : State) (w n : Nat) : Bool := (s.warp w).refs.length + n > 4096

/-- The element region of a reservation in bytes (R295, R301). -/
def Resv.region (r : Resv) : Nat := if r.mx then r.soff * 16 else (r.len + 1) * 256

/-- Bytes of a block of 32 elements. -/
def blockBytes (fmt : Nat) : Nat := 4 * elemBits fmt

/-- The descriptor of a copy, its fields named (R291). -/
structure Desc where
  form : Nat
  w : List Word
  vas : List Nat
  deriving DecidableEq, Repr

def Desc.word (d : Desc) (k : Nat) : Nat := (d.w.getD k 0).toNat
/-- A field of w7. -/
def Desc.ctl (d : Desc) (lo n : Nat) : Nat := d.word 7 / 2 ^ lo % 2 ^ n
def Desc.va (d : Desc) : Nat := d.word 0 + d.word 1 * 2 ^ 32
/-- Gathers and scatters. -/
def Desc.elems (d : Desc) : Bool := d.form == 3 || d.form == 4
/-- Off-chip source, off-chip destination (R291). -/
def Desc.offSrc (d : Desc) : Bool := d.form == 0 || d.form == 3 || (d.form == 2 || d.form == 6) && d.ctl 1 1 == 0
def Desc.offDst (d : Desc) : Bool := d.form == 1 || d.form == 4 || (d.form == 2 || d.form == 6) && d.ctl 1 1 == 1
/-- The bytes that a copy moves (R292). -/
def Desc.total (d : Desc) : Nat :=
  if d.elems then d.vas.length * 2 ^ d.ctl 16 3
  else if d.form == 2 then d.word 4 * (d.word 5 % 2 ^ 16 + 1)
  else d.word 4
def Desc.isFill (d : Desc) : Bool := !d.offDst && d.ctl 4 2 == 3 && (d.form == 0 || d.form == 5)
/-- The die of the on-chip source and of the on-chip destination. -/
def Desc.srcDie (d : Desc) (die : Nat) : Nat := if d.form == 5 then d.ctl 6 2 else die
def Desc.dstDie (d : Desc) (die : Nat) : Nat := if d.form == 5 then d.ctl 8 2 else die

/-- The reservation that a fill names (R295). -/
def State.fillResv (s : State) (d : Desc) : Option (Nat × Resv) :=
  match tget s.wp.t (d.word 3 / 2 ^ 29) with
  | none => none
  | some r => (tget s.resvs r).map (fun x => (r, x))

/-- A fill that brings scales. -/
def State.scaledFill (s : State) (d : Desc) : Bool :=
  d.isFill && match s.fillResv d with
    | some (_, r) => r.mx
    | none => false

/-- R293, order 3: what takes the copy-descriptor trap. -/
def State.badDesc (s : State) (t : Tri) (d : Desc) : Bool :=
  let die := dieOf s.wp.core
  let scaled := s.scaledFill d
  let nz (k : Nat) : Bool := d.word k != 0
  let usesVa := !d.elems && d.form != 5
  let usesSrc := !d.offSrc
  let usesDst := !d.offDst
  let dspDie := d.form == 5
  d.ctl 0 1 != 0 || d.ctl 10 2 != 0
    || (!d.elems && d.ctl 16 3 != 0) || (d.elems && d.ctl 16 3 == 7)
    || (d.form != 6 && d.ctl 12 4 != 0)
    || (!dspDie && (d.ctl 8 2 != 0 || d.ctl 6 2 != 0))
    || (d.offDst && d.ctl 4 2 != 0) || (d.offSrc && d.ctl 2 2 != 0)
    || d.ctl 2 2 == 3 || (d.ctl 4 2 == 3 && !(d.form == 0 || dspDie))
    || (d.form != 2 && d.form != 6 && d.ctl 1 1 != 0)
    || (!usesVa && (nz 0 || nz 1)) || (!usesSrc && nz 2) || (!usesDst && nz 3) || (d.elems && nz 4)
    || (d.form != 2 && !scaled && nz 5) || (d.form == 2 && d.word 5 ≥ 2 ^ 16)
    || (d.form != 2 && !(scaled && d.form == 0) && nz 6)
    || (dspDie && (d.ctl 2 2 != 0 && d.ctl 6 2 != die || d.ctl 4 2 != 0 && d.ctl 8 2 != die))
    || (d.form == 6 && (let p := (tgetD (s.vi s.wp.vi).peers (d.ctl 12 4) 0)
                        !p.getLsbD 63 || p.extractLsb' 36 12 == 0))
    || (d.ctl 23 1 == 1 && (d.ctl 24 3 > 4 || d.ctl 19 4 ≥ barLimit (d.ctl 24 3)))
    || (d.ctl 23 1 == 0 && (d.ctl 24 3 != 0 || d.ctl 19 4 != 0))
    || (t.c != 0 && !(d.ctl 23 1 == 1 && d.ctl 24 3 == 2))
    || d.total == 0 || d.total > 2 ^ 27
    || (d.form == 2 && d.ctl 1 1 == 1 && d.word 6 < d.word 4)

/-- R295: what takes the matrix-format trap in a fill. -/
def State.badFill (s : State) (d : Desc) : Bool :=
  d.isFill && match s.fillResv d with
    | none => true
    | some (_, r) =>
      let off := d.word 3 % 2 ^ 19
      let bb := blockBytes r.fmt
      d.word 3 / 2 ^ 19 % 2 ^ 10 != 0 || off + d.total > r.region
        || r.mx && (off % bb != 0 || d.total % bb != 0 || r.slay == 1 && off / bb % 16 != 0)

/-- The fill of a descriptor (R295). -/
def State.fillOf (s : State) (d : Desc) : Option Fill :=
  if !d.isFill then none
  else match s.fillResv d with
    | none => none
    | some (id, r) =>
      let off := d.word 3 % 2 ^ 19
      if !r.mx then some { resv := id, off := off }
      else
        let bb := blockBytes r.fmt
        let key := if d.form == 5 then
            some (s.chipChecks s.w (spaceOf (d.ctl 2 2)) (d.ctl 6 2) (d.word 5) 1 1).2
          else none
        some { resv := id, off := off, scaleKey := key
               scaleVa := if d.form == 0 then d.word 5 + d.word 6 * 2 ^ 32 else 0
               scaleBytes := scaleExtent r.slay (d.total / bb)
               first := off / bb, blocks := d.total / bb }

/-- The checks of orders 4 to 6 (R289, R293), and the copy's two sides. -/
def State.sides (s : State) (d : Desc) : List EngFail × Side × Side :=
  let die := dieOf s.wp.core
  let al := if d.elems then 2 ^ d.ctl 16 3 else 8
  let off : List EngFail × Side :=
    if d.elems then
      let bad := d.vas.filter (fun v => v ≥ 2 ^ 57)
      let odd := d.vas.filter (fun v => v % al != 0)
      (check (!bad.isEmpty) 4 cRange (bad.headD 0) ++ check (!odd.isEmpty) 5 cAlign (odd.headD 0), .elems al d.vas)
    else
      let row := if d.form == 2 then d.word 4 else d.total
      let stride := if d.form == 2 then d.word 6 else 0
      let last := d.va + (if d.form == 2 then d.word 5 % 2 ^ 16 * stride else 0)
      (check (d.va ≥ 2 ^ 57) 4 cRange d.va ++ check (last + row > 2 ^ 57) 4 cRange (max d.va (2 ^ 57))
        ++ check (d.va % 8 != 0) 5 cAlign d.va ++ check (d.word 4 % 8 != 0) 5 cAlign (d.word 4)
        ++ check (stride % 8 != 0) 5 cAlign stride,
        if d.form == 6 then .peer (d.ctl 12 4) d.va else .rows d.va row stride)
  let chip (sp : Nat) (dd a : Nat) : List EngFail × Side :=
    let (fs, k) := s.chipChecks s.w (spaceOf sp) dd a d.total al
    (fs, .chip k)
  let src := if d.offSrc then off else chip (d.ctl 2 2) (d.srcDie die) (d.word 2)
  let dst := if d.offDst then off
    else if d.isFill then
      (check (d.word 3 % 8 != 0) 5 cAlign (d.word 3),
        .chip (obKey s.wp.core (match s.fillResv d with
          | some (_, r) => r.base * 256 + d.word 3 % 2 ^ 19
          | none => 0)))
    else chip (d.ctl 4 2) (d.dstDie die) (d.word 3)
  let stream : List EngFail := if !s.scaledFill d then [] else match s.fillResv d with
    | none => []
    | some (_, r) =>
      let n := scaleExtent r.slay (d.total / blockBytes r.fmt)
      if d.form == 5 then (s.chipChecks s.w (spaceOf (d.ctl 2 2)) (d.ctl 6 2) (d.word 5) n 1).1
      else
        let v := d.word 5 + d.word 6 * 2 ^ 32
        check (v + n > 2 ^ 57) 4 cRange (max v (2 ^ 57))
  (src.1 ++ dst.1 ++ check (d.form == 5 && d.word 4 % 8 != 0) 5 cAlign (d.word 4) ++ stream, src.2, dst.2)

/-- The address by which the word names a byte of an overlap (R252). -/
def overlapAddr (d : Desc) (src dst : Side) (b : Nat) : Nat :=
  let near (x : Side) (a : Nat) : Option Nat := match x with
    | .chip k => if k ≤ b && b < k + d.total then some (a + (b - k)) else none
    | _ => none
  ((near dst (d.word 3)) <|> (near src (d.word 2))).getD (b % 2 ^ 60)

/-- The barrier that a descriptor names (R291). -/
def State.descBar (s : State) (d : Desc) : Option BarName :=
  if d.ctl 23 1 == 1 then some (s.barName s.w (d.ctl 24 3) (d.ctl 19 4)) else none

/-- R289 to R295: a copy word of a form. -/
def State.xferWord (s : State) (t : Tri) (form : Nat) : State :=
  let elems := form == 3 || form == 4
  let u : Uses := ⟨if elems then [(t.b.toNat, 2)] else [], [], false⟩
  s.admitWhole t.h u fun s m =>
    let ws := (List.range 8).map (fun k => s.readS s.w (t.a.toNat + k) k)
    let (vs, bad) := if elems then s.laneVals m 2 t.b.toNat 16 else ([], false)
    let hreg := s.readS s.w t.c.toNat 16
    let vis := s.visible m
    let d : Desc := ⟨form, ws.map (·.val), if elems then vis.map (fun l => (valOf vs l).toNat) else []⟩
    let (fs, src, dst) := s.sides d
    let named := d.ctl 23 1 == 1 && d.ctl 24 3 == 2
    if bad || ws.any (·.bad) || named && hreg.bad then s.poisoned 0
    else
      let fs := check (s.badDesc t d) 3 cCopy s.cur.pc.toNat ++ check (s.badFill d) 3 cFormat s.cur.pc.toNat ++ fs
      if (firstFail fs).isNone && named && s.committing s.w then s.parkGang s.cur.lanes t.h .commit
      else
        let W := s.wp
        let c : Copy :=
          { core := W.core, queue := if d.ctl 27 1 == 1 then d.ctl 28 4 else schedOf W.slot, seq := 0, vi := W.vi
            grid := W.grid, block := W.block, warp := s.w, lanes := m, src := src, dst := dst, total := d.total
            fill := s.fillOf d, bar := s.descBar d, pc := s.cur.pc }
        let hit := s.overlap c
        let fs := fs ++ check (named && !s.handleOk s.w hreg.val) 7 cStale s.cur.pc.toNat
          ++ check hit.isSome 8 cOverlap (overlapAddr d src dst (hit.getD 0))
          ++ check (s.refsFull s.w 1) 10 cReference s.cur.pc.toNat
        s.passing fs fun s =>
          s.compare m (fun l => [valOf vs l]) fun s =>
            s.copyIssue t.h c t.d.toNat (regsOf u.reads)

/-- R292: off-chip to on-chip. -/
def execXferIn (t : Tri) (s : State) : Host.Outcome State Fault Refusal := .next (s.xferWord t 0)
/-- R292: on-chip to off-chip. -/
def execXferOut (t : Tri) (s : State) : Host.Outcome State Fault Refusal := .next (s.xferWord t 1)
/-- R292: rows, inward or outward. -/
def execXfer2d (t : Tri) (s : State) : Host.Outcome State Fault Refusal := .next (s.xferWord t 2)
/-- R292: elements at the lanes' addresses, gathered. -/
def execXferGat (t : Tri) (s : State) : Host.Outcome State Fault Refusal := .next (s.xferWord t 3)
/-- R292: elements scattered to the lanes' addresses. -/
def execXferSct (t : Tri) (s : State) : Host.Outcome State Fault Refusal := .next (s.xferWord t 4)
/-- R292: between on-chip storages, of two dies perhaps. -/
def execXferDsp (t : Tri) (s : State) : Host.Outcome State Fault Refusal := .next (s.xferWord t 5)
/-- R292: to or from a peer module. -/
def execXferPeer (t : Tri) (s : State) : Host.Outcome State Fault Refusal := .next (s.xferWord t 6)

/-- The translation of each lane of a `.mem` atomic (R224). -/
def State.atomPages (s : State) (vs : List (Nat × BitVec 64)) : List (Nat × Nat × Xlate) :=
  vs.map (fun v => (v.1, v.2.toNat, (s.xlate s.wp.vi s.wp.core v.2.toNat true false).1))

/-- The pages of 4 KiB among some lanes' addresses, each with its lowest lane's address and its lanes (R339). -/
def pageGroups (xs : List (Nat × Nat)) : List (Nat × BitVec 32) :=
  (xs.map (·.2 / 4096)).eraseDups.map (fun p =>
    let mine := xs.filter (fun x => x.2 / 4096 == p)
    ((mine.headD (0, 0)).2, maskOf (mine.map (·.1))))

/-- The entries of some faulting pages (R338, R339): their tokens. -/
def State.newFaults (s : State) (vi : Nat) : List FaultRec → List Nat × State
  | [] => ([], s)
  | f :: fs =>
    let (tok, s) := s.newFault vi f
    let (toks, s) := s.newFaults vi fs
    (tok :: toks, s)

/-- The acting lanes park at a `.mem` atomic some of whose pages are not present (R224, R338, R339). -/
def State.parkAtom (s : State) (m : BitVec 32) (absent : List (Nat × Nat)) : State :=
  let W := s.wp
  let w := s.w
  let (id, s) := s.take
  let (toks, s) := s.newFaults W.vi ((pageGroups absent).map (fun p =>
    ⟨p.1, 0, 4, true, dieOf W.core, cixOf W.core, .atom w id p.2, none, false⟩))
  let c := s.cyc
  let s := s.goto (s.cur.lanes &&& ~~~m) s.cur.pc
  s.updWarp w (fun W =>
    let W := W.updLanes m (fun _ L => { L with park := .gang id, next := s.cur.pc, heldMask := 0 })
    { W with gangs := tset W.gangs id ⟨m, .fetch toks, s.cur.pc, c, []⟩ })

/-- The operations that host memory takes (R224). -/
def hostAtomic (op : Nat) : Bool := op == 0 || op == 6 || op == 7

/-- An atomic on `.mem` (R224): translated at issue, then an entry of the warp's default copy queue. -/
def State.atomMem (s : State) (t : Tri) (ret : Bool) (m : BitVec 32) : State :=
  let size := if wideTy t.ty then 8 else 4
  let (vs, bad) := s.laneVals m 2 t.a.toNat 0
  let args (l : Nat) := s.atomArgs t l
  if bad || (lanesOf m).any (fun l => (args l).2.2) then
    s.poisoned (badAddress bad (lanesOf m) (fun l => (args l).2.2) (fun l => (valOf vs l).toNat))
  else
    let far := vs.filter (fun v => v.2.toNat ≥ 2 ^ 57)
    let odd := vs.filter (fun v => v.2.toNat % size != 0)
    let lanes (xs : List (Nat × BitVec 64)) : BitVec 32 := maskOf (xs.map (·.1))
    if !far.isEmpty then s.trapAt cRange (far.headD (0, 0)).2 (lanes far)
    else if !odd.isEmpty then s.trapAt cAlign (odd.headD (0, 0)).2 (lanes odd)
    else
      let ps := s.atomPages vs
      let denied := ps.filter (fun p => p.2.2 = .bad)
      let absent := ps.filter (fun p => p.2.2 = .replay)
      if !denied.isEmpty then
        let va := (denied.headD (0, 0, .bad)).2.1
        (s.errLogAt s.w 0x09 va).trapAt cAccess (BitVec.ofNat 64 va) (maskOf (denied.map (·.1)))
      else if ps.any (fun p => p.2.2 = .busy) then s
      else if !absent.isEmpty then s.parkAtom m (absent.map (fun p => (p.1, p.2.1)))
      else
        let keys := ps.filterMap (fun p => match p.2.2 with
          | .ok a => some (p.1, p.2.1, a)
          | _ => none)
        let host := keys.filter (fun p => p.2.2 / 2 ^ 56 % 2 == 1)
        if !host.isEmpty && !hostAtomic t.c.toNat then
          s.trapAt cAtomic (BitVec.ofNat 64 (host.headD (0, 0, 0)).2.1) (maskOf (host.map (·.1)))
        else s.compare m (fun l => [valOf vs l, (args l).1, (args l).2.1]) fun s =>
          let W := s.wp
          let atoms := (s.visible m).filterMap (fun l => match keys.find? (fun p => p.1 == l) with
            | some p => some (l, dpaByte W.vi p.2.2, s.atomOp t ret l)
            | none => none)
          if atoms.isEmpty then (s.emptyCells m (regsOf (atomUses t ret).reads)).finish t.h
          else
            let (op, s) := s.pendAtom t ret (lanesOf m)
            let c : Copy :=
              { core := W.core, queue := schedOf W.slot, seq := 0, vi := W.vi, grid := W.grid, block := W.block
                warp := s.w, lanes := m, dst := .elems size [], total := 0, pc := s.cur.pc
                src := .elems size (atoms.map (fun a => ((keys.find? (fun p => p.1 == a.1)).map (·.2.1)).getD 0))
                acq := t.sub.getLsbD 6, rel := t.sub.getLsbD 7, scope := t.sub.toNat / 8 % 8
                cores := s.instanceOf s.w (t.sub.toNat / 8 % 8)
                atoms := atoms.map (fun a => (a.1, a.2.1, a.2.2, t.d.toNat, op)) }
            s.copyIssue t.h c 0 (regsOf (atomUses t ret).reads)

/-- R220 to R224: an atomic or a reduction; deterministic mode forbids a floating-point one with return (R353).
Log entry 19: DEDUCED. -/
def State.atomWord (s : State) (t : Tri) (ret : Bool) : State :=
  s.vet t.h false (atomUses t ret) fun s m =>
    if m == 0 then s.finish t.h
    else if ret && s.determ && t.c.toNat ≥ 8 then s.trapOpen cDeterm m
    else if t.sub.toNat % 4 == 3 then s.atomMem t ret m
    else s.atomChip t ret m

/-- R220 to R224: returns the old value as a long result. -/
def execAtom (t : Tri) (s : State) : Host.Outcome State Fault Refusal := .next (s.atomWord t true)
/-- R220 to R224: returns nothing. -/
def execRed (t : Tri) (s : State) : Host.Outcome State Fault Refusal := .next (s.atomWord t false)

end Sys2Proof.Machine
end

