-- ==== Sys2Proof/Machine/Channels.lean ====
section
/-! DEFINITION. Machine/Channels.lean: the channel words and the service of parked claims and awaits (R262 to R264,
R289, R296, R297). -/

namespace Sys2Proof.Machine

/-- Some byte of a range of the die scratchpad is one that user privilege may not reach with `.dsp` (R165, R168). -/
def State.offLimits (s : State) (die a n : Nat) : Bool :=
  let d := s.die die
  let hit (lo hi : Nat) : Bool := meets a n lo (hi - lo)
  a + n > 2 ^ 27 || hit d.spillRange.1 d.spillRange.2 || hit d.clpRange.1 d.clpRange.2
    || d.spill.any (fun x => hit x.1 (x.1 + x.2.1))
    || s.clusters.any (fun x => x.1 / 1024 == die && x.2.live && hit x.2.base (x.2.base + x.2.size))

/-- Bytes of the granule map of a channel (R261): 2 bits a granule, rounded up to 8 bytes. -/
def mapBytes (size : Nat) : Nat := (size + 31) / 32 * 8

/-- A record is well formed, with its ring and its map where they may lie (R261, R262). -/
def State.chanOk (s : State) (c : Nat) : Bool :=
  let die := chanDie c
  let log := (s.chanWord c 0x04).toNat
  let base := s.chanBase c
  let map := s.chanMap c
  base < 2 ^ 27 && base % 64 == 0 && log ≤ 21 && map < 2 ^ 27 && map % 8 == 0
    && s.num (dspKey die (chanAddr c + 0x1C)) 36 == 0
    && !s.offLimits die base (2 ^ log * 64) && !s.offLimits die map (mapBytes (2 ^ log))

/-- How many channels of a die are bound. -/
def State.boundCount (s : State) (die : Nat) : Nat :=
  (s.chans.filter (fun x => chanDie x.1 == die && x.2.bound != 0)).length

/-- A handle's earlier binding released, if it has one (R297). -/
def State.release (s : State) (k : Nat) : State :=
  match tget s.wp.c k with
  | some c => (s.unbind c).updWarp s.w (fun W => { W with c := tdel W.c k })
  | none => s

/-- R297: either binding form. -/
def State.bindWord (s : State) (t : Tri) : State :=
  s.admitWhole t.h {} fun s _ =>
    let v := s.readS s.w t.a.toNat 0
    let die := dieOf s.wp.core
    let a := v.val.toNat
    let c := die * 2 ^ 27 + a
    let freed := s.release t.c.toNat
    let full := freed.boundCount die ≥ 4096
    if v.bad then s.poisoned 0
    else s.passing (check (s.offLimits die a 64) 4 cRange a ++ check (a % 64 != 0) 5 cAlign a
        ++ check (!s.chanOk c || full) 7 cChannel s.cur.pc.toNat) fun _ =>
      let s := freed.updChan c (fun h => { h with bound := h.bound + 1 })
      (s.updWarp s.w (fun W => { W with c := tset W.c t.c.toNat c })).finish t.h

/-- R297. -/
def execChClaimBind (t : Tri) (s : State) : Host.Outcome State Fault Refusal := .next (s.bindWord t)
/-- R297. -/
def execChAwaitBind (t : Tri) (s : State) : Host.Outcome State Fault Refusal := .next (s.bindWord t)

/-- The threads of some lanes of a warp. -/
def threadsIn (w : Nat) (m : BitVec 32) : List Nat := (lanesOf m).map (threadNo w)

/-- The first gang of a list that is parked now. -/
def State.firstParked (s : State) (gs : List (Nat × Nat)) : Option (Nat × Nat) :=
  gs.find? (fun g => (s.warp g.1).parked g.2)

/-- A claim served (R263): its first granule goes to the destination of its long operation; its lanes accept what the
retires of the slots have released (R265). -/
def State.serveClaim (s : State) (w c k dst op : Nat) (m : BitVec 32) : State :=
  let (s, first) := s.chanClaimOp c k (threadsIn w m)
  let s := s.accept w (lanesOf m) (s.chan c).retires
  s.learn w op (.uni dst) ⟨first, false⟩ 0

/-- An await served (R263, R297): first granule and VOID bits; its lanes accept what the commits have released (R265). -/
def State.serveAwait (s : State) (w c k dst op : Nat) (m : BitVec 32) : State :=
  let (s, first, void) := s.chanAwaitOp c k (threadsIn w m)
  let s := s.accept w (lanesOf m) (s.chan c).commits
  (s.learn w op (.uni dst) ⟨first, false⟩ 0).learn w op (.uni (dst + 1)) ⟨void, false⟩ 0

/-- A word that uses a channel handle (R289, R297): an unbound one takes the channel trap. -/
def State.chanWordUse (s : State) (t : Tri) (k : State → BitVec 32 → Nat → Word → State) : State :=
  s.admitWhole t.h {} fun s m => s.reclaimFirst m fun s m =>
    match tget s.wp.c t.c.toNat with
    | none => s.engineTrap cChannel
    | some c => k s m c (s.readS s.w t.a.toNat 0).val

/-- R297: `ch.claim` performs claim(k), or parks until it can, behind the claims that are parked already. -/
def execChClaim (t : Tri) (s : State) : Host.Outcome State Fault Refusal :=
  .next (s.chanWordUse t fun s m c v =>
    let k := v.toNat
    if k == 0 || k > s.chanSize c then s.engineTrap cChannel
    else
      let (op, s) := s.pend s.w [⟨.uni t.d.toNat, none, false⟩] 0 0
      if s.canClaim c k && (s.firstParked (s.chan c).claimers).isNone then
        (s.serveClaim s.w c k t.d.toNat op m).finish t.h
      else
        let id := s.uid
        let s := s.parkGang s.cur.lanes t.h (.chClaim c k t.d.toNat op)
        (s.updChan c (fun h => { h with claimers := h.claimers ++ [(s.w, id)] })).finish t.h)

/-- R297: `ch.await` performs await(k), or parks until it can, behind the awaits that are parked already. -/
def execChAwait (t : Tri) (s : State) : Host.Outcome State Fault Refusal :=
  .next (s.chanWordUse t fun s m c v =>
    let k := v.toNat
    let d := t.d.toNat
    if k == 0 || k > s.chanSize c then s.engineTrap cChannel
    else
      let (op, s) := s.pend s.w [⟨.uni d, none, false⟩, ⟨.uni (d + 1), none, false⟩] 0 0
      if s.canAwait c k && (s.firstParked (s.chan c).takers).isNone then (s.serveAwait s.w c k d op m).finish t.h
      else
        let id := s.uid
        let s := s.parkGang s.cur.lanes t.h (.chAwait c k d op)
        (s.updChan c (fun h => { h with takers := h.takers ++ [(s.w, id)] })).finish t.h)

/-- The outstanding claim or take of a first granule that a thread of the gang owns (R263, R297). -/
def ownedClaim (cs : List Claim) (first : Word) (ts : List Nat) : Option Claim :=
  cs.find? (fun x => x.first == first && x.owners.any ts.contains)

/-- What a word that ends a claim or a take releases (R198, R265): what the gang's threads and its other owners have issued
and has not performed. -/
def State.claimWaits (s : State) (x : Claim) : Waits :=
  s.releases s.w (lanesOf s.cur.lanes) ++ x.owners.flatMap (fun t => s.releases (t / 32) [t % 32])

/-- A word that ends a claim or a take: it is no wait point. -/
def State.chanEnd (s : State) (t : Tri) (of : Chan → List Claim) (k : State → Nat → Claim → State) : State :=
  s.admitWhole t.h {} fun s m =>
    match tget s.wp.c t.c.toNat with
    | none => s.engineTrap cChannel
    | some c =>
      match ownedClaim (of (s.chan c)) (s.readS s.w t.a.toNat 0).val (threadsIn s.w m) with
      | none => s.engineTrap cChannel
      | some x => (k s c x).finish t.h

/-- R297. -/
def execChCommit (t : Tri) (s : State) : Host.Outcome State Fault Refusal :=
  .next (s.chanEnd t (·.claims) fun s c x =>
    (s.chanCommitOp c x false).updChan c (fun h => { h with commits := s.undone (h.commits ++ s.claimWaits x) }))
/-- R297. -/
def execChRetire (t : Tri) (s : State) : Host.Outcome State Fault Refusal :=
  .next (s.chanEnd t (·.takes) fun s c x =>
    (s.chanRetireOp c x).updChan c (fun h => { h with retires := s.undone (h.retires ++ s.claimWaits x) }))

/-- What a gang is parked for now. -/
def State.reqOf (s : State) (w id : Nat) : Option Req :=
  if (s.warp w).parked id then (tget (s.warp w).gangs id).map (·.req) else none

/-- Parked claims of a channel are served in order of arrival while their condition holds (R263). -/
def execChannelClaimResume (chan : Nat) (s : State) : Host.Outcome State Fault Refusal :=
  let s := (s.chan chan).claimers.foldl (fun s g => s.sweep g.1) s
  .next (match s.firstParked (s.chan chan).claimers with
    | none => s
    | some (w, id) =>
      let rest := (s.chan chan).claimers.filter (· != (w, id))
      match s.reqOf w id with
      | some (.chClaim c k dst op) =>
        if s.canClaim c k then
          let s := s.serveClaim w c k dst op ((s.warp w).gangLanes id)
          (s.updChan chan (fun h => { h with claimers := rest })).wakeGang w id
        else s
      | _ => s.updChan chan (fun h => { h with claimers := rest }))

/-- Parked awaits of a channel are served in order of arrival while their condition holds (R263). -/
def execChannelAwaitResume (chan : Nat) (s : State) : Host.Outcome State Fault Refusal :=
  let s := (s.chan chan).takers.foldl (fun s g => s.sweep g.1) s
  .next (match s.firstParked (s.chan chan).takers with
    | none => s
    | some (w, id) =>
      let rest := (s.chan chan).takers.filter (· != (w, id))
      match s.reqOf w id with
      | some (.chAwait c k dst op) =>
        if s.canAwait c k then
          let s := s.serveAwait w c k dst op ((s.warp w).gangLanes id)
          (s.updChan chan (fun h => { h with takers := rest })).wakeGang w id
        else s
      | _ => s.updChan chan (fun h => { h with takers := rest }))

end Sys2Proof.Machine
end

