-- ==== Sys2Proof/Machine/Matrix.lean ====
section
/-! DEFINITION. Machine/Matrix.lean: the matrix words from their issue to their place in a matrix queue, and the words
other than multiplications as they perform (R269, R277, R298 to R306, R308, R310 to R314). -/

namespace Sys2Proof.Machine

/-- Elements of a reservation (R301). -/
def Resv.elems (r : Resv) : Nat := r.region * 8 / elemBits r.fmt
/-- K of a reservation. -/
def Resv.kOf (r : Resv) : Nat := r.elems / 64
/-- The index of element (r, k) in a reservation (R277). -/
def Resv.index (x : Resv) (row k : Nat) : Nat := if x.ord then k * 64 + row else row * x.kOf + k

/-- The reservation that a tile handle of the issuing warp names (R301, R302). -/
def State.resvOf (s : State) (n : Nat) : Option (Nat × Resv) :=
  match tget s.wp.t n with
  | none => none
  | some r => ((tget s.resvs r).filter (!·.ended)).map (fun x => (r, x))

/-- A matrix word (R298): it must hold every lane of its warp, and the values that it reads must be whole (R349). -/
def State.matrixWord (s : State) (h : Hdr) (u : Uses) (regs : List Nat) (k : State → BitVec 32 → State) : State :=
  s.admitWhole h u fun s m =>
    if s.cur.lanes != BitVec.allOnes 32 then s.engineTrap cConverge
    else if regs.any (fun r => (s.readS s.w r 0).bad) then s.poisoned 0
    else k s m

/-- A trap of the matrix-format cause unless a condition holds (R289). -/
def State.formatOk (s : State) (ok : Bool) (k : State → State) : State := if ok then k s else s.engineTrap cFormat

/-- Words that occupy a matrix queue (R269): a multiplication leaves it when it starts. -/
def MWord.queued (m : MWord) : Bool :=
  match m.op with
  | .mma o => !o.started
  | _ => true

def State.matrixUsed (s : State) (core q : Nat) : Nat :=
  (s.mwords.filter (fun x => x.2.core == core && x.2.q == q && x.2.queued)).length

/-- Blocks of warps that share tiles see a binding's tag (R310): every handle of the block that names the tile.
Log entry 22: DEDUCED. -/
def State.tagTile (s : State) (b tile tag : Nat) : State :=
  { s with warps := tmap s.warps (fun _ W =>
      if W.block == b then { W with a := tmap W.a (fun _ x => if x.tile == tile then { x with tag := tag } else x) }
      else W) }

/-- A binding of a handle and its tag (R310, R311), with F64 of the pair. -/
def State.bindAcc (s : State) (w k tile tag : Nat) : State :=
  let b := (s.warp w).block
  let one (s : State) (i : Nat) : State :=
    (s.tagTile b (tile + i) tag).updWarp w (fun W => { W with a := tset W.a (k + i) ⟨tile + i, tag⟩ })
  if tag == 2 then one (one s 0) 1 else one s 0

/-- What a `bload` records in its slots (R303): each group's format, scales and loaded rows. -/
def Resv.slotRec (r : Resv) (g : Nat) : BSlot :=
  ⟨r.fmt, r.mx, r.slay == 2, min (passK r.fmt) (r.kOf - g * passK r.fmt)⟩

/-- The slots of a block as its words have left them, with those of a `bload` recorded (R299). -/
def Core.loadSlots (c : Core) (b slot n : Nat) (r : Resv) : Core :=
  { c with slots := (List.range n).foldl (fun t i =>
      tset t (b * 64 + slot + i) (r.slotRec (i / groupSlots r.fmt))) c.slots }

/-- Those of a `bfree` removed. -/
def Core.dropSlots (c : Core) (b slot n : Nat) : Core :=
  { c with slots := c.slots.filter (fun x => !(b * 64 + slot ≤ x.1 && x.1 < b * 64 + slot + n)) }

/-- Registers that `accrd` writes and `accwr` reads for a type (R312): how many from D on. -/
def accRegs (ty : BitVec 3) : Nat := if ty == 7 then 1 else if wideTy ty then 4 else 2

/-- A matrix word's effects at its issue (R299, R306, R311, R312, R314), and its entry into its queue. `dst` is the
handle or register that it names. It carries what its lanes have issued before it and has not performed (R197). -/
def State.matrixEnter (s : State) (m : MWord) (dst : Nat) : State :=
  let (id, s) := s.take
  let m := { m with waits := s.releases m.warp (lanesOf m.lanes) }
  let put (s : State) (op : MOp) : State := { s with mwords := tset s.mwords id { m with op := op } }
  match m.op with
  | .obrel r =>
    let s := s.updWarp m.warp (fun W => { W with t := tdel W.t dst })
    put { s with resvs := tupd s.resvs r (fun x => { x with ended := true }) } m.op
  | .bload r slot n =>
    match tget s.resvs r with
    | none => put s m.op
    | some x => put (s.updCore m.core (·.loadSlots m.block slot n x)) m.op
  | .bfree slot n => put (s.updCore m.core (·.dropSlots m.block slot n)) m.op
  | .mma o =>
    match s.futFind (dieOf m.core) with
    | none => s
    | some f =>
      let s := s.futTake f .matrix id
      let h := futHandle f (s.fut f).gen
      let s := s.updWarp m.warp (fun W => { W with refs := W.refs ++ [(f, true, m.lanes)] })
      put (s.writeTarget m.warp (.uni dst) ⟨h, false⟩) (.mma { o with fut := f })
  | .accz tile tag => put (s.bindAcc m.warp dst tile tag) m.op
  | .accrd tile tag row ty rm sf d _ =>
    let dests := (List.range 32).flatMap (fun l => (List.range (accRegs ty)).map (fun i =>
      (⟨.vec l (d + i), none, false⟩ : Dest)))
    let (op, s) := s.pend m.warp dests 0 0
    put s (.accrd tile tag row ty rm sf d op)
  | .accwr _ _ _ _ f => put (s.raise m.warp f) m.op
  | .accst tile tag key _ =>
    let (op, s) := s.pend m.warp [] 0 1
    put s (.accst tile tag key op)
  | .accld tile tag key _ =>
    let (op, s) := s.pend m.warp [] 0 1
    put (s.bindAcc m.warp dst tile tag) (.accld tile tag key op)

/-- A matrix word can enter its queue now (R244, R269): an entry is free, and for a multiplication a record. -/
def State.matrixReady (s : State) (m : MWord) : Bool :=
  s.matrixUsed m.core m.q < 8 && match m.op with
    | .mma _ => (s.futFind (dieOf m.core)).isSome
    | _ => true

/-- A checked matrix word that reads some registers enters its queue, or its gang parks until it can, before it performs
anything (R269, R289). -/
def State.matrixIssueReading (s : State) (h : Hdr) (op : MOp) (dst : Nat) (reads : List Nat) : State :=
  let W := s.wp
  let m : MWord := ⟨s.w, W.block, W.core, schedOf W.slot, s.cur.lanes, op, []⟩
  if s.matrixReady m then ((s.emptyCells m.lanes reads).matrixEnter m dst).finish h
  else (s.parkReading s.cur.lanes h (.matrixRoom m dst) reads).finish h

@[inherit_doc State.matrixIssueReading] def State.matrixIssue (s : State) (h : Hdr) (op : MOp) (dst : Nat) : State :=
  s.matrixIssueReading h op dst []

/-- The operand-buffer units of a core that reservations hold: first unit and count. -/
def State.obHeld (s : State) (core : Nat) : List (Nat × Nat) :=
  (s.resvs.filter (fun x => !x.2.freed && (s.block x.2.block).core == core)).map (fun x => (x.2.base, x.2.len + 1))

/-- The lowest unit from which n consecutive units are free (R301): 0 or the end of a range that is held. -/
def lowestFit (held : List (Nat × Nat)) (limit n : Nat) : Option Nat :=
  let ok (b : Nat) : Bool := b + n ≤ limit && held.all (fun x => !meets b n x.1 x.2)
  let bs := (0 :: held.map (fun x => x.1 + x.2)).filter ok
  bs.foldl (fun o b => match o with | none => some b | some a => some (min a b)) none

/-- A reservation made (R301): every byte of it reads as zero. -/
def State.obresServe (s : State) (w dst : Nat) (r : Resv) (base : Nat) : State :=
  let core := (s.warp w).core
  let (id, s) := s.take
  let r := { r with base := base }
  let s := s.write (obKey core (base * 256)) (List.replicate ((r.len + 1) * 256) 0) false
  let lo := obScaleKey core (base * 256)
  let hi := obScaleKey core ((base + r.len + 1) * 256)
  let s := { s with poison := s.poison.filter (fun u => !(unitOf lo ≤ u && u < unitOf hi)) }
  let s := { s with resvs := tset s.resvs id r }
  s.updWarp w (fun W => { W with t := tset W.t dst id })

/-- R301: reserves part of the operand buffer, or parks until it can. -/
def execObres (t : Tri) (s : State) : Host.Outcome State Fault Refusal :=
  .next (s.admitWhole t.h {} fun s m => s.reclaimFirst m fun s _ =>
    if s.cur.lanes != BitVec.allOnes 32 then s.engineTrap cConverge
    else
      let bv := s.readS s.w t.a.toNat 0
      let ov := s.readS s.w t.b.toNat 1
      let b := bv.val.toNat
      let o := ov.val.toNat
      let mx := t.sub.getLsbD 4
      let fmt := t.sub.toNat % 16
      let n := (if mx then o else b) * 8 / elemBits fmt
      let bad := (tget s.wp.t t.d.toNat).isSome || b % 256 != 0 || b == 0 || b > 524288
        || mx && (o % 16 != 0 || o ≥ b) || !mx && o != 0 || n % 64 != 0 || mx && n / 32 > b - o
      if bv.bad || ov.bad then s.poisoned 0
      else s.formatOk (!bad) fun s =>
        let r : Resv := { block := s.wp.block, fmt := fmt, mx := mx, slay := t.sub.toNat / 32 % 4
                          ord := t.sub.getLsbD 7, soff := o / 16, len := b / 256 - 1, base := 0 }
        match lowestFit (s.obHeld s.wp.core) 2048 (b / 256) with
        | some u => (s.obresServe s.w t.d.toNat r u).finish t.h
        | none => (s.parkGang s.cur.lanes t.h (.obres t.d.toNat r)).finish t.h)

/-- R302: ends a reservation. -/
def execObrel (t : Tri) (s : State) : Host.Outcome State Fault Refusal :=
  .next (s.matrixWord t.h {} [] fun s _ =>
    match s.resvOf t.a.toNat with
    | none => s.engineTrap cFormat
    | some (r, _) => s.matrixIssue t.h (.obrel r) t.a.toNat)

/-- Slots that a reservation needs (R303). -/
def Resv.slotCount (r : Resv) : Nat := groupSlots r.fmt * ((r.kOf + passK r.fmt - 1) / passK r.fmt)

/-- R303: loads a reservation into the B store. -/
def execBload (t : Tri) (s : State) : Host.Outcome State Fault Refusal :=
  .next (s.matrixWord t.h {} [] fun s _ =>
    match s.resvOf t.a.toNat with
    | none => s.engineTrap cFormat
    | some (id, r) =>
      let slot := t.b.toNat
      s.formatOk (!(r.mx && r.ord) && slot % groupSlots r.fmt == 0 && slot + r.slotCount ≤ 64) fun s =>
        s.matrixIssue t.h (.bload id slot r.slotCount) 0)

/-- What a block's words have left in a slot (R299). -/
def State.slotView (s : State) (b core slot : Nat) : Option BSlot := tget (s.core core).slots (b * 64 + slot)

/-- R304: releases slots. -/
def execBfree (t : Tri) (s : State) : Host.Outcome State Fault Refusal :=
  .next (s.matrixWord t.h {} [] fun s _ =>
    let slot := t.b.toNat
    let n := t.c.toNat
    let W := s.wp
    s.formatOk (slot + n ≤ 64 && (List.range n).all (fun i => (s.slotView W.block W.core (slot + i)).isSome)) fun s =>
      s.matrixIssue t.h (.bfree slot n) 0)

/-- An accumulator handle that a word of a tag may use (R310): its tile; for F64 an even handle whose pair is bound. -/
def Warp.accTile (W : Warp) (k : Nat) (ok : Nat → Bool) : Option (Nat × Nat) :=
  match tget W.a k with
  | none => none
  | some x =>
    if !ok x.tag then none
    else if x.tag == 2 && !(k % 2 == 0 && tget W.a (k + 1) = some ⟨x.tile + 1, 2⟩) then none
    else some (x.tile, x.tag)

/-- The slot groups of a multiplication (R306): held and loaded by the block, of A's class, with the rows it takes. -/
def State.slotGroups (s : State) (fmt slot k : Nat) : Option (List BSlot) :=
  let W := s.wp
  let gs := groupSlots fmt
  let kp := passK fmt
  let n := (k + kp - 1) / kp
  let group (g : Nat) : Option BSlot :=
    let first := slot + gs * g
    if first + gs > 64 then none
    else match s.slotView W.block W.core first with
      | none => none
      | some x =>
        if fmtClass x.fmt == fmtClass fmt && x.rows ≥ min kp (k - g * kp)
            && (List.range gs).all (fun i => s.slotView W.block W.core (first + i) = some x)
        then some x else none
  let gsl := (List.range n).map group
  if slot % gs == 0 && gsl.all (·.isSome) then some (gsl.filterMap id) else none

/-- R305, R306: what the fields of a multiplication name: reservation, tile, groups; or none for the matrix-format
trap. -/
def State.mmaParts (s : State) (t : Tri) (k : Nat) : Option (Nat × Resv × Nat × List BSlot) :=
  let fmt := t.sub.toNat % 16
  match s.resvOf (t.a.toNat % 8), s.wp.accTile (t.a.toNat / 32) (· == fmtTag fmt), s.slotGroups fmt t.b.toNat k with
  | some (id, r), some (tile, _), some gs => if r.fmt == fmt && !(r.mx && r.ord) then some (id, r, tile, gs) else none
  | _, _, _ => none

/-- R305, R306. -/
def execMma (t : Tri) (s : State) : Host.Outcome State Fault Refusal :=
  .next (s.matrixWord t.h {} [] fun s _ =>
    let fmt := t.sub.toNat % 16
    let k := (t.c.toNat + t.sub.toNat / 16 % 2 * 256 + 1) * chunkK fmt
    match s.mmaParts t k with
    | none => s.engineTrap cFormat
    | some (id, r, tile, gs) =>
      s.formatOk (k ≤ r.kOf) fun s =>
        s.passing (check (s.refsFull s.w 1) 10 cReference s.cur.pc.toNat) fun s =>
          s.matrixIssue t.h (.mma { fut := 0, tile := tile, resv := id, slot := t.b.toNat, k := k, fmt := fmt
                                    groups := gs }) t.d.toNat)

/-- R308. -/
def execMmaM (t : Tri) (s : State) : Host.Outcome State Fault Refusal :=
  .next (s.matrixWord t.h {} ((List.range 8).map (· + t.c.toNat)) fun s _ =>
    let fmt := t.sub.toNat % 16
    let w (i : Nat) : Nat := (s.readS s.w (t.c.toNat + i) i).val.toNat
    let k := (w 6 % 512 + 1) * chunkK fmt
    match s.mmaParts t k with
    | none => s.engineTrap cFormat
    | some (id, r, tile, gs) =>
      let va := w 0 + w 1 * 2 ^ 32
      let sva := w 3 + w 4 * 2 ^ 32
      let rowBytes := k * elemBits fmt / 8
      let ok := !r.ord && r.slay != 1 && w 6 < 512 && w 7 == 0
        && r.region ≥ 64 * passK fmt * elemBits fmt / 8
        && (if r.mx then (r.len + 1) * 256 - r.soff * 16 ≥ 2 * passK fmt else sva == 0 && w 5 == 0)
      s.formatOk ok fun s =>
        let top (a stride n : Nat) : Bool := a + 63 * stride + n > 2 ^ 57
        let odd (x : Nat) : List EngFail := check (x % 8 != 0) 5 cAlign x
        s.passing (check (top va (w 2) rowBytes) 4 cRange (max va (2 ^ 57))
            ++ check (r.mx && top sva (w 5) (k / 32)) 4 cRange (max sva (2 ^ 57))
            ++ odd va ++ odd (w 2) ++ odd sva ++ odd (w 5) ++ odd rowBytes
            ++ check (s.refsFull s.w 1) 10 cReference s.cur.pc.toNat) fun s =>
          s.matrixIssue t.h (.mma { fut := 0, tile := tile, resv := id, slot := t.b.toNat, k := k, fmt := fmt
                                    groups := gs, stream := some ⟨va, w 2, sva, w 5, none⟩ }) t.d.toNat)

/-- A tile index of the block, and for F64 its neighbour (R310). -/
def State.tileOk (s : State) (tile tag : Nat) : Bool :=
  tile + (if tag == 2 then 1 else 0) < (s.block s.wp.block).tiles.length

/-- R310, R311. -/
def execAccz (t : Tri) (s : State) : Host.Outcome State Fault Refusal :=
  .next (s.matrixWord t.h {} [] fun s _ =>
    let tag := t.sub.toNat % 4
    s.formatOk (s.tileOk t.b.toNat tag) fun s => s.matrixIssue t.h (.accz t.b.toNat tag) t.d.toNat)

/-- The row that `accrd` and `accwr` name (R312): under PROT bit 6 selects the half. -/
def State.accRow (s : State) (v : Word) : Option Nat := if v.toNat < (if s.prot then 128 else 64) then some v.toNat else none

/-- The two columns of a lane (R312). -/
def State.accCols (s : State) (row l : Nat) : Nat × Nat :=
  if s.prot then (32 * (row / 64) + l / 2, 32 * (row / 64) + l / 2 + 16) else (l, l + 32)

/-- R312. -/
def execAccrd (t : Tri) (s : State) : Host.Outcome State Fault Refusal :=
  let u : Uses := ⟨[], [(t.d.toNat, accRegs t.ty)], false⟩
  .next (s.matrixWord t.h u [t.b.toNat] fun s _ =>
    match s.wp.accTile t.a.toNat (fun _ => true), s.accRow (s.readS s.w t.b.toNat 0).val with
    | some (tile, tag), some row =>
      s.formatOk (accRead tag t.ty 0 false 0).isSome fun s =>
        s.matrixIssue t.h (.accrd tile tag row t.ty t.rm t.sf t.d.toNat 0) 0
    | _, _ => s.engineTrap cFormat)

/-- The two values of a lane for `accwr`, from the registers of a type (R312, R313). -/
def State.accVals (s : State) (t : Tri) (l : Nat) : BitVec 64 × BitVec 64 × Bool :=
  let r (i : Nat) : Cell := s.readV s.w l (t.a.toNat + i) i
  if t.ty == 7 then
    let c := r 0
    ((c.val.setWidth 16).setWidth 64, (c.val >>> 16).setWidth 64, c.bad)
  else if wideTy t.ty then
    let x := pairVal (r 0) (r 1)
    let y := pairVal (r 2) (r 3)
    (x.1, y.1, x.2 || y.2)
  else ((r 0).val.setWidth 64, (r 1).val.setWidth 64, (r 0).bad || (r 1).bad)

/-- R313: reads and converts at issue; the conversion's flags are raised as the word enters its queue. -/
def execAccwr (t : Tri) (s : State) : Host.Outcome State Fault Refusal :=
  let u : Uses := ⟨[(t.a.toNat, accRegs t.ty)], [], false⟩
  .next (s.matrixWord t.h u [t.b.toNat] fun s m =>
    match s.wp.accTile t.d.toNat (fun _ => true), s.accRow (s.readS s.w t.b.toNat 0).val with
    | some (tile, tag), some row =>
      s.formatOk (accWrite tag t.ty 0 0).isSome fun s =>
        let ls := (s.visible m)
        let vals := ls.map (fun l => (l, s.accVals t l))
        if (lanesOf m).any (fun l => (s.accVals t l).2.2) then s.poisoned 0
        else s.compare m (fun l => [(s.accVals t l).1, (s.accVals t l).2.1]) fun s =>
          let outs := vals.flatMap (fun x =>
            let (c0, c1) := s.accCols row x.1
            [(c0, (accWrite tag t.ty t.rm x.2.1).getD (0, 0)), (c1, (accWrite tag t.ty t.rm x.2.2.1).getD (0, 0))])
          s.matrixIssueReading t.h (.accwr tile tag row (outs.map (fun o => (o.1, BitVec.ofNat 64 o.2.1)))
            (flagUnion (outs.map (·.2.2)))) 0 (regsOf u.reads)
    | _, _ => s.engineTrap cFormat)

/-- R314: the range of every 8-byte access is checked as one of the issuing threads is, in the order of R219; a store's also
against the range locks. -/
def State.accRange (s : State) (t : Tri) (tag : Nat) (writes : Bool) (k : State → Nat → State) : State :=
  let ea := (s.readS s.w t.b.toNat 0).val
  let sp := spaceOf (t.sub.toNat % 4)
  match s.firstBad s.w sp ea.toNat (accBytes tag) with
  | some x => s.engineTrapAt cRange x
  | none => s.checkAll sp ((lanesOf s.cur.lanes).map (fun l => (l, ea))) (accBytes tag) 64 writes
      fun s ps => match ps with
        | [] => s
        | p :: _ => k s p.key

/-- R314. -/
def execAccst (t : Tri) (s : State) : Host.Outcome State Fault Refusal :=
  .next (s.matrixWord t.h {} [t.b.toNat] fun s _ =>
    match s.wp.accTile t.a.toNat (fun _ => true) with
    | none => s.engineTrap cFormat
    | some (tile, tag) => s.accRange t tag true fun s key => s.matrixIssue t.h (.accst tile tag key 0) 0)

/-- R314. -/
def execAccld (t : Tri) (s : State) : Host.Outcome State Fault Refusal :=
  .next (s.matrixWord t.h {} [t.b.toNat] fun s _ =>
    let tag := t.sub.toNat / 4 % 4
    let tile := t.c.toNat
    s.formatOk (s.tileOk tile tag) fun s =>
      s.accRange t tag false fun s key => s.matrixIssue t.h (.accld tile tag key 0) t.d.toNat)

/-- A matrix resource (R299). -/
inductive MRes where
  | tile (block i : Nat)
  | slot (block i : Nat)
  | resv (r : Nat)
  deriving DecidableEq, Repr

/-- The tile, or the pair, of a tag. -/
def tileRes (b tile tag : Nat) : List MRes := if tag == 2 then [.tile b tile, .tile b (tile + 1)] else [.tile b tile]

/-- Consecutive slots. -/
def slotRes (b slot n : Nat) : List MRes := (List.range n).map (fun i => .slot b (slot + i))

/-- The resources that a matrix word reads and writes (R299, R302 to R306, R308, R311 to R314). -/
def MWord.uses (m : MWord) : List MRes × List MRes :=
  match m.op with
  | .obrel r => ([], [.resv r])
  | .bload r slot n => ([.resv r], slotRes m.block slot n)
  | .bfree slot n => ([], slotRes m.block slot n)
  | .mma o =>
    (.resv o.resv :: slotRes m.block o.slot (groupSlots o.fmt * o.groups.length),
      tileRes m.block o.tile (fmtTag o.fmt) ++ if o.stream.isSome then [.resv o.resv] else [])
  | .accz tile tag => ([], tileRes m.block tile tag)
  | .accrd tile tag _ _ _ _ _ _ => (tileRes m.block tile tag, [])
  | .accwr tile tag _ _ _ => ([], tileRes m.block tile tag)
  | .accst tile tag _ _ => (tileRes m.block tile tag, [])
  | .accld tile tag _ _ => ([], tileRes m.block tile tag)

/-- A word must wait for an earlier one: they share a resource that one of them writes (R299). -/
def MWord.clash (m e : MWord) : Bool :=
  let (r, w) := m.uses
  let (r', w') := e.uses
  w.any (fun x => r'.contains x || w'.contains x) || r.any w'.contains

/-- R299: no earlier-issued word of the core, and no earlier-issued fill, stands in the way of a matrix word. -/
def State.matrixClear (s : State) (id : Nat) (m : MWord) : Bool :=
  !s.mwords.any (fun x => x.1 < id && x.2.core == m.core && m.clash x.2)
    && !s.copies.any (fun c => c.1 < id && match c.2.fill with
      | some f => m.uses.1.contains (.resv f.resv) || m.uses.2.contains (.resv f.resv)
      | none => false)

/-- A word is the head of its queue (R269, R299). -/
def State.matrixHead (s : State) (id : Nat) (m : MWord) : Bool :=
  m.queued && !s.mwords.any (fun x => x.1 < id && x.2.core == m.core && x.2.q == m.q && x.2.queued)

/-- The key of a cell of a block's tile. -/
def State.cellKey (s : State) (b tile cell : Nat) : Nat :=
  let B := s.block b
  accKey B.core ((B.tiles.getD tile 0 * 4096 + cell) * 8)

/-- A cell's pattern under a tag (R278), and its poison. -/
def State.accCell (s : State) (b tile tag cell : Nat) : Nat × Bool :=
  let k := s.cellKey b tile cell
  if tag == 2 then
    let k' := s.cellKey b (tile + 1) cell
    (s.num k 4 + s.num k' 4 * 2 ^ 32, s.tainted k 5 || s.tainted k' 5)
  else (s.num k 5, s.tainted k 5)

/-- A cell written; the tile of a block that has ended keeps nothing (R286). -/
def State.setAccCell (s : State) (b tile tag cell v : Nat) (bad : Bool) : State :=
  if !(s.block b).live then s
  else
    let k := s.cellKey b tile cell
    if tag == 2 then
      (s.writeNum k 5 (v % 2 ^ 32) bad).writeNum (s.cellKey b (tile + 1) cell) 5 (v / 2 ^ 32) bad
    else s.writeNum k 5 (v % 2 ^ 40) bad

/-- Every cell of a tile, or pair, zero (R311). -/
def State.zeroTile (s : State) (b tile tag : Nat) : State :=
  (List.range 4096).foldl (fun s c => s.setAccCell b tile tag c 0 false) s

/-- A block whose scale byte marks it all-zero (R273): its elements count as +0 and are not fetched. -/
def Resv.zeroBlock (r : Resv) (scale : Byte) : Bool := r.slay != 2 && scale == 0x80

/-- R303: the elements and the scales of a reservation go into a group of slots. Rows beyond K read as zero. -/
def State.loadGroup (s : State) (core slot g : Nat) (r : Resv) : State :=
  let kp := passK r.fmt
  let gs := groupSlots r.fmt
  let bits := elemBits r.fmt
  let k0 := g * kp
  let ob (i : Nat) : Nat := obKey core (r.base * 256 + i)
  let elem (n k : Nat) : Nat :=
    if k0 + k < r.kOf then
      let i := r.index n (k0 + k)
      if bits == 4 then s.num (ob (i / 2)) 1 / 16 ^ (i % 2) % 16 else s.num (ob (i * (bits / 8))) (bits / 8)
    else 0
  let blockOf (n k : Nat) : Nat := r.index n (k0 + k) / 32
  let scaleAt (j : Nat) : Nat := r.base * 256 + r.soff * 16 + j
  let bad (n k : Nat) : Bool :=
    k0 + k < r.kOf &&
      (if r.mx then
        let j := blockOf n k
        !r.zeroBlock (s.byte (obKey core (scaleAt j))) && s.tainted (ob (j * blockBytes r.fmt)) (blockBytes r.fmt)
          || s.poison.contains (unitOf (obScaleKey core (scaleAt j)))
      else s.tainted (ob (r.index n (k0 + k) * bits / 8)) (max 1 (bits / 8)))
  let per := if bits < 16 then 16 / bits else 1
  let s1 := (List.range gs).foldl (fun st j => (List.range 64).foldl (fun st row => (List.range 64).foldl (fun st n =>
    let key := slotKey core (((slot + g * gs + j) * 4096 + row * 64 + n) * 8)
    let v := if bits ≥ 16 then elem n row / 2 ^ (16 * j) % 2 ^ 16
      else ((List.range per).map (fun q => elem n (row * per + q) * 2 ^ (bits * q))).sum
    st.writeNum key 2 v ((List.range per).any (fun q => bad n (row * per + q)))) st) st) s
  if !r.mx then s1
  else (List.range (kp / 32)).foldl (fun st q => (List.range 64).foldl (fun st n =>
    let v := if k0 + q * 32 < r.kOf then s.num (obKey core (scaleAt (blockOf n (q * 32)))) 1 else 0
    st.writeNum (scaleKey core (((slot + g * gs) * 512 + q * 64 + n) * 8)) 1 v false) st) s1

/-- R314: the image of a tile, or pair, in 8-byte stores of ascending address. -/
def State.accStore (s : State) (m : MWord) (tile tag key : Nat) : State :=
  let W := s.warp m.warp
  let cell (i : Nat) : Nat × Nat := (tile + i / 4096, i % 4096)
  let byte (i : Nat) : Byte := s.byte (s.cellKey m.block (cell (i / 5)).1 (cell (i / 5)).2 + i % 5)
  let bad (i : Nat) : Bool := s.tainted (s.cellKey m.block (cell (i / 5)).1 (cell (i / 5)).2) 5
  (List.range (accBytes tag / 8)).foldl (fun st u =>
    let is := (List.range 8).map (· + 8 * u)
    st.storeBytes W.vi (dieOf m.core) (cixOf m.core) (key + 8 * u) (is.map byte) (is.any bad)) s

/-- R314: the image read back. -/
def State.accLoad (s : State) (m : MWord) (tile tag key : Nat) : State :=
  (List.range (accBytes tag / 5)).foldl (fun st i =>
    let k := key + 5 * i
    st.setAccCell m.block (tile + i / 4096) 0 (i % 4096) (s.num k 5) (s.tainted k 5)) s

/-- R312: the row's cells, converted, for every lane. -/
def State.accDeliver (s : State) (m : MWord) (tile tag row : Nat) (ty : BitVec 3) (rm : BitVec 2) (sf : Bool)
    (dst op : Nat) : State :=
  (List.range 32).foldl (fun st l =>
    let (c0, c1) := s.accCols row l
    let get (c : Nat) : BitVec 64 × Flags × Bool :=
      let (v, bad) := s.accCell m.block tile tag (row % 64 * 64 + c)
      let r := (accRead tag ty rm sf v).getD (0, 0)
      (r.1, r.2, bad)
    let x := get c0
    let y := get c1
    let bad := x.2.2 || y.2.2
    let rs := if ty == 7 then [(Target.vec l dst, (⟨(y.1.setWidth 16) ++ (x.1.setWidth 16), bad⟩ : Cell))]
      else
        let n := if wideTy ty then 2 else 1
        vecResult l dst n x.1 x.2.2 ++ vecResult l (dst + n) n y.1 y.2.2
    st.learnAll m.warp op rs (x.2.1 ||| y.2.1)) s

/-- A matrix word has performed and leaves its queue; what an ended block still held returns (R302, R304). -/
def State.matrixDone (s : State) (id : Nat) (m : MWord) : State :=
  let s := { s with mwords := tdel s.mwords id }
  if (s.block m.block).live then s else s.freeMatrix m.block

/-- The image of a matrix word as one access of a lane (R314). -/
def MWord.access (_m : MWord) (id lane : Nat) (i : Nat × Nat) : Access :=
  { seq := id, lane := lane, key := i.1, space := .dsp, ea := 0, size := i.2, kind := .store 0 false }

/-- The accesses of a matrix word may perform (R195, R197, R198): the warp's earlier ones at its image have performed, those
that system code suspends apart, and so have the earlier acquires of its lanes. -/
def State.imageReady (s : State) (id : Nat) (m : MWord) : Bool :=
  let W := s.warp m.warp
  m.image.all (fun i =>
    !W.accs.any (fun a => a.2.seq < id && !W.asleep a.2 && a.2.atImage i) && s.gangOrdered m.warp m.lanes id)

/-- A matrix word has stored its image, or loaded it: what its bytes carry (R198), and Parallax's count (R186). -/
def State.imageDone (s : State) (id : Nat) (m : MWord) (writes : Bool) : State :=
  m.image.foldl (fun s i =>
    let s := s.scoreBytes m.core [i] writes
    if writes then (lanesOf m.lanes).foldl (fun s l => s.carryFences m.warp (m.access id l i)) (s.overwrite i.1 i.2 false)
    else (lanesOf m.lanes).foldl (fun s l => s.notice m.warp (m.access id l i)) s) s

/-- The storage that a word's accesses need is there (R169, R176, R188, R314). -/
def State.matrixReach (s : State) (m : MWord) : Bool :=
  match m.op with
  | .accst _ tag key _ => s.accessible key (accBytes tag)
  | .accld _ tag key _ => s.accessible key (accBytes tag)
  | .bload _ slot n => (List.range n).all (fun i => match tget (s.core m.core).holders (slot + i) with
    | none => true
    | some b => b == m.block)
  | _ => true

/-- MATRIX_WORD_PERFORM (R299): a word other than a multiplication performs at the head of its queue once nothing
earlier stands in its way. -/
def execMatrixWordPerform (word : Nat) (s : State) : Host.Outcome State Fault Refusal :=
  .next (match tget s.mwords word with
    | none => s
    | some m =>
      if !(s.matrixHead word m && s.matrixClear word m && s.imageReady word m) then s
      else if !s.matrixReach m then m.image.foldl (fun s i => s.rouseRange i.1 i.2) s
      else match m.op with
        | .obrel r => { s with resvs := tupd s.resvs r (fun x => { x with freed := true }) }.matrixDone word m
        | .bload r slot n =>
          match tget s.resvs r with
          | none => s.matrixDone word m
          | some x =>
            let s := s.updCore m.core (fun c => { c with
              holders := (List.range n).foldl (fun h i => tset h (slot + i) m.block) c.holders })
            ((List.range (n / groupSlots x.fmt)).foldl (fun s g => s.loadGroup m.core slot g x) s).matrixDone word m
        | .bfree slot n =>
          (s.updCore m.core (fun c => { c with
            holders := c.holders.filter (fun x => !(slot ≤ x.1 && x.1 < slot + n && x.2 == m.block)) })).matrixDone word m
        | .mma _ => s
        | .accz tile tag => (s.zeroTile m.block tile tag).matrixDone word m
        | .accrd tile tag row ty rm sf dst op =>
          let cur := s.cur
          let s := { s with cur := { s.cur with warp := m.warp } }
          let s := s.accDeliver m tile tag row ty rm sf dst op
          { s with cur := cur }.matrixDone word m
        | .accwr tile tag row cells _ =>
          (cells.foldl (fun s c => s.setAccCell m.block tile tag (row % 64 * 64 + c.1) c.2.toNat false) s).matrixDone
            word m
        | .accst tile tag key op =>
          (((s.accStore m tile tag key).imageDone word m true).learnDone m.warp op).matrixDone word m
        | .accld tile tag key op =>
          (((s.accLoad m tile tag key).imageDone word m false).learnDone m.warp op).matrixDone word m)

/-- A parked matrix word enters its queue when it can, for the threads of its gang that are left (R257). -/
def State.matrixResume (s : State) (w id : Nat) (m : MWord) (dst : Nat) : State :=
  if s.matrixReady m then
    (s.matrixEnter { m with lanes := m.lanes &&& (s.warp w).gangLanes id } dst).wakeGang w id
  else s

/-- MATRIX_QUEUE_ROOM_RESUME (R244, R269, R301): a parked matrix word enters its queue, or makes its reservation. -/
def execMatrixQueueRoomResume (warp gang : Nat) (s : State) : Host.Outcome State Fault Refusal :=
  let s := s.sweep warp
  .next (match s.reqOf warp gang with
    | some (.matrixRoom m dst) => s.matrixResume warp gang m dst
    | some (.obres dst r) =>
      match lowestFit (s.obHeld (s.warp warp).core) 2048 (r.len + 1) with
      | some u => (s.obresServe warp dst r u).wakeGang warp gang
      | none => s
    | _ => s)

end Sys2Proof.Machine
end

