-- ==== Sys2Proof/Machine/Futures.lean ====
section
/-! DEFINITION. Machine/Futures.lean: tasks and bins (R137, R138, R316), the future words (R315, R318 to R321), the
completion of tasks (R322), reclamation (R257, R258) and what waits for a record (R244, R250). -/

namespace Sys2Proof.Machine

/-- Tasks that a bin of a grid holds: one to a visible lane of the wave. -/
def State.binLimit (s : State) (g : Nat) : Nat := if (s.grid g).launch.prot then 16 else 32

/-- The bin that a task enters (R137): the non-full bin of its grid and entry, otherwise an empty one; of several, the
lowest-numbered. Log entry 58: DESIGN CHOICE. -/
def State.binFor (s : State) (core g : Nat) (entry : DWord) : Option Nat :=
  let bins := (s.core core).bins
  let limit := s.binLimit g
  match bins.find? (fun b => b.2.grid == g && b.2.entry == entry && b.2.tasks.length < limit) with
  | some b => some b.1
  | none => freeKey bins 16 0

/-- A task enters a bin (R137, R138): the first starts the timer, and a full bin becomes due. -/
def State.binPut (s : State) (w bin : Nat) (entry : DWord) (t : TaskRec) : State :=
  let W := s.warp w
  let (id, s) := s.take
  let L := (s.grid W.grid).launch
  let old : Bin := (tget (s.core W.core).bins bin).getD
    { grid := W.grid, entry := entry, tasks := [], start := s.refTick, timer := if L.bint == 0 then 200 else L.bint
      prio := L.prio, bix := W.bix, block := W.block }
  let b := { old with tasks := old.tasks ++ [t] }
  let b := { b with due := if b.tasks.length ≥ s.binLimit W.grid then b.due <|> some id else b.due }
  s.updCore W.core (fun c => { c with bins := tset c.bins bin b })

/-- The number that stands for a record that a parked `spawn` has yet to allocate. -/
def noFut : Nat := 2 ^ 24

/-- Tasks placed in ascending lane order until no bin can take the next (R137, R316): what is left, and the handles. -/
def State.spawnPlace (s : State) (w : Nat) (entry : DWord) :
    List (Nat × Nat × Word) → List (Nat × Word) → State × List (Nat × Nat × Word) × List (Nat × Word)
  | [], done => (s, [], done)
  | (l, f, arg) :: rest, done =>
    if !((s.warp w).lane l).alive then s.spawnPlace w entry rest done
    else match s.binFor (s.warp w).core (s.warp w).grid entry with
      | none => (s, (l, f, arg) :: rest, done)
      | some b => (s.binPut w b entry ⟨f, arg, s.releases w [l]⟩).spawnPlace w entry rest (done ++ [(l, futHandle f (s.fut f).gen)])

/-- Records for the tasks of a `spawn`, each with its thread's reference (R244, R246, R316); none when too few are
free. -/
def State.spawnTake (s : State) (w : Nat) : List (Nat × Nat × Word) → Option (State × List (Nat × Nat × Word))
  | [] => some (s, [])
  | (l, _, arg) :: rest =>
    match s.futFind (dieOf (s.warp w).core) with
    | none => none
    | some f =>
      let s := s.futTake f .task (s.warp w).core
      let s := s.updWarp w (fun W => { W with refs := W.refs ++ [(f, false, maskOf [l])] })
      match s.spawnTake w rest with
      | none => none
      | some (s, out) => some (s, (l, f, arg) :: out)

/-- An earlier `spawn` of a core waits: tasks of different words enter in their order of issue (R137). -/
def State.spawnAhead (s : State) (core id : Nat) : Bool :=
  s.warps.any (fun x => x.2.core == core && x.2.gangs.any (fun g => g.1 < id && x.2.parked g.1 && match g.2.req with
    | .spawn _ _ _ _ => true
    | _ => false))

/-- What a `spawn` does with the tasks that it has yet to place (R316): all of them placed, or those that wait. `id` is
the gang's number when it is parked. -/
def State.spawnTry (s : State) (w id : Nat) (entry : DWord) (todo : List (Nat × Nat × Word)) (done : List (Nat × Word)) :
    State × List (Nat × Nat × Word) × List (Nat × Word) :=
  if s.spawnAhead (s.warp w).core id then (s, todo, done)
  else if todo.any (fun x => x.2.1 == noFut) then
    match s.spawnTake w todo with
    | none => (s, todo, done)
    | some (s, todo) => s.spawnPlace w entry todo done
  else s.spawnPlace w entry todo done

/-- The handles of a finished `spawn` reach their lanes, and under PROT the shadows (R316, R351). -/
def State.spawnWrite (s : State) (w dst : Nat) (done : List (Nat × Word)) : State :=
  done.foldl (fun s (x : Nat × Word) =>
    let s := s.writeTarget w (.vec x.1 dst) ⟨x.2, false⟩
    if ((s.warp w).lane (x.1 + 1)).shadow then s.writeTarget w (.vec (x.1 + 1) dst) ⟨x.2, false⟩ else s) s

/-- R316: one task for each acting lane. -/
def execSpawn (i : Imm) (s : State) : Host.Outcome State Fault Refusal :=
  let u : Uses := ⟨[(i.a.toNat, 1)], [(i.d.toNat, 1)], false⟩
  .next (s.admitEngine i.h u fun s m =>
    let (vs, bad) := s.laneVals m 1 i.a.toNat 0
    if m == 0 then s.finish i.h
    else if s.determ then s.trapOpen cDeterm m
    else if bad then s.poisoned 0
    else
      let out := vs.filter (fun v => match s.locate s.w .dsp (v.2.setWidth 32) 32 with
        | .error _ => true
        | .ok _ => false)
      let odd := vs.filter (fun v => v.2.toNat % 32 != 0)
      let lanes (xs : List (Nat × BitVec 64)) : BitVec 32 := maskOf (xs.map (·.1))
      let entry := branchTo s.cur.pc i.imm
      if !out.isEmpty then s.trapAt cRange (out.headD (0, 0)).2 (lanes out)
      else if !odd.isEmpty then s.trapAt cAlign (odd.headD (0, 0)).2 (lanes odd)
      else match s.landing s.wp.vi s.wp.core entry with
        | .bad d => (s.logLanding s.w [(.bad d, entry)]).trapAt cLanding entry m
        | .replay va => s.parkFetch s.w s.cur.lanes s.cur.pc va
        | .busy => s
        | .ok =>
          let todo := (s.visible m).map (fun l => (l, noFut, (valOf vs l).setWidth 32))
          if s.refsFull s.w todo.length then s.trapAt cReference s.cur.pc m
          else
            let s := s.emptyCells m [i.a.toNat]
            let (s, rest, done) := s.spawnTry s.w s.uid entry todo []
            if rest.isEmpty then (s.spawnWrite s.w i.d.toNat done).finish i.h
            else (s.parkGang m i.h (.spawn entry rest i.d.toNat done)).finish i.h)

/-- A parked gang's request changed in place. -/
def State.setReq (s : State) (w id : Nat) (r : Req) : State :=
  s.updWarp w (fun W => { W with gangs := tupd W.gangs id (fun g => { g with req := r }) })

/-- A parked `spawn` goes on. -/
def State.spawnResume (s : State) (w id : Nat) (entry : DWord) (todo : List (Nat × Nat × Word)) (dst : Nat)
    (done : List (Nat × Word)) : State :=
  let (s, rest, done) := s.spawnTry w id entry todo done
  if rest.isEmpty then (s.spawnWrite w dst done).wakeGang w id else s.setReq w id (.spawn entry rest dst done)

/-- BIN_SPACE_RESUME (R137): a bin can take the next task. -/
def execBinSpaceResume (warp gang : Nat) (s : State) : Host.Outcome State Fault Refusal :=
  let s := s.sweep warp
  .next (match s.reqOf warp gang with
    | some (.spawn entry todo dst done) => s.spawnResume warp gang entry todo dst done
    | _ => s)

/-- One side of a parked gather, scatter or `.mem` atomic, for the threads of it that are left. -/
def Side.among (x : Side) (ls : List Nat) (m : BitVec 32) : Side :=
  match x with
  | .elems n vas => .elems n (((ls.zip vas).filter (fun y => m.getLsbD y.1)).map (·.2))
  | x => x

/-- How many elements a side has. -/
def Side.count : Side → Nat
  | .elems _ vas => vas.length
  | _ => 0

/-- A parked copy word acts for the threads of its gang that are left (R257). -/
def Copy.among (c : Copy) (W : Warp) (m : BitVec 32) : Copy :=
  let ls := (lanesOf c.lanes).filter (fun l => !(W.lane l).shadow)
  let n := max c.src.count c.dst.count
  let src := c.src.among ls m
  let dst := c.dst.among ls m
  { c with
    lanes := c.lanes &&& m, src := src, dst := dst, atoms := c.atoms.filter (fun a => m.getLsbD a.1)
    total := if n == 0 || !c.atoms.isEmpty then c.total else c.total / n * max src.count dst.count }

/-- A parked copy enters its queue when it can. -/
def State.copyResume (s : State) (w id : Nat) : State :=
  match s.reqOf w id with
  | some (.copyRoom c dst) =>
    if s.copyReady c then (s.copyEnter (c.among (s.warp w) ((s.warp w).gangLanes id)) dst).wakeGang w id else s
  | _ => s

/-- COPY_QUEUE_ROOM_RESUME (R250). -/
def execCopyQueueRoomResume (warp gang : Nat) (s : State) : Host.Outcome State Fault Refusal :=
  .next ((s.sweep warp).copyResume warp gang)

/-- FUTURE_RECORD_WAIT_RESUME (R244): a record has been freed. -/
def execFutureRecordWaitResume (warp gang : Nat) (s : State) : Host.Outcome State Fault Refusal :=
  let s := s.sweep warp
  .next (match s.reqOf warp gang with
    | some (.spawn entry todo dst done) => s.spawnResume warp gang entry todo dst done
    | some (.copyRoom _ _) => s.copyResume warp gang
    | some (.matrixRoom m dst) => s.matrixResume warp gang m dst
    | _ => s)

/-- The handle that a lane of a future word uses (R315): a uniform register with SUB bit 0, and its poison. -/
def State.futArg (s : State) (t : Tri) (l : Nat) : Word × Bool :=
  let c := if t.sub.getLsbD 0 then s.readS s.w t.a.toNat 0 else s.readV s.w l t.a.toNat 0
  (c.val, c.bad)

/-- The registers that a future word reads. -/
def futReads (t : Tri) : List (Nat × Nat) := if t.sub.getLsbD 0 then [] else [(t.a.toNat, 1)]

/-- A future word (R315): a poisoned handle kills (R349), after the reclamation of the doomed lanes of a word that `waits`
(R257). -/
def State.futWord (s : State) (t : Tri) (writes : List (Nat × Nat)) (waits : Bool) (k : State → BitVec 32 → State) :
    State :=
  let go (s : State) (m : BitVec 32) : State :=
    if (lanesOf m).any (fun l => (s.futArg t l).2) then s.poisoned 0 else k s m
  s.admitEngine t.h ⟨futReads t, writes, false⟩ fun s m => if waits then s.reclaimFirst m go else go s m

/-- The lane and, under PROT, the lane that it shadows for counting (R351). -/
def State.lead (s : State) (l : Nat) : Nat := if (s.wp.lane l).shadow then l - 1 else l

/-- R318: `fref` grants nothing to a lane whose record is not live. -/
def State.grantable (s : State) (h : Word) : Bool :=
  s.current h && match (s.fut (futNo h)).st with
    | .run | .fault | .done => true
    | _ => false

/-- R318. -/
def execFref (t : Tri) (s : State) : Host.Outcome State Fault Refusal :=
  .next (s.futWord t [] false fun s m =>
    let ok (l : Nat) : Bool := s.grantable (s.futArg t (s.lead l)).1
    let give := ((s.visible m).filter ok).map (fun l => (l, futNo (s.futArg t l).1))
    let high := give.any (fun g => (s.fut g.2).count + (give.filter (fun x => x.2 == g.2)).length > 1048575)
    if s.refsFull s.w give.length || high then s.trapAt cReference s.cur.pc m
    else
      let rs := (lanesOf m).flatMap (fun l => predResult l t.d.toNat (ok l) false)
      let s := give.foldl (fun s (g : Nat × Nat) =>
        (s.updFut g.2 (fun r => { r with count := r.count + 1 })).updWarp s.w (fun W =>
          { W with refs := W.refs ++ [(g.2, false, maskOf [g.1])] })) s
      ((s.emptyCells m (regsOf (futReads t))).results (m != 0) rs 0).finish t.h)

/-- R319: one reference of each acting lane, or the reference trap and nothing removed. -/
def execFdrop (t : Tri) (s : State) : Host.Outcome State Fault Refusal :=
  .next (s.futWord t [] false fun s m =>
    let own := (s.visible m).map (fun l =>
      let h := (s.futArg t l).1
      (l, if s.current h then refFind s.wp.refs (futNo h) l else none))
    let bad := maskOf ((own.filter (fun x => x.2.isNone)).map (·.1))
    if bad != 0 then s.trapAt cReference s.cur.pc bad
    else
      let gone := (own.filterMap (·.2)).eraseDups
      let s := s.updWarp s.w (fun W => { W with refs := gone.foldl List.erase W.refs })
      let s := gone.foldl (fun s x => s.futDrop x.1) s
      (s.emptyCells m (regsOf (futReads t))).finish t.h)

/-- What `fget` finds (R320): none while the lane must park; otherwise the value and the predicate. -/
def State.futPeek (s : State) (h : Word) : Option (DWord × Bool) :=
  let r := s.fut (futNo h)
  if !s.current h then some (0, false)
  else match r.st with
    | .run | .fault | .doom => none
    | .done => some (r.value, true)
    | .free => some (0, false)

/-- The results of `fget` in a lane. -/
def fgetResults (l dst p : Nat) (x : DWord × Bool) : List (Target × Cell) :=
  vecResult l dst 2 x.1 false ++ predResult l p x.2 false

/-- R320. -/
def execFget (t : Tri) (s : State) : Host.Outcome State Fault Refusal :=
  .next (s.futWord t [(t.d.toNat, 2)] true fun s m =>
    if m == 0 then s.finish t.h
    else
      let ls := lanesOf m
      let hs := ls.map (fun l => (l, (s.futArg t l).1))
      let s := s.emptyCells m (regsOf (futReads t))
      let d := t.d.toNat
      let dests := ls.flatMap (fun l =>
        [(⟨.vec l d, none, false⟩ : Dest), ⟨.vec l (d + 1), none, false⟩, ⟨.pred l t.c.toNat, none, false⟩])
      let (op, s) := s.pend s.w dests 0 0
      let s := hs.foldl (fun s (x : Nat × Word) => match s.futPeek x.2 with
        | some v => s.learnAll s.w op (fgetResults x.1 d t.c.toNat v) 0
        | none => s.parkLanes (maskOf [x.1]) t.h (fun _ => .fget x.2 d t.c.toNat op)) s
      s.finish t.h)

/-- FGET_RESUME (R320): a parked lane's record is done or its handle stale. -/
def execFgetResume (warp lane : Nat) (s : State) : Host.Outcome State Fault Refusal :=
  let s := s.sweep warp
  .next (match ((s.warp warp).lane lane).park with
    | .fget h d p op =>
      match s.futPeek h with
      | some v => (s.learnAll warp op (fgetResults lane d p v) 0).wake warp lane
      | none => s
    | _ => s)

/-- R321: whether the record is done, without parking. -/
def execFpoll (t : Tri) (s : State) : Host.Outcome State Fault Refusal :=
  .next (s.futWord t [] false fun s m =>
    let rs := (lanesOf m).flatMap (fun l =>
      let h := (s.futArg t l).1
      predResult l t.d.toNat (s.current h && (s.fut (futNo h)).st = .done) false)
    ((s.emptyCells m (regsOf (futReads t))).results (m != 0) rs 0).finish t.h)

/-- A thread has accesses that have not performed, or has accepted something that has not (R197, R322). -/
def State.writing (s : State) (w l : Nat) : Bool := !(s.pendingOf w l s.uid).isEmpty

/-- TASK_FUTURE_COMPLETE (R197, R322): a task that has ended completes its future once its accesses have performed. -/
def execTaskFutureComplete (warp fut : Nat) (s : State) : Host.Outcome State Fault Refusal :=
  .next (match (s.warp warp).ending.find? (fun x => x.1 == fut) with
    | none => s
    | some (f, l, v) =>
      if s.writing warp l then s
      else
        let s := s.updWarp warp (fun W => { W with ending := W.ending.filter (fun x => x.1 != fut) })
        s.futComplete f v)

/-- The lane of a task that is unended, as warp and lane. -/
def State.taskLane (s : State) (f : Nat) : Option (Nat × Nat) :=
  s.warps.findSome? (fun x => (x.2.lanes.find? (fun l => l.2.alive && l.2.task == some f)).map (fun l => (x.1, l.1)))

/-- The bin that holds a task, as core and bin. -/
def State.taskBin (s : State) (f : Nat) : Option (Nat × Nat) :=
  s.cores.findSome? (fun c => (c.2.bins.find? (fun b => b.2.tasks.any (fun t => t.fut == f))).map (fun b => (c.1, b.1)))

/-- A task leaves its bin; the bin's timer is unchanged (R258). -/
def State.binDrop (s : State) (core bin f : Nat) : State :=
  s.updCore core (fun c =>
    match tget c.bins bin with
    | none => c
    | some b =>
      let ts := b.tasks.filter (fun t => t.fut != f)
      { c with bins := if ts.isEmpty then tdel c.bins bin else tset c.bins bin { b with tasks := ts } })

/-- TASK_RECLAMATION (R257, R258): a doomed task whose notice has arrived leaves its bin and never runs, or ends at the
wait point at which its lane is parked. -/
def execTaskReclamation (fut : Nat) (s : State) : Host.Outcome State Fault Refusal :=
  .next (if !(s.noticed fut && (s.fut fut).kind = .task) then s
    else match s.taskLane fut with
      | some (w, l) =>
        if ((s.warp w).lane l).park.on then
          s.reclaim w ((s.warp w).mask (fun L => L.task == some fut))
        else s
      | none =>
        if s.warps.any (fun x => x.2.ending.any (fun e => e.1 == fut)) then s
        else match s.taskBin fut with
          | some (c, b) => (s.binDrop c b fut).futRelease fut
          | none => s.futRelease fut)

/-- BIN_TIMER_EXPIRY (R138): a bin whose timer has run out becomes due. -/
def execBinTimerExpiry (core bin : Nat) (s : State) : Host.Outcome State Fault Refusal :=
  .next (match tget (s.core core).bins bin with
    | none => s
    | some b =>
      if b.due.isSome || s.refTick < b.start + b.timer then s
      else
        let (id, s) := s.take
        s.updCore core (fun c => { c with bins := tset c.bins bin { b with due := some id } }))

end Sys2Proof.Machine
end

