-- ==== Sys2Proof/Machine/Granules.lean ====
section
/-! DEFINITION. Machine/Granules.lean: granules moved and shared between warps (R156 to R160), scope handles (R232 to R235)
and buffers passed between cores (R177 to R179, R236, R237). -/

namespace Sys2Proof.Machine

/-- The launch frame of a lane, its bottom frame. -/
def Lane.launch (L : Lane) : Frame := L.frames.getLastD { g := 0 }

/-- The launch frame changed. -/
def Lane.setLaunch (L : Lane) (f : Frame → Frame) : Lane :=
  { L with frames := L.frames.mapIdx (fun i x => if i + 1 == L.frames.length then f x else x) }

/-- The launch-frame size of a warp in granules. -/
def Warp.launchG (W : Warp) : Nat :=
  match W.lanes with
  | [] => 0
  | (_, L) :: _ => L.launch.g

/-- R156: every unended thread is in the gang and at frame depth 1; otherwise the register-transfer trap. -/
def State.granuleWord (s : State) (h : Hdr) (k : State → BitVec 32 → State) : State :=
  s.vet h false {} fun s m =>
    if s.wp.alive != s.cur.lanes || (lanesOf s.wp.alive).any (fun l => (s.wp.lane l).depth != 1) then
      s.trapOpen cTransfer s.cur.lanes
    else k s m

/-- The shares of the issuing warp's block. -/
def State.shares (s : State) : Table Share := (s.block s.wp.block).shares

/-- The launch frames of a warp one size smaller or larger (R157): lost registers read as zero ever after. -/
def Warp.resize (W : Warp) (g : Nat) : Warp :=
  { W with
    lanes := tmap W.lanes (fun _ L => L.setLaunch (fun f => { f with g := g, regs := f.regs.filter (fun r => r.1 < 8 * g) }))
    slices := tmap W.slices (fun _ x => if x.depth == 1 then { x with granules := g } else x) }

/-- R157: granules of the launch frame go to the block's exchange. -/
def execRgive (t : Tri) (s : State) : Host.Outcome State Fault Refusal :=
  .next (s.granuleWord t.h fun s _ =>
    let n := t.sub.toNat % 64
    let W := s.wp
    let g := W.launchG
    let bad := n ≥ g || s.shares.any (fun x =>
      x.2.importer == s.w || x.2.exporter == s.w && meets (g - n) n x.2.first x.2.n)
    if bad then s.trapOpen cTransfer s.cur.lanes
    else
      let s := s.updWarp s.w (·.resize (g - n))
      (s.updBlock W.block (fun B => { B with exchange := B.exchange + n })).finish t.h)

/-- Granules taken from the exchange (R157). -/
def State.claimGranules (s : State) (w n : Nat) : State :=
  let W := s.warp w
  let s := s.updBlock W.block (fun B => { B with exchange := B.exchange - n })
  s.updWarp w (·.resize (W.launchG + n))

/-- Insertion by ascending gang number. -/
def insertGang (x : Nat × Nat × Nat) : List (Nat × Nat × Nat) → List (Nat × Nat × Nat)
  | [] => [x]
  | y :: ys => if x.1 ≤ y.1 then x :: y :: ys else y :: insertGang x ys

/-- The parked `rclaim` gangs of a block, oldest first: gang, warp and granules (R157). -/
def State.claimsOf (s : State) (b : Nat) : List (Nat × Nat × Nat) :=
  let gs := (s.warps.filter (fun x => x.2.block == b)).flatMap (fun x => x.2.gangs.filterMap (fun g => match g.2.req with
    | .rclaim n => if x.2.parked g.1 then some (g.1, x.1, n) else none
    | _ => none))
  gs.foldr insertGang []

/-- R157: granules of the exchange go to the launch frame, or the gang parks until they can. -/
def execRclaim (t : Tri) (s : State) : Host.Outcome State Fault Refusal :=
  .next (s.granuleWord t.h fun s m => s.reclaimFirst m fun s _ =>
    let n := t.sub.toNat % 64
    let W := s.wp
    if W.launchG + n > 32 || s.shares.any (fun x => x.2.importer == s.w) then s.trapOpen cTransfer s.cur.lanes
    else if (s.block W.block).exchange ≥ n && (s.claimsOf W.block).isEmpty then (s.claimGranules s.w n).finish t.h
    else (s.parkGang s.cur.lanes t.h (.rclaim n)).finish t.h)

/-- RCLAIM_GRANT (R157): the oldest parked claim of a block is served once the exchange holds enough. -/
def execRclaimGrant (block : Nat) (s : State) : Host.Outcome State Fault Refusal :=
  let s := (s.claimsOf block).foldl (fun s g => s.sweep g.2.1) s
  .next (match s.claimsOf block with
    | [] => s
    | (g, w, n) :: _ => if (s.block block).exchange ≥ n then (s.claimGranules w n).wakeGang w g else s)

/-- The warp of a block with an index. -/
def State.warpIn (s : State) (b wib : Nat) : Option Nat :=
  ((s.warps.find? (fun x => x.2.block == b && x.2.wib == wib && !x.2.wave)).map (·.1))

/-- The cells of a share that begins: the exporter's registers, full or empty (R158). -/
def Warp.shareCells (W : Warp) (first n : Nat) (full : Bool) : Table Cell × List Nat :=
  let keys := (List.range 32).flatMap (fun l => (List.range (8 * n)).map (fun r => (l, r)))
  (keys.foldl (fun t k => setCell t (k.1 * 256 + k.2) (tgetD (W.lane k.1).launch.regs (8 * first + k.2) {})) [],
    if full then keys.map (fun k => k.1 * 256 + k.2) else [])

/-- R158: granules of the launch frame become shared with another warp of the block. Those that the warp has itself
imported may be among them: the third warp then gets cells of its own. Log entry 59: DESIGN CHOICE. -/
def execRshare (t : Tri) (s : State) : Host.Outcome State Fault Refusal :=
  .next (s.granuleWord t.h fun s _ =>
    let n := t.sub.toNat % 64
    let first := t.a.toNat / 8
    let W := s.wp
    let bad (i : Nat) : Bool :=
      let I := s.warp i
      i == s.w || !I.live || first + n > W.launchG || I.launchG + n > 32
        || s.shares.any (fun x => x.2.exporter == s.w || x.2.importer == i)
    match (if W.wave then none else s.warpIn W.block t.b.toNat) with
    | none => s.trapOpen cTransfer s.cur.lanes
    | some i =>
      if bad i then s.trapOpen cTransfer s.cur.lanes
      else
        let gi := (s.warp i).launchG
        let full := t.sub.getLsbD 6
        let (cells, keys) := W.shareCells first n full
        let s := s.updWarp i (fun I => { I with lanes := tmap I.lanes (fun _ L => L.setLaunch (fun f => { f with g := gi + n })) })
        let share : Share := ⟨s.w, i, first, n, gi, full, cells, keys, []⟩
        (s.updBlock W.block (fun B => { B with shares := tset B.shares W.wib share })).finish t.h)

/-- A lane of either warp of a share is parked on one of its cells (R160): at a word that reads or writes the cell. A lane in
`wait` on a register-full condition is not. Log entry 60: DESIGN CHOICE. -/
def State.shareBusy (s : State) (k : Nat) (h : Share) : Bool :=
  [h.exporter, h.importer].any (fun w => (s.warp w).lanes.any (fun x => match x.2.park with
    | .cell _ r => (s.sharedAt w x.1 r).map (·.1) == some k
    | _ => false))

/-- A share ends (R160): the importer loses the granules and the exporter keeps their contents. -/
def State.endShare (s : State) (b k : Nat) (h : Share) : State :=
  let s := s.updBlock b (fun B => { B with shares := tdel B.shares k })
  let s := s.updWarp h.importer (fun I => { I with lanes := tmap I.lanes (fun _ L =>
    L.setLaunch (fun f => { f with g := f.g - h.n })) })
  s.updWarp h.exporter (fun W => { W with lanes := tmap W.lanes (fun l L =>
    L.setLaunch (fun f => { f with regs := (List.range (8 * h.n)).foldl (fun t r =>
      setCell t (8 * h.first + r) (tgetD h.cells (l * 256 + r) {})) f.regs })) })

/-- R160: the exporter takes its granules back, or its gang parks until no lane is parked on them. -/
def execRunshare (t : Tri) (s : State) : Host.Outcome State Fault Refusal :=
  .next (s.granuleWord t.h fun s m => s.reclaimFirst m fun s _ =>
    match s.shares.find? (fun x => x.2.exporter == s.w && (s.warp x.2.importer).wib == t.b.toNat) with
    | none => s.trapOpen cTransfer s.cur.lanes
    | some (k, h) =>
      if s.shareBusy k h then (s.parkGang s.cur.lanes t.h (.runshare k)).finish t.h
      else (s.endShare s.wp.block k h).finish t.h)

/-- RUNSHARE_RESUME (R160). -/
def execRunshareResume (warp gang : Nat) (s : State) : Host.Outcome State Fault Refusal :=
  let s := s.sweep warp
  let b := (s.warp warp).block
  .next (match s.reqOf warp gang with
    | some (.runshare k) =>
      match tget (s.block b).shares k with
      | none => s.wakeGang warp gang
      | some h => if s.shareBusy k h then s else (s.endShare b k h).wakeGang warp gang
    | _ => s)

/-- SHARED_CELL_WAKE (R159): the lane's cell lets its word go on, or the other warp has ended: the word is issued
again. -/
def execSharedCellWake (warp lane : Nat) (s : State) : Host.Outcome State Fault Refusal :=
  let s := s.sweep warp
  .next (match ((s.warp warp).lane lane).park with
    | .cell read r =>
      match s.cellAt warp lane r with
      | some (_, _, full, ended) => if full == read || ended then s.retry warp lane else s
      | none => s.retry warp lane
    | _ => s)

/-- A scope handle (R183). -/
def scopeHandle (gen die sc cid : Nat) : Word := BitVec.ofNat 32 (gen * 2 ^ 16 + die * 2 ^ 14 + sc * 2 ^ 11 + cid)

/-- R233: the handle of a scope; for the cluster it waits for a commit under way. -/
def execScopeGet (t : Tri) (s : State) : Host.Outcome State Fault Refusal :=
  .next (s.vet t.h false {} fun s _ =>
    let sc := t.sub.toNat % 8
    let die := dieOf s.wp.core
    let c := s.clusterOf s.w
    if sc == 2 && s.committing s.w then (s.parkGang s.cur.lanes t.h .commit).finish t.h
    else
      let h := if sc == 2 then scopeHandle (s.cluster c).gen.toNat die 2 (c % 1024) else scopeHandle 0 die sc 0
      (s.writeTarget s.w (.uni t.d.toNat) ⟨h, false⟩).finish t.h)

/-- R234: the freeze count rises. -/
def execScopeFreeze (t : Tri) (s : State) : Host.Outcome State Fault Refusal :=
  .next (s.vet t.h false {} fun s m => s.withHandle t.h m t.a.toNat fun s =>
    let W := s.wp
    let cid := (s.readS s.w t.a.toNat 32).val.toNat % 1024
    if W.freeze == 255 || W.freeze > 0 && W.freezeCid != cid then s.trapOpen cFreeze m
    else (s.updWarp s.w (fun W => { W with freeze := W.freeze + 1, freezeCid := cid })).finish t.h)

/-- R234: the freeze count falls. -/
def execScopeThaw (t : Tri) (s : State) : Host.Outcome State Fault Refusal :=
  .next (s.vet t.h false {} fun s m => s.withHandle t.h m t.a.toNat fun s =>
    let W := s.wp
    let cid := (s.readS s.w t.a.toNat 32).val.toNat % 1024
    if W.freeze == 0 || W.freezeCid != cid then s.trapOpen cFreeze m
    else (s.updWarp s.w (fun W => { W with freeze := W.freeze - 1 })).finish t.h)

/-- The bitmap of some cores of a die. -/
def coreMap (cs : List Nat) : Nat := ((cs.eraseDups).map (fun c => 2 ^ c)).sum

/-- R235: bitmap, and the word of OLD, CUR and CNT. -/
def State.queryScope (s : State) (h : Word) : Nat × Word :=
  let n := h.toNat
  let die := dieOf s.wp.core
  let sc := n / 2 ^ 11 % 8
  let old : Nat × Word := (0, 0x80000000)
  let all := 2 ^ 96 - 1
  if n / 2 ^ 10 % 2 == 1 || sc ≥ 6 then old
  else if sc ≤ 1 then (2 ^ cixOf s.wp.core, 0x40000001)
  else if sc == 3 then (all, BitVec.ofNat 32 (0x40000000 + 96))
  else if sc ≥ 4 then (all, BitVec.ofNat 32 (0x40000000 + 384))
  else if n / 2 ^ 14 % 4 != die then old
  else
    let k := s.cluster (clusterNo die (n % 1024))
    let gen := BitVec.ofNat 16 (n / 2 ^ 16)
    match k.sets.find? (fun x => x.1 == gen) with
    | none => old
    | some (_, cs) =>
      (coreMap cs, BitVec.ofNat 32 ((if gen == k.gen then 0x40000000 else 0) + cs.eraseDups.length))

/-- R235. -/
def execScopeQuery (t : Tri) (s : State) : Host.Outcome State Fault Refusal :=
  .next (s.vet t.h false {} fun s _ =>
    let h := s.readS s.w t.a.toNat 0
    let (map, w) := s.queryScope h.val
    let d := t.d.toNat
    let part (i : Nat) : Target × Cell := (.uni (d + i), ⟨BitVec.ofNat 32 (map / 2 ^ (32 * i)), h.bad⟩)
    (s.results true [part 0, part 1, part 2, (.uni (d + 3), ⟨w, h.bad⟩)] 0).finish t.h)

/-- A buffer handle (R177). -/
def bufHandle (core unit units : Nat) : Word := BitVec.ofNat 32 (core * 2 ^ 25 + unit * 2 ^ 19 + (units - 1) * 2 ^ 13)

/-- What a descriptor of `bgive` names (R236): the handle, and the first local or window address; or none. -/
def State.giveOf (s : State) (x : Word) : Option (Word × Nat) :=
  let W := s.wp
  let B := s.block W.block
  let n := x.toNat
  if n < 2 ^ 31 then
    let u := n / 2 ^ 12 % 64
    let len := n % 64 + 1
    if n / 2 ^ 18 != 0 || n / 2 ^ 6 % 64 != 0 || (u + len) * 4 > B.bshm || s.givenAway W.block (u * 4096) (len * 4096)
    then none
    else some (bufHandle (cixOf W.core) ((B.unit + u) % 64) len, u * 4096)
  else if n / 2 ^ 21 % 2 ^ 10 != 0 || n % 2 ^ 18 != 0 then none
  else (tget B.windows (n / 2 ^ 18 % 8)).map (fun h => (h, n))

/-- The block's window that holds a handle, emptied. -/
def Block.emptyWindow (B : Block) (a : Nat) : Block :=
  if a ≥ 2 ^ 31 then { B with windows := tdel B.windows (a / 2 ^ 18 % 8) } else B

/-- R236: gives a buffer to a core of the cluster. -/
def execBgive (t : Tri) (s : State) : Host.Outcome State Fault Refusal :=
  .next (s.vet t.h false {} fun s m =>
    let x := s.readS s.w t.a.toNat 0
    let dest := (s.readS s.w t.b.toNat 1).val.toNat
    let W := s.wp
    let die := dieOf W.core
    let member := (((s.cluster (s.clusterOf s.w)).sets.headD (0, [])).2).contains dest
    if x.bad then s.poisoned 0
    else match (if member then s.giveOf x.val else none) with
      | none => (s.errLogAt s.w 0x01 x.val.toNat).trapOpen cOwner m
      | some (h, a) =>
        let key := blkKey (die * 96 + bufCore h) (s.bufFirst die h * 4096)
        match s.lockedByte W.core key (bufUnits h * 4096) with
        | some b => s.trapAt cLock (BitVec.ofNat 64 (a + (b - key))) m
        | none =>
          let target := die * 96 + dest
          let home := ((s.buffers.find? (fun y => y.handle == h && y.holder == some W.block)).map (·.home)).getD W.block
          let rest := s.buffers.filter (fun y => !(y.handle == h && y.home == home))
          let given : Buffer :=
            { handle := h, holder := none, core := target, home := home, waits := s.releases s.w (lanesOf s.cur.lanes) }
          let s := { s with buffers := rest ++ [given] }
          let s := s.updBlock W.block (·.emptyWindow a)
          let s := s.updDie die (fun d => d.score (cixOf W.core) dest 16)
          (s.writeTarget s.w (.uni t.d.toNat) ⟨h, false⟩).finish t.h)

/-- The live block whose allocation holds a buffer (R177, R237). -/
def State.homeOf (s : State) (die : Nat) (h : Word) : Option Nat :=
  (s.blocks.find? (fun x =>
    let B := x.2
    B.live && !B.wave && B.core == die * 96 + bufCore h && (B.bufOff h + bufUnits h) * 4 ≤ B.bshm)).map (·.1)

/-- A buffer that is pending to a core. -/
def State.pendingBuf (s : State) (core : Nat) (h : Word) : Bool :=
  s.buffers.any (fun y => y.handle == h && y.holder.isNone && y.core == core)

/-- A `btake` of a core that issued earlier waits for the same buffer (R237). -/
def State.takeAhead (s : State) (core : Nat) (h : Word) (id : Nat) : Bool :=
  s.warps.any (fun x => x.2.core == core && x.2.gangs.any (fun g => g.1 < id && x.2.parked g.1 && match g.2.req with
    | .btake _ h' => h' == h
    | _ => false))

/-- A buffer pending to a core is taken (R237): by its home block in its local form, by another block in a window. The
lanes that take it accept what its `bgive` has released (R198). -/
def State.takeBuf (s : State) (core b win : Nat) (h : Word) (w : Nat) (m : BitVec 32) : State :=
  let mine (y : Buffer) : Bool := y.handle == h && y.holder.isNone && y.core == core
  match s.buffers.find? mine with
  | none => s
  | some y =>
    let s := s.accept w (lanesOf m) y.waits
    if y.home == b then { s with buffers := s.buffers.filter (fun y => !mine y) }
    else
      let s := { s with buffers := s.buffers.map (fun y => if mine y then { y with holder := some b } else y) }
      s.updBlock b (fun B => { B with windows := tset B.windows win h })

/-- R237: takes a buffer that is pending to the core, or parks until it is. -/
def execBtake (t : Tri) (s : State) : Host.Outcome State Fault Refusal :=
  .next (s.vet t.h false {} fun s m => s.reclaimFirst m fun s m =>
    let x := s.readS s.w t.a.toNat 0
    let h := x.val
    let W := s.wp
    let win := t.sub.toNat % 8
    let home := s.homeOf (dieOf W.core) h
    let bad := h.toNat % 2 ^ 13 != 0 || home.isNone
      || (tget (s.block W.block).windows win).isSome && home != some W.block
    if x.bad then s.poisoned 0
    else if bad then (s.errLogAt s.w 0x01 h.toNat).trapOpen cOwner m
    else if s.pendingBuf W.core h && !s.takeAhead W.core h s.uid then (s.takeBuf W.core W.block win h s.w s.cur.lanes).finish t.h
    else (s.parkGang s.cur.lanes t.h (.btake win h)).finish t.h)

/-- BTAKE_RESUME (R237): the buffer is pending to the parked gang's core. -/
def execBtakeResume (warp gang : Nat) (s : State) : Host.Outcome State Fault Refusal :=
  let s := s.sweep warp
  let W := s.warp warp
  .next (match s.reqOf warp gang with
    | some (.btake win h) =>
      if s.pendingBuf W.core h && !s.takeAhead W.core h gang then (s.takeBuf W.core W.block win h warp (W.gangLanes gang)).wakeGang warp gang
      else s
    | _ => s)

end Sys2Proof.Machine
end

