-- ==== Sys2Proof/Machine/System.lean ====
section
/-! DEFINITION. Machine/System.lean: the system registers (R123, R358 to R364), `eret` (R334, R365), `notify` (R366),
`halt` (R367), random numbers (R368), and pre-emption up to the save (R341, R342). -/

namespace Sys2Proof.Machine

/-- The WARP register (R123). -/
def Warp.warpReg (W : Warp) : Nat :=
  (if W.wave then 2 ^ 31 else 0) + W.slot * 2 ^ 8 + schedOf W.slot * 2 ^ 6 + (if W.wave then 0 else W.wib)

/-- A system register as a lane reads it (R123, R358 to R363). -/
def State.sysReg (s : State) (w l n : Nat) : DWord :=
  let W := s.warp w
  let L := W.lane l
  let nat (x : Nat) : DWord := BitVec.ofNat 64 x
  match n with
  | 0x00 => nat (if (s.grid W.grid).launch.prot then l / 2 else l)
  | 0x01 => nat W.warpReg
  | 0x02 => W.bix.setWidth 64
  | 0x03 => nat (dieOf W.core * 2 ^ 8 + cixOf W.core)
  | 0x04 => W.role.setWidth 64
  | 0x05 => W.fpstat.setWidth 64
  | 0x06 => nat s.refTick
  | 0x07 => (s.die (dieOf W.core)).energy.setWidth 32 |>.setWidth 64
  | 0x08 => W.energyHi.setWidth 64
  | 0x10 => nat ((if W.prev then 2 else 0) + if W.cur then 1 else 0)
  | 0x11 => L.tpc
  | 0x12 => W.tcause.setWidth 64
  | 0x13 => W.taddr
  | 0x14 => W.tmask.setWidth 64
  | 0x15 => W.tlive
  | 0x16 => (s.block W.block).saveptr.setWidth 64
  | 0x17 => (s.core W.core).preq.setWidth 64
  | _ => (tgetD W.kscr (n - 0x18) 0).setWidth 64

/-- Registers of user privilege (R66, R358): the identity registers and FPSTAT. -/
def sysUser (n : Nat) : Bool := n ≤ 8

/-- A system word's privilege check (R359). -/
def State.sysWord (s : State) (t : Tri) (user : Bool) (u : Uses) (k : State → BitVec 32 → State) : State :=
  s.vet t.h false u fun s m => if !user && !s.wp.cur then s.trapOpen cPrivilege m else k s m

/-- A value of a system register in its destination (R359, R364): per lane, or the lowest acting lane's. -/
def State.sysResult (s : State) (t : Tri) (m : BitVec 32) : List (Target × Cell) :=
  let n := t.b.toNat
  let c := if sysWide t.b then 2 else 1
  if t.sub.getLsbD 0 then
    match lanesOf m with
    | [] => []
    | l :: _ => uniResult t.d.toNat c (s.sysReg s.w l n) false
  else (lanesOf m).flatMap (fun l => vecResult l t.d.toNat c (s.sysReg s.w l n) false)

/-- The vector registers that `sysrd` and `syswr` name. -/
def sysUses (t : Tri) (r : BitVec 8) : List (Nat × Nat) :=
  if t.sub.getLsbD 0 then [] else [(r.toNat, if sysWide t.b then 2 else 1)]

/-- R359, R362, R364. -/
def execSysrd (t : Tri) (s : State) : Host.Outcome State Fault Refusal :=
  .next (s.sysWord t (sysUser t.b.toNat) ⟨[], sysUses t t.d, false⟩ fun s m =>
    if t.b == 5 then s.awaitAll fun s => (s.results false (s.sysResult t m) 0).finish t.h
    else
      let rs := s.sysResult t m
      let hi : Word := (s.die (dieOf s.wp.core)).energy.extractLsb' 32 32
      let s := if t.b == 7 then s.updWarp s.w (fun W => { W with energyHi := hi }) else s
      (s.results (m != 0) rs 0).finish t.h)

/-- Held lanes of a core's user warps become ready (R341). -/
def State.unhold (s : State) (core : Nat) : State :=
  let c := s.cycle core + 1
  { s with warps := tmap s.warps (fun _ W =>
      if W.core == core && !W.cur then
        { W with lanes := tmap W.lanes (fun _ L => if L.held then { L with held := false, heldMask := 0, since := c } else L) }
      else W) }

/-- A write to PREQ (R341): REQ = 1 clears FORCE and SAVED and starts the bound; REQ = 0 withdraws the request. -/
def State.writePreq (s : State) (core : Nat) (v : Word) : State :=
  let bound := v.toNat % 2 ^ 16
  if v.getLsbD 31 then
    s.updCore core (fun c => { c with
      preq := BitVec.ofNat 32 (2 ^ 31 + bound), bound := some (s.cycle core + 64 * max 1 bound) })
  else
    let s := s.updCore core (fun c => { c with
      preq := (c.preq &&& 0x60000000) ||| BitVec.ofNat 32 bound, bound := none })
    s.unhold core

/-- A system register written with a value (R30, R341, R359, R360, R363). -/
def State.setSysReg (s : State) (n : Nat) (v : DWord) : State :=
  let x : Word := v.setWidth 32
  match n with
  | 0x05 => s.updWarp s.w (fun W => { W with fpstat := x &&& 0x1F })
  | 0x10 => s.updWarp s.w (fun W => { W with prev := x.getLsbD 1 })
  | 0x13 => s.updWarp s.w (fun W => { W with taddr := v })
  | 0x14 => s.updWarp s.w (fun W => { W with tmask := x })
  | 0x16 => s.updBlock s.wp.block (fun B => { B with saveptr := x &&& 0x07FFF000 })
  | 0x17 => s.writePreq s.wp.core x
  | n => if 0x18 ≤ n && n ≤ 0x1F then
      s.updWarp s.w (fun W => { W with kscr := if x == 0 then tdel W.kscr (n - 0x18) else tset W.kscr (n - 0x18) x })
    else s

/-- The value that `syswr` takes from its source in a lane (R359), with its poison. -/
def State.sysSource (s : State) (t : Tri) (l : Nat) : BitVec 64 × Bool :=
  let c := if sysWide t.b then 2 else 1
  if t.sub.getLsbD 0 then readWide c (fun i => s.readS s.w (t.a.toNat + i) i)
  else readWide c (fun i => s.readV s.w l (t.a.toNat + i) i)

/-- R359, R364: a write takes effect after every earlier word, long operations included. -/
def execSyswr (t : Tri) (s : State) : Host.Outcome State Fault Refusal :=
  .next (s.sysWord t (t.b == 5) ⟨sysUses t t.a, [], false⟩ fun s m => s.awaitAll fun s =>
    let ls := lanesOf m
    let vals := ls.map (fun l => (l, s.sysSource t l))
    if vals.any (fun v => v.2.2) then s.poisoned 0
    else
      let s := s.emptyCells m (regsOf (sysUses t t.a))
      let s := if t.b == 0x11 then
          s.updWarp s.w (fun W => vals.foldl (fun W v => W.updLane v.1 (fun L => { L with tpc := v.2.1 })) W)
        else match vals with
          | [] => s
          | v :: _ => s.setSysReg t.b.toNat v.2.1
      s.finish t.h)

/-- A lane parked as a save area gave it back stands at its wait again (R365, R370): at a join, a barrier or a `wait`
without issuing the word, with the deadline and the token of its record, and in a `spawn` that has yet to place its
tasks. Any other word had performed nothing in that lane, which stays parked until it is performed (see `redoNext`). -/
def State.rejoinPark (s : State) (w l : Nat) (arrived : Bool) (deadline : Option Nat) (token : BitVec 16) : State :=
  let W := s.warp w
  let L := W.lane l
  let set (s : State) (h : Hdr) (p : Park) : State :=
    s.updWarp w (fun W => W.updLane l (fun L => { L with park := p, next := afterWord h L.pc, heldMask := safeTag h }))
  match (s.fetch w L.pc).1 with
  | .word n live =>
    match decodeWord n live with
    | .ok (.join t) => set s t.h (.join L.pc t.a.toNat)
    | .ok (.barWait t) =>
      set s t.h (.barrier (s.barName w (t.sub.toNat % 8) (t.sub.toNat / 8 % 16))
        ((tgetD W.s t.a.toNat {}).val.setWidth 16) false)
    | .ok (.barSync t) =>
      if arrived then set s t.h (.barrier (s.barName w (t.sub.toNat % 8) (t.sub.toNat / 8 % 16)) token true) else s
    | .ok (.wait t) =>
      let n := t.sub.toNat % 4 + 1
      let ds := (List.range n).map (fun k => (tgetD W.s (t.a.toNat + k) {}).val)
      let xs := (List.range n).map (fun k => (s.vreg w l (t.b.toNat + k)).val)
      let cs := (ds.zip xs).map (fun p => s.waitCond w l p.1 p.2)
      if (causesOf cs).isEmpty then set s t.h (.wait (condsOf cs) (t.sub.getLsbD 2) deadline t.d.toNat false) else s
    | .ok (.spawn i) =>
      match W.gangs.find? (fun g => g.2.lanes.getLsbD l && g.2.word == L.pc) with
      | some (id, _) => set s i.h (.gang id)
      | none => s
    | _ => s
  | _ => s

/-- Every lane that a save area gave back parked stands at its wait again. -/
def State.rejoinAll (s : State) (w : Nat) : State :=
  (s.warp w).lanes.foldl (fun s x => match x.2.park with
    | .restored a d tok => s.rejoinPark w x.1 a d tok
    | _ => s) s

/-- Lanes that stood at a word whose page system software has declared unserviceable take the trap of R337 once their
warp's system code has returned: those of one cause and one address together. -/
def State.takeDenied (s : State) (w : Nat) : State :=
  let W := s.warp w
  match W.lanes.findSome? (fun x => match x.2.park with | .denied c a => some (c, a) | _ => none) with
  | none => s
  | some (c, a) =>
    let m := W.mask (fun L => L.park = .denied c a)
    (s.updWarp w (fun W => W.updLanes m (fun _ L => { L with park := .no }))).trapWarp w ⟨c, a, m, none⟩

/-- `eret` completes (R334, R365): the privilege and the lanes are as before the trap; while pre-emption is requested a
user warp's lanes are taken there (R342). -/
def State.eretDone (s : State) (w : Nat) : State :=
  let s := (s.leaveTrap w).rejoinAll w
  let W := s.warp w
  let s := if s.requested W.core && !W.cur then
      s.updWarp w (fun W => W.updLanes W.alive (fun _ L =>
        if L.ready then { L with held := true, heldMask := allLive ||| 1 } else L))
    else s
  s.takeDenied w

/-- A restored warp whose block's record has not been loaded waits at `eret` (R365). -/
def State.awaitsRecord (s : State) (w : Nat) : Bool :=
  let W := s.warp w
  W.restoring && !(s.block W.block).brecLoaded

/-- R334, R365: the return from system code. -/
def execEret (t : Tri) (s : State) : Host.Outcome State Fault Refusal :=
  .next (s.vet t.h true {} fun s _ =>
    let W := s.wp
    let ts := (lanesOf W.alive).map (fun l => (l, (W.lane l).tpc))
    s.checkLanding ts fun s => s.awaitLong fun s =>
      if s.awaitsRecord s.w then (s.parkGang s.cur.lanes t.h .eret).finish t.h
      else s.eretDone s.w)

/-- R366: a notification; the warp goes on once it is written, which is after its earlier stores have performed. -/
def execNotify (t : Tri) (s : State) : Host.Outcome State Fault Refusal :=
  .next (s.vet t.h true {} fun s _ =>
    let v := (s.readS s.w t.a.toNat 0).val
    let (id, s) := s.take
    (s.updWarp s.w (fun W => { W with notes := W.notes ++ [(id, t.sub.toNat % 64, v)] })).finish t.h)

/-- The bytes of a completion entry but for its PHASE (R396). -/
def completion (kind status lq seq value src : Nat) : List Byte :=
  leBytes 4 (kind + status * 2 ^ 8 + lq * 2 ^ 16) ++ leBytes 4 seq ++ leBytes 4 value ++ leBytes 4 src ++ leBytes 8 0

/-- A completion entry written when the queue takes it, with its message (R366, R396, R399, R424); otherwise it waits. -/
def State.putCq (s : State) (vi : Nat) (e : CqEntry) : State :=
  let V := s.vi vi
  let r := V.cq
  if r.used ≥ 2 ^ r.log2n || !s.ringOk vi r 32 || !V.cqWait.isEmpty then
    s.updVi vi (fun V => { V with cqWait := V.cqWait ++ [e] })
  else
    let s := s.write (dpaKey (r.slot 32)) (e.bytes ++ leBytes 8 r.phase.toNat) false
    let s := s.updVi vi (fun V => { V with cq := V.cq.push })
    if e.vec == 64 then s.msix vi (V.vec 0)
    else if V.msixOn then s.msix vi e.vec
    else s.errLog vi 0x08 (dieOf e.core) (cixOf e.core) e.bix e.vec

/-- The next entry that waits for its queue, written when there is room (R339, R399). -/
def State.drainCq (s : State) (vi : Nat) : State :=
  let V := s.vi vi
  match V.cqWait with
  | [] => s
  | e :: rest =>
    if V.cq.used ≥ 2 ^ V.cq.log2n || !s.ringOk vi V.cq 32 then s
    else
      let s := (s.updVi vi (fun V => { V with cqWait := [] })).putCq vi e
      s.updVi vi (fun V => { V with cqWait := rest })

/-- A store, an atomic or a reduction of a warp has yet to perform (R366), but for one at which a lane is parked that system
code suspends (R333). -/
def State.storing (s : State) (w : Nat) : Bool :=
  let W := s.warp w
  W.accs.any (fun x => !W.asleep x.2 && match x.2.kind with
    | .store _ _ => true
    | .rmw _ _ _ => true
    | _ => false) || s.copies.any (fun c => c.2.warp == w && !c.2.atoms.isEmpty)

/-- NOTIFY_ENTRY_WRITE (R366): every store of the warp has performed. -/
def execNotifyEntryWrite (warp : Nat) (s : State) : Host.Outcome State Fault Refusal :=
  .next (let W := s.warp warp
    match W.notes with
    | [] => s
    | (_, vec, v) :: rest =>
      if s.storing warp then s
      else
        let s := s.updWarp warp (fun W => { W with notes := rest })
        if !W.live then s
        else s.putCq W.vi
          ⟨completion 1 0 0 0 v.toNat (dieOf W.core + cixOf W.core * 4 + W.slot * 2 ^ 9), vec, W.core, W.bix⟩)

/-- A warp becomes saved (R367): its threads do not end. -/
def State.saveWarp (s : State) (w : Nat) : State :=
  let s := s.updWarp w (fun W => { W with saved := true })
  s.checkSaved (s.warp w).core

/-- R367. -/
def execHaltSave (t : Tri) (s : State) : Host.Outcome State Fault Refusal :=
  .next (s.vet t.h true {} fun s _ => s.awaitLong fun s => (s.finish t.h).saveWarp s.w)

/-- R367: the lanes of a mask end as `exit` ends them. -/
def execHaltEnd (t : Tri) (s : State) : Host.Outcome State Fault Refusal :=
  .next (s.vet t.h true {} fun s _ =>
    let v := (s.readS s.w t.a.toNat 0).val
    s.finishThreads t.h (v &&& s.wp.alive) (fun _ => 0))

/-- R368: key and counter from vector or uniform pairs. -/
def State.rngWord (s : State) (t : Tri) (n : Nat) (f : BitVec 64 → BitVec 64 → BitVec 64) :
    State :=
  let ua := t.sub.getLsbD 6
  let ub := t.sub.getLsbD 7
  let u : Uses := ⟨(if ua then [] else [(t.a.toNat, 2)]) ++ (if ub then [] else [(t.b.toNat, 2)]), [(t.d.toNat, n)], false⟩
  s.byLane t.h u false (fun s l =>
    let a := s.operand l 0 .v2 ua t.a 0
    let b := s.operand l 0 .v2 ub t.b 4
    (vecResult l t.d.toNat n (f a.1 b.1) (a.2 || b.2), 0))

/-- R368. -/
def execRng (t : Tri) (s : State) : Host.Outcome State Fault Refusal := .next (s.rngWord t 2 rngOp)
/-- R368. -/
def execRngU01 (t : Tri) (s : State) : Host.Outcome State Fault Refusal := .next (s.rngWord t 1 rngU01)

/-- Every unended lane of a warp is held or parked at a wait point (R342). -/
def Warp.atSafePoint (W : Warp) : Bool :=
  W.live && W.lanes.all (fun x => !x.2.alive || x.2.held || x.2.park.on)

/-- The live mask of a safe-point trap (R342). -/
def Warp.liveMask (W : Warp) : DWord :=
  if W.lanes.any (fun x => x.2.alive && x.2.park.on) then allLive
  else W.lanes.foldl (fun m x => if x.2.alive && x.2.held then m ||| x.2.heldMask else m) 0 &&& ~~~1

/-- SAFE_POINT_TRAP (R342). -/
def execSafePointTrap (warp : Nat) (s : State) : Host.Outcome State Fault Refusal :=
  .next (let W := s.warp warp
    if s.requested W.core && !W.cur && !W.saved && W.trap.isNone && W.atSafePoint && !W.busyLong then
      { s with fresh := s.fresh + 1 }.enterTrap warp
        ⟨cSafe, Config.freeWord s.fresh, W.alive &&& ~~~(W.mask (fun L => L.park.on)), none⟩ W.liveMask
    else s)

/-- TRAP_ENTRY (R333): the warp's outstanding long operations have delivered. -/
def execTrapEntry (warp : Nat) (s : State) : Host.Outcome State Fault Refusal :=
  .next (let W := s.warp warp
    match W.trap with
    | some t => if W.busyLong then s else s.enterTrap warp t allLive
    | none => s)

/-- PREQ_REQUEST (R341): the host asks for pre-emption. -/
def execPreqRequest (core : Nat) (val : BitVec 32) (s : State) : Host.Outcome State Fault Refusal :=
  .next (if val.getLsbD 31 then s.writePreq core val else s)
/-- PREQ_WITHDRAW (R341). -/
def execPreqWithdraw (core : Nat) (val : BitVec 32) (s : State) : Host.Outcome State Fault Refusal :=
  .next (if val.getLsbD 31 then s else s.writePreq core val)

end Sys2Proof.Machine
end

