-- ==== Sys2Proof/Machine/Pool.lean ====
section
/-! DEFINITION. Machine/Pool.lean: blocked frame requests, spill images and the escape spill engine (R167, R170 to
R175). -/

namespace Sys2Proof.Machine

/-- The lowest place of n bytes in a range that meets none of some allocations. -/
def firstFit (used : List (Nat × Nat)) (lo hi n : Nat) : Option Nat :=
  let ok (b : Nat) : Bool := lo ≤ b && b + n ≤ hi && used.all (fun x => !meets b n x.1 x.2)
  let bs := (lo :: used.map (fun x => x.1 + x.2)).filter ok
  bs.foldl (fun o b => match o with | none => some b | some a => some (min a b)) none

/-- The runs, first byte and count, of a range that meet none of some allocations. -/
def freeRuns (used : List (Nat × Nat)) (area : Nat × Nat) : List (Nat × Nat) :=
  (used.foldl (fun (gaps : List (Nat × Nat)) x => gaps.flatMap (fun g =>
    [(g.1, min g.2 x.1), (max g.1 (x.1 + x.2), g.2)].filter (fun r => r.1 < r.2))) [area]).map (fun r => (r.1, r.2 - r.1))

/-- The first n bytes of some runs. -/
def takeRuns : Nat → List (Nat × Nat) → List (Nat × Nat)
  | _, [] => []
  | n, r :: rs => if n ≤ r.2 then [(r.1, n)] else r :: takeRuns (n - r.2) rs

/-- The unallocated runs of a spill area of a die, and their bytes (R167). -/
def Die.spillRuns (d : Die) (area : Nat × Nat) : List (Nat × Nat) := freeRuns (d.spill.map (fun x => (x.1, x.2.1))) area
@[inherit_doc Die.spillRuns] def Die.spillFree (d : Die) (area : Nat × Nat) : Nat := ((d.spillRuns area).map (·.2)).sum

/-- Bytes of a spill area taken for an owner, wherever they are unallocated (R166, R167); their banks are awake from then on
(R169). -/
def State.takeSpill (s : State) (die : Nat) (area : Nat × Nat) (n owner : Nat) : Option State :=
  let d := s.die die
  if d.spillFree area < n then none
  else
    let rs := takeRuns n (d.spillRuns area)
    let s := rs.foldl (fun (s : State) r => s.rouseRange (dspKey die r.1) r.2) s
    some (s.updDie die (fun d => { d with spill := d.spill ++ rs.map (fun r => (r.1, r.2, owner)) }))

/-- A blocked frame request: its warp, its gang and how it stands in the orders of R172 and R173. -/
structure FrameReq where
  warp : Nat
  gang : Nat
  level : Nat
  since : Nat
  slot : Nat
  deriving DecidableEq, Repr

/-- The blocked frame requests of a core. -/
def State.frameReqs (s : State) (core : Nat) : List FrameReq :=
  s.warps.flatMap (fun x =>
    if x.2.core != core then []
    else (x.2.gangs.filter (fun g => g.2.req.frame && x.2.parked g.1)).map (fun g =>
      ⟨x.1, g.1, x.2.level, g.2.since, x.2.slot⟩))

/-- The order of service (R172): highest level, then earliest block, then lowest slot. -/
def FrameReq.before (a b : FrameReq) : Bool :=
  a.level > b.level || a.level == b.level && (a.since < b.since || a.since == b.since && a.slot < b.slot)

/-- The order of victims (R173): lowest level, then earliest block, then lowest slot. -/
def FrameReq.victimBefore (a b : FrameReq) : Bool :=
  a.level < b.level || a.level == b.level && (a.since < b.since || a.since == b.since && a.slot < b.slot)

/-- The first of a list in an order. -/
def firstBy {α : Type} (lt : α → α → Bool) : List α → Option α
  | [] => none
  | x :: xs => match firstBy lt xs with
    | none => some x
    | some y => if lt y x then some y else some x

/-- A list sorted by an order. -/
def sortBy {α : Type} (lt : α → α → Bool) (xs : List α) : List α :=
  let ins (x : α) (ys : List α) : List α := ys.takeWhile (fun y => !lt x y) ++ x :: ys.dropWhile (fun y => !lt x y)
  xs.foldl (fun acc x => ins x acc) []

/-- The slice-granules that a blocked request needs (R170). -/
def State.reqNeed (s : State) (q : FrameReq) : Nat :=
  let W := s.warp q.warp
  let ls := lanesOf (W.gangLanes q.gang)
  match s.reqOf q.warp q.gang with
  | some (.call g _ _ _) => callNeed g ls
  | some (.refill dest) =>
    let depth (l : Nat) : Nat := ((dest.find? (fun x => x.1 == l)).map (·.2.1)).getD 0
    W.imageNeed (W.spilledAt ls depth)
  | _ => 0

/-- Lanes of a parked gang get the address at which they go on. -/
def State.aimGang (s : State) (w : Nat) (ts : List (Nat × DWord)) : State :=
  s.updWarp w (fun W => ts.foldl (fun W t => W.updLane t.1 (fun L => { L with next := t.2 })) W)

/-- A frame request that has its granules goes on (R104, R105, R108, R174). -/
def State.serveReq (s : State) (q : FrameReq) : State :=
  let W := s.warp q.warp
  let ls := lanesOf (W.gangLanes q.gang)
  match s.reqOf q.warp q.gang with
  | some (.call g win ts ret) =>
    let ts := ts.filter (fun t => ls.contains t.1)
    ((s.enterCall q.warp g win ret ts).aimGang q.warp ts).wakeGang q.warp q.gang
  | some (.refill dest) =>
    let dest := dest.filter (fun x => ls.contains x.1)
    let depth (l : Nat) : Nat := ((dest.find? (fun x => x.1 == l)).map (·.2.1)).getD 0
    let s := s.refillAll q.warp (W.spilledAt ls depth)
    let s := dest.foldl (fun s x => s.popTo q.warp x.1 x.2.1) s
    (s.aimGang q.warp (dest.map (fun x => (x.1, x.2.2)))).wakeGang q.warp q.gang
  | _ => s

/-- FRAME_REQUEST_SERVE (R172): the first blocked request of a core, whole or not at all. -/
def execFrameRequestServe (core : Nat) (s : State) : Host.Outcome State Fault Refusal :=
  let s := ((s.frameReqs core).map (·.warp)).eraseDups.foldl State.sweep s
  .next (match firstBy FrameReq.before (s.frameReqs core) with
    | none => s
    | some q =>
      match (s.core core).cover q.warp (s.reqNeed q) with
      | none => s
      | some c => ({ s with cores := tset s.cores core c }).serveReq q)

/-- The slice-frames that a warp's blocked return is refilling (R173). -/
def Warp.refilling (W : Warp) : List Nat :=
  W.gangs.flatMap (fun g => match g.2.req with
    | .refill dest => dest.filterMap (fun x => ((W.lane x.1).frameAt x.2.1).map (·.sf))
    | _ => [])

/-- A warp takes part in a share (R158). -/
def State.inShare (s : State) (w : Nat) : Bool :=
  (s.block (s.warp w).block).shares.any (fun x => x.2.exporter == w || x.2.importer == w)

/-- The resident slice-frames of a warp that lie below the current frame of every thread that has them. -/
def Warp.callers (W : Warp) : List (Nat × SliceFrame) :=
  W.slices.filter (fun x => !x.2.spilled
    && x.2.lanes.any (fun l => (W.lane l).alive && (W.lane l).frames.any (fun f => f.sf == x.1))
    && x.2.lanes.all (fun l => !(W.lane l).alive || (W.lane l).top.sf != x.1))

/-- Slice-granules of a slice-frame's image: all but the windows of frames above it (R173, R175). -/
def Warp.imageOf (W : Warp) (sf : Nat) (x : SliceFrame) : Nat := x.granules - (W.windowsOf sf x).length

/-- The spillable slice-frames of a warp, lowest depth first, then lanes ascending (R173). -/
def State.spillable (s : State) (w : Nat) : List (Nat × SliceFrame) :=
  let W := s.warp w
  let refill := W.refilling
  sortBy (fun a b => a.2.depth < b.2.depth || a.2.depth == b.2.depth && a.2.slice < b.2.slice)
    (W.callers.filter (fun x => W.imageOf x.1 x.2 != 0 && !refill.contains x.1 && !(x.2.depth == 1 && s.inShare w)))

/-- A slice-frame copied to its warp's spill stack, its granules freed (R173); none when the area cannot take it. -/
def State.spillOne (s : State) (w sf : Nat) : Option State :=
  let W := s.warp w
  match tget W.slices sf with
  | none => some s
  | some x =>
    let n := W.imageOf sf x
    match s.takeSpill (dieOf W.core) (s.block W.block).area (n * 128) sf with
    | none => none
    | some s =>
      let s := s.updWarp w (fun W => { W with slices := tset W.slices sf { x with spilled := true, image := n } })
      some (s.updCore W.core (·.release n))

/-- A blocked gang takes a trap at its word (R173). -/
def State.failGang (s : State) (w id : Nat) (cause : BitVec 8) : State :=
  let W := s.warp w
  let m := W.gangLanes id
  let word := ((tget W.gangs id).map (·.word)).getD 0
  let s := s.retryGang w id
  { s with fresh := s.fresh + 1 }.trapWarp w ⟨cause, Config.freeWord s.fresh, m, some word⟩

/-- The body of a round (R173): slice-frames in order until the first request can be served; the frame-spill trap when
the area cannot take the next image, or when every victim is exhausted. It stops as soon as the request can be served, as step
4 of R173 says, where the trace of R175 goes on to the last slice-frame of its victim. Log entry 62: DESIGN CHOICE. -/
def State.spillRound (s : State) (q : FrameReq) (core : Nat) : List (Nat × Nat) → State
  | [] => if ((s.core core).cover q.warp (s.reqNeed q)).isSome then s else s.failGang q.warp q.gang cSpill
  | (w, sf) :: rest =>
    if ((s.core core).cover q.warp (s.reqNeed q)).isSome then s
    else match s.spillOne w sf with
      | none => s.failGang q.warp q.gang cSpill
      | some s => s.spillRound q core rest

/-- Some thread of a core is ready (R117); one whose word waits for its warp's long operations is. -/
def State.anyReady (s : State) (core : Nat) : Bool :=
  s.warps.any (fun x => x.2.core == core && !x.2.saved && x.2.lanes.any (fun l => l.2.ready))

/-- What triggers a round on a core (R173). -/
def State.roundDue (s : State) (core : Nat) : Bool :=
  (s.core core).reserve < 256 && !(s.frameReqs core).isEmpty && !s.anyReady core
    && !s.warps.any (fun x => x.2.core == core && x.2.stall)

/-- The rounds that the spill engines owe their cores, after what has happened so far (R173): a core whose trigger no longer
holds drops out, and those that trigger now come last, the lowest first. -/
def State.noteSpills (s : State) : State :=
  let due := sortAsc ((s.cores.map (·.1)).filter s.roundDue)
  let kept := { s with dies := tmap s.dies (fun _ d => { d with spillQueue := d.spillQueue.filter due.contains }) }
  due.foldl (fun (t : State) core =>
    if (s.die (dieOf core)).spillQueue.contains core then t
    else t.updDie (dieOf core) (fun d => { d with spillQueue := d.spillQueue ++ [core] })) kept

/-- UMBRA_SPILL_ROUND (R173): a die's engine serves its cores in the order in which they have triggered. -/
def execUmbraSpillRound (core : Nat) (s : State) : Host.Outcome State Fault Refusal :=
  .next (let qs := s.frameReqs core
    let noted := s.noteSpills
    match firstBy FrameReq.before qs with
    | none => s
    | some q =>
      if (noted.die (dieOf core)).spillQueue.head? != some core then s
      else
        let s := noted.updDie (dieOf core) (fun d => { d with spillQueue := d.spillQueue.tail })
        let victims := ((sortBy FrameReq.victimBefore qs).map (·.warp)).eraseDups
        s.spillRound q core (victims.flatMap (fun w => (s.spillable w).map (fun x => (w, x.1)))))

end Sys2Proof.Machine
end

