-- ==== Sys2Proof/Machine/Context.lean ====
section
/-! DEFINITION. Machine/Context.lean: the save area (R369, R370), `ctx.drain`, `ctx.vsave` and `ctx.vload` (R371 to R373),
the forced save (R343, R374) and the release of a saved block's storage (R344, R345). -/

namespace Sys2Proof.Machine

/-- Where the warp area of a warp lies in its block's save area (R369). -/
def warpArea (wib : Nat) : Nat := 0x1000 + 0x9000 * wib

/-- The 64-bit reservation record (R277). -/
def Resv.record (r : Resv) : Nat :=
  r.fmt * 2 ^ 60 + (if r.mx then 2 ^ 59 else 0) + r.slay * 2 ^ 57 + (if r.ord then 2 ^ 56 else 0) + r.soff * 2 ^ 41
    + r.len * 2 ^ 21 + r.base

/-- The record as the save area of the block holds it, with the BASE of that time (R373). -/
def Resv.savedRecord (r : Resv) : Nat := { r with base := r.saved.getD r.base }.record

/-- A part of a save area: its offset, its bytes, and whether they are poisoned. -/
structure Part where
  off : Nat
  bytes : List Byte
  bad : Bool := false
  deriving DecidableEq, Repr

/-- A word of four bytes, and a doubleword, of a part. -/
def word4 (off v : Nat) : Part := ⟨off, leBytes 4 v, false⟩
@[inherit_doc word4] def word8 (off v : Nat) : Part := ⟨off, leBytes 8 v, false⟩

/-- Bytes of a save area that hold nothing: they are written as zero (R369), with the header of a warp area or with the block
record. Log entry 68: DESIGN CHOICE. -/
def zeroPart (off n : Nat) : List Part := (List.range (n / 4)).map (fun i => word4 (off + 4 * i) 0)

/-- The bits of a predicate over the lanes. -/
def Warp.laneBits (W : Warp) (p : Nat → Lane → Bool) : Nat :=
  ((W.lanes.filter (fun x => p x.1 x.2)).map (fun x => 2 ^ x.1)).sum

/-- The state of a recorded park (R370): PARKED, ARRIVED and TIMED, the deadline and the token. -/
def State.parkRecord (s : State) (w l : Nat) : Nat × Nat × Nat :=
  match ((s.warp w).lane l).parkRec with
  | .no => (0, 0, 0)
  | .barrier _ tok true => (3, 0, tok.toNat)
  | .barrier n tok false =>
    let b := s.bar n
    (1 + (if b.gen == tok && b.arrived.contains (threadNo w l) then 2 else 0), 0, 0)
  | .wait _ _ (some d) _ _ => (5, d, 0)
  | .restored a d tok => (1 + (if a then 2 else 0) + (if d.isSome then 4 else 0), d.getD 0, tok.toNat)
  | _ => (1, 0, 0)

/-- The largest current-frame size of any unended lane (R370). -/
def Warp.frameG (W : Warp) : Nat := W.lanes.foldl (fun g x => if x.2.alive then max g x.2.top.g else g) 0

/-- The header of a warp area (R370). -/
def Warp.header (W : Warp) : List Part :=
  [word4 0x00 1, word4 0x04 ((if W.prev then 2 else 0) + if W.cur then 1 else 0), word4 0x08 W.tcause.toNat,
    word4 0x0C W.tmask.toNat, word8 0x10 W.taddr.toNat, word8 0x18 W.tlive.toNat, word4 0x20 W.fpstat.toNat,
    word4 0x24 (if W.forced then 1 else 0), word4 0x28 W.markSer.toNat, word4 0x2C W.prio, word4 0x30 W.frameG,
    word4 0x34 0, word8 0x38 0]

/-- The frame state of a lane (R370). -/
def Warp.frameState (W : Warp) (l : Nat) : Nat :=
  let L := W.lane l
  if L.alive then
    (L.depth - 1) % 2 ^ 10 + (L.top.g - 1) % 2 ^ 6 * 2 ^ 10
      + (if L.wasHeld then 2 ^ 17 else 0)
  else 2 ^ 16

/-- The warp class parts (R370, R371), offsets in the warp area. -/
def State.warpParts (s : State) (w cls : Nat) (mask : Word) : List Part :=
  let W := s.warp w
  let lanes := List.range 32
  match cls with
  | 0 => (List.range 32).flatMap (fun k =>
      if !mask.getLsbD k then []
      else (List.range 8).flatMap (fun j => (List.range 16).map (fun h =>
        let c (l : Nat) : Cell :=
          let L := W.lane l
          if L.alive && 8 * k + j < 8 * L.top.g then s.vreg w l (8 * k + j) else {}
        let a := c (2 * h)
        let b := c (2 * h + 1)
        ⟨0x1000 + 0x400 * k + 128 * j + 8 * h, leBytes 4 a.val.toNat ++ leBytes 4 b.val.toNat, a.bad || b.bad⟩)))
  | 1 => (List.range 8).flatMap (fun k =>
      if !mask.getLsbD k then []
      else (List.range 8).map (fun j =>
        let c := tgetD W.s (8 * k + j) {}
        if k == 0 then word4 (0x140 + 4 * j) (tgetD W.kscr j 0).toNat
        else ⟨0x140 + 32 * k + 4 * j, leBytes 4 c.val.toNat, c.bad⟩))
  | 2 => (List.range 16).map (fun k => word4 (0x40 + 4 * k) (if k == 15 then 0 else W.laneBits (fun _ L => L.preds.getLsbD k)))
  | 3 =>
    W.header ++ zeroPart 0x6E0 0x920 ++ (List.range 8).map (fun k => word4 (0x240 + 4 * k) (tgetD W.m k 0).toNat)
      ++ lanes.map (fun l => word8 (0x260 + 8 * l) (W.lane l).tpc.toNat)
      ++ lanes.map (fun l => word4 (0x360 + 4 * l) (W.frameState l))
      ++ lanes.map (fun l => word4 (0x3E0 + 4 * l) (s.parkRecord w l).1)
      ++ lanes.map (fun l => word8 (0x560 + 8 * l) (s.parkRecord w l).2.1)
      ++ lanes.map (fun l => word4 (0x660 + 4 * l) (s.parkRecord w l).2.2)
  | 4 =>
    (List.range 16).map (fun i =>
        word4 (0x80 + 4 * i) (W.laneBits (fun l _ => (s.bar ⟨1, W.block, i⟩).arrived.contains (threadNo w l))))
      ++ (List.range 16).map (fun i =>
        let b := s.bar ⟨0, w, i⟩
        ⟨0x460 + 16 * i, leBytes 4 (W.laneBits (fun l _ => b.arrived.contains (threadNo w l))) ++ leBytes 2 b.gen.toNat
          ++ leBytes 2 b.arrived.length ++ leBytes 5 b.pend ++ leBytes 3 0, false⟩)
  | _ =>
    let t (n : Nat) : Option Resv := (tget W.t n).bind (fun r => tget s.resvs r)
    (List.range 8).map (fun n => word8 (0xC0 + 8 * n) (match t n with | some r => r.record | none => 0))
      ++ (List.range 8).map (fun k => word4 (0x100 + 4 * k) (match tget W.a k with
        | some x => x.tile + x.tag * 2 ^ 8
        | none => 0))
      ++ (List.range 4).map (fun k => word4 (0x120 + 4 * k) (match tget W.c k with | some c => chanAddr c | none => 0))
      ++ [word8 0x130 0,
        word8 0x138 (((List.range 8).map (fun n => if (t n).isSome then 2 ^ n else 0)).sum
          + ((List.range 8).map (fun k => if (tget W.a k).isSome then 2 ^ (8 + k) else 0)).sum
          + ((List.range 4).map (fun k => if (tget W.c k).isSome then 2 ^ (16 + k) else 0)).sum)]

/-- What the block record holds of a slot (R369). -/
def slotWord (o : Option BSlot) : Nat :=
  match o with
  | none => 0
  | some x => 2 ^ 31 + x.fmt + (if x.mx then 16 else 0) + x.rows % 128 * 2 ^ 5 + if x.e8m0 then 2 ^ 12 else 0

/-- The block record (R369). -/
def State.blockRecord (s : State) (b : Nat) : List Part :=
  let B := s.block b
  let die := dieOf B.core
  let ws := List.range 32
  let warp (i : Nat) : Warp := match B.warps[i]? with
    | some w => s.warp w
    | none => s.warp 0
  (List.range 16).map (fun i =>
      let x := s.bar ⟨1, b, i⟩
      ⟨16 * i, leBytes 2 x.gen.toNat ++ leBytes 2 x.arrived.length ++ leBytes 2 (s.barMem ⟨1, b, i⟩) ++ leBytes 2 0
        ++ leBytes 5 x.pend ++ leBytes 3 0, false⟩)
    ++ (List.range 8).map (fun i => word4 (0x100 + 4 * i) (tgetD B.windows i 0).toNat)
    ++ [word4 0x120 B.exchange, word4 0x124 B.bshm, word4 0x128 B.tiles.length]
    ++ ws.map (fun i => word4 (0x140 + 4 * i) (match tget B.shares i with
      | some h => 2 ^ 31 + (s.warp h.importer).wib * 2 ^ 24 + h.first * 2 ^ 16 + (if h.startedFull then 64 else 0) + h.n
      | none => 0))
    ++ [word4 0x1C0 (scopeHandle (s.cluster (clusterNo die B.cid)).gen.toNat die 2 B.cid).toNat]
    ++ ws.map (fun i =>
      let W := warp i
      word4 (0x200 + 4 * i) (if W.freeze == 0 then 0 else W.freeze + W.freezeCid * 2 ^ 16))
    ++ (List.range 64).map (fun i => word4 (0x300 + 4 * i) (slotWord (s.slotView b B.core i)))
    ++ zeroPart 0x12C 0x14 ++ zeroPart 0x1C4 0x3C ++ zeroPart 0x280 0x80 ++ zeroPart 0x400 0xC00

/-- The reservations of a block that hold units. -/
def State.blockResvs (s : State) (b : Nat) : List (Nat × Resv) :=
  s.resvs.filter (fun x => x.2.block == b && !x.2.ended)

/-- The block class parts (R369, R371), offsets in the save area. -/
def State.blockParts (s : State) (b cls : Nat) (mask : Word) : List Part :=
  let B := s.block b
  match cls with
  | 6 => (List.range B.tiles.length).flatMap (fun t =>
      if !mask.getLsbD t then []
      else (List.range 4096).map (fun c =>
        let k := s.cellKey b t c
        ⟨0x170000 + 0x5000 * t + 5 * c, bytesAt s.mem k 5, s.tainted k 5⟩))
  | 7 => (List.range (B.bshm * 128)).filterMap (fun u =>
      let k := blkKey B.core (B.unit * 4096 + 8 * u)
      if mask.getLsbD (u / 1024) then some ⟨0x130000 + 8 * u, bytesAt s.mem k 8, s.tainted k 8⟩ else none)
  | 8 => (s.blockResvs b).flatMap (fun r => (List.range ((r.2.len + 1) * 32)).map (fun u =>
      let k := obKey B.core (r.2.base * 256 + 8 * u)
      ⟨0x210000 + (r.2.base * 256 + 8 * u), bytesAt s.mem k 8, s.tainted k 8⟩))
  | 9 => (List.range 64).flatMap (fun i =>
      if !(mask.getLsbD (i / 2) && (s.slotView b B.core i).isSome) then []
      else (List.range 4096).map (fun c =>
          let k := slotKey B.core ((i * 4096 + c) * 8)
          ⟨0x290000 + 0x2000 * i + 2 * c, bytesAt s.mem k 2, s.tainted k 2⟩)
        ++ (List.range 512).map (fun c =>
          let k := scaleKey B.core ((i * 512 + c) * 8)
          ⟨0x310000 + 0x200 * i + c, bytesAt s.mem k 1, false⟩))
  | _ => s.blockRecord b

/-- The parts of a class, offsets in the save area (R371). -/
def State.classParts (s : State) (w cls : Nat) (mask : Word) : List Part :=
  let W := s.warp w
  if cls < 6 then (s.warpParts w cls mask).map (fun p => { p with off := p.off + warpArea W.wib })
  else s.blockParts W.block cls mask

/-- Parts written to a save area of a die (R373); bytes that hold stacks and images keep theirs (R167). -/
def State.putParts (s : State) (w base : Nat) (ps : List Part) : State :=
  let W := s.warp w
  let die := dieOf W.core
  ps.foldl (fun (s : State) p =>
    if (s.die die).holdsStack (base + p.off) then s
    else s.storeBytes W.vi die (cixOf W.core) (dspKey die (base + p.off)) p.bytes p.bad) s

/-- Where the block shared memory of a block lies: first key and bytes. -/
def State.blkRange (s : State) (b : Nat) : Nat × Nat := (blkKey (s.block b).core ((s.block b).unit * 4096), (s.block b).bshm * 1024)

/-- A copy has an on-chip range in a block's storage (R344). -/
def State.copyIn (s : State) (b : Nat) (c : Copy) : Bool :=
  c.inRanges [s.blkRange b] || match c.fill with
    | some f => (match tget s.resvs f.resv with | some r => r.block == b | none => false)
    | none => false

/-- A matrix word is in FAULT (R309). -/
def MWord.faulted (m : MWord) : Bool := match m.op with
  | .mma o => !o.faults.isEmpty
  | _ => false

/-- R344's second condition fails for a block: an engine operation with a range in its storage is outstanding and not in
FAULT. -/
def State.engineBusy (s : State) (b : Nat) : Bool :=
  s.copies.any (fun c => s.copyIn b c.2 && c.2.faults.isEmpty) || s.mwords.any (fun m => m.2.block == b && !m.2.faulted)

/-- What operations in FAULT pin of a block's storage now (R345). -/
def State.pinsOf (s : State) (b : Nat) : Pins :=
  let cs := (s.copies.filter (fun c => s.copyIn b c.2 && !c.2.faults.isEmpty)).map (·.2)
  let ms := (s.mwords.filter (fun m => m.2.block == b && m.2.faulted)).map (·.2)
  let us := ms.flatMap (fun m => m.uses.1 ++ m.uses.2)
  { lines := cs.flatMap (fun c => (c.chipRanges.filter (fun r => meets r.1 r.2 (s.blkRange b).1 (s.blkRange b).2)).map (fun r =>
      (r.1 / 64 * 64, (r.1 + r.2 + 63) / 64 * 64 - r.1 / 64 * 64)))
    tiles := us.filterMap (fun u => match u with | .tile _ i => some i | _ => none)
    resvs := cs.filterMap (fun c => c.fill.map (·.resv)) ++ us.filterMap (fun u => match u with | .resv r => some r | _ => none)
    slots := us.filterMap (fun u => match u with | .slot _ i => some i | _ => none) }

/-- Nothing is pinned. -/
def Pins.none (p : Pins) : Bool := p.lines.isEmpty && p.tiles.isEmpty && p.resvs.isEmpty && p.slots.isEmpty

/-- Storage of a block is pinned (R345): by an operation in FAULT now, or since the block's release. -/
def State.pinned (s : State) (b : Nat) : Bool := !(s.pinsOf b).none || !(s.block b).pins.none

/-- A byte of block shared memory lies in a line that is pinned (R345). -/
def State.pinnedByte (s : State) (b key : Nat) : Bool :=
  ((s.pinsOf b).lines ++ (s.block b).pins.lines).any (fun r => within key (r.1, r.1 + r.2))

/-- R372: waits until the condition of R344 holds. -/
def execCtxDrain (t : Tri) (s : State) : Host.Outcome State Fault Refusal :=
  .next (s.vet t.h true {} fun s _ => s.awaitLong fun s =>
    let b := s.wp.block
    if s.engineBusy b then (s.parkGang s.cur.lanes t.h (.drain t.d.toNat)).finish t.h
    else (s.writeTarget s.w (.uni t.d.toNat) ⟨if (s.pinsOf b).none then 0 else 1, false⟩).finish t.h)

/-- Every other unended warp of a block has executed `halt.save` (R373). -/
def State.othersSaved (s : State) (w : Nat) : Bool :=
  (s.block (s.warp w).block).warps.all (fun v => v == w || (s.warp v).saved || !(s.warp v).live)

/-- What a `.vec` save does first (R373): every resident caller slice-frame goes to the spill stack; none when the area
cannot take an image. -/
def State.spillCallers (s : State) (w : Nat) : Option State :=
  (s.warp w).callers.foldl (fun o x => match o with
    | none => none
    | some s =>
      let W := s.warp w
      let n := W.imageOf x.1 x.2
      match s.takeSpill (dieOf W.core) (s.block W.block).area (x.2.granules * 128) x.1 with
      | none => none
      | some s =>
        let s := s.updWarp w (fun W => { W with slices := tset W.slices x.1 { x.2 with spilled := true, image := n } })
        some (s.updCore W.core (·.release n))) (some s)

/-- A read of a save area. -/
structure Area where
  die : Nat
  base : Nat
  deriving DecidableEq, Repr

/-- A number of n bytes of a save area (R167, R373). -/
def State.areaNum (s : State) (a : Area) (off n : Nat) : Nat :=
  if (s.die a.die).holdsStack (a.base + off) then 0 else s.num (dspKey a.die (a.base + off)) n
def State.areaBad (s : State) (a : Area) (off n : Nat) : Bool := s.tainted (dspKey a.die (a.base + off)) n

/-- A bit of a number. -/
def bitOf (n i : Nat) : Bool := n / 2 ^ i % 2 == 1

/-- `.ctl` finds a frame that the restore did not vet, or a depth above 1,024 (R373). -/
def State.ctlBad (s : State) (w : Nat) (a : Area) : BitVec 32 :=
  let W := s.warp w
  let g := W.launchG
  W.alive &&& maskOf ((List.range 32).filter (fun l =>
    let f := s.areaNum a (0x360 + 4 * l) 4
    !bitOf f 16 && (f / 2 ^ 10 % 2 ^ 6 + 1 > g || f % 2 ^ 10 + 1 > 1024)))

/-- The frames of a lane that `.ctl` sets to a depth and a current size (R373): the callers that its warp's spill stack
keeps, under a current frame with the kept descriptor. -/
def Lane.restoreFrames (L : Lane) (d g sf : Nat) : Lane :=
  let n := L.stack.length
  let st := L.stack.drop (n - d)
  let top : Frame := st.headD L.top
  { L with frames := { top with g := g, regs := L.top.regs.filter (fun r => r.1 < 8 * g), sf := sf } :: st.drop 1 }

/-- The slice-frames of the restored current frames, one for each slice, with the surplus returned (R171, R373). -/
def State.restoreSlices (s : State) (w : Nat) : State :=
  let W := s.warp w
  let fresh := W.slices.filter (fun x => !x.2.spilled)
  let had := fresh.foldl (fun n x => n + x.2.granules) 0
  let s := s.updWarp w (fun W => { W with slices := W.slices.filter (fun x => x.2.spilled) })
  let live := lanesOf W.alive
  let (s, used) := (slicesOf live).foldl (fun (acc : State × Nat) k =>
    let mine := live.filter (fun l => l / 4 == k)
    let (id, s) := acc.1.take
    let g := mine.foldl (fun g l => max g ((s.warp w).lane l).top.g) 0
    let d := mine.foldl (fun d l => max d ((s.warp w).lane l).depth) 0
    let s := s.updWarp w (fun W =>
      let W := mine.foldl (fun W l => W.updLane l (fun L => match L.frames with
        | f :: fs => { L with frames := { f with sf := id } :: fs }
        | [] => L)) W
      { W with slices := tset W.slices id ⟨d, k, mine, g, false, 0⟩ })
    (s, acc.2 + g)) (s, 0)
  s.updCore W.core (·.release (had - used))

/-- The `.ctl` load (R373). -/
def State.loadCtl (s : State) (w : Nat) (a : Area) : State :=
  let ended := maskOf ((List.range 32).filter (fun l => bitOf (s.areaNum a (0x360 + 4 * l) 4) 16))
  let n32 (off : Nat) : Word := BitVec.ofNat 32 (s.areaNum a off 4)
  let n64 (off : Nat) : DWord := BitVec.ofNat 64 (s.areaNum a off 8)
  let s1 := s.updWarp w (fun W =>
    let W := W.updLanes (W.alive &&& ~~~ended) (fun l L =>
      let f := s.areaNum a (0x360 + 4 * l) 4
      let p := s.areaNum a (0x3E0 + 4 * l) 4
      let L := L.restoreFrames (f % 2 ^ 10 + 1) (f / 2 ^ 10 % 2 ^ 6 + 1) 0
      { L with
        tpc := n64 (0x260 + 8 * l)
        wasHeld := bitOf f 17
        parkRec := if bitOf p 0 then .restored (bitOf p 1)
            (if bitOf p 2 then some (s.areaNum a (0x560 + 8 * l) 8) else none)
            (BitVec.ofNat 16 (s.areaNum a (0x660 + 4 * l) 2))
          else .no })
    { W with
      m := (List.range 8).foldl (fun t k => let v := n32 (0x240 + 4 * k); if v == 0 then tdel t k else tset t k v) W.m
      tcause := n32 0x08 &&& 0xFF, tmask := n32 0x0C, taddr := n64 0x10, tlive := n64 0x18, fpstat := n32 0x20 &&& 0x1F
      prev := bitOf (s.areaNum a 0x04 4) 1, markSer := BitVec.ofNat 8 (s.areaNum a 0x28 1) })
  (s1.endThreads w (ended &&& (s1.warp w).alive)).restoreSlices w

/-- A barrier's arrivals of one warp replaced (R370). -/
def Bar.arrivals (b : Bar) (w : Nat) (bits : Nat) : Bar :=
  { b with arrived := b.arrived.filter (fun t => t / 32 != w)
      ++ (((List.range 32).filter (bitOf bits)).map (threadNo w)) }

/-- The warp class loads but for `.ctl` (R370, R371, R373). -/
def State.loadWarp (s : State) (w cls : Nat) (mask : Word) (a : Area) : State :=
  let W := s.warp w
  match cls with
  | 0 => ((List.range 32).filter (fun k => mask.getLsbD k)).foldl (fun st k =>
      (List.range 8).foldl (fun st j => (lanesOf W.alive).foldl (fun (st : State) l =>
        if 8 * k + j < 8 * (W.lane l).top.g then
          let off := 0x1000 + 0x400 * k + 128 * j + 4 * l
          st.setVreg w l (8 * k + j) ⟨BitVec.ofNat 32 (s.areaNum a off 4), s.areaBad a off 4⟩
        else st) st) st) s
  | 1 => ((List.range 8).filter (fun k => mask.getLsbD k)).foldl (fun st k =>
      (List.range 8).foldl (fun (st : State) j =>
        let off := 0x140 + 32 * k + 4 * j
        let v : Word := BitVec.ofNat 32 (s.areaNum a off 4)
        if k == 0 then st.updWarp w (fun W => { W with kscr := if v == 0 then tdel W.kscr j else tset W.kscr j v })
        else st.setUni w (8 * k + j) ⟨v, s.areaBad a off 4⟩) st) s
  | 2 => (List.range 15).foldl (fun st k =>
      let bits := s.areaNum a (0x40 + 4 * k) 4
      let bad := s.areaBad a (0x40 + 4 * k) 4
      (lanesOf W.alive).foldl (fun (st : State) l => st.setPred w l k (bitOf bits l) bad) st) s
  | 3 => s.loadCtl w a
  | 4 =>
    let s1 := (List.range 16).foldl (fun (st : State) i =>
      let n : BarName := ⟨1, W.block, i⟩
      st.setBar n ((st.bar n).arrivals w (s.areaNum a (0x80 + 4 * i) 4))) s
    (List.range 16).foldl (fun (st : State) i =>
      let n : BarName := ⟨0, w, i⟩
      let off := 0x460 + 16 * i
      let b := (st.bar n).arrivals w (s.areaNum a off 4)
      st.setBar n { b with gen := BitVec.ofNat 16 (s.areaNum a (off + 4) 2), pend := s.areaNum a (off + 8) 5 }) s1
  | _ =>
    let valid := s.areaNum a 0x138 4
    let s1 := W.c.foldl (fun (st : State) x => st.unbind x.2) s
    let cs := ((List.range 4).filter (fun k => bitOf valid (16 + k))).map (fun k =>
      (k, a.die * 2 ^ 27 + s.areaNum a (0x120 + 4 * k) 4 % 2 ^ 27))
    let s1 := cs.foldl (fun (st : State) c => st.updChan c.2 (fun h => { h with bound := h.bound + 1 })) s1
    let ts := ((List.range 8).filter (fun n => bitOf valid n)).filterMap (fun n =>
      let v := s.areaNum a (0xC0 + 8 * n) 8
      let rs := s.blockResvs W.block
      ((rs.find? (fun x => x.2.savedRecord == v)).or (rs.find? (fun x => x.2.record == v))).map (fun x => (n, x.1)))
    let as := ((List.range 8).filter (fun k => bitOf valid (8 + k))).map (fun k =>
      let v := s.areaNum a (0x100 + 4 * k) 4
      (k, (⟨v % 32, v / 2 ^ 8 % 4⟩ : AccBind)))
    s1.updWarp w (fun W => { W with t := ts, a := as, c := cs })

/-- The `.ob` load (R373): each reservation, at the lowest free units since its block was admitted; a pinned one keeps its
bytes (R345). -/
def State.loadOb (s : State) (b : Nat) (a : Area) : State :=
  let core := (s.block b).core
  ((s.blockResvs b).filter (fun x => !((s.pinsOf b).resvs ++ (s.block b).pins.resvs).contains x.1)).foldl (fun (st : State) x =>
    let old := x.2.saved.getD x.2.base
    (List.range ((x.2.len + 1) * 32)).foldl (fun (st : State) i =>
      let off := 0x210000 + old * 256 + 8 * i
      st.write (obKey core (x.2.base * 256 + 8 * i)) (leBytes 8 (s.areaNum a off 8)) (s.areaBad a off 8)) st) s

/-- The `.brec` load (R373): barriers, windows, exchange, shares, freeze counts and slot records. -/
def State.loadRecord (s : State) (b : Nat) (a : Area) : State :=
  let B := s.block b
  let n (off k : Nat) : Nat := s.areaNum a off k
  let s1 := (List.range 16).foldl (fun (st : State) i =>
    let name : BarName := ⟨1, b, i⟩
    st.setBar name { st.bar name with gen := BitVec.ofNat 16 (n (16 * i) 2), pend := n (16 * i + 8) 5 }) s
  let wins := ((List.range 8).map (fun i => (i, BitVec.ofNat 32 (n (0x100 + 4 * i) 4)))).filter (fun x => x.2 != (0 : Word))
  let shares := (List.range 32).filterMap (fun i =>
    let v := n (0x140 + 4 * i) 4
    match bitOf v 31, B.warps[i]?, B.warps[v / 2 ^ 24 % 32]? with
    | true, some e, some m =>
      let cnt := v % 64
      let full := bitOf v 6
      let (cells, keys) := (s.warp e).shareCells (v / 2 ^ 16 % 32) cnt full
      some (i, (⟨e, m, v / 2 ^ 16 % 32, cnt, (s.warp m).launchG - cnt, full, cells, keys, []⟩ : Share))
    | _, _, _ => none)
  let s1 := s1.updBlock b (fun B => { B with
    windows := wins, exchange := n 0x120 4, shares := shares, brecLoaded := true, pins := {} })
  let s1 := (B.warps.zipIdx).foldl (fun (st : State) x =>
    let v := n (0x200 + 4 * x.2) 4
    st.updWarp x.1 (fun W => { W with freeze := v % 256, freezeCid := v / 2 ^ 16 % 1024, restoring := false })) s1
  let slots := (List.range 64).filterMap (fun i =>
    let v := n (0x300 + 4 * i) 4
    if bitOf v 31 then some (b * 64 + i, (⟨v % 16, bitOf v 4, bitOf v 12, v / 2 ^ 5 % 128⟩ : BSlot)) else none)
  let s1 := s1.updCore B.core (fun c => { c with
    slots := slots.foldl (fun t x => tset t x.1 x.2) (c.slots.filter (fun x => x.1 / 64 != b))
    holders := slots.foldl (fun t x => tset t (x.1 % 64) b) (c.holders.filter (fun x => x.2 != b)) })
  B.warps.foldl (fun (st : State) w =>
    let st := st.sweep w
    match (st.warp w).gangs.find? (fun g => g.2.req = .eret && (st.warp w).parked g.1) with
    | some (id, _) => (st.retryGang w id).eretDone w
    | none => st) s1

/-- The block class loads (R373). -/
def State.loadBlock (s : State) (b cls : Nat) (mask : Word) (a : Area) : State :=
  let B := s.block b
  match cls with
  | 6 => ((List.range B.tiles.length).filter (fun t =>
      mask.getLsbD t && !((s.pinsOf b).tiles ++ B.pins.tiles).contains t)).foldl (fun st t =>
      (List.range 4096).foldl (fun (st : State) c =>
        let off := 0x170000 + 0x5000 * t + 5 * c
        st.setAccCell b t 0 c (s.areaNum a off 5) (s.areaBad a off 5)) st) s
  | 7 => (List.range (B.bshm * 128)).foldl (fun (st : State) u =>
      let k := blkKey B.core (B.unit * 4096 + 8 * u)
      let off := 0x130000 + 8 * u
      if mask.getLsbD (u / 1024) && !s.pinnedByte b k then
        st.write k (leBytes 8 (s.areaNum a off 8)) (s.areaBad a off 8)
      else st) s
  | 8 => s.loadOb b a
  | 9 => ((List.range 64).filter (fun i => mask.getLsbD (i / 2) && tget (s.core B.core).holders i == some b
      && !((s.pinsOf b).slots ++ B.pins.slots).contains i)).foldl
      (fun st i =>
        let st := (List.range 4096).foldl (fun (st : State) c =>
          let off := 0x290000 + 0x2000 * i + 2 * c
          st.writeNum (slotKey B.core ((i * 4096 + c) * 8)) 2 (s.areaNum a off 2) (s.areaBad a off 2)) st
        (List.range 512).foldl (fun (st : State) c =>
          st.writeNum (scaleKey B.core ((i * 512 + c) * 8)) 1 (s.areaNum a (0x310000 + 0x200 * i + c) 1) false) st) s
  | _ => s.loadRecord b a

/-- A mask bit that the class forbids (R371). -/
def State.badMask (s : State) (w cls : Nat) (mask : Word) : Bool :=
  let B := s.block (s.warp w).block
  match cls with
  | 0 => false
  | 1 => mask.toNat ≥ 256
  | 6 => mask.toNat ≥ 2 ^ B.tiles.length
  | 7 => (List.range 32).any (fun k => mask.getLsbD k && 8192 * k ≥ B.bshm * 1024)
  | 9 => false
  | _ => mask != 0

/-- A class word performs (R373). -/
def State.ctxPerform (s : State) (w : Nat) (load : Bool) (cls base : Nat) (mask : Word) : State :=
  let W := s.warp w
  let a : Area := ⟨dieOf W.core, base⟩
  let wa : Area := ⟨a.die, base + warpArea W.wib⟩
  if load then if cls < 6 then s.loadWarp w cls mask wa else s.loadBlock W.block cls mask a
  else
    let s := s.putParts w base (s.classParts w cls mask)
    if cls == 5 then
      { s with resvs := tmap s.resvs (fun k r => if W.t.any (·.2 == k) then { r with saved := none } else r) }
    else s

/-- The bytes of a save area that a class word reads or writes (R369 to R371), as offsets and counts. -/
def State.classRanges (s : State) (w : Nat) (load : Bool) (cls : Nat) (mask : Word) : List (Nat × Nat) :=
  let W := s.warp w
  let B := s.block W.block
  let named (n : Nat) : List Nat := (List.range n).filter (fun k => mask.getLsbD k)
  let mine (rs : List (Nat × Nat)) : List (Nat × Nat) := rs.map (fun r => (warpArea W.wib + r.1, r.2))
  match cls with
  | 0 => mine ((named 32).map (fun k => (0x1000 + 0x400 * k, 0x400)))
  | 1 => mine ((named 8).map (fun k => (0x140 + 32 * k, 32)))
  | 2 => mine [(0x40, 64)]
  | 3 => mine ([(0x00, 0x40), (0x240, 0x120), (0x360, 0x100), (0x560, 0x180)] ++ if load then [] else [(0x6E0, 0x920)])
  | 4 => mine [(0x80, 0x40), (0x460, 0x100)]
  | 5 => mine [(0xC0, 0x80)]
  | 6 => (named B.tiles.length).map (fun t => (0x170000 + 0x5000 * t, 0x5000))
  | 7 => (named 32).map (fun k => (0x130000 + 8192 * k, min 8192 (B.bshm * 1024 - 8192 * k)))
  | 8 => (s.blockResvs W.block).map (fun r =>
      (0x210000 + 256 * (if load then r.2.saved.getD r.2.base else r.2.base), (r.2.len + 1) * 256))
  | 9 => ((List.range 64).filter (fun i => mask.getLsbD (i / 2) && tget (s.core B.core).holders i == some W.block)).flatMap
      (fun i => [(0x290000 + 0x2000 * i, 0x2000), (0x310000 + 0x200 * i, 0x200)])
  | _ => [(0, 0x1000)]

/-- The matrix resources that a block class moves (R299, R371). -/
def State.classRes (s : State) (w cls : Nat) (mask : Word) : List MRes :=
  let b := (s.warp w).block
  match cls with
  | 6 => ((List.range 32).filter (fun t => mask.getLsbD t)).map (.tile b)
  | 8 => (s.blockResvs b).map (fun r => .resv r.1)
  | 9 => ((List.range 64).filter (fun i => mask.getLsbD (i / 2))).map (.slot b)
  | _ => []

/-- The bytes of block shared memory that a class moves. -/
def State.classBytes (s : State) (w cls : Nat) (mask : Word) : List (Nat × Nat) :=
  let b := (s.warp w).block
  if cls != 7 then []
  else ((List.range 32).filter (fun k => mask.getLsbD k)).map (fun k =>
    ((s.blkRange b).1 + 8192 * k, min 8192 ((s.blkRange b).2 - 8192 * k)))

/-- An engine operation that is not in FAULT has a range in the storage that a block class moves (R344, R373). -/
def State.classBusy (s : State) (w cls : Nat) (mask : Word) : Bool :=
  let rs := s.classRes w cls mask
  let bs := s.classBytes w cls mask
  s.copies.any (fun c => c.2.faults.isEmpty && (c.2.inRanges bs
      || (c.2.fill.map (fun f => rs.contains (.resv f.resv))).getD false))
    || s.mwords.any (fun m => !m.2.faulted && ((m.2.uses.1 ++ m.2.uses.2).any rs.contains
      || m.2.image.any (fun i => bs.any (fun r => meets i.1 i.2 r.1 r.2))))

/-- What a block class parks for (R373): the other warps of the block, for a save, and engine operations in the storage that
it moves. -/
def State.ctxWaits (s : State) (w : Nat) (load : Bool) (cls : Nat) (mask : Word) : Bool :=
  cls ≥ 6 && (!load && !s.othersSaved w || s.classBusy w cls mask)

/-- A store of the warp to bytes of its save area has yet to perform. -/
def State.areaStores (s : State) (base : Nat) : Bool :=
  let die := dieOf s.wp.core
  s.wp.accs.any (fun x => meets x.2.key x.2.size (dspKey die base) (2 ^ 22))

/-- The first byte of the save area that the word would read or write and that a copy of the core has locked (R371). -/
def State.ctxLocked (s : State) (load : Bool) (cls base : Nat) (mask : Word) : Option Nat :=
  (s.classRanges s.w load cls mask).findSome? (fun r => s.lockedByte s.wp.core (dspKey (dieOf s.wp.core) (base + r.1)) r.2)

/-- R371, R373: a save or a load of a class. -/
def State.ctxWord (s : State) (t : Tri) (load : Bool) : State :=
  s.vet t.h true {} fun s m =>
    let bv := s.readS s.w t.a.toNat 0
    let base := bv.val.toNat
    let mask := (s.readS s.w t.b.toNat 1).val
    let cls := t.sub.toNat % 16
    if bv.bad then s.poisoned 0
    else if s.badMask s.w cls mask then s.trapOpen cIllegal m
    else if base + 2 ^ 22 > 2 ^ 27 then s.trapAt cRange (BitVec.ofNat 64 base) m
    else if base % 4096 != 0 then s.trapAt cAlign (BitVec.ofNat 64 base) m
    else match s.ctxLocked load cls base mask with
      | some b => s.trapAt cLock (BitVec.ofNat 64 (b % 2 ^ 60)) m
      | none => s.awaitLong fun s =>
        if s.areaStores base then s.goto s.cur.lanes s.cur.pc
        else if s.ctxWaits s.w load cls mask then (s.parkGang s.cur.lanes t.h (.ctx load cls base mask)).finish t.h
        else if load && cls == 3 && s.ctlBad s.w ⟨dieOf s.wp.core, base + warpArea s.wp.wib⟩ != 0 then
          s.trapOpen cDepth m
        else if !load && cls == 0 then
          match s.spillCallers s.w with
          | none => s.trapOpen cSpill m
          | some s => (s.ctxPerform s.w load cls base mask).finish t.h
        else (s.ctxPerform s.w load cls base mask).finish t.h

/-- R371, R373. -/
def execCtxVsave (t : Tri) (s : State) : Host.Outcome State Fault Refusal := .next (s.ctxWord t false)
/-- R371, R373. -/
def execCtxVload (t : Tri) (s : State) : Host.Outcome State Fault Refusal := .next (s.ctxWord t true)

/-- CTX_DRAIN_COMPLETE (R372, R373): the condition that a parked `ctx.drain`, or a parked block class, waits for. -/
def execCtxDrainComplete (warp gang : Nat) (s : State) : Host.Outcome State Fault Refusal :=
  let s := s.sweep warp
  .next (match s.reqOf warp gang with
    | some (.drain dst) =>
      let b := (s.warp warp).block
      if s.engineBusy b then s
      else (s.writeTarget warp (.uni dst) ⟨if (s.pinsOf b).none then 0 else 1, false⟩).wakeGang warp gang
    | some (.ctx load cls base mask) =>
      if s.ctxWaits warp load cls mask then s else (s.ctxPerform warp load cls base mask).wakeGang warp gang
    | _ => s)

/-- A user warp that a forced save may take now (R343): untrapped, with nothing outstanding. -/
def State.forceable (s : State) (w : Nat) : Bool :=
  let W := s.warp w
  W.live && !W.saved && !W.cur && W.trap.isNone && !W.busyLong

/-- The forced save of a warp (R343, R374): as if it had trapped at its next words, with every register live. -/
def State.forceWarp (s : State) (w : Nat) : State :=
  let s := (s.showLate w (BitVec.allOnes 32)).updWarp w (fun W =>
    let held := W.mask (fun L => L.held)
    let W := W.updLanes W.alive (fun _ L => { L with
      tpc := L.pc, parkRec := L.park, nextRec := L.next, heldRec := L.heldMask, wasHeld := L.held, park := .no, held := false })
    { W with
      tcause := 0x30, tmask := held, tlive := allLive, prev := W.cur, cur := true, forced := true, stall := false
      waitLong := false, waitAll := false
      kscr := (List.range 8).foldl (fun t i =>
        let v := (tgetD W.s i {}).val
        if v == 0 then tdel t i else tset t i v) W.kscr })
  let base := (s.block (s.warp w).block).saveptr.toNat / 4096 % 2 ^ 15 * 4096
  match s.spillCallers w with
  | none => s.killGang w 0x06 0
  | some s =>
    let full (c : Nat) : Word := if c == 0 then 0xFFFFFFFF else if c == 1 then 0xFF else 0
    let s := [0, 1, 2, 3, 4, 5].foldl (fun s c => s.putParts w base (s.classParts w c (full c))) s
    let s := s.saveWarp w
    s.updBlock (s.warp w).block (fun B => { B with hwSave := s.othersSaved w })

/-- FORCED_SAVE (R343): the bound of a core has expired. -/
def execForcedSave (core : Nat) (s : State) : Host.Outcome State Fault Refusal :=
  .next (match (s.core core).bound with
    | none => s
    | some t =>
      if !s.requested core || s.cycle core < t then s
      else
        let ws := (s.warps.filter (fun x => x.2.core == core && s.forceable x.1)).map (·.1)
        let s := ws.foldl State.forceWarp s
        if ws.isEmpty then s else (s.updCore core (fun c => { c with preq := c.preq ||| 0x40000000 })).checkSaved core)

/-- A warp's frames when its storage is released (R344, R370): every frame's descriptor and every caller's image stay
in the spill stack; the current frames go, their values kept for the choice of R65. -/
def State.releaseWarp (s : State) (w : Nat) : State :=
  let W := s.warp w
  let n := W.slices.foldl (fun n x => n + x.2.resident) 0
  let callers := W.lanes.flatMap (fun x => if x.2.alive then (x.2.frames.drop 1).map (·.sf) else [])
  let s := s.updWarp w (fun W => { W with
    lanes := tmap W.lanes (fun _ L => { L with
      stack := L.frames
      frames := [] })
    slices := (W.slices.filter (fun x => callers.contains x.1)).map (fun x =>
      (x.1, { x.2 with spilled := true, image := x.2.granules })) })
  s.updCore W.core (·.release n)

/-- STORAGE_RELEASE (R344, R345, R374): a block whose warps are all saved gives back what no faulted operation pins. -/
def execStorageRelease (block : Nat) (s : State) : Host.Outcome State Fault Refusal :=
  .next (let B := s.block block
    let live := B.warps.filter (fun w => (s.warp w).live)
    if !B.live || B.released || live.isEmpty || live.any (fun w => !(s.warp w).saved) || s.engineBusy block then s
    else
      let base := B.saveptr.toNat / 4096 % 2 ^ 15 * 4096
      let slots : Word := 0xFFFFFFFF
      let full (c : Nat) : Word :=
        if c == 6 then BitVec.ofNat 32 (2 ^ B.tiles.length - 1)
        else if c == 7 then maskOf ((List.range 32).filter (fun k => 8192 * k < B.bshm * 1024))
        else if c == 9 then slots else 0
      let s := match B.hwSave, live with
        | true, w :: _ => [6, 7, 8, 9, 10].foldl (fun s c => s.putParts w base (s.classParts w c (full c))) s
        | _, _ => s
      let pins := s.pinsOf block
      let s := B.warps.foldl State.releaseWarp s
      let s := s.updCore B.core (·.release (8 * B.exchange))
      let s := { s with resvs := tmap s.resvs (fun r x =>
        if x.block == block && !x.ended then { x with saved := some x.base, freed := x.freed || !pins.resvs.contains r } else x) }
      let s := s.updCore B.core (fun c => { c with
        slots := c.slots.filter (fun x => x.1 / 64 != block || pins.slots.contains (x.1 % 64))
        holders := c.holders.filter (fun x => x.2 != block || pins.slots.contains x.1) })
      s.updBlock block (fun B => { B with saved := true, released := true, hwSave := false, pins := pins }))

end Sys2Proof.Machine
end

