-- ==== Sys2Proof/Machine/Launch.lean ====
section
/-! DEFINITION. Machine/Launch.lean: Meridian (R123 to R132, R137 to R139, R375, R396): launch queues and their records,
the placement of blocks, waves, tasks' argument records (R317), restores, and the completion of grids (R128, R354). -/

namespace Sys2Proof.Machine

/-- A number of n bytes at an offset of a record. -/
def recNum (bs : List Byte) (off n : Nat) : Nat := leNat ((bs.drop off).take n)

/-- The launch record of 128 bytes (R124). -/
def launchOf (bs : List Byte) : LaunchRec :=
  let a := recNum bs 0x08 8
  let b := recNum bs 0x10 8
  { entry := BitVec.ofNat 64 (recNum bs 0 8 % 2 ^ 57)
    nblk := a % 2 ^ 32
    warps := a / 2 ^ 32 % 32
    demand := a / 2 ^ 37 % 32
    tdemand := a / 2 ^ 42 % 32
    prio := a / 2 ^ 47 % 64
    opclass := a / 2 ^ 53 % 4
    clsize := a / 2 ^ 55 % 16
    bshm := b % 512
    acct := b / 2 ^ 9 % 64
    bint := b / 2 ^ 16 % 2 ^ 16
    relaunch := flag b 32
    determ := flag b 33
    prot := flag b 34
    nwave := b / 2 ^ 35 % 256
    uarg := (List.range 8).map (fun k => BitVec.ofNat 32 (recNum bs (0x20 + 4 * k) 4))
    roles := (List.range 32).map (fun k => BitVec.ofNat 8 (recNum bs (0x40 + k) 1)) }

/-- A reserved bit of a launch record is set (R124). -/
def launchReserved (bs : List Byte) : Bool :=
  let b := recNum bs 0x10 8
  recNum bs 0 8 / 2 ^ 57 != 0 || recNum bs 0x08 8 / 2 ^ 59 != 0 || flag b 15 || b / 2 ^ 43 != 0
    || recNum bs 0x18 8 != 0 || recNum bs 0x60 32 != 0

/-- A core lies in a class pool and in an interface's quad partition (R126, R400, R413). -/
def State.inPool (s : State) (vi core cls : Nat) : Bool :=
  cls < 3 && (s.group (groupOf core)).cls == cls
    && (tgetD (s.vi vi).quads (dieOf core) 0).getLsbD (quadOf core)

/-- The cores of a die, and those among them that a launch may use. -/
def dieCores (die : Nat) : List Nat := (List.range 96).map (· + die * 96)
@[inherit_doc dieCores] def State.poolOn (s : State) (vi die cls : Nat) : List Nat :=
  (dieCores die).filter (fun c => s.inPool vi c cls)

/-- The status with which a launch is rejected (R126, R353), if it is: the lowest of those whose conditions hold, but for
0x04, which R126 puts over 0x03. Log entry 67: DESIGN CHOICE. -/
def State.launchStatus (s : State) (vi : Nat) (bs : List Byte) : Option Nat :=
  let L := launchOf bs
  let counts := (List.range 4).map (fun d => (s.poolOn vi d L.opclass).length)
  if launchReserved bs || L.nblk == 0 || L.bshm > 256 || L.acct > 32 || L.opclass == 3
      || L.determ && L.nwave != L.warps + 1 then some 1
  else if L.entry.toNat % 8 != 0 then some 2
  else if counts.all (· == 0) then some 4
  else if counts.all (· < L.clsize + 1) then some 3
  else none

/-- A launch queue of an interface. -/
def Vi.queue (v : Vi) (q : Nat) : Ring := tgetD v.lq q {}

/-- LAUNCH_QUEUE_DOORBELL (R396, R424): LQTAIL moves, unless more entries than the queue holds would stand in it. -/
def execLaunchQueueDoorbell (vi q : Nat) (val : BitVec 32) (s : State) : Host.Outcome State Fault Refusal :=
  .next (let r := (s.vi vi).queue q
    let tail : BitVec 17 := val.setWidth 17
    let s := if s.ringOk vi r 128 then s else s.errLog vi 0x10 0 0 0 r.addr
    if (tail - r.head).toNat > 2 ^ r.log2n then s.errLog vi 0x0D 0 0 0 val.toNat
    else s.updVi vi (fun V => { V with lq := tset V.lq q { r with tail := tail } }))

/-- A queue of an interface has an entry to take (R396, R424). -/
def State.hasEntry (s : State) (vi q : Nat) : Bool :=
  let r := (s.vi vi).queue q
  r.used != 0 && s.ringOk vi r 128

/-- The queue whose entry is taken in this turn (R396): round robin over enabled interfaces, and within one over its four
queues. -/
def State.nextEntry (s : State) : Option (Nat × Nat) :=
  ((List.range 64).map (fun i => (s.turn + i) % 64)).findSome? (fun v =>
    let V := s.vi v
    if !V.en then none
    else (((List.range 4).map (fun i => (V.lqTurn + i) % 4)).find? (s.hasEntry v)).map (fun q => (v, q)))

/-- The bytes of the entry at the head of a queue. -/
def State.entryBytes (s : State) (vi q : Nat) : List Byte :=
  let r := (s.vi vi).queue q
  ((s.readOff (dpaKey (r.addr + r.head.toNat % 2 ^ r.log2n * 128)) 128).2).map (·.1)

/-- An entry has been accepted or rejected: LQHEAD and the turns move on (R396). -/
def State.passEntry (s : State) (vi q : Nat) : State :=
  { s with turn := (vi + 1) % 64 }.updVi vi (fun V =>
    let r := V.queue q
    { V with lq := tset V.lq q { r with head := r.head + 1 }, lqTurn := (q + 1) % 4 })

/-- The completion entry of a launch-queue entry (R396). -/
def State.launchResult (s : State) (vi q seq status : Nat) : State :=
  s.putCq vi ⟨completion 0 status q seq 0 0, 64, 0, 0⟩

/-- LAUNCH_RECORD (R126, R396): the entry in turn is a launch record, or of no kind. -/
def execLaunchRecord (s : State) : Host.Outcome State Fault Refusal :=
  .next (match s.nextEntry with
    | none => s
    | some (vi, q) =>
      let bs := s.entryBytes vi q
      let seq := ((s.vi vi).queue q).head.toNat
      let kind := recNum bs 0x18 1
      if kind == 1 then s
      else
        let s := s.passEntry vi q
        match (if kind == 0 then s.launchStatus vi bs else some 1) with
        | some st => s.launchResult vi q seq st
        | none =>
          let (id, s) := s.take
          { s with grids := tset s.grids id { vi := vi, q := q, seq := seq, launch := launchOf bs } })

/-- The block shared memory of a released block stays on its core (R345). -/
def Block.keepsShared (B : Block) : Bool := !B.pins.lines.isEmpty

/-- The blocks of a core that hold block shared memory, without one. -/
def State.sharers (s : State) (core but : Nat) : List Block :=
  (s.blocks.filter (fun x => x.1 != but && x.2.core == core && x.2.bshm != 0 && (!x.2.released || x.2.keepsShared))).map (·.2)

/-- Where n KiB of block shared memory go in a core that has them free (R130): the lowest run of 4 KiB units; where the free
bytes lie in no one run, past the ends of all, numbers that no other block has (log entry 69: DESIGN CHOICE). -/
def State.sharedFit (s : State) (core but n : Nat) : Option Nat :=
  let bs := s.sharers core but
  let held := bs.map (fun B => (B.unit, (B.bshm + 3) / 4))
  if (bs.map (·.bshm)).sum + n > 256 then none
  else some ((lowestFit held 64 ((n + 3) / 4)).getD (held.foldl (fun u r => max u (r.1 + r.2)) 64))

/-- The physical accumulator tiles that blocks of a core hold, without those of one block. -/
def State.tilesHeld (s : State) (core but : Nat) : List Nat :=
  s.blocks.flatMap (fun x =>
    if x.1 == but || x.2.core != core then []
    else if !x.2.released then x.2.tiles
    else x.2.pins.tiles.eraseDups.filterMap (fun i => x.2.tiles[i]?))

/-- A warp slot of a core is taken (R132). -/
def State.slotTaken (s : State) (core slot : Nat) : Bool :=
  s.warps.any (fun x => x.2.core == core && x.2.slot == slot && !(s.block x.2.block).released)

/-- The free slots of a scheduler, ascending. -/
def State.freeSlots (s : State) (core sched : Nat) : List Nat :=
  ((List.range 64).map (· + 64 * sched)).filter (fun x => !s.slotTaken core x)

/-- The slot that a new warp of a core takes (R132, R138): on the scheduler with the most free slots, the lowest. -/
def State.pickSlot (s : State) (core : Nat) : Option Nat :=
  let best := (List.range 4).foldl (fun (o : List Nat) k =>
    let f := s.freeSlots core k
    if f.length > o.length then f else o) []
  best.head?

/-- All free slots of a core. -/
def State.slotsFree (s : State) (core : Nat) : Nat := ((List.range 4).map (fun k => (s.freeSlots core k).length)).sum

/-- A core takes no block while its rail group's class is to change (R414). -/
def State.admitting (s : State) (core : Nat) : Bool := (s.group (groupOf core)).pend.isNone

/-- A core admits a block of a grid (R130, R167). -/
def State.admitsBlock (s : State) (vi core : Nat) (L : LaunchRec) : Bool :=
  s.inPool vi core L.opclass && s.admitting core && s.slotsFree core ≥ L.warps + 1
    && (s.core core).free ≥ 8 * (L.warps + 1) * (L.demand + 1)
    && (s.sharedFit core 0 L.bshm).isSome
    && (s.tilesHeld core 0).length + L.acct ≤ 32
    && (let d := s.die (dieOf core)
        d.stkBytes * (L.warps + 1) ≤ d.spillFree d.spillRange)

/-- The launch frames of a warp (R127, R130, R170): one slice-frame for each of some slices. -/
def State.launchSlices (s : State) (w g : Nat) (slices : List Nat) (lanes : List Nat) : State :=
  slices.foldl (fun s k =>
    let mine := lanes.filter (fun l => l / 4 == k)
    let (id, s) := s.take
    s.updWarp w (fun W =>
      let W := mine.foldl (fun W l => W.updLane l (fun L =>
        { L with frames := [{ g := g, sf := id }] })) W
      { W with slices := tset W.slices id ⟨1, k, mine, g, false, 0⟩ })) s

/-- The s registers of a launched warp (R127, R353). -/
def launchUni (L : LaunchRec) (bix wib : Nat) : Table Cell :=
  let t := (L.uarg.zipIdx).foldl (fun t x => setCell t x.2 ⟨x.1, false⟩) []
  if L.determ then
    setCell (setCell t 62 ⟨BitVec.ofNat 32 (bix * L.nwave + wib), false⟩) 63 ⟨BitVec.ofNat 32 (L.nblk * L.nwave), false⟩
  else t

/-- One warp of a block begins (R127, R132, R167). -/
def State.startWarp (s : State) (b grid wib : Nat) (L : LaunchRec) : Option State :=
  let B := s.block b
  let (w, s) := s.take
  match s.pickSlot B.core, (if B.stk == 0 then some s else s.takeSpill (dieOf B.core) B.area B.stk w) with
  | some slot, some s =>
    let cyc := s.cycle B.core
    let lane (l : Nat) : Lane := { alive := true, pc := L.entry, since := cyc, shadow := L.prot && l % 2 == 1 }
    let W : Warp :=
      { core := B.core, slot := slot, grid := grid, vi := B.vi, block := b, wib := wib, bix := BitVec.ofNat 32 B.bix
        role := L.roles.getD wib 0, prio := L.prio, level := L.prio
        lanes := (List.range 32).map (fun l => (l, lane l)), s := launchUni L B.bix wib }
    let s := { s with warps := tset s.warps w W }
    some ((s.launchSlices w (L.demand + 1) (List.range 8) (List.range 32)).updBlock b (fun B =>
      { B with warps := B.warps ++ [w] }))
  | _, _ => none

/-- The physical tiles of lowest number that are free among a core's 32. -/
def freeTiles (held : List Nat) (n : Nat) : List Nat := ((List.range 32).filter (fun t => !held.contains t)).take n

/-- A range of storage that reads as zero and is clean. -/
def State.zero (s : State) (key n : Nat) : State :=
  { s with
    mem := s.mem.filter (fun c => !within c.1 (key, key + n))
    absent := s.absent.filter (fun l => !within (64 * l) (key, key + n))
    poison := s.poison.filter (fun u => !within (8 * u) (key, key + n)) }

/-- Every cell of some accumulator tiles of a core reads as +0 (R278). -/
def State.zeroTiles (s : State) (core : Nat) (tiles : List Nat) : State :=
  tiles.foldl (fun (s : State) t => s.zero (accKey core (t * 4096 * 8)) (4096 * 8)) s

/-- One block placed on a core (R130, R132, R166, R278). -/
def State.placeBlock (s : State) (grid bix core cid : Nat) : Option State :=
  let G := s.grid grid
  let L := G.launch
  match s.sharedFit core 0 L.bshm with
  | none => none
  | some u =>
    let (b, s) := s.take
    let die := dieOf core
    let B : Block :=
      { grid := grid, vi := G.vi, bix := bix, core := core, cid := cid, serial := (s.cluster (clusterNo die cid)).serial
        warps := [], area := (s.die die).spillRange, unit := u, bshm := L.bshm
        tiles := freeTiles (s.tilesHeld core 0) L.acct, stk := (s.die die).stkBytes }
    let s := s.zeroTiles core B.tiles
    let key := blkKey core (u * 4096)
    let s := { s with
      blocks := tset s.blocks b B
      absent := s.absent.filter (fun l => !within (64 * l) (key, key + L.bshm * 1024)) }
    let s := s.updCore core (fun c => { c with free := c.free - 8 * (L.warps + 1) * (L.demand + 1) })
    (List.range (L.warps + 1)).foldl (fun o i => match o with
      | none => none
      | some s => s.startWarp b grid i L) (some s)

/-- The segment of a new cluster in the cluster-pool area (R166, R180): the spill area owns an overlap. -/
def State.segmentFit (s : State) (die n : Nat) : Option Nat :=
  let d := s.die die
  let sp := d.spillRange
  let used := (sp.1, sp.2 - sp.1) :: d.spill.map (fun x => (x.1, x.2.1))
    ++ (s.clusters.filter (fun x => x.1 / 1024 == die && x.2.live)).map (fun x => (x.2.base, x.2.size))
  firstFit (used.filter (fun x => x.2 != 0)) d.clpRange.1 d.clpRange.2 n

/-- The lowest free cluster identifier of a die (R181). Log entry 33: DEDUCED. -/
def State.freeCid (s : State) (die : Nat) : Option Nat :=
  (List.range 1024).find? (fun k => !(s.cluster (clusterNo die k)).live)

/-- An initial cluster of blocks placed on the cores of a die (R131, R180, R181); none when something is wanting. -/
def State.placeCluster (s : State) (grid die : Nat) (bs : List Nat) (cores : List Nat) : Option State :=
  let size := 2 ^ 18 * ((s.grid grid).launch.clsize + 1)
  match s.segmentFit die size, s.freeCid die with
  | some base, some cid =>
    let (serial, s) := s.take
    let s := (s.rouseRange (dspKey die base) size).zero (dspKey die base) size
    let s := s.updDie die (fun d => { d with writers := d.writers.filter (fun x => !within (64 * x.1) (base, base + size)) })
    let s := s.updCluster (clusterNo die cid) (fun k =>
      let gen := k.gen + 1
      { grid := grid, serial := serial, live := true, gen := gen, base := base, size := size
        sets := ((gen, cores.map cixOf) :: k.sets).take 4 })
    (bs.zip cores).foldl (fun o x => match o with
      | none => none
      | some s => s.placeBlock grid x.1 x.2 cid) (some s)
  | _, _ => none

/-- The block indices of a grid's next initial cluster (R131, R350): those to be placed again first. A grid that runs
serially places one block at a time (R355). -/
def Grid.nextBlocks (G : Grid) : List Nat :=
  let c := if G.serial then 1 else G.launch.clsize + 1
  if G.todo.isEmpty then (List.range (min c (G.launch.nblk - G.next))).map (· + G.next) else G.todo.take c

/-- The choice of R131: the die with the most admitting cores, among those with enough. -/
def State.pickDie (s : State) (vi n : Nat) (L : LaunchRec) : Option (Nat × List Nat) :=
  (List.range 4).foldl (fun (o : Option (Nat × List Nat)) d =>
    let cs := (dieCores d).filter (fun c => s.admitsBlock vi c L)
    if cs.length < n then o
    else match o with
      | none => some (d, cs)
      | some (_, best) => if cs.length > best.length then some (d, cs) else o) none

/-- A grid's next initial cluster placed now, if it can be (R129, R131, R355). -/
def State.tryPlace (s : State) (grid : Nat) : Option State :=
  let G := s.grid grid
  let bs := G.nextBlocks
  let live := s.blocks.any (fun x => x.2.grid == grid && x.2.live && !x.2.wave)
  if bs.isEmpty || G.serial && live then none
  else match s.pickDie G.vi bs.length G.launch with
    | none => none
    | some (d, cs) =>
      match s.placeCluster grid d bs (cs.take bs.length) with
      | none => none
      | some s => some (s.updGrid grid (fun G =>
        if G.todo.isEmpty then { G with next := G.next + bs.length } else { G with todo := G.todo.drop bs.length }))

/-- An earlier grid of the same queue has blocks to place (R129). -/
def State.queueBehind (s : State) (grid : Nat) : Bool :=
  let G := s.grid grid
  s.grids.any (fun x => x.1 < grid && x.2.vi == G.vi && x.2.q == G.q && !x.2.nextBlocks.isEmpty)

/-- A cluster is frozen (R185). -/
def State.frozen (s : State) (c : Nat) : Bool :=
  s.warps.any (fun x => x.2.freeze != 0 && clusterNo (dieOf x.2.core) x.2.freezeCid == c)

/-- A generation of a cluster's barriers is open, with an arrival or pending bytes (R187). -/
def State.barrierOpen (s : State) (c : Nat) : Bool :=
  s.bars.any (fun x => x.1.scope == 2 && x.1.owner == c && (!x.2.arrived.isEmpty || x.2.pend != 0))

/-- A saved block must return to the core that it left (R346). -/
def State.mustReturn (s : State) (b : Nat) : Bool :=
  let B := s.block b
  let c := clusterNo (dieOf B.core) B.cid
  s.pinned b || s.frozen c || s.barrierOpen c

/-- What a block's save area says that it needs (R375): block shared memory, tiles, B slots, and granules by warp. -/
structure Restore where
  bshm : Nat
  acct : Nat
  slots : List Nat
  granules : List Nat
  deriving DecidableEq, Repr

@[inherit_doc Restore] def State.restoreOf (s : State) (b : Nat) : Restore :=
  let B := s.block b
  let a : Area := ⟨dieOf B.core, B.saveptr.toNat / 4096 % 2 ^ 15 * 4096⟩
  { bshm := s.areaNum a 0x124 4
    acct := s.areaNum a 0x128 4
    slots := (List.range 64).filter (fun i => bitOf (s.areaNum a (0x300 + 4 * i) 4) 31)
    granules := B.warps.map (fun w => min 32 (max 1 (s.areaNum a (warpArea (s.warp w).wib + 0x30) 4))) }

/-- The slices for which a restored warp takes frames: all of a block's warp, those of a wave's unended lanes. -/
def Warp.restoreSlices (W : Warp) : List Nat := if W.wave then slicesOf (lanesOf W.alive) else List.range 8

/-- The slice-granules that a restored block takes: its launch frames and its exchange. -/
def State.restoreNeed (s : State) (b : Nat) (r : Restore) : Nat :=
  let B := s.block b
  ((B.warps.zip r.granules).map (fun x => (s.warp x.1).restoreSlices.length * x.2)).sum
    + (if B.wave then ((B.warps.map (fun w => (s.warp w).restoreSlices.length)).sum) else 8) * B.exchange

/-- Reservations of a saved block at the lowest free units of a core (R301, R373); none when one does not fit. -/
def State.restoreUnits (s : State) (b core : Nat) : Option State :=
  ((s.blockResvs b).filter (·.2.freed)).foldl (fun o x => match o with
    | none => none
    | some s =>
      match lowestFit (s.obHeld core) 2048 (x.2.len + 1) with
      | none => none
      | some u => some { s with resvs := tset s.resvs x.1 { x.2 with base := u, freed := false } }) (some s)

/-- A core admits a saved block (R130, R375, R414). -/
def State.admitsRestore (s : State) (b core : Nat) (r : Restore) : Bool :=
  let B := s.block b
  let G := s.grid B.grid
  s.inPool B.vi core G.launch.opclass && s.admitting core && s.slotsFree core ≥ B.warps.length
    && (s.core core).free ≥ s.restoreNeed b r
    && (s.sharedFit core b r.bshm).isSome
    && (s.tilesHeld core b).length + r.acct ≤ 32
    && r.slots.all (fun i => (tget (s.core core).holders i).all (· == b))
    && (s.restoreUnits b core).isSome

/-- The cores that may take a saved block, in the order of choice (R346, R375). -/
def State.restoreCores (s : State) (b target : Nat) : List Nat :=
  let B := s.block b
  let die := dieOf B.core
  if s.mustReturn b then [B.core]
  else if target == 0x7F then B.core :: dieCores die
  else [die * 96 + target]

/-- One warp of a restored block (R375): at the restore vector, at system privilege, its lanes at depth 1. A register
that no routine loads holds its previous value or zero (R65): a free choice. Log entries 1 and 31: DEDUCED. -/
def State.restoreWarp (s : State) (w core slot g : Nat) : State :=
  let vec := (s.vi (s.warp w).vi).restvec
  let cyc := s.cycle core
  let n := s.fresh
  let keep (k : Nat) : Bool := Config.freeBit (n + k)
  let s := s.updWarp w (fun W =>
    let W := W.updLanes W.alive (fun l L => { L with
      pc := vec, since := cyc, park := .no, parkRec := .no, held := false
      preds := maskOf ((List.range 15).filter (fun p => L.preds.getLsbD p && keep (8192 + 16 * l + p))) |>.setWidth 16 })
    { W with
      core := core, slot := slot, saved := false, forced := false, restoring := true, cur := true, prev := false
      level := W.prio, aged := 0, stall := false, waitLong := false, trap := none, longs := []
      accs := W.accs.filter (fun x => !x.2.parked)
      gangs := W.gangs.filter (fun x => match x.2.req with
        | .spawn _ _ _ _ => true
        | _ => false)
      s := W.s.filter (fun x => keep (9000 + x.1)), m := W.m.filter (fun x => keep (9100 + x.1))
      t := W.t.filter (fun x => keep (9200 + x.1)), a := W.a.filter (fun x => keep (9300 + x.1)) })
  let old (l : Nat) : Table Cell := (((s.warp w).lane l).stack.headD ({} : Frame)).regs
  let s := s.launchSlices w g (s.warp w).restoreSlices (lanesOf (s.warp w).alive)
  { s with fresh := n + 16384 }.updWarp w (fun W => W.updLanes W.alive (fun l L =>
    { L with frames := L.frames.map (fun (f : Frame) =>
      { f with regs := (old l).filter (fun r => r.1 < 8 * g && keep (256 * l + r.1)) }) }))

/-- A cluster's member set after blocks have moved (R181, R182, R346): a changed set makes a new generation. -/
def State.reform (s : State) (c : Nat) : State :=
  let cores := ((s.blocks.filter (fun x => x.2.live && !x.2.wave && clusterNo (dieOf x.2.core) x.2.cid == c)).map
    (fun x => cixOf x.2.core)).eraseDups
  let k := s.cluster c
  if sortAsc cores == sortAsc (k.sets.headD (0, [])).2 then s
  else s.updCluster c (fun k => { k with gen := k.gen + 1, sets := ((k.gen + 1, cores) :: k.sets).take 4 })

/-- A cluster-scope fence of a cluster's threads is under way (R228). -/
def State.fenceOpen (s : State) (c : Nat) : Bool :=
  s.warps.any (fun x => s.clusterOf x.1 == c && (x.2.accs.any (fun a => a.2.isFence && a.2.scope == 2)
    || x.2.fences.any (fun f => f.point.scope == 2 && !s.settled f.waits)))

/-- Every cluster-pool write that a cluster's threads have issued before a place in the order of issue has performed (R188,
step 1), images of accumulators included. One at which a lane is parked has not reached its home's order, and performs after
the commit. -/
def State.drained (s : State) (c n : Nat) : Bool :=
  let k := s.cluster c
  s.warps.all (fun x => s.clusterOf x.1 != c || x.2.accs.all (fun a => a.2.space != .clp || a.2.parked || a.2.seq ≥ n
    || match a.2.kind with
      | .store _ _ => false
      | .rmw _ _ _ => false
      | _ => true))
  && !s.mwords.any (fun m => s.clusterOf m.2.warp == c && m.1 < n && match m.2.op with
    | .accst _ _ _ _ => m.2.image.any (fun i => meets i.1 i.2 (dspKey (c / 1024) k.base) k.size)
    | _ => false)

/-- The tiles of a restored block: a pinned one stays, the others are the lowest free. -/
def State.restoreTiles (s : State) (b core n : Nat) : List Nat :=
  let B := s.block b
  let pins := B.pins.tiles
  let stay := if core == B.core then (List.range n).filter pins.contains else []
  let kept := stay.filterMap (fun i => B.tiles[i]?)
  let fresh := freeTiles (s.tilesHeld core b ++ kept) n
  ((List.range n).foldl (fun (acc : List Nat × List Nat) i =>
    match (if stay.contains i then B.tiles[i]? else none) with
    | some t => (acc.1 ++ [t], acc.2)
    | none => (acc.1 ++ acc.2.take 1, acc.2.drop 1)) ([], fresh)).1

/-- A restore that moves a block counts as a regroup commit of its cluster (R346): the set changes with the block's cores, and
cluster-scope releases before it reach acquires after it (R188, R205). -/
def State.restoreCommit (s : State) (c core : Nat) : State :=
  let cores := ((s.cluster c).sets.headD (0, [])).2.map (· + c / 1024 * 96)
  let (n, s) := s.take
  (s.reform c).updDie (c / 1024) (fun d => { d with commits := d.commits ++ [(n, n, cores ++ [core])] })

/-- A saved block returns to a core (R346, R375). -/
def State.restoreBlock (s : State) (b core : Nat) (r : Restore) : Option State :=
  let B := s.block b
  let c := clusterNo (dieOf B.core) B.cid
  match (if B.keepsShared then some B.unit else s.sharedFit core b r.bshm), s.restoreUnits b core with
  | some u, some s1 =>
    let tiles := s.restoreTiles b core r.acct
    let need := s.restoreNeed b r
    let s := s1.updCore core (fun k => { k with
      free := k.free - need, holders := r.slots.foldl (fun t i => tset t i b) k.holders })
    let s := s.updBlock b (fun B => { B with
      core := core, unit := u, bshm := r.bshm, tiles := tiles, saved := false, brecLoaded := false, restore := none })
    let s := (B.warps.zip r.granules).foldl (fun o x => match o with
      | none => none
      | some s => match State.pickSlot s core with
        | none => none
        | some slot => some ((s.restoreWarp x.1 core slot x.2).updBlock b (fun B => { B with released := false })))
      (some s)
    match s with
    | none => none
    | some s => some (if core == B.core || B.wave then s else s.restoreCommit c core)
  | _, _ => none

/-- An accepted restore placed on the first core of its order that admits it; a move waits for the writes that a commit
drains (R188, R346). -/
def State.tryRestore (s : State) (b target : Nat) : Option State :=
  let B := s.block b
  let r := s.restoreOf b
  match (if B.released then (s.restoreCores b target).find? (fun c => s.admitsRestore b c r) else none) with
  | none => none
  | some core =>
    let c := clusterNo (dieOf B.core) B.cid
    if core != B.core && (!s.drained c s.uid || s.fenceOpen c) then none else s.restoreBlock b core r

/-- A restore record is well formed (R396): its save area and target only. -/
def restoreReserved (bs : List Byte) : Bool :=
  recNum bs 0x00 24 != 0 || recNum bs 0x19 7 != 0 || recNum bs 0x28 88 != 0
    || recNum bs 0x20 4 % 2 ^ 12 != 0 || recNum bs 0x20 4 / 2 ^ 29 != 0 || recNum bs 0x24 4 / 2 ^ 7 != 0

/-- Every warp of a live block that is not over has been saved (R375). -/
def State.allSaved (s : State) (b : Nat) : Bool :=
  let B := s.block b
  B.live && B.warps.all (fun w => (s.warp w).saved || !(s.warp w).live)

/-- RESTORE_RECORD (R346, R375, R396): the entry in turn is a restore record. -/
def execRestoreRecord (s : State) : Host.Outcome State Fault Refusal :=
  .next (match s.nextEntry with
    | none => s
    | some (vi, q) =>
      let bs := s.entryBytes vi q
      let seq := ((s.vi vi).queue q).head.toNat
      if recNum bs 0x18 1 != 1 then s
      else
        let s := s.passEntry vi q
        let area := recNum bs 0x20 4
        let target := recNum bs 0x24 4 % 2 ^ 7
        if restoreReserved bs then s.launchResult vi q seq 1
        else match s.blocks.find? (fun x => s.allSaved x.1 && x.2.restore.isNone && x.2.vi == vi
            && dieOf x.2.core == area / 2 ^ 27 % 4 && x.2.saveptr.toNat == area % 2 ^ 27) with
        | none => s.launchResult vi q seq 7
        | some (b, B) =>
          let core := dieOf B.core * 96 + target
          if target != 0x7F && (target ≥ 96 || s.mustReturn b && core != B.core
              || !s.inPool vi core (s.grid B.grid).launch.opclass) then s.launchResult vi q seq 8
          else
            let s := s.updBlock b (fun B => { B with restore := some target })
            (s.tryRestore b target).getD s)

/-- The first restore of a grid that waits and can be placed now. -/
def State.waitingRestore (s : State) (grid : Nat) : Option State :=
  s.blocks.findSome? (fun x => match x.2.restore with
    | some t => if x.2.grid == grid && x.2.live then s.tryRestore x.1 t else none
    | none => none)

/-- BLOCK_PLACEMENT (R129, R131, R375, R396): a waiting restore of the grid, or its next initial cluster, when no grid
accepted before it can be placed. -/
def execBlockPlacement (grid : Nat) (s : State) : Host.Outcome State Fault Refusal :=
  .next (match s.waitingRestore grid with
    | some s => s
    | none =>
      let can (g : Nat) : Bool := !s.queueBehind g && (s.tryPlace g).isSome
      if s.queueBehind grid || s.grids.any (fun x => x.1 < grid && can x.1) then s
      else (s.tryPlace grid).getD s)

/-- The value that a leaf sums to (R354): its contributions from left to right. -/
def leafSum (ty : BitVec 3) : List (BitVec 64) → BitVec 64
  | [] => 0
  | x :: xs => xs.foldl (fun a b => (fpOp .add ty 0 false 0 a b 0).1) x

/-- One address of a deterministic grid's reductions (R354): x := fadd(x, tree of the leaves in ascending key). -/
def State.mergeLeaves (s : State) (vi : Nat) (ls : List (Nat × Nat × Nat × BitVec 64 × BitVec 3)) (key : Nat) : State :=
  let mine := ls.filter (fun x => x.1 == key)
  let ty := (mine.headD (0, 0, 0, 0, 0)).2.2.2.2
  let add (a b : BitVec 64) : BitVec 64 := (fpOp .add ty 0 false 0 a b 0).1
  let ids := sortAsc (mine.map (fun x => x.2.1)).eraseDups
  let vals := ids.map (fun i => leafSum ty ((sortBy (fun a b => a.2.2.1 < b.2.2.1)
    (mine.filter (fun x => x.2.1 == i))).map (fun x => x.2.2.2.1)))
  let n := if wideTy ty then 8 else 4
  match treeFold add vals.length vals with
  | none => s
  | some t =>
    let (s, x, bad) := s.readNum key n
    s.storeBytes vi 0 0 key (leBytes n (add (BitVec.ofNat 64 x) t).toNat) bad

/-- Everything that a grid's completion waits for is over (R128). -/
def State.gridOver (s : State) (grid : Nat) : Bool :=
  let G := s.grid grid
  !G.done && G.nextBlocks.isEmpty
    && s.blocks.all (fun x => x.2.grid != grid || !x.2.live)
    && s.cores.all (fun c => c.2.bins.all (fun b => b.2.grid != grid))
    && s.copies.all (fun c => c.2.grid != grid)
    && s.mwords.all (fun m => (s.block m.2.block).grid != grid)
    && s.warps.all (fun x => x.2.grid != grid || x.2.accs.isEmpty && x.2.notes.isEmpty)

/-- GRID_COMPLETION (R128, R350, R354). -/
def execGridCompletion (grid : Nat) (s : State) : Host.Outcome State Fault Refusal :=
  .next (match tget s.grids grid with
    | none => s
    | some G =>
      if !s.gridOver grid then s
      else
        let s := ((G.leaves.map (·.1)).eraseDups).foldl (fun s k => s.mergeLeaves G.vi G.leaves k) s
        let s := s.updGrid grid (fun G => { G with done := true, leaves := [] })
        s.launchResult G.vi G.q G.seq (G.failed.getD 0))

/-- The first due bin of a core (R138). -/
def Core.dueBin (c : Core) : Option (Nat × Bin) :=
  firstBy (fun a b => a.2.due.getD 0 < b.2.due.getD 0) (c.bins.filter (fun b => b.2.due.isSome))

/-- The lanes that a wave's tasks take, with their tasks (R139, R351): under PROT task i stands in lanes 2i and 2i + 1. -/
def waveLanes (prot : Bool) (ts : List TaskRec) : List (Nat × TaskRec) :=
  if prot then (ts.zipIdx).flatMap (fun x => [(2 * x.2, x.1), (2 * x.2 + 1, x.1)])
  else (ts.zipIdx).map (fun x => (x.2, x.1))

/-- A core launches waves (R412, R414): not with its clock stopped, nor in the wait before a class change. -/
def State.launching (s : State) (core : Nat) : Bool :=
  let g := s.group (groupOf core)
  g.cls < 3 && g.emptySince.isNone

/-- The tasks of a core's bins that are doomed leave them and never run (R258). -/
def State.dropDoomed (s : State) (core : Nat) : State :=
  ((s.core core).bins.flatMap (fun b => b.2.tasks.map (fun t => (b.1, t.fut)))).foldl (fun (s : State) x =>
    if (s.fut x.2).st = .doom then (s.binDrop core x.1 x.2).futRelease x.2 else s) s

/-- The first due bin of a core can launch now (R138): a slot and its granules are free. -/
def State.waveFits (s : State) (core : Nat) : Bool :=
  match (s.core core).dueBin, s.pickSlot core with
  | some (_, b), some _ =>
    let L := (s.grid b.grid).launch
    s.launching core
      && (s.core core).free ≥ (slicesOf ((waveLanes L.prot b.tasks).map (·.1))).length * (L.tdemand + 1)
  | _, _ => false

/-- WAVE_LAUNCH (R132, R138, R139): the first due bin of a core becomes a wave once a slot and its granules are free; its
tasks wait for their argument records, and what they do comes after what their spawners had issued (R197). Log entry 21:
DEDUCED. -/
def execWaveLaunch (core : Nat) (s : State) : Host.Outcome State Fault Refusal :=
  let s := s.dropDoomed core
  .next (match (s.core core).dueBin, s.pickSlot core with
    | some (k, b), some slot =>
      let G := s.grid b.grid
      let L := G.launch
      let ls := waveLanes L.prot b.tasks
      let slices := slicesOf (ls.map (·.1))
      let need := slices.length * (L.tdemand + 1)
      if !s.launching core || (s.core core).free < need then s
      else
        let (blk, s) := s.take
        let (w, s) := s.take
        let die := dieOf core
        let stk := (s.die die).stkBytes
        let area := (s.die die).spillRange
        let (s, stk) := match (if stk == 0 then none else s.takeSpill die area stk w) with
          | some s => (s, stk)
          | none => (s, 0)
        let cyc := s.cycle core
        let lane (x : Nat × TaskRec) : Nat × Lane := (x.1,
          { alive := true, pc := b.entry, next := b.entry, since := cyc, park := .argument
            shadow := L.prot && x.1 % 2 == 1, task := some x.2.fut, arg := x.2.arg })
        let B : Block :=
          { grid := b.grid, vi := G.vi, bix := b.bix.toNat, core := core, cid := (s.block b.block).cid, warps := [w]
            serial := (s.block b.block).serial, area := area, stk := stk, wave := true }
        let W : Warp :=
          { core := core, slot := slot, grid := b.grid, vi := G.vi, block := blk, wave := true, bix := b.bix
            prio := b.prio, level := b.prio, lanes := ls.map lane
            syncs := ls.filterMap (fun x => if s.settled x.2.waits then none else some ⟨x.1, 0, x.2.waits⟩) }
        let s := { s with blocks := tset s.blocks blk B, warps := tset s.warps w W }
        let s := s.updCore core (fun c => { c with free := c.free - need, bins := tdel c.bins k })
        s.launchSlices w (L.tdemand + 1) slices (ls.map (·.1))
    | _, _ => s)

/-- The task of a lane is doomed, whether its notice has arrived or not. -/
def State.taskDoomed (s : State) (L : Lane) : Bool :=
  match L.task with
  | some f => (s.fut f).st = .doom
  | none => false

/-- TASK_ARGUMENT_READ (R317): the record of a launching task reaches v0 to v7 once its lines are present and what its spawner
had issued before has performed (R197); a doomed task never reads it. Under PROT the visible lane reads it, and both lanes
have it (R351). -/
def execTaskArgumentRead (warp lane : Nat) (s : State) : Host.Outcome State Fault Refusal :=
  .next (let W := s.warp warp
    let L := W.lane lane
    let pair := if (W.lane (lane + 1)).shadow then [lane, lane + 1] else [lane]
    if L.park != .argument || L.shadow || s.taskDoomed L || !s.laneOrdered warp lane 0 then s
    else
      let die := dieOf W.core
      let key := dspKey die L.arg.toNat
      let s := s.rouse die L.arg.toNat
      if !s.accessible key 32 then s
      else
        let s := pair.foldl (fun (s : State) l => (List.range 8).foldl (fun (s : State) j =>
          s.setVreg warp l j ⟨BitVec.ofNat 32 (s.num (key + 4 * j) 4), s.tainted (key + 4 * j) 4⟩) s) s
        pair.foldl (fun s l => s.wake warp l) s)

end Sys2Proof.Machine
end

