-- ==== Sys2Proof/Machine/Parallax.lean ====
section
/-! DEFINITION. Machine/Parallax.lean: the regrouping of clusters by Parallax (R181, R182, R186 to R188): a proposal at the
end of each interval, and the commit of each of its moves. -/

namespace Sys2Proof.Machine

/-- The score of two cores of a die in this interval (R186). -/
def Die.scoreOf (d : Die) (i j : Nat) : Nat := tgetD d.scores (min i j * 96 + max i j) 0

/-- S(c, Z): the scores of a core with the other members of a set (R186). -/
def Die.pull (d : Die) (c : Nat) (members : List Nat) : Nat := ((members.filter (· != c)).map (d.scoreOf c)).sum

/-- The member set of a cluster, as CIX (R182). -/
def Cluster.members (k : Cluster) : List Nat := (k.sets.headD (0, [])).2

/-- The live clusters of a grid on a die: CID and members, in ascending CID. -/
def State.clustersOf (s : State) (die grid : Nat) : List (Nat × List Nat) :=
  (s.clusters.filter (fun x => x.1 / 1024 == die && x.2.live && x.2.grid == grid)).map (fun x => (x.1 % 1024, x.2.members))

/-- The cluster towards which a core is pulled most; the lowest CID among equals (R186). -/
def Die.best (d : Die) (c : Nat) (ys : List (Nat × List Nat)) : Option (Nat × List Nat) :=
  firstBy (fun a b => d.pull c a.2 > d.pull c b.2 || d.pull c a.2 == d.pull c b.2 && a.1 < b.1) ys

/-- The move of one core in one cluster, given the moves that the proposal has already (R186). -/
def Die.propose (d : Die) (die : Nat) (ks : List (Nat × List Nat)) (moves : List Regroup) (c : Nat)
    (x : Nat × List Nat) : List Regroup :=
  match d.best c (ks.filter (fun y => y.1 != x.1)) with
  | none => moves
  | some y =>
    let used (k : Nat) : Bool := moves.any (fun m => m.x == k || m.y == k)
    if d.pull c y.2 ≥ 2 * d.pull c x.2 + 64 && y.2.length ≤ 15 && x.2.length ≥ 2 && !used x.1 && !used y.1 then
      moves ++ [{ die := die, core := die * 96 + c, x := x.1, y := y.1 }]
    else moves

/-- The proposal for a grid on a die: its clusters' cores in ascending CIX (R186). None is made for a grid in
deterministic mode (R353). -/
def State.proposeGrid (s : State) (die : Nat) (moves : List Regroup) (grid : Nat) : List Regroup :=
  if (s.grid grid).launch.determ then moves
  else
    let ks := s.clustersOf die grid
    let d := s.die die
    (List.range 96).foldl (fun ms c =>
      (ks.filter (fun k => k.2.contains c)).foldl (fun ms x => d.propose die ks ms c x) ms) moves

/-- A move with the clusters that it means, whatever cluster has their identifiers later. -/
def State.signMove (s : State) (r : Regroup) : Regroup :=
  { r with xs := (s.cluster (clusterNo r.die r.x)).serial, ys := (s.cluster (clusterNo r.die r.y)).serial }

/-- PARALLAX_INTERVAL_END (R186, R187): at each 65,536 fabric cycles every die gets a new proposal, the moves of the last one
that have not committed lapse, and every score is cleared. -/
def execParallaxIntervalEnd (s : State) : Host.Outcome State Fault Refusal :=
  .next (if s.fabric / 65536 ≤ s.interval then s
    else
      let grids := (s.grids.filter (fun g => !g.2.done)).map (·.1)
      let s1 := (List.range 4).foldl (fun (t : State) die =>
        let moves := (grids.foldl (s.proposeGrid die) []).map s.signMove
        let d := s.die die
        if d.scores.isEmpty && d.moves.isEmpty && moves.isEmpty then t
        else t.updDie die (fun d => { d with scores := [], moves := moves.zipIdx.map (fun m => (m.2, m.1)) })) s
      { s1 with interval := s.interval + 1 })

/-- An outstanding copy has a range in a cluster's segment (R187). -/
def State.segmentCopied (s : State) (c : Nat) : Bool :=
  let k := s.cluster c
  s.copies.any (fun x => x.2.inRanges [(dspKey (c / 1024) k.base, k.size)])

/-- A move's cluster lets it commit (R187, R228). -/
def State.commitFree (s : State) (c : Nat) : Bool :=
  (s.cluster c).live && !s.frozen c && !s.barrierOpen c && !s.segmentCopied c && !s.fenceOpen c

/-- The two clusters of a move are those that it was proposed for, and no other commit of theirs is under way. -/
def State.moveStands (s : State) (die : Nat) (r : Regroup) : Bool :=
  (s.cluster (clusterNo die r.x)).serial == r.xs && (s.cluster (clusterNo die r.y)).serial == r.ys
    && !(s.die die).commit.any (fun q => q.x == r.x || q.x == r.y || q.y == r.x || q.y == r.y)

/-- A move may commit now (R187, R228). -/
def State.moveFree (s : State) (die : Nat) (r : Regroup) : Bool :=
  s.moveStands die r && s.commitFree (clusterNo die r.x) && s.commitFree (clusterNo die r.y)

/-- REGROUP_COMMIT (R187, R188): a move begins to commit; accesses to both segments park from now on, and words that name the
two clusters wait. -/
def execRegroupCommit (die move : Nat) (s : State) : Host.Outcome State Fault Refusal :=
  .next (match tget (s.die die).moves move with
    | none => s
    | some r =>
      if !s.moveFree die r then s
      else
        let (began, s) := s.take
        s.updDie die (fun d => { d with moves := tdel d.moves move, commit := d.commit ++ [{ r with began := began }] }))

/-- The moves that commit in this cycle (R187): die and move. -/
def State.dueMove (s : State) : Option (Nat × Nat) :=
  s.dies.findSome? (fun d => (d.2.moves.find? (fun m => s.moveFree d.1 m.2)).map (fun m => (d.1, m.1)))

/-- A cluster's member set fixed anew, in a new generation (R181, R182, R188). -/
def State.regather (s : State) (c : Nat) : State :=
  let cores := ((s.blocks.filter (fun x => x.2.live && !x.2.wave && clusterNo (dieOf x.2.core) x.2.cid == c)).map
    (fun x => cixOf x.2.core)).eraseDups
  s.updCluster c (fun k => { k with gen := k.gen + 1, sets := ((k.gen + 1, cores) :: k.sets).take 4 })

/-- Words that waited for a commit are issued again. -/
def State.retryCommit (s : State) (w : Nat) : State :=
  let s := s.sweep w
  ((s.warp w).gangs.filter (fun g => g.2.req = .commit)).foldl (fun (s : State) (g : Nat × Gang) => s.retryGang w g.1) s

/-- Every block of X on the core of a move moves into Y, and both generations move on (R188, step 2). -/
def State.moveBlocks (s : State) (die : Nat) (r : Regroup) : State :=
  let s := { s with blocks := tmap s.blocks (fun _ B =>
    if B.live && !B.wave && B.core == r.core && B.cid == r.x && B.serial == r.xs then { B with cid := r.y, serial := r.ys }
    else B) }
  (s.regather (clusterNo die r.x)).regather (clusterNo die r.y)

/-- The writes that a commit drains have performed (R188, step 1). -/
def State.commitDrained (s : State) (r : Regroup) : Bool :=
  s.drained (clusterNo r.die r.x) r.began && s.drained (clusterNo r.die r.y) r.began

/-- REGROUP_COMMIT_END (R188): once the drained writes have performed, the blocks move, and the segments, rehoused with their
contents, take accesses again. Where it stood in the order of issue, and between which cores, is kept for the cluster-scope
releases before it and the acquires after it (R205). A move of which a cluster has ended meanwhile comes to nothing. -/
def execRegroupCommitEnd (die : Nat) (s : State) : Host.Outcome State Fault Refusal :=
  .next (match (s.die die).commit.find? s.commitDrained with
    | none => s
    | some r =>
      let x := clusterNo die r.x
      let y := clusterNo die r.y
      let held := (s.warps.filter (fun w => s.clusterOf w.1 == x || s.clusterOf w.1 == y)).map (·.1)
      let s := s.updDie die (fun d => { d with commit := d.commit.filter (· != r) })
      let s := if !s.moveStands die r then s
        else
          let cores := ((s.cluster x).members ++ (s.cluster y).members).map (· + die * 96)
          let (ended, s) := s.take
          (s.moveBlocks die r).updDie die (fun d => { d with commits := d.commits ++ [(r.began, ended, cores)] })
      held.foldl State.retryCommit (s.clusterCheck x))

end Sys2Proof.Machine
end

