-- ==== Sys2Proof/Machine/Engine.lean ====
section
/-! DEFINITION. Machine/Engine.lean: copies from their first chunk to their completion (R176, R195, R196, R253 to R255,
R259, R274 to R276, R294, R295, R348, R349), and the walks that translate for them and for `mma.m` (R336, R392,
R426). -/

namespace Sys2Proof.Machine

/-- Contiguous pieces, address and count, of bytes lo to lo + n − 1 of a sequence of rows of one length, the address of
each row given by its number. -/
def rowRuns (row lo n : Nat) (start : Nat → Nat) : List (Nat × Nat) :=
  if n == 0 || row == 0 then []
  else (List.range ((lo + n - 1) / row - lo / row + 1)).map (fun i =>
    let r := lo / row + i
    let a := max lo (r * row)
    (start r + (a - r * row), min (lo + n) ((r + 1) * row) - a))

/-- The pieces of a side that hold bytes lo to lo + n − 1 of a copy (R253, R292). -/
def Side.runs (x : Side) (lo n : Nat) : List (Nat × Nat) :=
  match x with
  | .chip k => [(k + lo, n)]
  | .rows va row stride => rowRuns row lo n (fun r => va + r * stride)
  | .elems size vas => rowRuns size lo n (fun r => vas.getD r 0)
  | .peer _ va => [(va + lo, n)]

/-- A piece cut where its address reaches multiples of m. -/
def cutAt (m : Nat) (p : Nat × Nat) : List (Nat × Nat) := rowRuns m p.1 p.2 (fun r => r * m)

/-- What a quad's TLB says of an address (R392). -/
inductive Look where
  | key (k : Nat)
  | miss
  | bad
  deriving DecidableEq, Repr

/-- A piece of a side within one page, with its translation. -/
structure Piece where
  va : Nat
  n : Nat
  write : Bool
  look : Look
  deriving DecidableEq, Repr

/-- A look in the TLB of a core's quad (R392). -/
def State.look (s : State) (core vi va : Nat) (write : Bool) : Look :=
  match (s.tlbOf core).find? (·.hits vi va) with
  | none => .miss
  | some e => match s.useTlb e va write false with
    | .ok a => .key (dpaByte vi a)
    | _ => .bad

/-- Off-chip pieces, cut at pages of 4 KiB, with their translations. -/
def State.pieces (s : State) (core vi : Nat) (write : Bool) (rs : List (Nat × Nat)) : List Piece :=
  (rs.flatMap (cutAt 4096)).map (fun r => ⟨r.1, r.2, write, s.look core vi r.1 write⟩)

/-- The pieces of one side of a chunk: on-chip bytes, and those of a peer, which the peer translates (R404), need no
translation here. -/
def State.sidePieces (s : State) (c : Copy) (x : Side) (write : Bool) (lo n : Nat) : List Piece :=
  match x with
  | .chip _ => (x.runs lo n).map (fun r => ⟨r.1, r.2, write, .key r.1⟩)
  | .peer e _ => (x.runs lo n).map (fun r => ⟨r.1, r.2, write, .key (peerKey c.vi e r.1)⟩)
  | _ => s.pieces c.core c.vi write (x.runs lo n)

/-- The first byte and the count of a chunk (R253). -/
def Copy.chunkSpan (c : Copy) (j : Nat) : Nat × Nat := (4096 * j, min 4096 (c.total - 4096 * j))

/-- The reservation of a fill. -/
def State.resvFor (s : State) (c : Copy) : Option (Fill × Resv) :=
  match c.fill with
  | none => none
  | some f => (tget s.resvs f.resv).map (fun r => (f, r))

/-- The blocks of a fill's chunk (R295): the first one, counted from the fill's first, and how many. -/
def fillBlocks (r : Resv) (f : Fill) (j : Nat) : Nat × Nat :=
  let per := 4096 / blockBytes r.fmt
  (j * per, min per (f.blocks - j * per))

/-- The bytes of the scale stream that a chunk of a fill reads (R295): those of its blocks; of the delta layout, which is
read in order, those from where the last chunk stopped that its blocks can take at most. -/
def streamPart (r : Resv) (f : Fill) (j : Nat) : Nat × Nat :=
  let (b, n) := fillBlocks r f j
  if n == 0 then (0, 0)
  else if r.slay == 1 then
    let o := f.delta.pos / 2
    (o, min (f.scaleBytes - o) ((3 * n + n / 16) / 2 + 3))
  else (b, n)

/-- The pieces of the scale stream that a chunk reads. -/
def State.streamPieces (s : State) (c : Copy) (j : Nat) : List Piece :=
  match s.resvFor c with
  | none => []
  | some (f, r) =>
    let (o, n) := streamPart r f j
    if n == 0 then []
    else match f.scaleKey with
      | some k => [⟨k + o, n, false, .key (k + o)⟩]
      | none => s.pieces c.core c.vi false [(f.scaleVa + o, n)]

/-- Bytes read piece by piece, with their poison. -/
def State.readPieces (s : State) (ps : List Piece) : State × List (Byte × Bool) :=
  ps.foldl (fun (a : State × List (Byte × Bool)) p => match p.look with
    | .key k =>
      let (t, bs) := a.1.readOff k p.n
      (t, a.2 ++ bs.zipIdx.map (fun b => if t.underStack (k + b.2) then (0, false) else b.1))
    | _ => a) (s, [])

/-- The scales that a chunk of a fill writes, from the bytes of its stream (R274, R275, R295), and how far a delta stream is
read then. -/
def State.chunkScales (s : State) (c : Copy) (j : Nat) (bs : List (Byte × Bool)) : List (Byte × Bool) × Delta :=
  match s.resvFor c with
  | none => ([], {})
  | some (f, r) =>
    let (b, n) := fillBlocks r f j
    if r.slay == 1 then deltaPart n b f.delta ((nibbles bs).drop (f.delta.pos % 2)) else (bs.take n, f.delta)

/-- A side is off-chip. -/
def Side.off (x : Side) : Bool := match x with
  | .chip _ => false
  | _ => true

/-- Two on-chip sides have bytes in common. -/
def chipMeets (x y : Side) (n m : Nat) : Bool :=
  match x.chipRange n, y.chipRange m with
  | some a, some b => meets a.1 a.2 b.1 b.2
  | _, _ => false

/-- Every chunk of a copy has started, or never will. -/
def Copy.allStarted (c : Copy) : Bool := c.next ≥ c.chunks || c.code != 0
/-- Every chunk of a copy has landed, or never will. -/
def Copy.allLanded (c : Copy) : Bool := c.allStarted && c.flying.isEmpty

/-- The earlier entries of a copy's queue. -/
def State.ahead (s : State) (c : Copy) : List Copy :=
  (s.copies.filter (fun x => x.2.core == c.core && x.2.queue == c.queue && x.2.seq < c.seq)).map (·.2)

/-- A copy reads off-chip bytes: its source, or the scale stream of a fill. -/
def Copy.readsOff (c : Copy) : Bool := c.src.off || (c.fill.map (·.scaleKey.isNone)).getD false

/-- The row of R196 to which an off-chip byte belongs: 0 HBM and the CXL tier, 1 the host, and one for each peer module. -/
def State.orderRow (s : State) (key : Nat) : Option Nat :=
  if key / 2 ^ 100 == 8 then
    let u := key / 2 ^ 60 % 2 ^ 40
    some (2 + (tgetD (s.vi (u / 16)).peers (u % 16) 0).toNat / 2 ^ 16 % 2 ^ 16)
  else if key < 2 ^ 100 then some (if dpaTarget s key = .host then 1 else 0)
  else none

/-- The bytes that the next chunk of a copy reads. -/
def State.nextReads (s : State) (c : Copy) : List Piece :=
  s.sidePieces c c.src false (c.chunkSpan c.next).1 (c.chunkSpan c.next).2 ++ s.streamPieces c c.next

/-- A read may come before what an earlier copy of the queue has still to land (R196): it does not touch the same bytes,
and the two do not both touch the host's memory. -/
def State.readPasses (s : State) (e : Copy) (p : Piece) : Bool :=
  match p.look with
  | .key k =>
    e.allLanded || match e.dst.chipRange e.total with
      | some r => !meets k p.n r.1 r.2
      | none => s.orderRow k = none || !e.flying.any (fun f => f.dst.any (fun d =>
          meets k p.n d.1 d.2 || s.orderRow k == some 1 && s.orderRow d.1 == some 1))
  | _ => true

/-- Queue order for a chunk's reads (R196): off-chip reads keep the queue's order, and a read comes after the earlier
writes of the same bytes, in host memory after every earlier write. No off-chip access comes before an earlier copy's
off-chip chunks have started. Log entry 35: DEDUCED. -/
def State.mayRead (s : State) (c : Copy) : Bool :=
  (s.ahead c).all (fun e =>
    if !e.atoms.isEmpty then !c.readsOff
    else (!(c.readsOff && (e.readsOff || e.dst.off)) || e.allStarted) && (s.nextReads c).all (s.readPasses e))

/-- Two off-chip ranges are kept in order by a queue (R196): both in main memory, in the host's, or in one peer's. -/
def State.sameRow (s : State) (a b : Nat × Nat) : Bool := s.orderRow a.1 == s.orderRow b.1

/-- Queue order for a chunk's writes (R196), and of the chunks of one copy that write the same bytes (R294).
Log entry 35: DEDUCED. -/
def State.mayWrite (s : State) (c : Copy) (f : Flight) : Bool :=
  (s.ahead c).all (fun e =>
    if !e.atoms.isEmpty then !c.dst.off
    else (!(c.dst.off && e.dst.off) ||
        e.allStarted && !e.flying.any (fun g => g.dst.any (fun a => f.dst.any (s.sameRow a))))
      && (!chipMeets c.dst e.dst c.total e.total || e.allLanded))
  && c.flying.all (fun g => g.chunk ≥ f.chunk || !g.dst.any (fun a => f.dst.any (fun b => meets a.1 a.2 b.1 b.2)))

/-- Earlier accesses of the issuing warp to on-chip bytes of a copy have performed (R195), those of its matrix words
included. -/
def State.warpDone (s : State) (c : Copy) : Bool :=
  let rs := c.chipRanges
  !s.mwords.any (fun m => m.2.warp == c.warp && m.1 < c.seq && m.2.image.any (fun i =>
      rs.any (fun r => meets i.1 i.2 r.1 r.2)))
    && !(s.warp c.warp).accs.any (fun a => a.2.seq < c.seq && rs.any (fun r => meets a.2.key a.2.size r.1 r.2))

/-- The earlier-issued matrix words that use the reservation of a fill have finished (R299). -/
def State.fillClear (s : State) (id : Nat) (c : Copy) : Bool :=
  match c.fill with
  | none => true
  | some f => !s.mwords.any (fun m => m.1 < id && m.2.core == c.core
      && (m.2.uses.1.contains (.resv f.resv) || m.2.uses.2.contains (.resv f.resv)))

/-- The on-chip bytes that a chunk reads are present (R252, R176); the copy's own destination does not hold it up. -/
def State.sourcePresent (s : State) (id : Nat) (p : Piece) : Bool :=
  match p.look with
  | .key k => k < 2 ^ 100 || (linesIn k p.n).all (fun l =>
      !s.lineAbsent l || ((tget s.copies id).map (·.lines)).any (·.contains l))
  | _ => true

/-- A segment or a bank does not hold a piece up (R169, R188). -/
def State.pieceFree (s : State) (p : Piece) : Bool :=
  match p.look with
  | .key k => !s.rehousing k && s.awake k
  | _ => true

/-- How many chunks of a copy may be in flight (R253, R295). -/
def State.flightLimit (s : State) (c : Copy) : Nat :=
  match s.resvFor c with
  | some (_, r) => if r.mx && r.slay == 1 then 1 else 4
  | none => 4

/-- A copy may start its next chunk, as far as its own state and the order of R195 to R197 and R299 go. -/
def State.chunkMay (s : State) (id : Nat) (c : Copy) : Bool :=
  c.atoms.isEmpty && c.next < c.chunks && c.code == 0 && c.faults.isEmpty && !c.doomed
    && c.flying.length < s.flightLimit c && s.mayRead c && s.warpDone c && s.fillClear id c
    && s.gangOrdered c.warp c.lanes c.seq

/-- An entry of the error log for a copy's work. -/
def State.logCopy (s : State) (c : Copy) (code addr : Nat) : State :=
  s.errLog c.vi code (dieOf c.core) (cixOf c.core) (BitVec.ofNat 32 (s.block c.block).bix) addr

/-- What a copy that ends early never brings (R176, R254, R259), once its chunks in flight have landed: its lines are
present and its bytes leave PEND. -/
def State.copyCut (s : State) (id : Nat) : State :=
  match tget s.copies id with
  | none => s
  | some c =>
    if c.code == 0 || c.cut || !c.flying.isEmpty then s
    else
      let s := { s with copies := tset s.copies id { c with cut := true } }.copyLines c
      match c.bar with
      | some n => s.barLand n c.vi (c.total - c.landedBytes) c.waits
      | none => s

/-- A copy fails with a code (R254): it starts no further chunk. A faulted one stays so until it is served (R245). -/
def State.failCopy (s : State) (id code : Nat) : State :=
  { s with copies := tupd s.copies id (fun c => { c with code := code }) }.copyCut id

/-- A walk asked for, once for each page and requester (R392). -/
def State.askWalk (s : State) (die : Nat) (w : Walk) : State :=
  if (s.die die).walks.any (fun x => x.2.who == w.who && x.2.va / 4096 == w.va / 4096) then s
  else
    let (id, s) := s.take
    s.updDie die (fun d => { d with walks := tset d.walks id w })

/-- The dies whose CXL port some pieces use (R403). -/
def State.cxlPorts (s : State) (ps : List Piece) : List Nat :=
  (ps.filterMap (fun p => match p.look with
    | .key k => if k < 2 ^ 100 then (match dpaTarget s k with | .cxl d => some d | _ => none) else none
    | _ => none)).eraseDups

/-- COPY_CHUNK_START (R253, R254, R274, R295): the next chunk of a copy reads its bytes once every page of it is translated;
pages that the TLB does not hold are asked of the die's MMU. Log entry 34: DEDUCED. -/
def execCopyChunkStart (copy : Nat) (s : State) : Host.Outcome State Fault Refusal :=
  .next (match tget s.copies copy with
    | none => s
    | some c =>
      if !s.chunkMay copy c then s
      else
        let j := c.next
        let (lo, n) := c.chunkSpan j
        let src := s.sidePieces c c.src false lo n
        let dst := s.sidePieces c c.dst true lo n
        let stream := s.streamPieces c j
        let all := src ++ dst ++ stream
        match all.find? (fun p => p.look == .bad) with
        | some p => (s.logCopy c 0x09 p.va).failCopy copy 1
        | none =>
          let misses := all.filter (fun p => p.look == .miss)
          if !misses.isEmpty then
            misses.foldl (fun s p => s.askWalk (dieOf c.core) ⟨c.vi, p.va, p.write, false, .copy copy j p.write⟩) s
          else if !(src ++ stream).all (s.sourcePresent copy) || !all.all s.pieceFree then s
          else
            let ports := s.cxlPorts all
            if ports.any (fun d => !(s.die d).cxlUp) then (s.logCopy c 0x0B 0).failCopy copy 1
            else
              let (s, bs) := s.readPieces src
              let (s, ss) := s.readPieces stream
              let keys := dst.filterMap (fun p => match p.look with | .key k => some (k, p.n) | _ => none)
              let (scales, delta) := s.chunkScales c j ss
              let f : Flight :=
                { chunk := j, bytes := bs.map (·.1), bad := bs.map (·.2), dst := keys, scales := scales, ports := ports }
              let s := s.scoreBytes c.core (src.filterMap (fun p => match p.look with | .key k => some (k, p.n) | _ => none)) false
              { s with copies := tupd s.copies copy (fun c => { c with
                  next := j + 1, flying := c.flying ++ [f], fill := c.fill.map (fun x => { x with delta := delta }) }) })

/-- Bytes of one line that land, in units of 8 bytes on chip and of a line off chip (R190, R253, R348). A bound record's line
keeps its contents, with one entry of the log (R262); bytes under a stack are discarded (R167). -/
def State.landLine (s : State) (c : Copy) (k : Nat) (bs : List Byte) (bad : List Bool) : State :=
  if s.boundLine k then s.errLog c.vi 0x03 (dieOf c.core) (cixOf c.core) 0 (k % 2 ^ 60)
  else (cutAt (if k < 2 ^ 100 then 64 else 8) (k, bs.length)).foldl (fun (t : State) p =>
    if t.underStack p.1 then t
    else t.storeBytes c.vi (dieOf c.core) (cixOf c.core) p.1 ((bs.drop (p.1 - k)).take p.2)
      (((bad.drop (p.1 - k)).take p.2).any id)) s

/-- The bytes of a chunk land line by line. -/
def State.landBytes (s : State) (c : Copy) : List (Nat × Nat) → List Byte → List Bool → State
  | [], _, _ => s
  | (k, n) :: rest, bs, bad =>
    let s1 := (cutAt 64 (k, n)).foldl (fun (t : State) p =>
      (t.landLine c p.1 ((bs.drop (p.1 - k)).take p.2) ((bad.drop (p.1 - k)).take p.2)).overwrite p.1 p.2 false) s
    s1.landBytes c rest (bs.drop n) (bad.drop n)

/-- The scales of a fill's chunk in the operand buffer (R275, R295): one byte to a block, each with its own poison. -/
def State.landScales (s : State) (c : Copy) (f : Flight) : State :=
  match s.resvFor c with
  | none => s
  | some (fl, r) =>
    let first := r.base * 256 + r.soff * 16 + fl.first + (fillBlocks r fl f.chunk).1
    (f.scales.zipIdx).foldl (fun (s : State) x =>
      let o := first + x.2
      let u := unitOf (obScaleKey c.core o)
      { s with
        mem := cellSet s.mem (obKey c.core o) x.1.1
        poison := (if x.1.2 then [u] else []) ++ s.poison.filter (· != u) }) s

/-- A chunk has landed: the lines in which the copy has no more to write are present (R176, R255).
Log entry 18: DEDUCED. -/
def State.landLines (s : State) (id chunk : Nat) : State :=
  match tget s.copies id with
  | none => s
  | some c => match c.dst with
    | .chip k =>
      let (o, n) := c.chunkSpan chunk
      s.setPresence ((linesIn (k + o) n).filter (fun l => !c.owes l))
    | _ => s

/-- COPY_CHUNK_LANDING (R155, R253, R255, R349): a chunk in flight lands whole; its bytes leave the barrier's PEND. Poisoned
data that goes off-chip kills the gang after its lines have been written as poisoned. -/
def execCopyChunkLanding (copy chunk : Nat) (s : State) : Host.Outcome State Fault Refusal :=
  .next (match tget s.copies copy with
    | none => s
    | some c => match c.flying.find? (fun f => f.chunk == chunk) with
      | none => s
      | some f =>
        if !s.mayWrite c f || f.dst.any (fun p => s.rehousing p.1 || !s.awake p.1) then s
        else
          let s := ((s.landBytes c f.dst f.bytes f.bad).landScales c f).scoreBytes c.core f.dst true
          let s := { s with copies := tupd s.copies copy (fun c => { c with
            flying := c.flying.filter (fun g => g.chunk != chunk), landed := c.landed ++ [chunk] }) }
          let s := s.landLines copy chunk
          let s := match c.bar with
            | some n => s.barLand n c.vi (c.chunkSpan chunk).2 c.waits
            | none => s
          let s := s.copyCut copy
          if c.dst.off && f.bad.any id then s.killGang c.warp 0x07 (((f.dst.headD (0, 0)).1) % 2 ^ 57) else s)

/-- What a block that has ended still held for a copy returns (R302). -/
def State.copyGone (s : State) (b : Nat) : State := if (s.block b).live then s else s.freeMatrix b

/-- COPY_COMPLETION (R197, R248, R254, R255): every chunk has landed, or the copy has failed and its last chunk in flight has;
every earlier copy of its queue has completed; and what its issuers had issued before it has performed. -/
def execCopyCompletion (copy : Nat) (s : State) : Host.Outcome State Fault Refusal :=
  .next (match tget s.copies copy with
    | none => s
    | some c =>
      if !c.atoms.isEmpty || c.doomed || !c.faults.isEmpty || !c.allLanded || !(s.ahead c).isEmpty
          || !s.settled c.waits then s
      else
        let s := { s with copies := tdel s.copies copy }
        (s.futComplete c.fut (statusWord c.landed.length c.code)).copyGone c.block)

/-- DOOMED_COPY_STOP (R259): the chunks of a doomed copy that were in flight have landed. -/
def execDoomedCopyStop (copy : Nat) (s : State) : Host.Outcome State Fault Refusal :=
  .next (match tget s.copies copy with
    | none => s
    | some c => if !c.doomed || !c.flying.isEmpty then s else (s.copyStop copy).copyGone c.block)

/-- A future's record enters FAULT (R245, R254, R309). -/
def State.futFault (s : State) (f : Nat) : State :=
  s.updFut f (fun r => { r with st := if r.st = .run then .fault else r.st })

/-- The chunks that the finished passes of a multiplication hold (R248, R268). -/
def Mma.chunksDone (o : Mma) : Nat := min o.k (o.passes * passK o.fmt) / chunkK o.fmt

/-- What the requester of a walk does with its outcome (R254, R309, R336, R337, R339): each page that is not present gets an
entry of its own. CHK of a faulted `mma.m` is that of its finished passes. -/
def State.walkDone (s : State) (w : Walk) : State :=
  let s := s.walked w.vi w.va
  match w.who with
  | .copy id chunk write =>
    match tget s.copies id with
    | none => s
    | some c =>
      if c.doomed || c.code != 0 || c.faults.any (fun f => f.1 != chunk) then s
      else match s.walk c.vi w.va write false with
        | (.ok _, e) => s.tlbFill c.core e
        | (.bad, _) => (s.logCopy c 0x09 w.va).failCopy id 1
        | (.busy, _) => s
        | (.replay, _) =>
          let h := futHandle c.fut (s.fut c.fut).gen
          let (tok, s) := s.newFault c.vi
            ⟨w.va, h, if write then 1 else 0, write, dieOf c.core, cixOf c.core, w.who, none, false⟩
          let s := { s with copies := tupd s.copies id (fun c => { c with faults := c.faults ++ [(chunk, tok)] }) }
          s.futFault c.fut
  | .matrix word _ scale =>
    match tget s.mwords word with
    | none => s
    | some m => match m.op with
      | .mma o =>
        if o.code != 0 || o.dead then s
        else match s.walk w.vi w.va false false with
          | (.ok _, e) => s.tlbFill m.core e
          | (.bad, _) =>
            let s := s.errLog w.vi 0x09 (dieOf m.core) (cixOf m.core) (BitVec.ofNat 32 (s.block m.block).bix) w.va
            { s with mwords := tset s.mwords word { m with op := .mma { o with code := 1 } } }
          | (.busy, _) => s
          | (.replay, _) =>
            let h := futHandle o.fut (s.fut o.fut).gen
            let (tok, s) := s.newFault w.vi
              ⟨w.va, h, if scale then 3 else 2, false, dieOf m.core, cixOf m.core, w.who, none, false⟩
            let s := { s with mwords := tset s.mwords word { m with op := .mma { o with faults := o.faults ++ [tok] } } }
            (s.futFault o.fut).updFut o.fut (fun r => { r with value := statusWord o.chunksDone 0 })
      | _ => s
  | .atom _ _ _ => s
  | .fetch _ _ => s

/-- PAGE_TABLE_WALK (R389 to R392, R426): one of the 64 walks that a die's MMU runs at once ends. -/
def execPageTableWalk (die walk : Nat) (s : State) : Host.Outcome State Fault Refusal :=
  .next (match ((s.die die).walks.take 64).find? (fun x => x.1 == walk) with
    | none => s
    | some (_, w) => (s.updDie die (fun d => { d with walks := tdel d.walks walk })).walkDone w)

end Sys2Proof.Machine
end

