-- ==== Sys2Proof/Machine/Passes.lean ====
section
/-! DEFINITION. Machine/Passes.lean: the passes of `mma` and `mma.m`: their operands (R266, R277), their estimates (R282),
the chunks they add (R279, R280), their ends (R260, R286, R307, R309), and the fetch of a streamed pass (R309). -/

namespace Sys2Proof.Machine

/-- The multiplication of a word. -/
def State.mmaOf (s : State) (word : Nat) : Option (MWord × Mma) :=
  match tget s.mwords word with
  | none => none
  | some m => match m.op with
    | .mma o => some (m, o)
    | _ => none

def State.updMma (s : State) (word : Nat) (f : Mma → Mma) : State :=
  { s with mwords := tupd s.mwords word (fun m => match m.op with
      | .mma o => { m with op := .mma (f o) }
      | _ => m) }

/-- Passes of a multiplication (R268). -/
def Mma.total (o : Mma) : Nat := (o.k + passK o.fmt - 1) / passK o.fmt
/-- The k positions that a pass uses. -/
def Mma.width (o : Mma) (p : Nat) : Nat := min (passK o.fmt) (o.k - p * passK o.fmt)

/-- An element of a matrix operand: its value, the scale of its block, and whether it or its scale is poisoned. -/
structure MElem where
  v : FVal
  scale : Scale := .shift 0
  bad : Bool := false
  deriving DecidableEq, Repr

/-- The value that an element sends and takes part with (R267, R273). -/
def MElem.eff (e : MElem) : FVal := scaledElem e.scale e.v

/-- Element i of a reservation (R273, R274, R277). -/
def State.obElem (s : State) (core : Nat) (r : Resv) (i : Nat) : MElem :=
  let bits := elemBits r.fmt
  let ob (x : Nat) : Nat := obKey core (r.base * 256 + x)
  let v := if bits == 4 then s.num (ob (i / 2)) 1 / 16 ^ (i % 2) % 16 else s.num (ob (i * (bits / 8))) (bits / 8)
  if r.mx then
    let j := i / 32
    let at_ := r.soff * 16 + j
    ⟨elemVal r.fmt v, scaleOf (r.slay == 2) (s.byte (ob at_)),
      !r.zeroBlock (s.byte (ob at_)) && s.tainted (ob (j * blockBytes r.fmt)) (blockBytes r.fmt)
        || s.poison.contains (unitOf (obScaleKey core (r.base * 256 + at_)))⟩
  else ⟨elemVal r.fmt v, .shift 0, s.tainted (ob (i * bits / 8)) (max 1 (bits / 8))⟩

/-- A(row, k) of a multiplication: in its reservation, or where a streamed pass has been staged, row by row. -/
def State.aElem (s : State) (m : MWord) (o : Mma) (r : Resv) (row k : Nat) : MElem :=
  if o.stream.isSome then s.obElem m.core r (row * passK o.fmt + k % passK o.fmt) else s.obElem m.core r (r.index row k)

/-- B(k, col) of a pass: k counts from the pass's first (R266). -/
def State.bElem (s : State) (m : MWord) (o : Mma) (p k col : Nat) : MElem :=
  let g := o.groups.getD p ⟨o.fmt, false, false, 0⟩
  let bits := elemBits g.fmt
  let slot := o.slot + p * groupSlots g.fmt
  let per := if bits < 16 then 16 / bits else 1
  let key (j : Nat) : Nat := slotKey m.core (((slot + j) * 4096 + k / per * 64 + col) * 8)
  let v := if bits < 16 then s.num (key 0) 2 / 2 ^ (bits * (k % per)) % 2 ^ bits
    else ((List.range (bits / 16)).map (fun j => s.num (key j) 2 * 2 ^ (16 * j))).sum
  let bad := (List.range (groupSlots g.fmt)).any (fun j => s.tainted (key j) 2)
  if g.mx then ⟨elemVal g.fmt v, scaleOf g.e8m0 (s.byte (scaleKey m.core ((slot * 512 + k / 32 * 64 + col) * 8))), bad⟩
  else ⟨elemVal g.fmt v, .shift 0, bad⟩

/-- One chunk of a pass added to a cell (R279). -/
def State.cellChunk (s : State) (m : MWord) (o : Mma) (r : Resv) (p row col : Nat) (c : Nat × Flags) (q : Nat) :
    Nat × Flags :=
  let ks := (List.range (chunkK o.fmt)).map (· + q * chunkK o.fmt)
  let as := ks.map (fun k => s.aElem m o r row (p * passK o.fmt + k))
  let bs := ks.map (fun k => s.bElem m o p k col)
  let count (xs : List MElem) : Int := (xs.headD ⟨.zero false, .shift 0, false⟩).scale.count
  let (v, f) := addChunk o.fmt c.1 ((as.zip bs).map (fun x => (x.1.eff, x.2.eff))) (count as + count bs)
  (v, c.2 ||| f)

/-- The chunks of a pass added to the tile, in increasing k (R279, R307), with the flags that they raise. -/
def State.addPass (s : State) (word : Nat) (m : MWord) (o : Mma) (r : Resv) (p : Nat) : State :=
  let tag := fmtTag o.fmt
  (List.range 4096).foldl (fun (t : State) i =>
    let old := (s.accCell m.block o.tile tag i).1
    let (v, f) := (List.range (o.width p / chunkK o.fmt)).foldl (s.cellChunk m o r p (i / 64) (i % 64)) (old, (0 : Flags))
    (t.setAccCell m.block o.tile tag i v (s.accCell m.block o.tile tag i).2).updMma word
      (fun o => { o with flags := o.flags ||| f })) s

/-- A pass consumes poison (R275, R349): in an element, a scale, or a cell of its slots. -/
def State.passPoison (s : State) (m : MWord) (o : Mma) (r : Resv) (p : Nat) : Bool :=
  (List.range 64).any (fun i => (List.range (o.width p)).any (fun k =>
    (s.aElem m o r i (p * passK o.fmt + k)).bad || (s.bElem m o p k i).bad))

/-- The toggle estimate of a multiplication (R282): of all its passes, or of one for `mma.m`. -/
def State.estimate (s : State) (m : MWord) (o : Mma) (r : Resv) : Nat :=
  let kp := passK o.fmt
  let ps := if o.stream.isSome then [o.passes] else List.range o.total
  let col (kk : Nat) : List Nat := ps.flatMap (fun p => (List.range 64).map (fun row =>
    if p * kp + kk < o.k then signif (s.aElem m o r row (p * kp + kk)).eff else 0))
  estimateOf o.fmt (ps.length * 64 * rowCycles o.fmt) ((List.range kp).map col)

/-- A multiplication that must not go on (R260, R286): doomed with its notice arrived, or killed. -/
def State.mmaStopped (s : State) (o : Mma) : Bool := o.dead || s.noticed o.fut

/-- A multiplication ends with a status (R248, R280, R307, R309). -/
def State.mmaFinish (s : State) (word : Nat) (m : MWord) (o : Mma) : State :=
  let s := { s with mwords := tdel s.mwords word }
  let s := s.updCore m.core (fun c => { c with
    keeps := if c.keeps = some word then none else c.keeps, presented := tdel c.presented word })
  let s := if (s.warp m.warp).live then s.raise m.warp o.flags else s
  let s := if (s.fut o.fut).st = .doom then s.futRelease o.fut
    else s.futComplete o.fut (statusWord o.chunksDone o.code)
  s.copyGone m.block

/-- The value of a record in FAULT follows the passes that end meanwhile (R248, R309). -/
def State.passKept (s : State) (o : Mma) : State :=
  if (s.fut o.fut).st = .fault then s.updFut o.fut (fun r => { r with value := statusWord o.chunksDone 0 }) else s

/-- A multiplication whose last pass has ended gives up the array while its completion waits for what its warp had issued
before (R197). -/
def State.letArray (s : State) (core word : Nat) (last : Bool) : State :=
  if last then s.updCore core (fun c => { c with keeps := if c.keeps = some word then none else c.keeps }) else s

/-- A multiplication stops without a status (R260). -/
def State.mmaStop (s : State) (word : Nat) (m : MWord) : State :=
  ((s.matrixStop word).updCore m.core (fun c => { c with presented := tdel c.presented word })).copyGone m.block

/-- A pass of a multiplication has ended (R275, R279, R286, R307, R309): its chunks are added, unless its results are
discarded; poison kills the gang; and the operation completes, stops or goes on. -/
def State.passDone (s : State) (word : Nat) : State :=
  match s.mmaOf word with
  | none => s
  | some (m, o) =>
    if o.dead then s.mmaStop word m
    else match tget s.resvs o.resv with
      | none => s
      | some r =>
        if s.passPoison m o r o.passes then s.killGang m.warp 0x07 0
        else
          let s := s.addPass word m o r o.passes
          let s := s.updMma word (fun o => { o with
            passes := o.passes + 1, stream := o.stream.map (fun x => { x with staged := none }) })
          match s.mmaOf word with
          | none => s
          | some (m, o) =>
            if s.mmaStopped o then s.mmaStop word m
            else if o.passes ≥ o.total && s.settled m.waits then s.mmaFinish word m o
            else (s.passKept o).letArray m.core word (o.passes ≥ o.total)

/-- The pass of a core whose granted end has come (R286); for 16 steps it can be marked suspect (R288). -/
def State.endPass (s : State) (core : Nat) : State :=
  let c := s.cycle core
  match (s.core core).pass with
  | none => s
  | some p =>
    if c < p.stop then s
    else
      let w := (tget s.mwords p.word).map (·.warp)
      let s := s.updCore core (fun k => { k with
        pass := none
        recent := (k.recent.filter (fun x => c < x.1 + 64)) ++ (w.toList.map (fun w => (p.stop, w))) })
      s.passDone p.word

/-- Multiplications of a core that have no pass running and must end (R254, R260, R309): doomed, killed or failed ones. -/
def State.endStopped (s : State) (core : Nat) : State :=
  (s.mwords.filter (fun x => x.2.core == core)).foldl (fun (s : State) x =>
    if (s.core core).pass.any (fun p => p.word == x.1) then s
    else match s.mmaOf x.1 with
      | none => s
      | some (m, o) =>
        if s.mmaStopped o then s.mmaStop x.1 m
        else if o.faults.isEmpty && (o.code != 0 || o.passes ≥ o.total) && s.settled m.waits then s.mmaFinish x.1 m o
        else s) s

/-- MMA_PASS_END (R260, R279, R286, R307): the granted end of a core's pass has come; and operations that are to stop between
passes stop. -/
def execMmaPassEnd (core : Nat) (s : State) : Host.Outcome State Fault Refusal :=
  .next ((s.endPass core).endStopped core)

/-- A multiplication may go on to a pass (R269, R299): it stands at the head of its queue or has started, everything
before it is done, and nothing stops it. -/
def State.mmaReady (s : State) (word : Nat) (m : MWord) (o : Mma) : Bool :=
  (!m.queued || s.matrixHead word m) && s.matrixClear word m && o.passes < o.total && o.faults.isEmpty && o.code == 0
    && !s.mmaStopped o

/-- The pieces of a streamed pass: of row m, its elements, and its scales (R308, R309). -/
def State.rowPieces (s : State) (m : MWord) (o : Mma) (x : Stream) (mx : Bool) (row : Nat) : List Piece × List Piece :=
  let bits := elemBits o.fmt
  let k0 := o.passes * passK o.fmt
  let n := o.width o.passes
  let vi := (s.block m.block).vi
  (s.pieces m.core vi false [(x.va + row * x.stride + k0 * bits / 8, n * bits / 8)],
    if mx then s.pieces m.core vi false [(x.sva + row * x.sstride + k0 / 32, n / 32)] else [])

/-- One row of a streamed pass in the staging reservation: elements in units of 8 bytes, scales one by one. -/
def State.stageRow (s : State) (m : MWord) (o : Mma) (r : Resv) (row : Nat) (es ss : List (Byte × Bool)) : State :=
  let base := r.base * 256 + row * passK o.fmt * elemBits o.fmt / 8
  let s1 := (List.range (es.length / 8)).foldl (fun (t : State) i =>
    let u := (es.drop (8 * i)).take 8
    t.write (obKey m.core (base + 8 * i)) (u.map (·.1)) (u.any (·.2))) s
  (ss.zipIdx).foldl (fun (t : State) x =>
    let at_ := r.base * 256 + r.soff * 16 + row * (passK o.fmt / 32) + x.2
    let u := unitOf (obScaleKey m.core at_)
    { t with
      mem := cellSet t.mem (obKey m.core at_) x.1.1
      poison := (if x.1.2 then [u] else []) ++ t.poison.filter (· != u) }) s1

/-- An access error, or a lost port, of a streamed pass (R309, R403): the operation ends with CODE 0x01. -/
def State.failMma (s : State) (word : Nat) (m : MWord) (code addr : Nat) : State :=
  (s.errLog (s.block m.block).vi code (dieOf m.core) (cixOf m.core) (BitVec.ofNat 32 (s.block m.block).bix) addr).updMma word
    (fun o => { o with code := 1 })

/-- MMA_M_PASS_FETCH (R309): the next pass of an `mma.m` is read into its staging reservation once its pages are translated
and no pass of it is running; pages that the TLB does not hold are asked of the MMU. -/
def execMmaMPassFetch (word : Nat) (s : State) : Host.Outcome State Fault Refusal :=
  .next (match s.mmaOf word with
    | none => s
    | some (m, o) => match o.stream, tget s.resvs o.resv with
      | some x, some r =>
        if x.staged.isSome || !s.mmaReady word m o || !s.gangOrdered m.warp m.lanes word || (s.core m.core).pass.any (fun p => p.word == word) then s
        else
          let rows := (List.range 64).map (s.rowPieces m o x r.mx)
          let elems := rows.flatMap (·.1)
          let scales := rows.flatMap (·.2)
          match (elems ++ scales).find? (fun p => p.look == .bad) with
          | some p => s.failMma word m 0x09 p.va
          | none =>
            let die := dieOf m.core
            let vi := (s.block m.block).vi
            let ask (scale : Bool) (s : State) (p : Piece) : State :=
              s.askWalk die ⟨vi, p.va, false, false, .matrix word o.passes scale⟩
            if (elems ++ scales).any (fun p => p.look == .miss) then
              let s := (elems.filter (fun p => p.look == .miss)).foldl (ask false) s
              (scales.filter (fun p => p.look == .miss)).foldl (ask true) s
            else if (s.cxlPorts (elems ++ scales)).any (fun d => !(s.die d).cxlUp) then s.failMma word m 0x0B 0
            else
              let s := (rows.zipIdx).foldl (fun (s : State) row =>
                let (s, es) := s.readPieces row.1.1
                let (s, ss) := s.readPieces row.1.2
                s.stageRow m o r row.2 es ss) s
              s.updMma word (fun o => { o with stream := some { x with staged := some o.passes } })
      | _, _ => s)

end Sys2Proof.Machine
end

