-- ==== Sys2Proof/Machine/Limiter.lean ====
section
/-! DEFINITION. Machine/Limiter.lean: the current-slew limiter of a rail group (R281 to R288, R415, R417): what each core
presents (R269), the grants, the filler, boost, and the path that a droop takes (R352). -/

namespace Sys2Proof.Machine

/-- The cores of a rail group, in the order of their group index (R283). -/
def groupCores (g : Nat) : List Nat := (List.range 8).map (fun i => g / 12 * 96 + g % 12 * 8 + i)

/-- CAP of a rail group (R287, R415). -/
def State.cap (s : State) (g : Nat) : Nat :=
  let r := (s.group g).slewcap.toNat
  let c := min (min 64 (r / 2 ^ 16 % 256)) (min 64 (r / 2 ^ 8 % 256))
  if (s.die (g / 12)).trip then min 16 c else c

/-- A request: the core, its group index, the word, its estimate, and the step in which it was first presented. -/
structure Request where
  core : Nat
  i : Nat
  word : Nat
  e : Nat
  first : Nat
  deriving DecidableEq, Repr

/-- The estimate of a multiplication that may go on to its next pass (R269, R282): a streamed pass must be staged. -/
def State.estimateFor (s : State) (word : Nat) : Option Nat :=
  match s.mmaOf word with
  | none => none
  | some (m, o) =>
    if !s.mmaReady word m o || o.stream.any (fun x => x.staged.isNone) then none
    else (tget s.resvs o.resv).map (fun r => s.estimate m o r)

/-- The eligible heads of a core (R269): estimate, word, queue, and the steps for which it has been passed over. -/
def State.heads (s : State) (core : Nat) : List (Nat × Nat × Nat × Nat) :=
  (s.mwords.filter (fun x => x.2.core == core && x.2.queued)).filterMap (fun x => match s.mmaOf x.1 with
    | none => none
    | some (m, o) => (s.estimateFor x.1).map (fun e => (e, x.1, m.q, o.passed)))

/-- The head that a core presents (R269): one passed over for 16 steps, or the lowest estimate, the earliest issue and the
lowest queue. -/
def pickHead (hs : List (Nat × Nat × Nat × Nat)) : Option (Nat × Nat × Nat × Nat) :=
  let due := hs.filter (fun h => h.2.2.2 ≥ 16)
  if due.isEmpty then
    firstBy (fun a b => a.1 < b.1 || a.1 == b.1 && (a.2.1 < b.2.1 || a.2.1 == b.2.1 && a.2.2.1 < b.2.2.1)) hs
  else firstBy (fun a b => a.2.1 < b.2.1) due

/-- What a core without granted work presents in a step (R269, R287, R307), with the counts of R269 kept. A head that was set
aside stays so until its estimate is within CAP again. Log entry 72: DEDUCED. -/
def State.present1 (s : State) (core i step cap : Nat) : State × Option Request :=
  let c := s.core core
  let first (s : State) (w : Nat) : State × Nat :=
    match tget (s.core core).presented w with
    | some x => (s, x)
    | none => (s.updCore core (fun c => { c with presented := tset c.presented w step }), step)
  if c.pass.isSome then (s, none)
  else match c.keeps with
    | some w => match s.estimateFor w with
      | none => (s, none)
      | some e =>
        let (s, f) := first s w
        (s, some ⟨core, i, w, e, f⟩)
    | none =>
      let all := s.heads core
      let aside := c.aside.filter (fun w => all.any (fun h => h.2.1 == w && h.1 > cap))
      let hs := all.filter (fun h => !aside.contains h.2.1)
      match pickHead hs with
      | none => (s, none)
      | some (e, w, _, _) =>
        let s := hs.foldl (fun (s : State) h => s.updMma h.2.1 (fun o => { o with
          passed := if h.2.1 == w then 0 else o.passed + 1 })) s
        let s := s.updCore core (fun c => { c with aside := if e > cap then w :: aside else aside })
        let (s, f) := first s w
        (s, some ⟨core, i, w, e, f⟩)

/-- The cycles of one pass (R268). -/
def passCycles (fmt : Nat) : Nat := 64 * rowCycles fmt

/-- What grants go on with: the state, N, and whether a request has failed. -/
structure Granting where
  s : State
  n : Nat
  closed : Bool := false

/-- The work of a request starts a pass now (R284, R307). -/
def State.startPass (s : State) (q : Request) (cycle : Nat) : State :=
  match s.mmaOf q.word with
  | none => s
  | some (_, o) =>
    let s := s.updCore q.core (fun c => { c with
      pass := some ⟨q.word, q.e, cycle, cycle + passCycles o.fmt⟩
      presented := tdel c.presented q.word
      keeps := if o.stream.isNone then some q.word else c.keeps })
    s.updMma q.word (fun o => { o with started := o.started || o.stream.isNone || o.passes + 1 ≥ o.total })

/-- One request in its turn (R284, R287): set aside above CAP, granted, or the one that ends the granting. -/
def Granting.consider (x : Granting) (g cap cycle : Nat) (q : Request) : Granting :=
  if x.closed || q.e > cap then x
  else
    let fmt := match x.s.mmaOf q.word with
      | some (_, o) => o.fmt
      | none => 0
    let stop := cycle + passCycles fmt
    let ends := ((groupCores g).filter (fun c => (x.s.core c).pass.any (fun p => p.stop == stop))).length
    if x.n + q.e ≤ (x.s.group g).g + 8 && x.n + q.e ≤ cap && q.e ≥ (x.s.core q.core).draw && ends < 2 then
      { x with s := x.s.startPass q cycle, n := x.n + q.e }
    else { x with closed := true }

/-- Filler in ascending group index (R285): the draw of each core in this step. -/
def fillerOf : List (Nat × Bool × Nat × Nat) → Nat → List (Nat × Nat)
  | [], _ => []
  | (core, busy, e, prev) :: rest, left =>
    if busy then (core, e) :: fillerOf rest left
    else
      let f := min 6 (min prev left)
      (core, f) :: fillerOf rest (left - f)

/-- Cycles counted so far are kept when the length of a group's cycle changes (R412). Log entry 39: DESIGN CHOICE. -/
def Group.rebase (g : Group) (now : Nat) : Group := { g with cycles := g.count now, since := now }

/-- A rail group enters or leaves boost for a step (R417). -/
def State.setBoost (s : State) (g : Nat) (on : Bool) : State :=
  if (s.group g).boosted == on then s else s.updGroup g (fun k => { k.rebase s.now with boosted := on })

/-- The steps before a step for which G + 16 ≤ CAP held without a break (R417); a step in which the limiter had nothing
to do had G as it stood. -/
def State.calmAt (s : State) (g step : Nat) : Nat :=
  let k := s.group g
  let skipped := match k.step with
    | some p => step - (p + 1)
    | none => step
  if skipped == 0 then k.calm else if k.g + 16 ≤ s.cap g then k.calm + skipped else 0

/-- Requests in the order in which the limiter considers them (R284). -/
def requestOrder (rs : List Request) : List Request :=
  sortBy (fun a b => a.first < b.first || a.first == b.first && a.i < b.i) rs

/-- One step of a rail group's limiter, at a step boundary that it has not acted at (R283 to R287, R417). -/
def State.limiterAt (s : State) (g step : Nat) : State :=
  let cores := groupCores g
  let s := cores.foldl (fun (s : State) c => (s.endPass c).endStopped c) s
  let cap := s.cap g
  let cycle := 4 * step
  let calm := s.calmAt g step
  let on := (s.die (g / 12)).boostEn.getLsbD (g % 12) && (s.group g).cls == 0 && !(s.die (g / 12)).trip && calm ≥ 256
  let (s, rs) := (cores.zipIdx).foldl (fun (a : State × List Request) c =>
    let (t, r) := a.1.present1 c.1 c.2 step cap
    (t, a.2 ++ r.toList)) (s, [])
  let n := (cores.map (fun c => ((s.core c).pass.map (·.e)).getD 0)).sum
  let x := (requestOrder rs).foldl (fun (x : Granting) q => x.consider g cap cycle q) ⟨s, n, false⟩
  let s := x.s
  let f := (s.group g).g - 4 - x.n
  let draws := fillerOf (cores.map (fun c =>
    let k := s.core c
    (c, k.pass.isSome, (k.pass.map (·.e)).getD 0, k.draw))) f
  let total := (draws.map (·.2)).sum
  let s := draws.foldl (fun (s : State) d =>
    if (s.core d.1).draw == d.2 then s else s.updCore d.1 (fun c => { c with draw := d.2 })) s
  let s := s.updGroup g (fun k => { k with
    g := total, step := some step, calm := if total + 16 ≤ cap then calm + 1 else 0 })
  s.setBoost g on

/-- LIMITER_STEP (R284): at a cycle count that is a multiple of 4, once. -/
def execLimiterStep (group : Nat) (s : State) : Host.Outcome State Fault Refusal :=
  .next (let k := s.group group
    let c := k.count s.now
    if group ≥ 48 || k.cls ≥ 3 || c % 4 != 0 || k.step == some (c / 4) then s else s.limiterAt group (c / 4))

/-- The work of a rail group that its limiter must look at: passes, draws, and multiplications that may go on. -/
def State.groupActive (s : State) (g : Nat) : Bool :=
  (groupCores g).any (fun c => (s.core c).pass.isSome || (s.core c).draw != 0)
    || s.mwords.any (fun m => groupOf m.2.core == g && (s.estimateFor m.1).isSome)

/-- Gangs killed on the silent-error path, once each (R352). -/
def State.killSuspects (s : State) : List Nat → List Nat → State
  | [], _ => s
  | w :: ws, gone =>
    if gone.contains w || (s.grid (s.warp w).grid).done then s.killSuspects ws gone
    else (s.killGang w 0x07 0).killSuspects ws ((s.killSet w).1 ++ gone)

/-- DROOP_DETECTED (R288, R352): the gangs that issued the multiplications whose passes overlap the last 16 steps in a quad take
the silent-error path. -/
def execDroopDetected (die quad : Nat) (s : State) : Host.Outcome State Fault Refusal :=
  .next (if die ≥ 4 || quad ≥ 24 then s
    else
      let ws := (List.range 4).flatMap (fun i =>
        let core := die * 96 + quad * 4 + i
        let k := s.core core
        let now := s.cycle core
        let running := (k.pass.toList.filterMap (fun p => tget s.mwords p.word)).map (·.warp)
        running ++ (k.recent.filter (fun x => now < x.1 + 64)).map (·.2))
      s.killSuspects ws.eraseDups [])

end Sys2Proof.Machine
end

