-- ==== Sys2Proof/Machine/Faults.lean ====
section
/-! DEFINITION. Machine/Faults.lean: fault queues and the answers to their entries (R254, R309, R337 to R340), queue heads
(R338), ELLOST (R395), and the invalidation of TLBs (R392, R400). -/

namespace Sys2Proof.Machine

/-- FAULT_QUEUE_ENTRY_WRITE (R338, R339, R399, R424): the next entry that waits is written when there is room for it. -/
def execFaultQueueEntryWrite (vi : Nat) (s : State) : Host.Outcome State Fault Refusal :=
  .next (let V := s.vi vi
    let r := V.fq
    match V.fqWait with
    | [] => s
    | tok :: rest =>
      if r.used ≥ 2 ^ r.log2n || !s.ringOk vi r 32 then s
      else match tget V.faults tok with
        | none => s.updVi vi (fun V => { V with fqWait := rest })
        | some f =>
          let a := r.slot 32
          let bytes := leBytes 8 f.va ++ leBytes 4 tok ++ leBytes 4 f.fut.toNat
            ++ leBytes 4 (f.kind + (if f.wr then 8 else 0) + f.die * 2 ^ 4 + f.cix * 2 ^ 6)
            ++ leBytes 4 (if f.cancelled then 1 else 0) ++ leBytes 8 r.phase.toNat
          let s := s.write (dpaKey a) bytes false
          (s.updVi vi (fun V => { V with
            fq := V.fq.push, fqWait := rest
            faults := tupd V.faults tok (fun f => { f with entry := some a }) })).msix vi (V.vec 1))

/-- A gang that waits for a page is free of its wait: its lanes, parked now or as trap entry recorded them, issue the word
again. Log entry 46: DEDUCED. -/
def State.unparkGang (s : State) (w gang : Nat) : State :=
  (s.retryGang w gang).updWarp w (fun W => { W with
    lanes := tmap W.lanes (fun _ L => if L.parkRec = .gang gang then { L with parkRec := .no } else L) })

/-- One of the entries that a parked gang waits for has been answered with a retry (R224, R340): the word is issued again
once all of them have. -/
def State.pageServed (s : State) (w gang token : Nat) : State :=
  let s := s.sweep w
  match tget (s.warp w).gangs gang with
  | none => s
  | some g => match g.req with
    | .fetch toks =>
      match toks.filter (· != token) with
      | [] => s.unparkGang w gang
      | rest => s.updWarp w (fun W => { W with gangs := tset W.gangs gang { g with req := .fetch rest } })
    | _ => s

/-- The lanes concerned of a gang that waited for a page take the trap of R337 at their word, the others issue it again;
while system code runs in the warp the lanes concerned carry the trap in their park record, and take it when the system
code returns (R334, R337). The gang's other entries are cancelled. Log entry 57: DEDUCED. -/
def State.faultTrap (s : State) (w gang token : Nat) (cause : BitVec 8) (va : Nat) (lanes : BitVec 32) : State :=
  match tget (s.warp w).gangs gang with
  | none => s
  | some g =>
    let others := match g.req with
      | .fetch toks => toks.filter (· != token)
      | _ => []
    let s := others.foldl (fun s tok => s.cancelFault (s.warp w).vi tok) s
    let now := (s.warp w).gangLanes gang &&& lanes
    let later := (s.warp w).mask (fun L => L.parkRec = .gang gang) &&& lanes
    let addr : DWord := BitVec.ofNat 64 va
    let s := s.unparkGang w gang
    let s := if later == 0 then s
      else s.updWarp w (fun W => W.updLanes later (fun _ L => { L with parkRec := .denied cause addr }))
    if now == 0 then s else s.trapWarp w ⟨cause, addr, now, some g.word⟩

/-- The work that an entry stands for goes on (R254, R309, R337): with code 0 it is translated again once its entries have
all been answered, otherwise it ends with the code. -/
def State.resume (s : State) (f : FaultRec) (token code : Nat) : State :=
  let run (s : State) (r : Nat) : State := s.updFut r (fun r => { r with st := if r.st = .fault then .run else r.st })
  match f.who with
  | .copy id _ _ =>
    match tget s.copies id with
    | none => s
    | some c =>
      if c.faults.all (fun x => x.2 != token) then s
      else
        let left := if code == 0 then c.faults.filter (fun x => x.2 != token) else []
        let s := { s with copies := tset s.copies id { c with faults := left, code := if c.code == 0 then code else c.code } }
        if left.isEmpty then (run s c.fut).copyCut id else s
  | .matrix word _ _ =>
    match s.mmaOf word with
    | none => s
    | some (_, o) =>
      if !o.faults.contains token then s
      else
        let left := if code == 0 then o.faults.filter (· != token) else []
        let s := s.updMma word (fun o => { o with faults := left, code := if o.code == 0 then code else o.code })
        if left.isEmpty then run s o.fut else s
  | .atom w g m =>
    if code == 0 then s.pageServed w g token else s.faultTrap w g token cAccess f.va m
  | .fetch w g =>
    if code == 0 then s.pageServed w g token else s.faultTrap w g token cFetch f.va (BitVec.allOnes 32)

/-- An answer to an entry (R340): one to a cancelled entry changes nothing else, one to an unknown token is logged. -/
def State.answer (s : State) (vi token code : Nat) : State :=
  match tget (s.vi vi).faults token with
  | none => s.errLog vi 0x05 0 0 0 token
  | some f =>
    if f.entry.isNone then s.errLog vi 0x05 0 0 0 token
    else
      let s := s.updVi vi (fun V => { V with faults := tdel V.faults token })
      if f.cancelled then s else s.resume f token code

/-- FQRESUME_RETRY (R340): ACTION 0. -/
def execFqresumeRetry (vi token : Nat) (s : State) : Host.Outcome State Fault Refusal := .next (s.answer vi token 0)
/-- FQRESUME_ACCESS_ERROR (R337, R340): ACTION 1. -/
def execFqresumeAccessError (vi token : Nat) (s : State) : Host.Outcome State Fault Refusal := .next (s.answer vi token 1)
/-- FQRESUME_UNSERVICEABLE (R337, R340): ACTION 2. -/
def execFqresumeUnserviceable (vi token : Nat) (s : State) : Host.Outcome State Fault Refusal := .next (s.answer vi token 2)
/-- FQRESUME_IGNORED (R338): ACTION 3 is ignored. -/
def execFqresumeIgnored (_vi _token : Nat) (s : State) : Host.Outcome State Fault Refusal := .next s

/-- A new HEAD lies between the old one and TAIL (R338). -/
def Ring.takes (r : Ring) (h : BitVec 17) : Bool := (r.tail - h).toNat ≤ (r.tail - r.head).toNat

/-- Entries that wait for the completion queue, written as far as there is room (R339). -/
def State.drainCqAll (s : State) (vi : Nat) : Nat → State
  | 0 => s
  | n + 1 => (s.drainCq vi).drainCqAll vi n

/-- FQHEAD_WRITE (R338). -/
def execFqheadWrite (vi : Nat) (val : BitVec 32) (s : State) : Host.Outcome State Fault Refusal :=
  .next (let h := val.setWidth 17
    if !(s.vi vi).fq.takes h then s.errLog vi 0x0D 0 0 0 val.toNat
    else s.updVi vi (fun V => { V with fq := { V.fq with head := h } }))

/-- CQHEAD_WRITE (R338, R339): the entries that wait are written as room comes. -/
def execCqheadWrite (vi : Nat) (val : BitVec 32) (s : State) : Host.Outcome State Fault Refusal :=
  .next (let h := val.setWidth 17
    if !(s.vi vi).cq.takes h then s.errLog vi 0x0D 0 0 0 val.toNat
    else
      let s := s.updVi vi (fun V => { V with cq := { V.cq with head := h } })
      s.drainCqAll vi (s.vi vi).cqWait.length)

/-- ELHEAD_WRITE (R338). -/
def execElheadWrite (vi : Nat) (val : BitVec 32) (s : State) : Host.Outcome State Fault Refusal :=
  .next (let h := val.setWidth 17
    if !(s.vi vi).el.takes h then s.errLog vi 0x0D 0 0 0 val.toNat
    else s.updVi vi (fun V => { V with el := { V.el with head := h } }))

/-- What a host read returns. -/
def State.sendRead (s : State) (width : Nat) (v : DWord) : State := { s with sent := s.sent ++ [.readData width v] }

/-- ELLOST_READ (R395): the count is read and cleared. -/
def execEllostRead (vi : Nat) (s : State) : Host.Outcome State Fault Refusal :=
  .next ((s.sendRead 4 ((s.vi vi).ellost.setWidth 64)).updVi vi (fun V => { V with ellost := 0 }))

/-- An invalidation begins, or is ignored and logged while one is under way (R392). -/
def State.invalidate (s : State) (vi : Nat) (pages : Option (Nat × Nat)) (val : Nat) : State :=
  if (s.vi vi).tlbBusy then s.errLog vi 0x0D 0 0 0 val
  else s.updVi vi (fun V => { V with tlbBusy := true, tlbinv := some pages })

/-- TLBINV_RANGE (R392, R395): the pages that meet N + 1 pages of 4 KiB from VA. -/
def execTlbinvRange (vi : Nat) (val : BitVec 64) (s : State) : Host.Outcome State Fault Refusal :=
  .next (s.invalidate vi (some (val.toNat / 2 ^ 12 % 2 ^ 45, val.toNat % 2 ^ 12 + 1)) val.toNat)

/-- TLBINV_ALL (R392): every page of the interface. -/
def execTlbinvAll (vi : Nat) (s : State) : Host.Outcome State Fault Refusal := .next (s.invalidate vi none (2 ^ 63))

/-- A cached translation meets an invalidation. -/
def TlbEntry.meetsInv (e : TlbEntry) (vi : Nat) (inv : Option (Nat × Nat)) : Bool :=
  e.vi == vi && match inv with
    | none => true
    | some (p, n) =>
      let base := e.va - e.va % e.size
      meets base e.size (p * 4096) (n * 4096)

/-- TLB_INVALIDATION_DONE (R392): no TLB holds an invalidated page any more, and BUSY reads 0. -/
def execTlbInvalidationDone (vi : Nat) (s : State) : Host.Outcome State Fault Refusal :=
  .next (match (s.vi vi).tlbinv with
    | none => s
    | some inv =>
      let s := { s with dies := tmap s.dies (fun _ d => { d with
        tlb := tmap d.tlb (fun _ es => es.filter (fun e => !e.meetsInv vi inv)) }) }
      s.updVi vi (fun V => { V with tlbBusy := false, tlbinv := none }))

end Sys2Proof.Machine
end

