-- ==== Sys2Proof/Machine/Sha.lean ====
section
/-! DEFINITION. Machine/Sha.lean: SHA-256 (FIPS 180-4), by which firmware is checked and measured (R419, R421). The
constants are computed from the cube roots and square roots of the first primes, as the standard defines them. -/

namespace Sys2Proof.Machine

/-- The first n primes from a candidate on, among fuel candidates. -/
def primesFrom : Nat → Nat → List Nat → List Nat
  | 0, _, ps => ps
  | fuel + 1, c, ps => primesFrom fuel (c + 1) (if ps.any (fun p => c % p == 0) then ps else ps ++ [c])

/-- The 64 first primes: 2 to 311. -/
def primes64 : List Nat := primesFrom 310 2 []

/-- The largest number of n bits whose power e does not exceed x, by bits from the highest down. -/
def fracBits (e x : Nat) : Nat → Nat → Nat
  | 0, r => r
  | n + 1, r => fracBits e x n (if (r + 2 ^ n) ^ e ≤ x then r + 2 ^ n else r)

/-- The first 32 bits of the fractional part of a root of a prime. -/
def rootFrac (e p : Nat) : Word := BitVec.ofNat 32 (fracBits e (p * 2 ^ (32 * e)) 40 0)

/-- The round constants and the initial hash value. -/
def shaK : List Word := primes64.map (rootFrac 3)
@[inherit_doc shaK] def shaInit : List Word := (primes64.take 8).map (rootFrac 2)

def rotr (x : Word) (n : Nat) : Word := x.rotateRight n

/-- The message schedule: the last 16 words, and how many words are still to be made, newest last. -/
def schedule : Nat → List Word → List Word
  | 0, ws => ws
  | n + 1, ws =>
    let at_ (k : Nat) : Word := ws.getD (ws.length - k) 0
    let s0 := rotr (at_ 15) 7 ^^^ rotr (at_ 15) 18 ^^^ (at_ 15 >>> 3)
    let s1 := rotr (at_ 2) 17 ^^^ rotr (at_ 2) 19 ^^^ (at_ 2 >>> 10)
    schedule n (ws ++ [s1 + at_ 7 + s0 + at_ 16])

/-- One round. -/
def shaRound (h : List Word) (kw : Word × Word) : List Word :=
  match h with
  | [a, b, c, d, e, f, g, x] =>
    let s1 := rotr e 6 ^^^ rotr e 11 ^^^ rotr e 25
    let ch := (e &&& f) ^^^ (~~~e &&& g)
    let t1 := x + s1 + ch + kw.1 + kw.2
    let s0 := rotr a 2 ^^^ rotr a 13 ^^^ rotr a 22
    let maj := (a &&& b) ^^^ (a &&& c) ^^^ (b &&& c)
    [t1 + s0 + maj, a, b, c, d + t1, e, f, g]
  | h => h

/-- A big-endian word. -/
def beWord (bs : List Byte) : Word := BitVec.ofNat 32 (bs.foldl (fun n b => n * 256 + b.toNat) 0)
/-- The bytes of a number, most significant first. -/
def beBytes (n x : Nat) : List Byte := (leBytes n x).reverse

/-- The words of a block of 64 bytes. -/
def blockWords (bs : List Byte) : List Word := (List.range 16).map (fun i => beWord ((bs.drop (4 * i)).take 4))

/-- The hash value after one block. -/
def shaBlock (h : List Word) (bs : List Byte) : List Word :=
  let ws := schedule 48 (blockWords bs)
  (h.zip ((shaK.zip ws).foldl shaRound h)).map (fun p => p.1 + p.2)

/-- The hash value after n blocks. -/
def shaBlocks : Nat → List Byte → List Word → List Word
  | 0, _, h => h
  | n + 1, bs, h => shaBlocks n (bs.drop 64) (shaBlock h (bs.take 64))

/-- A message with its padding. -/
def shaPad (bs : List Byte) : List Byte :=
  bs ++ [0x80] ++ List.replicate ((119 - bs.length % 64) % 64) 0 ++ beBytes 8 (8 * bs.length)

/-- The digest of a message: 32 bytes. -/
def sha256 (bs : List Byte) : List Byte :=
  let p := shaPad bs
  (shaBlocks (p.length / 64) p shaInit).flatMap (fun w => beBytes 4 w.toNat)

end Sys2Proof.Machine
end

