-- ==== Sys2Proof/Machine/Boot.lean ====
section
/-! DEFINITION. Machine/Boot.lean: bring-up from package reset to READY, the verification of firmware, and recovery (R419,
R420, R422, R423). -/

namespace Sys2Proof.Machine

/-- Where a firmware slot lies in flash: A, B. Log entry 44: DESIGN CHOICE. -/
def slotBase (b : Bool) : Nat := if b then 2 ^ 32 else 0

/-- n bytes of a slot from an offset. -/
def State.slotBytes (s : State) (b : Bool) (off n : Nat) : List Byte := bytesAt s.mem (flashKey (slotBase b + off)) n
def State.slotNum (s : State) (b : Bool) (off n : Nat) : Nat := leNat (s.slotBytes b off n)

/-- A digest as a number of 256 bits, the first byte most significant. -/
def digestBits (bs : List Byte) : BitVec 256 := BitVec.ofNat 256 (bs.foldl (fun n b => n * 256 + b.toNat) 0)

/-- A key digest that is fused and not revoked. -/
def Boot.holds (b : Boot) (d : BitVec 256) : Bool :=
  (b.digests.take 4).zipIdx.any (fun x => x.1 == d && !b.revoked.getLsbD x.2)

/-- The body of a slot's image, and its digest. -/
def State.slotBody (s : State) (b : Bool) : List Byte := s.slotBytes b 0x1F00 (s.slotNum b 0x08 8)

/-- Why the boot ROM rejects a slot (R419, R420), or 0. -/
def State.slotFail (s : State) (b : Bool) : BitVec 8 :=
  let key := s.slotBytes b 0x30 32
  if !s.boot.holds (digestBits (sha256 key)) then 0x01
  else if s.slotNum b 0x04 4 < s.boot.minSvn.toNat then 0x02
  else if !Config.slhVerify key (s.slotBytes b 0x00 0x50) (s.slotBytes b 0x50 7856) then 0x03
  else if sha256 (s.slotBody b) != s.slotBytes b 0x10 32 then 0x04
  else 0x00

/-- The module enters recovery (R419). -/
def State.recover (s : State) (fail : BitVec 8) : State :=
  { s with boot := { s.boot with phase := .recovery, fail := fail, erased := [] } }

/-- Verification (R419): slot A, then slot B; FAIL keeps the cause of the last slot that was rejected. -/
def State.verify (s : State) : State :=
  let a := s.slotFail false
  if a == 0 then { s with boot := { s.boot with phase := .verified, slot := false } }
  else
    let b := s.slotFail true
    if b == 0 then { s with boot := { s.boot with phase := .verified, slot := true, fail := a } } else s.recover b

/-- Storage that a package reset leaves as it is: flash, and memory outside the module. -/
def outlasts (key : Nat) : Bool :=
  0xC000000000 ≤ key && key < 2 ^ 100 || key / 2 ^ 100 == 8 || key / 2 ^ 100 == 9

/-- PACKAGE_RESET (R422): every register takes its reset value, and REFTICK starts at 0. Fuses and flash stay, and the
generations of clusters (R181). Log entry 44: DESIGN CHOICE. -/
def execPackageReset (s : State) : Host.Outcome State Fault Refusal :=
  .next { State.reset with
    mem := s.mem.filter (fun c => outlasts c.1)
    poison := s.poison.filter (fun u => outlasts (8 * u))
    clusters := (s.clusters.filter (fun c => c.2.gen != 0)).map (fun c => (c.1, { gen := c.2.gen }))
    boot := { digests := s.boot.digests, revoked := s.boot.revoked, minSvn := s.boot.minSvn }
    sent := s.sent, uid := s.uid, fresh := s.fresh, agenda := s.agenda }

/-- BOOT_ROM_VERIFY (R419, R422): phase 2. -/
def execBootRomVerify (s : State) : Host.Outcome State Fault Refusal :=
  .next (if s.boot.phase = .reset then s.verify else s)

/-- A byte of HBM. -/
def inHbm (key : Nat) : Bool := key < 0xC000000000

/-- HBM_TRAINING (R422): phase 3. All of HBM is written as zero, or training has failed. -/
def execHbmTraining (ok : Bool) (s : State) : Host.Outcome State Fault Refusal :=
  .next (if s.boot.phase != .verified then s
    else if !ok then s.recover 0x05
    else { s with
      mem := s.mem.filter (fun c => !inHbm c.1), poison := s.poison.filter (fun u => !inHbm (8 * u)), hbmErr := []
      boot := { s.boot with phase := .memory } })

/-- LINK_TRAINING (R420, R422): phase 4, of die bridges, die rings and Transit ports. -/
def execLinkTraining (ok : Bool) (s : State) : Host.Outcome State Fault Refusal :=
  .next (if s.boot.phase != .memory then s
    else if !ok then s.recover 0x06
    else { s with boot := { s.boot with phase := .links } })

/-- CXL_ENUMERATION (R422, R423): phase 5, with the capacity in bytes of the expander behind each die's port, 0 where there
is none or its link fails to train. -/
def execCxlEnumeration (caps : List Nat) (s : State) : Host.Outcome State Fault Refusal :=
  .next (if s.boot.phase != .links then s
    else
      let s := (List.range 4).foldl (fun (s : State) d =>
        let gib := min 1024 (caps.getD d 0 / 2 ^ 30)
        s.updDie d (fun x => { x with cxlwin := BitVec.ofNat 11 gib, cxlUp := gib != 0 })) s
      { s with boot := { s.boot with phase := .windows } })

/-- BRING_UP_READY (R422): phase 6. The die scratchpads are zeroed and READY is set. -/
def execBringUpReady (s : State) : Host.Outcome State Fault Refusal :=
  .next (if s.boot.phase != .windows then s
    else { s with
      mem := s.mem.filter (fun c => c.1 / 2 ^ 100 != 1), poison := s.poison.filter (fun u => 8 * u / 2 ^ 100 != 1)
      boot := { s.boot with phase := .ready } })

/-- BOOTSTAT_RETRY (R419, R420): in recovery verification runs again. -/
def execBootstatRetry (s : State) : Host.Outcome State Fault Refusal :=
  .next (if s.boot.phase = .recovery then s.verify else s)

/-- FLASH_WINDOW_WRITE (R419): in recovery an aligned write of 8 bytes to slot B, whose 64 KiB block is erased first if it
has not been written since recovery began. -/
def execFlashWindowWrite (off : Nat) (val : BitVec 64) (s : State) : Host.Outcome State Fault Refusal :=
  .next (if s.boot.phase != .recovery || off % 8 != 0 || off ≥ 2 ^ 32 then s
    else
      let b := off / 65536
      let s := if s.boot.erased.contains b then s
        else
          { s with
            mem := putBytes s.mem (flashKey (slotBase true + b * 65536)) (List.replicate 65536 Config.erasedByte)
            boot := { s.boot with erased := s.boot.erased ++ [b] } }
      { s with mem := putBytes s.mem (flashKey (slotBase true + off)) (leBytes 8 val.toNat) })

/-- Until READY is set, and not in recovery, the module asks for configuration requests again (R419, R422). -/
def Boot.configurable (b : Boot) : Bool := b.phase == .ready || b.phase == .recovery

/-- CONFIGURATION_REQUEST (R393, R422): completes with Configuration Request Retry Status until READY is set; afterwards it
sets a function's MSI-X enable and function mask. -/
def execConfigurationRequest (fn : Nat) (msixOn msixMask : Bool) (s : State) : Host.Outcome State Fault Refusal :=
  .next (let s1 := { s with sent := s.sent ++ [.config (!s.boot.configurable)] }
    if s.boot.phase = .ready && fn < 64 then
      s1.updVi fn (fun V => { V with msixOn := msixOn, msixMask := msixMask })
    else s1)

end Sys2Proof.Machine
end

