-- ==== Sys2Proof/Machine/Integer.lean ====
section
/-! DEFINITION. Machine/Integer.lean: the words of the vector-integer block (R76 to R87). -/

namespace Sys2Proof.Machine

/-- A shift or rotation (R79): with SUB bit 5, B is the count itself. -/
def State.shiftWord (s : State) (t : Tri) (op : Bits) : State :=
  if t.sub.getLsbD 5 then
    s.triWord t shUn false (fun a _ _ => (bitOp op (widthOf t.ty) a (t.b.setWidth 64), 0))
  else s.triWord t shShift false (fun a b _ => (bitOp op (widthOf t.ty) a b, 0))

/-- What a lane of `addc` or `subb` writes (R78): the result, and the carry or borrow out to p[C]. With .first the carry
in is 0 and p[C] is not read. -/
def State.carryLane (t : Tri) (op : BitVec 64 → BitVec 64 → Bool → BitVec 64 × Bool) (s : State) (l : Nat) :
    List (Target × Cell) × Flags :=
  let (a, b, c, _) := s.sources t shCarry l
  let a2 := (s.operand l t.ty .v1 false t.a 0).2 || (s.operand l t.ty .v1 t.bu t.b 4).2
  let bad := a2 || (!t.sf && (s.operand l t.ty .pred false t.c 8).2)
  let (v, out) := op a b (!t.sf && c != 0)
  (vecResult l t.d.toNat 1 v bad ++ predResult l t.c.toNat out bad, 0)

@[inherit_doc State.carryLane] def State.carryWord (s : State) (t : Tri)
    (op : BitVec 64 → BitVec 64 → Bool → BitVec 64 × Bool) : State :=
  s.byLane t.h (triUses t shCarry false) false (State.carryLane t op)

/-- The vector registers of a conversion (R86, R93): the source has the width of its own type. -/
def cvtUses (t : Tri) : Uses := ⟨[(t.a.toNat, (cvtSrc t).count 0)], [(t.d.toNat, Opd.count t.ty .vT)], false⟩

/-- What a lane of a conversion writes (R86, R93). -/
def State.cvtLane (t : Tri) (f : BitVec 64 → BitVec 64 × Flags) (s : State) (l : Nat) :
    List (Target × Cell) × Flags :=
  let (a, bad) := s.operand l 0 (cvtSrc t) false t.a 0
  let r := f a
  (vecResult l t.d.toNat (Opd.count t.ty .vT) r.1 bad, r.2)

/-- R77: A + B, wrapped, or clamped with .sat. -/
def execAdd (t : Tri) (s : State) : Host.Outcome State Fault Refusal :=
  .next (s.triWord t shBin false (fun a b _ => (arith .add t.ty t.sf a b 0, 0)))

/-- R77: A + imm, wrapped to 32 bits. -/
def execAddImm (t : Imm) (s : State) : Host.Outcome State Fault Refusal :=
  .next (s.immWord t true (fun a => arith .add 1 false a (t.imm.setWidth 64) 0))

/-- R77: A − B. -/
def execSub (t : Tri) (s : State) : Host.Outcome State Fault Refusal :=
  .next (s.triWord t shBin false (fun a b _ => (arith .sub t.ty t.sf a b 0, 0)))

/-- R77: A − imm, wrapped to 32 bits. -/
def execSubImm (t : Imm) (s : State) : Host.Outcome State Fault Refusal :=
  .next (s.immWord t true (fun a => arith .sub 1 false a (t.imm.setWidth 64) 0))

/-- R77: A × B. -/
def execMul (t : Tri) (s : State) : Host.Outcome State Fault Refusal :=
  .next (s.triWord t shBin false (fun a b _ => (arith .mul t.ty t.sf a b 0, 0)))

/-- R77: the upper half of A × B. -/
def execMulhi (t : Tri) (s : State) : Host.Outcome State Fault Refusal :=
  .next (s.triWord t shBin false (fun a b _ => (arith .mulhi t.ty t.sf a b 0, 0)))

/-- R77: A × B + C. -/
def execMad (t : Tri) (s : State) : Host.Outcome State Fault Refusal :=
  .next (s.triWord t shTern false (fun a b c => (arith .mad t.ty t.sf a b c, 0)))

/-- R78: addition with carry. -/
def execAddc (t : Tri) (s : State) : Host.Outcome State Fault Refusal :=
  .next (s.carryWord t addCarry)

/-- R78: subtraction with borrow. -/
def execSubb (t : Tri) (s : State) : Host.Outcome State Fault Refusal :=
  .next (s.carryWord t subBorrow)

/-- R77: 0 − A. -/
def execNeg (t : Tri) (s : State) : Host.Outcome State Fault Refusal :=
  .next (s.triWord t shUn false (fun a _ _ => (arith .neg t.ty t.sf a 0 0, 0)))

/-- R77: |A|. -/
def execAbs (t : Tri) (s : State) : Host.Outcome State Fault Refusal :=
  .next (s.triWord t shUn false (fun a _ _ => (arith .abs t.ty t.sf a 0 0, 0)))

/-- R77: the lesser operand. -/
def execMin (t : Tri) (s : State) : Host.Outcome State Fault Refusal :=
  .next (s.triWord t shBin false (fun a b _ => (arith .min t.ty t.sf a b 0, 0)))

/-- R77: the greater operand. -/
def execMax (t : Tri) (s : State) : Host.Outcome State Fault Refusal :=
  .next (s.triWord t shBin false (fun a b _ => (arith .max t.ty t.sf a b 0, 0)))

/-- R79. -/
def execAnd (t : Tri) (s : State) : Host.Outcome State Fault Refusal :=
  .next (s.triWord t shBin false (fun a b _ => (bitOp .and (widthOf t.ty) a b, 0)))

/-- R79, with a 32-bit immediate. -/
def execAndImm (t : Imm) (s : State) : Host.Outcome State Fault Refusal :=
  .next (s.immWord t true (fun a => bitOp .and 32 a (t.imm.setWidth 64)))

/-- R79. -/
def execOr (t : Tri) (s : State) : Host.Outcome State Fault Refusal :=
  .next (s.triWord t shBin false (fun a b _ => (bitOp .or (widthOf t.ty) a b, 0)))

/-- R79, with a 32-bit immediate. -/
def execOrImm (t : Imm) (s : State) : Host.Outcome State Fault Refusal :=
  .next (s.immWord t true (fun a => bitOp .or 32 a (t.imm.setWidth 64)))

/-- R79. -/
def execXor (t : Tri) (s : State) : Host.Outcome State Fault Refusal :=
  .next (s.triWord t shBin false (fun a b _ => (bitOp .xor (widthOf t.ty) a b, 0)))

/-- R79, with a 32-bit immediate. -/
def execXorImm (t : Imm) (s : State) : Host.Outcome State Fault Refusal :=
  .next (s.immWord t true (fun a => bitOp .xor 32 a (t.imm.setWidth 64)))

/-- R79: the complement. -/
def execNot (t : Tri) (s : State) : Host.Outcome State Fault Refusal :=
  .next (s.triWord t shUn false (fun a _ _ => (bitOp .not (widthOf t.ty) a 0, 0)))

/-- R79: A and not B. -/
def execAndn (t : Tri) (s : State) : Host.Outcome State Fault Refusal :=
  .next (s.triWord t shBin false (fun a b _ => (bitOp .andn (widthOf t.ty) a b, 0)))

/-- R79. -/
def execShl (t : Tri) (s : State) : Host.Outcome State Fault Refusal :=
  .next (s.shiftWord t .shl)

/-- R79. -/
def execShr (t : Tri) (s : State) : Host.Outcome State Fault Refusal :=
  .next (s.shiftWord t .shr)

/-- R79. -/
def execSar (t : Tri) (s : State) : Host.Outcome State Fault Refusal :=
  .next (s.shiftWord t .sar)

/-- R79. -/
def execRol (t : Tri) (s : State) : Host.Outcome State Fault Refusal :=
  .next (s.shiftWord t .rol)

/-- R80: a 32-bit count. -/
def execClz (t : Tri) (s : State) : Host.Outcome State Fault Refusal :=
  .next (s.triWord t shCount false (fun a _ _ => (countOp .clz (widthOf t.ty) a, 0)))

/-- R80: a 32-bit count. -/
def execCtz (t : Tri) (s : State) : Host.Outcome State Fault Refusal :=
  .next (s.triWord t shCount false (fun a _ _ => (countOp .ctz (widthOf t.ty) a, 0)))

/-- R80: a 32-bit count. -/
def execPopc (t : Tri) (s : State) : Host.Outcome State Fault Refusal :=
  .next (s.triWord t shCount false (fun a _ _ => (countOp .popc (widthOf t.ty) a, 0)))

/-- R80: the bits in reverse order. -/
def execBrev (t : Tri) (s : State) : Host.Outcome State Fault Refusal :=
  .next (s.triWord t shUn false (fun a _ _ => (countOp .brev (widthOf t.ty) a, 0)))

/-- R81: a field of A. -/
def execBfe (t : Tri) (s : State) : Host.Outcome State Fault Refusal :=
  .next (s.triWord t shShift false (fun a b _ => (bitExtract t.ty a b, 0)))

/-- R81: a field inserted into B. -/
def execBfi (t : Tri) (s : State) : Host.Outcome State Fault Refusal :=
  .next (s.triWord t shBfi false (fun a b c => (bitInsert t.ty a b c, 0)))

/-- R82: bytes of A and B by the selectors of C. -/
def execPrmt (t : Tri) (s : State) : Host.Outcome State Fault Refusal :=
  .next (s.triWord t shWord3 false (fun a b c => (permute a b c, 0)))

/-- R83: p[C] chooses A or B. -/
def execSel (t : Tri) (s : State) : Host.Outcome State Fault Refusal :=
  .next (s.triWord t shSel false (fun a b c => (if c != 0 then a else b, 0)))

/-- R84: cond(A, B) and p[C]. -/
def execCmp (t : Tri) (s : State) : Host.Outcome State Fault Refusal :=
  .next (s.triWord t shCmp false (fun a b c =>
    (if intCond t.var.toNat (ival t.ty a) (ival t.ty b) && c != 0 then 1 else 0, 0)))

/-- R85: D := B. -/
def execMov (t : Tri) (s : State) : Host.Outcome State Fault Refusal :=
  .next (s.triWord t shMov false (fun _ b _ => (b, 0)))

/-- R85: D := imm. -/
def execMovi (t : Imm) (s : State) : Host.Outcome State Fault Refusal :=
  .next (s.immWord t false (fun _ => t.imm.setWidth 64))

/-- R85: the register after D receives the immediate; D keeps its value. -/
def execMovh (t : Imm) (s : State) : Host.Outcome State Fault Refusal :=
  .next (s.immWord { t with d := t.d + 1 } false (fun _ => t.imm.setWidth 64))

/-- R86: to an integer type, from the type in SUB bits 2:0. -/
def execCvt (t : Tri) (s : State) : Host.Outcome State Fault Refusal :=
  .next (s.byLane t.h (cvtUses t) false (State.cvtLane t (fun a => cvtOp t.ty (t.sub.extractLsb' 0 3) t.rm t.sf a)))

/-- R87: A + x × 2^k. -/
def execLea (t : Tri) (s : State) : Host.Outcome State Fault Refusal :=
  .next (s.triWord t shShift false (fun a b _ => (leaOp t.ty (t.sub.toNat % 8) a b, 0)))

end Sys2Proof.Machine
end

