-- ==== Sys2Proof/Machine/Fp.lean ====
section
/-! DEFINITION. Machine/Fp.lean: the words of the floating-point block (R89 to R99). -/

namespace Sys2Proof.Machine

/-- A word of the floating-point block with one destination of the width of TY (R89). -/
def State.fpWord (s : State) (t : Tri) (sh : Shape) (long : Bool) (op : FpOp) : State :=
  s.triWord t sh long (fpOp op t.ty t.rm t.sf t.var.toNat)

/-- R90: A + B, rounded once. -/
def execFadd (t : Tri) (s : State) : Host.Outcome State Fault Refusal :=
  .next (s.fpWord t shBin false .add)

/-- R90: A − B, rounded once. -/
def execFsub (t : Tri) (s : State) : Host.Outcome State Fault Refusal :=
  .next (s.fpWord t shBin false .sub)

/-- R90: A × B, rounded once. -/
def execFmul (t : Tri) (s : State) : Host.Outcome State Fault Refusal :=
  .next (s.fpWord t shBin false .mul)

/-- R90: A × B + C, rounded once. -/
def execFfma (t : Tri) (s : State) : Host.Outcome State Fault Refusal :=
  .next (s.fpWord t shTern false .fma)

/-- R32, R91. -/
def execFmin (t : Tri) (s : State) : Host.Outcome State Fault Refusal :=
  .next (s.fpWord t shBin false .min)

/-- R32, R91. -/
def execFmax (t : Tri) (s : State) : Host.Outcome State Fault Refusal :=
  .next (s.fpWord t shBin false .max)

/-- R91: cond(A, B) and p[C]. -/
def execFcmp (t : Tri) (s : State) : Host.Outcome State Fault Refusal :=
  .next (s.triWord t shCmp false (fun a b c =>
    let r := fCmp (fmtOf t.ty) t.var.toNat (fpat t.ty a) (fpat t.ty b)
    (if r.1 && c != 0 then 1 else 0, r.2)))

/-- R92: one bit for the class of A. -/
def execFclass (t : Tri) (s : State) : Host.Outcome State Fault Refusal :=
  .next (s.triWord t shCount false (fun a _ _ => (BitVec.ofNat 64 (fClass (fmtOf t.ty) (fpat t.ty a)), 0)))

/-- R93: to a floating-point type, from the type in SUB bits 2:0. -/
def execFcvt (t : Tri) (s : State) : Host.Outcome State Fault Refusal :=
  .next (s.byLane t.h (cvtUses t) false (State.cvtLane t (fun a => fcvtOp t.ty (t.sub.extractLsb' 0 3) t.rm a)))

/-- R94: to an integral value of the format. -/
def execFrint (t : Tri) (s : State) : Host.Outcome State Fault Refusal :=
  .next (s.fpWord t shUn false .rint)

/-- R90: A / B; long in .f64. -/
def execFdiv (t : Tri) (s : State) : Host.Outcome State Fault Refusal :=
  .next (s.fpWord t shBin (t.ty == 5) .div)

/-- R90: the square root; long in .f64. -/
def execFsqrt (t : Tri) (s : State) : Host.Outcome State Fault Refusal :=
  .next (s.fpWord t shUn (t.ty == 5) .sqrt)

/-- R35 to R41, R95: a frozen transcendental; long. -/
def execFrcp (t : Tri) (s : State) : Host.Outcome State Fault Refusal :=
  .next (s.fpWord t shUn true (.trans .rcp))

/-- R35 to R41, R95: a frozen transcendental; long. -/
def execFrsq (t : Tri) (s : State) : Host.Outcome State Fault Refusal :=
  .next (s.fpWord t shUn true (.trans .rsq))

/-- R35 to R41, R95: a frozen transcendental; long. -/
def execFexp2 (t : Tri) (s : State) : Host.Outcome State Fault Refusal :=
  .next (s.fpWord t shUn true (.trans .exp2))

/-- R35 to R41, R95: a frozen transcendental; long. -/
def execFlog2 (t : Tri) (s : State) : Host.Outcome State Fault Refusal :=
  .next (s.fpWord t shUn true (.trans .log2))

/-- R35 to R41, R95: a frozen transcendental; long. -/
def execFsin (t : Tri) (s : State) : Host.Outcome State Fault Refusal :=
  .next (s.fpWord t shUn true (.trans .sin))

/-- R35 to R41, R95: a frozen transcendental; long. -/
def execFcos (t : Tri) (s : State) : Host.Outcome State Fault Refusal :=
  .next (s.fpWord t shUn true (.trans .cos))

/-- R96: A × 2^B. -/
def execFscale (t : Tri) (s : State) : Host.Outcome State Fault Refusal :=
  .next (s.fpWord t shShift false .scale)

/-- R97: floor(log2 |A|). -/
def execFgetexp (t : Tri) (s : State) : Host.Outcome State Fault Refusal :=
  .next (s.triWord t shCount false (fun a _ _ =>
    let r := fGetexp (fmtOf t.ty) (fpat t.ty a)
    (r.1.setWidth 64, r.2)))

/-- R98: the magnitude of A with a chosen sign; the variant .abs reads no B. -/
def execFcopysign (t : Tri) (s : State) : Host.Outcome State Fault Refusal :=
  .next (s.fpWord t (if t.var == 3 then shUn else shBin) false .copysign)

/-- R99: two products and an addend, rounded once. -/
def execFdot2 (t : Tri) (s : State) : Host.Outcome State Fault Refusal :=
  .next (s.triWord t shWord3 false (dot2Op t.ty t.rm))

end Sys2Proof.Machine
end

