-- ==== Sys2Proof/Machine/Power.lean ====
section
/-! DEFINITION. Machine/Power.lean: operating classes (R412 to R414), the thermal trip (R416), energy (R418), and the
register of overflow records (R244). -/

namespace Sys2Proof.Machine

/-- The class that a value of QCLASS names for a rail group (R413). -/
def classOf (val : Nat) (g : Nat) : Nat := val / 2 ^ (2 * g) % 4

/-- A rail group's class is written (R414): a new target waits for the group to empty, without starting again a wait that has
begun; the class in effect clears PEND. -/
def Group.target (k : Group) (c : Nat) : Group :=
  if c == k.cls then { k with pend := none, emptySince := none } else { k with pend := some c }

/-- QCLASS_WRITE (R413, R414). -/
def execQclassWrite (die : Nat) (val : BitVec 64) (s : State) : Host.Outcome State Fault Refusal :=
  .next (if die ≥ 4 then s
    else (List.range 12).foldl (fun (s : State) g => s.updGroup (die * 12 + g) (·.target (classOf val.toNat g))) s)

/-- A rail group holds no block, no wave and no pinned storage (R414). -/
def State.groupEmpty (s : State) (g : Nat) : Bool :=
  s.blocks.all (fun b => groupOf b.2.core != g || !b.2.live || b.2.released && !s.pinned b.1)

/-- CLASS_CHANGE_EFFECT (R412, R414): a rail group that is to change its class and is empty begins the wait of 200 rt; at its
end the class takes effect. -/
def execClassChangeEffect (group : Nat) (s : State) : Host.Outcome State Fault Refusal :=
  .next (let k := s.group group
    match k.pend, k.emptySince with
    | none, _ => s
    | some _, none => if s.groupEmpty group then s.updGroup group (fun k => { k with emptySince := some s.now }) else s
    | some c, some t =>
      if s.now < t + 594000 then s
      else s.updGroup group (fun k => { k.rebase s.now with cls := c, pend := none, emptySince := none, boosted := false }))

/-- ENERGY_ACCUMULATE (R418): the energy of the last 100 rt, in nanojoules as it was measured; the fraction of a microjoule
carries. -/
def execEnergyAccumulate (die nanojoules : Nat) (s : State) : Host.Outcome State Fault Refusal :=
  .next (let d := s.die die
    if die ≥ 4 || s.refTick / 100 ≤ d.energyAt then s
    else
      let n := d.energyFrac + nanojoules
      s.updDie die (fun d => { d with
        energy := d.energy + BitVec.ofNat 64 (n / 1000), energyFrac := n % 1000, energyAt := d.energyAt + 1 }))

/-- ENERGY_READ_LATCH (R418): a 32-bit read of the low half latches the high half. -/
def execEnergyReadLatch (die : Nat) (s : State) : Host.Outcome State Fault Refusal :=
  .next (let e := (s.die die).energy
    if die ≥ 4 then s
    else (s.updDie die (fun d => { d with energyLatch := e.extractLsb' 32 32 })).sendRead 4 ((e.setWidth 32).setWidth 64))

/-- THERMAL_TRIP_CHANGE (R416): a new hottest reading; TRIP is set at 105 and cleared at 95. -/
def execThermalTripChange (die : Nat) (tmax : BitVec 8) (s : State) : Host.Outcome State Fault Refusal :=
  .next (if die ≥ 4 then s
    else s.updDie die (fun d => { d with
      tmax := tmax, trip := if tmax.toNat ≥ 105 then true else if tmax.toNat ≤ 95 then false else d.trip }))

/-- FUTAREA_WRITE (R244): takes effect only while no overflow record is in use; otherwise it is logged. -/
def execFutareaWrite (die : Nat) (val : BitVec 64) (s : State) : Host.Outcome State Fault Refusal :=
  .next (if die ≥ 4 then s
    else if s.futs.any (fun f => f.1 / 2 ^ 22 == die && f.1 % 2 ^ 22 ≥ 262144 && f.2.st != .free) then
      s.errLog 0 0x04 die 0 0 0
    else s.updDie die (fun d => { d with futArea := val &&& 0xFFC01FFFFFFFFFFF }))

end Sys2Proof.Machine
end

