-- ==== Sys2Proof/Machine/Rings.lean ====
section
/-! DEFINITION. Machine/Rings.lean: packets on the die rings and across the bridges (R379 to R387). Ring 0 is the clockwise
ring. A port is numbered by its stop and ring; what the packets carry performs at its home by events of its own.
Log entry 10: DEDUCED. -/

namespace Sys2Proof.Machine

/-- The parts of a die that its ring stops serve (R379). -/
inductive DiePart where
  | core (cix : Nat) | quad (q : Nat) | slice (i : Nat) | hbm (k : Nat) | transit (k : Nat)
  | gnomon | cxl | meridian | walkers | umbra | parallax | hostPort | bridgeH | bridgeV
  deriving DecidableEq, Repr

/-- The stop that serves a part (R379). -/
def DiePart.stop : DiePart → Nat
  | .core cix => cix / 12
  | .quad q => q / 3
  | .slice i => i / 2
  | .hbm k => 2 * k + 1
  | .transit 0 => 2
  | .transit k => k + 4
  | .gnomon => 2
  | .cxl => 6
  | .meridian | .walkers | .umbra | .parallax | .hostPort => 7
  | .bridgeH => 0
  | .bridgeV => 4

/-- The die and the part that are the home of a byte of the die scratchpad or of a device physical address (R379, R387,
R388): none for storage that a core reaches without the ring, and for an address that lies nowhere. -/
def State.homeDie (s : State) (key : Nat) : Option (Nat × DiePart) :=
  match key / 2 ^ 100 with
  | 0 => match dpaTarget s key with
    | .hbm die _ => some (die, .gnomon)
    | .cxl die => some (die, .gnomon)
    | .host | .peer => some (0, .gnomon)
    | .nowhere => none
  | 1 => some (key / 2 ^ 60 % 4, .slice (key % 2 ^ 27 / 2 ^ 23))
  | _ => none

/-- The die that a bridge of a die leads to (R386): H to the die of its row, V to the die of its column. -/
def bridgeTo (die stop : Nat) : Nat := if stop == DiePart.bridgeH.stop then Nat.xor die 1 else Nat.xor die 2

/-- The stop of a die to which a packet goes next (R386): its own stop on its own die, otherwise bridge H while the columns
differ and then bridge V. -/
def legStop (die : Nat) (far : Nat × Nat) : Nat :=
  if die == far.1 then far.2 else if die % 2 != far.1 % 2 then DiePart.bridgeH.stop else DiePart.bridgeV.stop

/-- The ring of a packet, and its port at a stop. -/
def Packet.ring (p : Packet) : Nat := if p.cw then 0 else 1
def portKey (stop ring : Nat) : Nat := stop * 2 + ring

/-- A port with the slots that have come back by a fabric cycle (R381). -/
def Port.settle (p : Port) (t : Nat) : Port :=
  let back := p.returns.filter (fun r => r.1 ≤ t)
  { p with
    shared := p.shared + 4 * (back.filter (fun r => !r.2)).length
    escape := p.escape + 4 * (back.filter (fun r => r.2)).length
    returns := p.returns.filter (fun r => t < r.1) }

/-- A port as it stands in this fabric cycle. -/
def State.port (s : State) (die stop ring : Nat) : Port := (tgetD (s.die die).ports (portKey stop ring) {}).settle s.fabric

def State.updPort (s : State) (die stop ring : Nat) (f : Port → Port) : State :=
  let p := f (s.port die stop ring)
  s.updDie die (fun d => { d with ports := tset d.ports (portKey stop ring) p })

/-- The route from a stop to another (R383): clockwise or not, and the hops. -/
def routeOf (mode src dst : Nat) : Bool × Nat :=
  let d := (dst + 8 - src) % 8
  match mode with
  | 1 => (true, d)
  | 2 => (false, 8 - d)
  | _ => if d ≤ 4 then (true, d) else (false, 8 - d)

/-- A packet for another stop of a die stands in its injection port (R383, R384). -/
def State.inject (s : State) (die src dst : Nat) (far : Nat × Nat) : State :=
  let (cw, hops) := routeOf (s.die die).route.toNat src dst
  let t := s.fabric
  let (id, s) := s.take
  let p : Packet :=
    { cw := cw, dst := dst, hops := hops, stop := src, injecting := true, vc := 0, ready := t, arrived := t, far := far }
  s.updDie die (fun d => { d with packets := tset d.packets id p })

/-- A packet at a stop of a die goes on to where it is bound (R383, R386): over the ring when its next stop is another one,
otherwise over the bridge that stands there, or to its destination. No route crosses more than two bridges. -/
def State.route (s : State) : Nat → Nat → Nat → Nat × Nat → State
  | 0, _, _, _ => s
  | n + 1, die, src, far =>
    let dst := legStop die far
    if src != dst then s.inject die src dst far
    else if die == far.1 then s
    else s.route n (bridgeTo die dst) dst far

/-- Where the destination of RING_PACKET_INJECT lies: 0 to 7 are the stops of the packet's own die, 8 × (1 + d) + k is stop
k of die d. Log entry 71: DESIGN CHOICE. -/
def packetFar (die dst : Nat) : Nat × Nat := (if dst < 8 then die else dst / 8 - 1, dst % 8)

/-- RING_PACKET_INJECT (R383, R384, R386): a packet for another stop, of this die or of another, is sent on its way. -/
def execRingPacketInject (die src dst : Nat) (s : State) : Host.Outcome State Fault Refusal :=
  .next (if die ≥ 4 || src ≥ 8 || dst ≥ 40 then s else s.route 3 die src (packetFar die dst))

/-- The stop that a packet goes to next. -/
def Packet.nextStop (p : Packet) : Nat := if p.cw then (p.stop + 1) % 8 else (p.stop + 7) % 8

/-- A packet has crossed its ring's dateline once it has taken its next link (R384). -/
def Packet.crossing (p : Packet) : Bool := p.crossed || (if p.cw then p.stop == 7 else p.stop == 0)

/-- How many of the eight escape buffers of a ring are free, counting reservations (R384). -/
def State.freeEscapes (s : State) (die ring : Nat) : Nat :=
  ((List.range 8).filter (fun i => (s.port die i ring).escape ≥ 4)).length

/-- The channel of the next port that takes a packet now (R384): none while it must wait. -/
def State.channelFor (s : State) (die : Nat) (p : Packet) : Option Nat :=
  let q := s.port die p.nextStop p.ring
  if q.shared ≥ 4 then some (if p.crossing then 1 else 0)
  else if q.escape ≥ 4 && (!p.injecting && p.vc == 2 || s.freeEscapes die p.ring ≥ 2) then some 2
  else none

/-- The class of a candidate for an output link, the first served lowest (R384). -/
def Packet.rank (p : Packet) : Nat := if p.injecting then 3 else 2 - p.vc

/-- A packet can be sent on in this fabric cycle (R382, R384). -/
def State.sendable (s : State) (die : Nat) (p : Packet) : Bool :=
  (p.injecting || p.stop != p.dst) && p.ready ≤ s.fabric && (s.port die p.stop p.ring).busy ≤ s.fabric
    && (s.channelFor die p).isSome

/-- A packet that its output link serves before another (R384): by class, by arrival, by number. -/
def servedBefore (a b : Nat × Packet) : Bool :=
  a.2.rank < b.2.rank || a.2.rank == b.2.rank
    && (a.2.arrived < b.2.arrived || a.2.arrived == b.2.arrived && a.1 < b.1)

/-- The slots that a packet leaves come back in the fabric cycle after its tail (R381). -/
def State.leavePort (s : State) (die : Nat) (p : Packet) : State :=
  if p.injecting then s
  else s.updPort die p.stop p.ring (fun q => { q with returns := q.returns ++ [(s.fabric + 4, p.vc == 2)] })

/-- RING_HOP (R381, R382, R384): the head of a packet is sent to the next port. -/
def execRingHop (die pkt : Nat) (s : State) : Host.Outcome State Fault Refusal :=
  .next (match tget (s.die die).packets pkt with
    | none => s
    | some p =>
      let rival (x : Nat × Packet) : Bool := x.2.stop == p.stop && x.2.cw == p.cw && s.sendable die x.2
      if !s.sendable die p || (s.die die).packets.any (fun x => rival x && servedBefore x (pkt, p)) then s
      else match s.channelFor die p with
        | none => s
        | some vc =>
          let t := s.fabric
          let s := s.leavePort die p
          let s := s.updPort die p.stop p.ring (fun q => { q with busy := t + 4 })
          let s := s.updPort die p.nextStop p.ring (fun q =>
            if vc == 2 then { q with escape := q.escape - 4, escCnt := q.escCnt + 1 } else { q with shared := q.shared - 4 })
          let next : Packet := { p with
            stop := p.nextStop, injecting := false, vc := vc, crossed := p.crossing, hops := p.hops - 1
            ready := t + 3, arrived := t + 1 }
          s.updDie die (fun d => { d with packets := tset d.packets pkt next }))

/-- RING_DELIVERY (R381, R382, R386): a packet at its stop goes to the local sinks, which never refuse it; one for another
die goes over the bridge that is such a sink. -/
def execRingDelivery (die pkt : Nat) (s : State) : Host.Outcome State Fault Refusal :=
  .next (match tget (s.die die).packets pkt with
    | none => s
    | some p =>
      let t := s.fabric
      if p.injecting || p.stop != p.dst || t < p.ready || t < (s.port die p.stop p.ring).sink then s
      else
        let s := (s.leavePort die p).updPort die p.stop p.ring (fun q => { q with sink := t + 4 })
        (s.updDie die (fun d => { d with packets := tdel d.packets pkt })).route 3 die p.stop p.far)

end Sys2Proof.Machine
end

