-- ==== Sys2Proof/Machine/Registers.lean ====
section
/-! DEFINITION. Machine/Registers.lean: the register blocks that the host reaches (R7, R393 to R395, R398, R400, R413, R416 to
R418, R420, R423, R424): every register with its fields, and the rules for accesses to them. -/

namespace Sys2Proof.Machine

/-- The registers of BAR0 and of BAR2. -/
inductive HostReg where
  | victl | trapvec | restvec | ptbase | tlbinv | tlbstat | fqbase | fqhead | fqtail | fqresume | digtab
  | cqbase | cqhead | cqtail | elbase | elhead | eltail | vectors | ellost
  | lqbase (k : Nat) | lqhead (k : Nat) | lqtail (k : Nat) | peer (i : Nat) | part (i : Nat)
  | spillarea (d : Nat) | clparea (d : Nat) | futarea (d : Nat) | ringctl (d : Nat) | ringstat (d stop ring : Nat)
  | slewcap (d g : Nat) | preq (d c : Nat) | qdepth (d t : Nat) | qclass (d : Nat) | energy (d : Nat) | energyHi (d : Nat)
  | temp (d : Nat) | cxlwin (d : Nat) | boostctl (d : Nat)
  | partition (v i : Nat) | bootstat
  /-- An entry of an MSI-X table (its message's address and data, its vector control), and the pending bits. -/
  | msixAddr (v : Nat) | msixData (v : Nat) | msixCtl (v : Nat) | msixPba
  deriving DecidableEq, Repr

/-- The MSI-X table of a function and its pending bits (R393), at 0x8000 and 0x8400 of its own BAR0 and laid out as
PCI Express lays them out. Log entry 6: PRESUMED. -/
def msixReg (off : Nat) : Option (HostReg × Nat) :=
  let v := (off - 0x8000) / 16
  if 0x8000 ≤ off && off < 0x8400 then
    some (match off % 16 with
      | 12 => (.msixCtl v, 0)
      | 8 => (.msixData v, 0)
      | _ => (.msixAddr v, off / 4 % 2))
  else if off / 8 == 0x1080 then some (.msixPba, off / 4 % 2)
  else none

/-- The register at an offset of BAR0 that is a multiple of 4, and the half of it (R395). -/
def bar0Reg (off : Nat) : Option (HostReg × Nat) :=
  let wide (r : HostReg) : Option (HostReg × Nat) := some (r, off / 4 % 2)
  if off == 0x00 then some (.victl, 0)
  else if off / 8 == 1 then wide .trapvec
  else if off / 8 == 2 then wide .restvec
  else if off / 8 == 3 then wide .ptbase
  else if off / 8 == 4 then wide .tlbinv
  else if off == 0x28 then some (.tlbstat, 0)
  else if off / 8 == 6 then wide .fqbase
  else if off == 0x38 then some (.fqhead, 0)
  else if off == 0x3C then some (.fqtail, 0)
  else if off / 8 == 8 then wide .fqresume
  else if off / 8 == 9 then wide .digtab
  else if off / 8 == 10 then wide .cqbase
  else if off == 0x58 then some (.cqhead, 0)
  else if off == 0x5C then some (.cqtail, 0)
  else if off / 8 == 12 then wide .elbase
  else if off == 0x68 then some (.elhead, 0)
  else if off == 0x6C then some (.eltail, 0)
  else if off == 0x70 then some (.vectors, 0)
  else if off == 0x74 then some (.ellost, 0)
  else if 0x80 ≤ off && off < 0xC0 then
    let k := (off - 0x80) / 16
    match off % 16 with
    | 8 => some (.lqhead k, 0)
    | 12 => some (.lqtail k, 0)
    | _ => wide (.lqbase k)
  else if 0x100 ≤ off && off < 0x180 then wide (.peer ((off - 0x100) / 8))
  else if 0x200 ≤ off && off < 0x214 then some (.part ((off - 0x200) / 4), 0)
  else msixReg off

/-- The register at an offset of a die's management block (R398, R413, R416 to R418, R423). -/
def dieReg (d off : Nat) : Option (HostReg × Nat) :=
  let wide (r : HostReg) : Option (HostReg × Nat) := some (r, off / 4 % 2)
  if off == 0 then some (.spillarea d, 0)
  else if off == 4 then some (.clparea d, 0)
  else if off / 8 == 1 then wide (.futarea d)
  else if off == 0x10 then some (.ringctl d, 0)
  else if 0x100 ≤ off && off < 0x140 then some (.ringstat d ((off - 0x100) / 8) (off / 4 % 2), 0)
  else if 0x200 ≤ off && off < 0x230 then some (.slewcap d ((off - 0x200) / 4), 0)
  else if 0x400 ≤ off && off < 0x580 then some (.preq d ((off - 0x400) / 4), 0)
  else if 0x800 ≤ off && off < 0x81C then some (.qdepth d ((off - 0x800) / 4), 0)
  else if off / 8 == 0x180 then wide (.qclass d)
  else if off == 0xC08 then some (.energy d, 0)
  else if off == 0xC0C then some (.energyHi d, 0)
  else if off == 0xC10 then some (.temp d, 0)
  else if off == 0xC14 then some (.cxlwin d, 0)
  else if off == 0xC18 then some (.boostctl d, 0)
  else none

/-- The register at an offset of BAR2 (R393, R400, R420). -/
def bar2Reg (off : Nat) : Option (HostReg × Nat) :=
  if off < 0x400000 then dieReg (off / 0x100000) (off % 0x100000)
  else if off < 0x400800 then some (.partition ((off - 0x400000) / 32) (off % 32 / 4), 0)
  else if off == 0x500000 then some (.bootstat, 0)
  else none

/-- The register that a function reaches at an offset (R393, R419): the physical function is interface 0; a virtual
function reaches its own BAR0 only; in recovery there is BOOTSTAT only. -/
def State.regAt (s : State) (bar fn off : Nat) : Option (HostReg × Nat) :=
  if s.boot.phase == .recovery then
    if bar == 2 && fn == 0 && off == 0x500000 then some (.bootstat, 0) else none
  else if fn ≥ 64 then none
  else if bar == 0 then bar0Reg off
  else if bar == 2 && fn == 0 then bar2Reg off
  else none

/-- A register of 64 bits. -/
def HostReg.isWide : HostReg → Bool
  | .trapvec | .restvec | .ptbase | .tlbinv | .fqbase | .fqresume | .digtab | .cqbase | .elbase => true
  | .lqbase _ | .peer _ | .futarea _ | .qclass _ | .energy _ | .msixAddr _ | .msixPba => true
  | _ => false

/-- The bits of a field from lo to hi. -/
def fieldMask (hi lo : Nat) : Nat := 2 ^ (hi + 1) - 2 ^ lo

/-- The RO bits of a register. ELLOST is RC and holds none: a write to it is dropped and not logged.
Log entry 70: DESIGN CHOICE. -/
def HostReg.ro : HostReg → Nat
  | .tlbstat => 1
  | .fqtail | .cqtail | .eltail | .lqhead _ => fieldMask 16 0
  | .msixPba => fieldMask 63 0
  | .part i => if i < 4 then fieldMask 23 0 else fieldMask 20 0
  | .ringstat _ _ _ => fieldMask 31 16 + fieldMask 10 8 + fieldMask 4 0
  | .preq _ _ => fieldMask 30 29
  | .qdepth _ _ => fieldMask 15 0
  | .qclass _ => fieldMask 43 32
  | .energy _ => fieldMask 63 0
  | .energyHi _ => fieldMask 31 0
  | .temp _ => fieldMask 15 8 + 1
  | .cxlwin _ => fieldMask 10 0
  | .boostctl _ => fieldMask 27 16
  | .bootstat => fieldMask 15 8 + fieldMask 3 1
  | _ => 0

/-- Every field of a register is write-only. -/
def HostReg.wo : HostReg → Bool
  | .tlbinv | .fqresume => true
  | _ => false

/-- A base register of a ring as it is kept (R338): its RSV bits read as zero. -/
def ringBase (v : Nat) : DWord := BitVec.ofNat 64 v &&& 0x01FFFFFFFFFFF01F

/-- An interface's partition in words of 32 bits (R400). -/
def Vi.partWord (v : Vi) (i : Nat) : Nat :=
  if i < 4 then (tgetD v.quads i 0).toNat else if i == 4 then v.hbmBase + v.hbmSize * 2 ^ 10 else 0

/-- An access is an atomic or a reduction. -/
def Access.isRmw (a : Access) : Bool := match a.kind with
  | .rmw _ _ _ => true
  | _ => false

/-- Requests waiting at a die's instances of a target (R402): accesses by the home of their bytes (R387), chunks of copies at
the port that they use, or else at the die of their core. Log entry 43: DEDUCED. -/
def State.depth (s : State) (d t : Nat) : Nat :=
  let accs (p : Warp → Access → Bool) : Nat := (s.warps.map (fun w => (w.2.accs.filter (fun a => p w.2 a.2)).length)).sum
  let here (key : Nat) : Bool := (s.homeDie key).any (fun x => x.1 == d)
  let flights (p : Copy → Flight → Bool) : Nat :=
    (s.copies.map (fun c => if c.2.src.off || c.2.dst.off then (c.2.flying.filter (p c.2)).length else 0)).sum
  min 65535 (match t with
    | 0 => accs (fun W a => dieOf W.core == d && a.space == .blk)
    | 1 => accs (fun _ a => here a.key && a.size != 0 && !a.isRmw)
    | 2 => accs (fun _ a => here a.key && a.isRmw)
        + (s.copies.map (fun c => (c.2.atoms.filter (fun a => here a.2.1)).length)).sum
    | 3 => flights (fun c f => dieOf c.core == d && f.ports.isEmpty)
    | 4 => flights (fun _ f => f.ports.contains d)
    | _ => 0)

/-- What a register reads as (R395, R398, R400). -/
def State.regValue (s : State) (fn : Nat) (r : HostReg) : Nat :=
  let V := s.vi fn
  let bit (b : Bool) (i : Nat) : Nat := if b then 2 ^ i else 0
  match r with
  | .victl => bit V.en 0
  | .trapvec => V.trapvec.toNat
  | .restvec => V.restvec.toNat
  | .ptbase => V.ptbase.toNat
  | .tlbinv => 0
  | .tlbstat => bit V.tlbBusy 0
  | .fqbase => V.fq.base.toNat
  | .fqhead => V.fq.head.toNat
  | .fqtail => V.fq.tail.toNat
  | .fqresume => 0
  | .digtab => V.digtab.toNat
  | .cqbase => V.cq.base.toNat
  | .cqhead => V.cq.head.toNat
  | .cqtail => V.cq.tail.toNat
  | .elbase => V.el.base.toNat
  | .elhead => V.el.head.toNat
  | .eltail => V.el.tail.toNat
  | .vectors => V.vectors.toNat
  | .ellost => V.ellost.toNat
  | .lqbase k => (V.queue k).base.toNat
  | .lqhead k => (V.queue k).head.toNat
  | .lqtail k => (V.queue k).tail.toNat
  | .peer i => (tgetD V.peers i 0).toNat
  | .part i => V.partWord i
  | .spillarea d => (s.die d).spillArea.toNat
  | .clparea d => (s.die d).clpArea.toNat
  | .futarea d => (s.die d).futArea.toNat
  | .ringctl d => (s.die d).route.toNat
  | .ringstat d stop ring =>
    let p := (tgetD (s.die d).ports (stop * 2 + ring) {})
    let back (e : Bool) : Nat := 4 * (p.returns.filter (fun x => x.1 ≤ s.fabric && x.2 == e)).length
    p.escCnt.toNat * 2 ^ 16 + (p.escape + back true) * 2 ^ 8 + (p.shared + back false)
  | .slewcap d g => (s.group (d * 12 + g)).slewcap.toNat
  | .preq d c => (s.core (d * 96 + c)).preq.toNat
  | .qdepth d t => s.depth d t
  | .qclass d => ((List.range 12).map (fun g =>
      let k := s.group (d * 12 + g)
      k.pend.getD k.cls * 2 ^ (2 * g) + bit k.pend.isSome (32 + g))).sum
  | .energy d => (s.die d).energy.toNat
  | .energyHi d => (s.die d).energyLatch.toNat
  | .temp d => (s.die d).tmax.toNat * 2 ^ 8 + bit (s.die d).trip 0
  | .cxlwin d => (s.die d).cxlwin.toNat
  | .boostctl d => (s.die d).boostEn.toNat
      + ((List.range 12).map (fun g => bit (s.group (d * 12 + g)).boosted (16 + g))).sum
  | .partition v i => (s.vi v).partWord i
  | .bootstat => s.boot.fail.toNat * 2 ^ 8 + bit (s.boot.phase == .recovery) 3 + bit s.boot.slot 2
      + bit (s.boot.phase == .ready) 1
  | .msixCtl v => bit (tgetD V.msix v {}).masked 0
  | .msixAddr v => (tgetD V.msix v {}).addr.toNat
  | .msixData v => (tgetD V.msix v {}).data.toNat
  | .msixPba => (V.msix.map (fun e => bit e.2.pending e.1)).sum

/-- The state after an event, whose meaning always answers one. -/
def State.after (s : State) (o : Host.Outcome State Fault Refusal) : State :=
  match o with
  | .next t => t
  | _ => s

/-- A ring's base rewritten, with the entry of R424 when the ring lies where it may not. -/
def State.ringBased (s : State) (fn size : Nat) (r : Ring) : State :=
  if s.ringOk fn r size then s else s.errLog fn 0x10 0 0 0 r.addr

/-- An entry of an interface's MSI-X table. -/
def State.updMsix (s : State) (fn i : Nat) (f : MsixEntry → MsixEntry) : State :=
  s.updVi fn (fun V => { V with msix := tmod V.msix i {} f })

/-- A register written with a value of its width (R7, R394): the bits that are not RW do nothing. -/
def State.setReg (s : State) (fn : Nat) (r : HostReg) (v : Nat) : State :=
  let x : DWord := BitVec.ofNat 64 v
  let w : Word := BitVec.ofNat 32 v
  match r with
  | .victl => s.updVi fn (fun V => { V with en := v % 2 == 1 })
  | .trapvec => s.updVi fn (fun V => { V with trapvec := x &&& 0x01FFFFFFFFFFFFFF })
  | .restvec => s.updVi fn (fun V => { V with restvec := x &&& 0x01FFFFFFFFFFFFFF })
  | .ptbase => s.updVi fn (fun V => { V with ptbase := x &&& 0x01FFFFFFFFFFF000 })
  | .tlbinv => if v / 2 ^ 63 % 2 == 1 then s.after (execTlbinvAll fn s) else s.after (execTlbinvRange fn x s)
  | .fqbase =>
    let s := s.updVi fn (fun V => { V with fq := { V.fq with base := ringBase v } })
    s.ringBased fn 32 (s.vi fn).fq
  | .fqhead => s.after (execFqheadWrite fn w s)
  | .fqresume =>
    let tok := v % 2 ^ 32
    match v / 2 ^ 32 % 4 with
    | 0 => s.after (execFqresumeRetry fn tok s)
    | 1 => s.after (execFqresumeAccessError fn tok s)
    | 2 => s.after (execFqresumeUnserviceable fn tok s)
    | _ => s.after (execFqresumeIgnored fn tok s)
  | .digtab => s.updVi fn (fun V => { V with digtab := x &&& 0x01FFFFFFFFFFFFFB })
  | .cqbase =>
    let s := s.updVi fn (fun V => { V with cq := { V.cq with base := ringBase v } })
    (s.ringBased fn 32 (s.vi fn).cq).drainCqAll fn (s.vi fn).cqWait.length
  | .cqhead => s.after (execCqheadWrite fn w s)
  | .elbase =>
    let s := s.updVi fn (fun V => { V with el := { V.el with base := ringBase v } })
    s.ringBased fn 32 (s.vi fn).el
  | .elhead => s.after (execElheadWrite fn w s)
  | .vectors => s.updVi fn (fun V => { V with vectors := w &&& 0x003F3F3F })
  | .lqbase k =>
    let s := s.updVi fn (fun V => { V with lq := tset V.lq k { V.queue k with base := ringBase v } })
    s.ringBased fn 128 ((s.vi fn).queue k)
  | .lqtail k => s.after (execLaunchQueueDoorbell fn k w s)
  | .peer i => s.updVi fn (fun V => { V with peers := tset V.peers i (x &&& 0x8000FFF0FFFF003F) })
  | .spillarea d => s.updDie d (fun D => { D with spillArea := w &&& 0x7FFF007F })
  | .clparea d => s.updDie d (fun D => { D with clpArea := w &&& 0x0000FF7F })
  | .futarea d => s.after (execFutareaWrite d x s)
  | .ringctl d => s.updDie d (fun D => { D with route := w.setWidth 2 })
  | .slewcap d g => s.updGroup (d * 12 + g) (fun k => { k with slewcap := w &&& 0x00FFFF00 })
  | .preq d c => s.writePreq (d * 96 + c) w
  | .qclass d => s.after (execQclassWrite d x s)
  | .boostctl d => s.updDie d (fun D => { D with boostEn := w.setWidth 12 })
  | .partition vi i =>
    if i < 4 then s.updVi vi (fun V => { V with quads := tset V.quads i (w.setWidth 24) })
    else if i == 4 then
      let s := s.updVi vi (fun V => { V with hbmBase := v % 2 ^ 10, hbmSize := v / 2 ^ 10 % 2 ^ 11 })
      s.drainCqAll vi (s.vi vi).cqWait.length
    else s
  | .bootstat => if v % 2 == 1 then s.after (execBootstatRetry s) else s
  | .msixCtl i => s.updMsix fn i (fun e => { e with masked := v % 2 == 1 })
  | .msixAddr i => s.updMsix fn i (fun e => { e with addr := x &&& 0xFFFFFFFFFFFFFFFC })
  | .msixData i => s.updMsix fn i (fun e => { e with data := w })
  | .tlbstat | .fqtail | .cqtail | .eltail | .ellost | .lqhead _ | .part _ | .ringstat _ _ _ | .qdepth _ _ | .energy _
  | .energyHi _ | .temp _ | .cxlwin _ | .msixPba => s

/-- An access that breaks the rules of R394. Log entry 42: DEDUCED. -/
def State.violation (s : State) (fn off : Nat) : State := s.errLog (if fn < 64 then fn else 0) 0x0C 0 0 0 off

/-- The held low half of a write-only register of 64 bits (R394). -/
def Vi.heldLow (v : Vi) (r : HostReg) : Nat := if r = .tlbinv then v.tlbinvLo.toNat else v.fqresumeLo.toNat
def State.hold (s : State) (fn : Nat) (r : HostReg) (x : Nat) : State :=
  s.updVi fn (fun V => if r = .tlbinv then { V with tlbinvLo := BitVec.ofNat 32 x }
    else { V with fqresumeLo := BitVec.ofNat 32 x })

/-- A write of 4 bytes (R394). -/
def State.write4 (s : State) (bar fn off v : Nat) : State :=
  match s.regAt bar fn off with
  | none => s.violation fn off
  | some (r, h) =>
    if r.wo then
      if h == 0 then s.hold fn r v
      else ((s.hold fn r 0).setReg fn r ((s.vi fn).heldLow r + v * 2 ^ 32))
    else
      let x := v * 2 ^ (32 * h)
      let s := if Nat.land x r.ro != 0 then s.violation fn off else s
      if !r.isWide then s.setReg fn r v
      else
        let old := s.regValue fn r
        s.setReg fn r (if h == 0 then old / 2 ^ 32 * 2 ^ 32 + v else old % 2 ^ 32 + x)

/-- REGISTER_WRITE (R7, R394, R395, R398, R400, R419): a host write of 4 or 8 bytes. -/
def execRegisterWrite (bar fn off width : Nat) (val : BitVec 64) (s : State) : Host.Outcome State Fault Refusal :=
  .next (let v := val.toNat
    if bar == 2 && fn == 0 && s.boot.phase == .recovery && off ≥ 0x1000000 && width == 8 then
      s.after (execFlashWindowWrite (off - 0x1000000) val s)
    else if width == 4 && off % 4 == 0 then s.write4 bar fn off (v % 2 ^ 32)
    else if width == 8 && off % 8 == 0 then
      match s.regAt bar fn off with
      | some (r, 0) =>
        if r.isWide then
          let s := if Nat.land v r.ro != 0 && !r.wo then s.violation fn off else s
          (if r.wo then s.hold fn r 0 else s).setReg fn r v
        else (s.write4 bar fn off (v % 2 ^ 32)).write4 bar fn (off + 4) (v / 2 ^ 32)
      | _ => (s.write4 bar fn off (v % 2 ^ 32)).write4 bar fn (off + 4) (v / 2 ^ 32)
    else s.violation fn off)

/-- A read of 4 bytes (R394, R418): the value, and the state with what the read changes. -/
def State.read4 (s : State) (bar fn off : Nat) : State × Nat :=
  match s.regAt bar fn off with
  | none => (s.violation fn off, 0)
  | some (r, h) =>
    if r.wo then (s.violation fn off, 0)
    else
      let v := s.regValue fn r / 2 ^ (32 * h) % 2 ^ 32
      match r with
      | .ellost => (s.updVi fn (fun V => { V with ellost := 0 }), v)
      | .energy d => (s.updDie d (fun D => { D with energyLatch := D.energy.extractLsb' 32 32 }), v)
      | _ => (s, v)

/-- A read of 8 bytes: one register of 64 bits, consistent, or two accesses of 4 bytes, the lower address first. -/
def State.read8 (s : State) (bar fn off : Nat) : State × Nat :=
  let two (s : State) : State × Nat :=
    let (s, a) := s.read4 bar fn off
    let (s, b) := s.read4 bar fn (off + 4)
    (s, a + b * 2 ^ 32)
  match s.regAt bar fn off with
  | some (r, 0) =>
    if !r.isWide then two s else if r.wo then (s.violation fn off, 0) else (s, s.regValue fn r)
  | _ => two s

/-- REGISTER_READ (R394, R395, R398, R400, R418, R419): a host read of 4 or 8 bytes. -/
def execRegisterRead (bar fn off width : Nat) (s : State) : Host.Outcome State Fault Refusal :=
  .next (
    let (s, v) :=
      if bar == 2 && fn == 0 && s.boot.phase == .recovery && off ≥ 0x1000000 && off - 0x1000000 < 2 ^ 32
          && (width == 4 || width == 8) && off % width == 0 then
        (s, leNat (s.slotBytes true (off - 0x1000000) width))
      else if width == 4 && off % 4 == 0 then s.read4 bar fn off
      else if width == 8 && off % 8 == 0 then s.read8 bar fn off
      else (s.violation fn off, 0)
    s.sendRead width (BitVec.ofNat 64 v))

end Sys2Proof.Machine
end

