-- ==== Sys2Proof/Machine/Outside.lean ====
section
/-! DEFINITION. Machine/Outside.lean: what the host, the CXL ports, the peers and the host link do to the module (R387, R393,
R399, R403 to R405). -/

namespace Sys2Proof.Machine

/-- HOST_BAR4_ACCESS (R393): the host reads or writes HBM from DPA 0, at the home. -/
def execHostBar4Access (write : Bool) (addr width : Nat) (val : BitVec 64) (s : State) :
    Host.Outcome State Fault Refusal :=
  .next (if width == 0 || width > 8 || addr + width > 0xC000000000 then s
    else if write then s.storeBytes 0 0 0 (dpaKey addr) (leBytes width val.toNat) false
    else
      let (s, bs) := s.readOff (dpaKey addr) width
      s.sendRead width (BitVec.ofNat 64 (leNat (bs.map (·.1)))))

/-- One RMW for an outside requester: the old value, and the state with the new one in place. -/
def State.outsideRmw (s : State) (vi key size : Nat) (a : AtomOp) : State × BitVec 64 :=
  let (s, bs) := s.readOff key size
  let old := BitVec.ofNat 64 (leNat (bs.map (·.1)))
  (s.storeBytes vi 0 0 key (leBytes size (rmwNew a old).1.toNat) (bs.any (·.2)), old)

/-- HOST_ATOMICOP (R393): FetchAdd, Swap and CAS of 32 and 64 bits on BAR4, by their operation codes of R220. -/
def execHostAtomicop (op addr width : Nat) (x y : BitVec 64) (s : State) : Host.Outcome State Fault Refusal :=
  .next (if !hostAtomic op || !(width == 4 || width == 8) || addr % width != 0 || addr + width > 0xC000000000 then s
    else
      let (s, old) := s.outsideRmw 0 (dpaKey addr) width ⟨op, if width == 8 then 3 else 1, 0, x, y, true⟩
      s.sendRead width old)

/-- MSIX_PENDING_SEND (R366, R399): a pending message is sent once its vector and its function are not masked. -/
def execMsixPendingSend (vi vec : Nat) (s : State) : Host.Outcome State Fault Refusal :=
  .next (let V := s.vi vi
    let e := tgetD V.msix vec {}
    if !V.msixOn || V.msixMask || e.masked || !e.pending then s
    else { s with sent := s.sent ++ [Sent.msix vi vec e.addr e.data] }.updVi vi (fun V => { V with
      msix := tmod V.msix vec {} (fun e => { e with pending := false }) }))

/-- An atomic on `.mem` fails (R337, R403, R405): it leaves its queue, its results never arrive, and the lanes take the
access-error trap at the word. -/
def State.failAtom (s : State) (id : Nat) (c : Copy) : State :=
  let ls := c.atoms.map (·.1)
  let va := match c.src with
    | .elems _ (v :: _) => v
    | _ => 0
  let s := { s with copies := tdel s.copies id }
  let s := s.updWarp c.warp (fun W =>
    let longs := c.atoms.foldl (fun (t : Table LongOp) a => tupd t a.2.2.2.2 (fun o => o.without a.1)) W.longs
    { W with longs := longs.filter (fun x => !x.2.done) })
  let m := (s.warp c.warp).alive &&& maskOf ls
  if m == 0 then s else s.trapWarp c.warp ⟨cAccess, BitVec.ofNat 64 va, m, some c.pc⟩

/-- A copy, or an atomic on `.mem`, fails at a port with a log entry (R403, R405). -/
def State.failAt (s : State) (id code : Nat) : State :=
  match tget s.copies id with
  | none => s
  | some c =>
    let s := s.logCopy c code 0
    if c.atoms.isEmpty then (if c.doomed || c.allLanded then s else s.failCopy id 1) else s.failAtom id c

/-- CXL_ERROR_RESPONSE (R348, R403): a response with poison poisons its line; an error response fails the copy or the
atomic. -/
def execCxlErrorResponse (poisoned : Bool) (copy line : Nat) (s : State) : Host.Outcome State Fault Refusal :=
  .next (if poisoned then
      match dpaTarget s (64 * line) with
      | .cxl _ =>
        let units := (List.range 8).map (· + 8 * line)
        { s with poison := units.filter (fun u => !s.poison.contains u) ++ s.poison }
      | _ => s
    else s.failAt copy 0x0B)

/-- An atomic on `.mem` has a lane whose address lies behind a die's CXL port. -/
def State.atomAtPort (s : State) (c : Copy) (die : Nat) : Bool :=
  c.atoms.any (fun a => a.2.1 < 2 ^ 100 && dpaTarget s a.2.1 = .cxl die)

/-- CXL_VIRAL_OR_LINK_LOSS (R403): every outstanding access of the port fails, and every interface logs it. -/
def execCxlViralOrLinkLoss (die : Nat) (loss : Bool) (s : State) : Host.Outcome State Fault Refusal :=
  .next (if die ≥ 4 then s
    else
      let s := (List.range 64).foldl (fun s v => s.errLog v 0x0B die 0 0 0) s
      let s := s.copies.foldl (fun (s : State) x =>
        if s.atomAtPort x.2 die then s.failAtom x.1 x.2
        else if x.2.flying.any (fun f => f.ports.contains die) then
          { s with copies := tupd s.copies x.1 (fun c => { c with
            flying := c.flying.filter (fun f => !f.ports.contains die) }) }.failCopy x.1 1
        else s) s
      if loss then s.updDie die (fun d => { d with cxlUp := false }) else s)

/-- PCIE_ERROR_COMPLETION (R397): an error completion to a request of the device is logged. -/
def execPcieErrorCompletion (vi addr : Nat) (s : State) : Host.Outcome State Fault Refusal :=
  .next (s.errLog vi 0x0A 0 0 0 addr)

/-- A side of a copy is peer memory. -/
def Side.isPeer (x : Side) : Bool := match x with
  | .peer _ _ => true
  | _ => false

/-- PEER_LINK_ERROR (R405): a peer's access error or a link error fails the copy or the atomic that was under way. -/
def execPeerLinkError (copy : Nat) (s : State) : Host.Outcome State Fault Refusal :=
  .next (match tget s.copies copy with
    | none => s
    | some c =>
      if c.src.isPeer || c.dst.isPeer || c.atoms.any (fun a => a.2.1 / 2 ^ 100 == 8) then s.failAt copy 0x0E else s)

/-- PEER_ACCESS_RECEIVED (R387, R404): an access of a peer module is translated in the tables of the interface that it names
and performs here. `op` is 0 for a read, 1 for a write, and 2 + 8 × operation + type for an atomic (R220).
Log entry 45: DEDUCED. -/
def execPeerAccessReceived (vi op addr width : Nat) (x y : BitVec 64) (s : State) : Host.Outcome State Fault Refusal :=
  .next (if width == 0 || width > 8 || addr % width != 0 || vi ≥ 64 then s
    else
      let reply (s : State) (v : BitVec 64) (ok : Bool) : State := { s with sent := s.sent ++ [.peer v ok] }
      match (s.walk vi addr (op != 0) false).1 with
      | .ok a =>
        let key := dpaByte vi a
        if op == 0 then
          let (s, bs) := s.readOff key width
          reply s (BitVec.ofNat 64 (leNat (bs.map (·.1)))) true
        else if op == 1 then reply (s.storeBytes vi 0 0 key (leBytes width x.toNat) false) 0 true
        else
          let ty : BitVec 3 := BitVec.ofNat 3 ((op - 2) % 8)
          let (s, old) := s.outsideRmw vi key (if wideTy ty then 8 else 4) ⟨(op - 2) / 8, ty, 0, x, y, true⟩
          reply s old true
      | _ => reply (s.errLog vi 0x09 0 0 0 addr) 0 false)

end Sys2Proof.Machine
end

