-- ==== Sys2Proof/Machine/Pairs.lean ====
section
/-! DEFINITION. Machine/Pairs.lean: the pair word (R57 to R59). Each meaning says what half X does, and half Y goes with
it by its own opcode. -/

namespace Sys2Proof.Machine

/-- What a half computes from D and A, with the type code of its full form (R59, R73, R77 to R79, R90, R91). -/
def halfOp (h : Half) (d a : BitVec 64) : BitVec 64 × Flags :=
  let rm : BitVec 2 := h.i.setWidth 2
  let s : BitVec 64 := h.i.signExtend 64
  let z : BitVec 64 := h.i.setWidth 64
  match h.po.toNat with
  | 0x01 => (arith .add 1 false d a 0, 0)
  | 0x02 => (arith .sub 1 false d a 0, 0)
  | 0x03 => (arith .mul 1 false d a 0, 0)
  | 0x04 => (bitOp .and 32 d a, 0)
  | 0x05 => (bitOp .or 32 d a, 0)
  | 0x06 => (bitOp .xor 32 d a, 0)
  | 0x07 => (bitOp .andn 32 d a, 0)
  | 0x08 => (arith .min 0 false d a 0, 0)
  | 0x09 => (arith .max 0 false d a 0, 0)
  | 0x0A => (arith .min 1 false d a 0, 0)
  | 0x0B => (arith .max 1 false d a 0, 0)
  | 0x0C => (bitOp .shl 32 d a, 0)
  | 0x0D => (bitOp .shr 32 d a, 0)
  | 0x0E => (bitOp .sar 32 d a, 0)
  | 0x0F => (a, 0)
  | 0x10 => (arith .add 1 false a s 0, 0)
  | 0x11 => (arith .sub 1 false a s 0, 0)
  | 0x12 => (bitOp .and 32 a z, 0)
  | 0x13 => (bitOp .or 32 a z, 0)
  | 0x14 => (bitOp .xor 32 a z, 0)
  | 0x15 => (bitOp .shl 32 a z, 0)
  | 0x16 => (bitOp .shr 32 a z, 0)
  | 0x17 => (bitOp .sar 32 a z, 0)
  | 0x18 => (bitOp .rol 32 a z, 0)
  | 0x19 => (cut 32 s, 0)
  | 0x20 => fpOp .add 4 rm false 0 d a 0
  | 0x21 => fpOp .sub 4 rm false 0 d a 0
  | 0x22 => fpOp .mul 4 rm false 0 d a 0
  | 0x23 => fpOp .min 4 0 false 0 d a 0
  | 0x24 => fpOp .max 4 0 false 0 d a 0
  | 0x28 => fpOp .add 5 rm false 0 d a 0
  | 0x29 => fpOp .sub 5 rm false 0 d a 0
  | 0x2A => fpOp .mul 5 rm false 0 d a 0
  | 0x2B => fpOp .min 5 0 false 0 d a 0
  | 0x2C => fpOp .max 5 0 false 0 d a 0
  | 0x30 => (arith .add 3 false d a 0, 0)
  | 0x31 => (arith .sub 3 false d a 0, 0)
  | 0x32 => (a, 0)
  | 0x33 => (arith .add 3 false a s 0, 0)
  | _ => (0, 0)

/-- The kind of a half; a reserved opcode is that of no half. -/
def halfKind (h : Half) : PairKind := (pairKind h.po).getD ⟨false, false, false, 0⟩

/-- How many registers an operand of a half is. -/
def halfCount (h : Half) : Nat := if (halfKind h).wide then 2 else 1

/-- The registers that a half writes, and those that it reads as source A (R58, R59): a half of opcode 0x00 has none. -/
def halfDst (h : Half) : List (Nat × Nat) := if h.po == 0 then [] else [(h.d.toNat, halfCount h)]
@[inherit_doc halfDst] def halfSrc (h : Half) : List (Nat × Nat) :=
  if (halfKind h).reads then [(h.a.toNat, halfCount h)] else []

/-- What a half reads and writes. -/
def halfUses (h : Half) : Uses := ⟨halfSrc h ++ (if (halfKind h).acc then halfDst h else []), halfDst h, false⟩

/-- The banks of some registers (R58). -/
def banksOf (rs : List (Nat × Nat)) : List Nat := (regsOf rs).map (· % 4)

/-- The halves break the bank rules (R58). -/
def pairClash (x y : Half) : Bool :=
  (banksOf (halfDst x)).any (fun b => (banksOf (halfDst y)).contains b)
    || (banksOf (halfSrc x)).any (fun b => (banksOf (halfSrc y)).contains b)

/-- What a half writes in a lane (R58, R59). -/
def State.halfLane (s : State) (l : Nat) (h : Half) (pos : Nat) : List (Target × Cell) × Flags :=
  if h.po == 0 then ([], 0)
  else
    let k := halfKind h
    let n := halfCount h
    let (a, b1) := if k.reads then readWide n (fun i => s.readV s.w l (h.a.toNat + i) (pos + i)) else (0, false)
    let (d, b2) := if k.acc then readWide n (fun i => s.readV s.w l (h.d.toNat + i) (pos + 2 + i)) else (0, false)
    let r := halfOp h d a
    (vecResult l h.d.toNat n r.1 (b1 || b2), r.2)

/-- A pair word (R57, R58): it is unguarded; the checks of an illegal word come before the illegal-pairing trap; both
halves read before either writes, and their flags unite. -/
def State.pairWord (s : State) (p : Pair) (po : BitVec 6) : State :=
  let x := p.x po
  let h : Hdr := ⟨p.live, p.w, 15, false⟩
  let ux := halfUses x
  let uy := halfUses p.y
  let u : Uses := ⟨ux.reads ++ uy.reads, ux.writes ++ uy.writes, false⟩
  let bad := s.lanesWhere s.cur.lanes (fun _ L => !L.liveFits p.live || !L.fits (u.reads ++ u.writes))
  if bad == 0 && pairClash x p.y then s.trapOpen cPairing s.cur.lanes
  else s.byLane h u false (fun s l =>
    let a := s.halfLane l x 0
    let b := s.halfLane l p.y 4
    (a.1 ++ b.1, a.2 ||| b.2))

/-- R59: half X has no effect. -/
def execPairNop (p : Pair) (s : State) : Host.Outcome State Fault Refusal := .next (s.pairWord p 0x00)

/-- R59: half X gives D + A. -/
def execPairAddN32 (p : Pair) (s : State) : Host.Outcome State Fault Refusal := .next (s.pairWord p 0x01)

/-- R59: half X gives D − A. -/
def execPairSubN32 (p : Pair) (s : State) : Host.Outcome State Fault Refusal := .next (s.pairWord p 0x02)

/-- R59: half X gives the low 32 bits of D × A. -/
def execPairMulN32 (p : Pair) (s : State) : Host.Outcome State Fault Refusal := .next (s.pairWord p 0x03)

/-- R59: half X gives D and A. -/
def execPairAnd (p : Pair) (s : State) : Host.Outcome State Fault Refusal := .next (s.pairWord p 0x04)

/-- R59: half X gives D or A. -/
def execPairOr (p : Pair) (s : State) : Host.Outcome State Fault Refusal := .next (s.pairWord p 0x05)

/-- R59: half X gives D xor A. -/
def execPairXor (p : Pair) (s : State) : Host.Outcome State Fault Refusal := .next (s.pairWord p 0x06)

/-- R59: half X gives D and not A. -/
def execPairAndn (p : Pair) (s : State) : Host.Outcome State Fault Refusal := .next (s.pairWord p 0x07)

/-- R59: half X gives the lesser, signed. -/
def execPairMinI32 (p : Pair) (s : State) : Host.Outcome State Fault Refusal := .next (s.pairWord p 0x08)

/-- R59: half X gives the greater, signed. -/
def execPairMaxI32 (p : Pair) (s : State) : Host.Outcome State Fault Refusal := .next (s.pairWord p 0x09)

/-- R59: half X gives the lesser, unsigned. -/
def execPairMinN32 (p : Pair) (s : State) : Host.Outcome State Fault Refusal := .next (s.pairWord p 0x0A)

/-- R59: half X gives the greater, unsigned. -/
def execPairMaxN32 (p : Pair) (s : State) : Host.Outcome State Fault Refusal := .next (s.pairWord p 0x0B)

/-- R59: half X gives D shifted left by A mod 32. -/
def execPairShl (p : Pair) (s : State) : Host.Outcome State Fault Refusal := .next (s.pairWord p 0x0C)

/-- R59: half X gives D shifted right by A mod 32. -/
def execPairShr (p : Pair) (s : State) : Host.Outcome State Fault Refusal := .next (s.pairWord p 0x0D)

/-- R59: half X gives D shifted right with its sign by A mod 32. -/
def execPairSar (p : Pair) (s : State) : Host.Outcome State Fault Refusal := .next (s.pairWord p 0x0E)

/-- R59: half X gives A. -/
def execPairMov (p : Pair) (s : State) : Host.Outcome State Fault Refusal := .next (s.pairWord p 0x0F)

/-- R59: half X gives A + sext imm8. -/
def execPairAddImm (p : Pair) (s : State) : Host.Outcome State Fault Refusal := .next (s.pairWord p 0x10)

/-- R59: half X gives A − sext imm8. -/
def execPairSubImm (p : Pair) (s : State) : Host.Outcome State Fault Refusal := .next (s.pairWord p 0x11)

/-- R59: half X gives A and zext imm8. -/
def execPairAndImm (p : Pair) (s : State) : Host.Outcome State Fault Refusal := .next (s.pairWord p 0x12)

/-- R59: half X gives A or zext imm8. -/
def execPairOrImm (p : Pair) (s : State) : Host.Outcome State Fault Refusal := .next (s.pairWord p 0x13)

/-- R59: half X gives A xor zext imm8. -/
def execPairXorImm (p : Pair) (s : State) : Host.Outcome State Fault Refusal := .next (s.pairWord p 0x14)

/-- R59: half X gives A shifted left by the count in I. -/
def execPairShlImm (p : Pair) (s : State) : Host.Outcome State Fault Refusal := .next (s.pairWord p 0x15)

/-- R59: half X gives A shifted right by the count in I. -/
def execPairShrImm (p : Pair) (s : State) : Host.Outcome State Fault Refusal := .next (s.pairWord p 0x16)

/-- R59: half X gives A shifted right with its sign by the count in I. -/
def execPairSarImm (p : Pair) (s : State) : Host.Outcome State Fault Refusal := .next (s.pairWord p 0x17)

/-- R59: half X gives A rotated left by the count in I. -/
def execPairRolImm (p : Pair) (s : State) : Host.Outcome State Fault Refusal := .next (s.pairWord p 0x18)

/-- R59: half X gives sext imm8. -/
def execPairMovi (p : Pair) (s : State) : Host.Outcome State Fault Refusal := .next (s.pairWord p 0x19)

/-- R59: half X gives D + A, rounded as I says. -/
def execPairFaddF32 (p : Pair) (s : State) : Host.Outcome State Fault Refusal := .next (s.pairWord p 0x20)

/-- R59: half X gives D − A, rounded as I says. -/
def execPairFsubF32 (p : Pair) (s : State) : Host.Outcome State Fault Refusal := .next (s.pairWord p 0x21)

/-- R59: half X gives D × A, rounded as I says. -/
def execPairFmulF32 (p : Pair) (s : State) : Host.Outcome State Fault Refusal := .next (s.pairWord p 0x22)

/-- R59: half X gives the lesser of D and A (R32). -/
def execPairFminF32 (p : Pair) (s : State) : Host.Outcome State Fault Refusal := .next (s.pairWord p 0x23)

/-- R59: half X gives the greater of D and A (R32). -/
def execPairFmaxF32 (p : Pair) (s : State) : Host.Outcome State Fault Refusal := .next (s.pairWord p 0x24)

/-- R59: half X gives D + A on pairs, rounded as I says. -/
def execPairFaddF64 (p : Pair) (s : State) : Host.Outcome State Fault Refusal := .next (s.pairWord p 0x28)

/-- R59: half X gives D − A on pairs, rounded as I says. -/
def execPairFsubF64 (p : Pair) (s : State) : Host.Outcome State Fault Refusal := .next (s.pairWord p 0x29)

/-- R59: half X gives D × A on pairs, rounded as I says. -/
def execPairFmulF64 (p : Pair) (s : State) : Host.Outcome State Fault Refusal := .next (s.pairWord p 0x2A)

/-- R59: half X gives the lesser of D and A on pairs (R32). -/
def execPairFminF64 (p : Pair) (s : State) : Host.Outcome State Fault Refusal := .next (s.pairWord p 0x2B)

/-- R59: half X gives the greater of D and A on pairs (R32). -/
def execPairFmaxF64 (p : Pair) (s : State) : Host.Outcome State Fault Refusal := .next (s.pairWord p 0x2C)

/-- R59: half X gives D + A on pairs. -/
def execPairAddN64 (p : Pair) (s : State) : Host.Outcome State Fault Refusal := .next (s.pairWord p 0x30)

/-- R59: half X gives D − A on pairs. -/
def execPairSubN64 (p : Pair) (s : State) : Host.Outcome State Fault Refusal := .next (s.pairWord p 0x31)

/-- R59: half X gives A, a pair. -/
def execPairMovN64 (p : Pair) (s : State) : Host.Outcome State Fault Refusal := .next (s.pairWord p 0x32)

/-- R59: half X gives A + sext imm8 on pairs. -/
def execPairAddN64Imm (p : Pair) (s : State) : Host.Outcome State Fault Refusal := .next (s.pairWord p 0x33)

end Sys2Proof.Machine
end

