-- ==== Sys2Proof/Machine/Spdm.lean ====
section
/-! DEFINITION. Machine/Spdm.lean: the SPDM 1.3 responder of the physical function's DOE mailbox (R421). The spec names the
protocol; the layout of its messages is that of DMTF DSP0274 (log entry 24: PRESUMED). A request is the bytes of one message. -/

namespace Sys2Proof.Machine

/-- SPDM version 1.3. -/
def spdmVersion : Byte := 0x13

/-- A message head: version, code, two parameters. -/
def spdmHead (code p1 p2 : Byte) : List Byte := [spdmVersion, code, p1, p2]

/-- An ERROR response. -/
def spdmError (code data : Byte) : List Byte := spdmHead 0x7F code data

def errInvalid : Byte := 0x01
def errUnexpected : Byte := 0x04
def errUnsupported : Byte := 0x07
def errVersion : Byte := 0x41

/-- The code of a request. -/
def reqCode (req : List Byte) : Byte := req.getD 1 0

/-- A response goes out. -/
def State.sendSpdm (s : State) (bs : List Byte) : State := { s with sent := s.sent ++ [.spdm bs] }

/-- A request is answered and both messages join the transcript. -/
def State.spdmReply (s : State) (req resp : List Byte) (f : Boot → Boot) : State :=
  let s := { s with boot := f { s.boot with transcript := s.boot.transcript ++ req ++ resp } }
  s.sendSpdm resp

/-- A request of an event's code with at least n bytes; anything else is an InvalidRequest. The responder is there once
the module is ready. -/
def State.spdmReq (s : State) (req : List Byte) (code : Byte) (n : Nat) (k : State → State) : State :=
  if s.boot.phase != .ready then s
  else if req.length < n || reqCode req != code then s.sendSpdm (spdmError errInvalid 0)
  else k s

/-- A request after the algorithms have been agreed, in version 1.3. -/
def State.spdmAgreed (s : State) (req : List Byte) (k : State → State) : State :=
  if !s.boot.algs then s.sendSpdm (spdmError errUnexpected 0)
  else if req.headD 0 != spdmVersion then s.sendSpdm (spdmError errVersion 0)
  else k s

/-- GET_VERSION (R421): a connection begins anew; the one version is 1.3. -/
def execGetVersion (req : List (BitVec 8)) (s : State) : Host.Outcome State Fault Refusal :=
  .next (s.spdmReq req 0x84 4 fun s =>
    let resp : List Byte := [0x10, 0x04, 0, 0, 0, 1, 0x00, 0x13]
    s.spdmReply req resp (fun b => { b with transcript := req ++ resp, version := true, caps := false, algs := false }))

/-- The capability flags: CERT_CAP, CHAL_CAP and MEAS_CAP with signed measurements (R421). -/
def capFlags : Nat := 0x16

/-- GET_CAPABILITIES (R421). -/
def execGetCapabilities (req : List (BitVec 8)) (s : State) : Host.Outcome State Fault Refusal :=
  .next (s.spdmReq req 0xE1 4 fun s =>
    if !s.boot.version then s.sendSpdm (spdmError errUnexpected 0)
    else if req.headD 0 != spdmVersion then s.sendSpdm (spdmError errVersion 0)
    else
      let resp := spdmHead 0x61 0 0 ++ [0, (Config.spdmNumber 0).setWidth 8, 0, 0] ++ leBytes 4 capFlags
        ++ leBytes 4 (Config.spdmNumber 1).toNat ++ leBytes 4 (Config.spdmNumber 2).toNat
      s.spdmReply req resp (fun b => { b with caps := true }))

/-- NEGOTIATE_ALGORITHMS (R421): SHA-256, DMTF measurements, and SLH-DSA-SHA2-128s as an extended asymmetric algorithm. -/
def execNegotiateAlgorithms (req : List (BitVec 8)) (s : State) : Host.Outcome State Fault Refusal :=
  .next (s.spdmReq req 0xE3 32 fun s =>
    if !s.boot.caps then s.sendSpdm (spdmError errUnexpected 0)
    else if req.headD 0 != spdmVersion then s.sendSpdm (spdmError errVersion 0)
    else
      let resp := spdmHead 0x63 0 0 ++ leBytes 2 40 ++ [1, 0] ++ leBytes 4 2 ++ leBytes 4 0 ++ leBytes 4 1
        ++ List.replicate 11 0 ++ [0] ++ [1, 0] ++ [0, 0] ++ leBytes 4 (Config.spdmNumber 3).toNat
      s.spdmReply req resp (fun b => { b with algs := true }))

/-- The digest of the certificate chain of slot 0. -/
def chainDigest : List Byte := sha256 Config.certChain

/-- GET_DIGESTS (R421). -/
def execGetDigests (req : List (BitVec 8)) (s : State) : Host.Outcome State Fault Refusal :=
  .next (s.spdmReq req 0x81 4 fun s => s.spdmAgreed req fun s =>
    s.spdmReply req (spdmHead 0x01 1 1 ++ chainDigest) id)

/-- GET_CERTIFICATE (R421): a portion of the chain of slot 0. -/
def execGetCertificate (req : List (BitVec 8)) (s : State) : Host.Outcome State Fault Refusal :=
  .next (s.spdmReq req 0x82 8 fun s => s.spdmAgreed req fun s =>
    let off := recNum req 4 2
    let total := Config.certChain.length
    if (req.getD 2 0).toNat % 16 != 0 || off ≥ total then s.sendSpdm (spdmError errInvalid 0)
    else
      let n := min (recNum req 6 2) (min 0xFFFF (total - off))
      let resp := spdmHead 0x02 0 0 ++ leBytes 2 n ++ leBytes 2 (total - off - n) ++ (Config.certChain.drop off).take n
      s.spdmReply req resp id)

/-- The partition blocks and the classes of every die, as measurement 4 digests them (R421). -/
def State.setting (s : State) : List Byte :=
  (List.range 4).flatMap (fun d => leBytes 8 (s.regValue 0 (.qclass d)))
    ++ (List.range 64).flatMap (fun v => (List.range 8).flatMap (fun i => leBytes 4 ((s.vi v).partWord i)))

/-- What a measurement digests (R421): 1 the boot ROM, 2 the body of the image running, 3 SVN, key digests and revocation
fuses, 4 the setting at the request. Log entry 24: DESIGN CHOICE. -/
def State.measured (s : State) (i : Nat) : List Byte :=
  match i with
  | 1 => Config.bootRom
  | 2 => s.slotBody s.boot.slot
  | 3 => leBytes 4 (s.slotNum s.boot.slot 0x04 4) ++ (s.boot.digests.flatMap (fun d => beBytes 32 d.toNat))
      ++ [s.boot.revoked.setWidth 8]
  | _ => s.setting

/-- The value type of a measurement in DMTF's form: immutable ROM, mutable firmware, hardware and firmware
configuration. -/
def valueType (i : Nat) : Byte :=
  match i with
  | 1 => 0
  | 2 => 1
  | 3 => 2
  | _ => 3

/-- One measurement block. -/
def State.measBlock (s : State) (i : Nat) : List Byte :=
  [BitVec.ofNat 8 i, 1] ++ leBytes 2 35 ++ [valueType i] ++ leBytes 2 32 ++ sha256 (s.measured i)

/-- A signature over a transcript, with the context of its message (DSP0274). -/
def spdmSign (context : List Byte) (m : List Byte) : List Byte :=
  let version : List Byte := [0x64, 0x6D, 0x74, 0x66, 0x2D, 0x73, 0x70, 0x64, 0x6D, 0x2D, 0x76, 0x31, 0x2E, 0x33, 0x2E, 0x2A]
  let prefix4 := version ++ version ++ version ++ version
  Config.slhSign (prefix4 ++ List.replicate (36 - context.length) 0 ++ context ++ sha256 m)

/-- "responder-challenge_auth signing" and "responder-measurements signing". -/
def challengeContext : List Byte :=
  [0x72, 0x65, 0x73, 0x70, 0x6F, 0x6E, 0x64, 0x65, 0x72, 0x2D, 0x63, 0x68, 0x61, 0x6C, 0x6C, 0x65, 0x6E, 0x67, 0x65,
   0x5F, 0x61, 0x75, 0x74, 0x68, 0x20, 0x73, 0x69, 0x67, 0x6E, 0x69, 0x6E, 0x67]
@[inherit_doc challengeContext] def measurementsContext : List Byte :=
  [0x72, 0x65, 0x73, 0x70, 0x6F, 0x6E, 0x64, 0x65, 0x72, 0x2D, 0x6D, 0x65, 0x61, 0x73, 0x75, 0x72, 0x65, 0x6D, 0x65,
   0x6E, 0x74, 0x73, 0x20, 0x73, 0x69, 0x67, 0x6E, 0x69, 0x6E, 0x67]

/-- The responder's nonce of this draw. -/
def State.spdmNonce (s : State) : List Byte := (Config.nonce s.fresh ++ List.replicate 32 0).take 32

/-- CHALLENGE (R421): signed over the transcript of the connection. -/
def execChallenge (req : List (BitVec 8)) (s : State) : Host.Outcome State Fault Refusal :=
  .next (s.spdmReq req 0x83 44 fun s => s.spdmAgreed req fun s =>
    let kind := (req.getD 3 0).toNat
    if (req.getD 2 0).toNat % 16 != 0 || !(kind == 0 || kind == 1 || kind == 255) then s.sendSpdm (spdmError errInvalid 0)
    else
      let all := (List.range 4).flatMap (fun i => s.measBlock (i + 1))
      let summary := if kind == 0 then [] else sha256 (if kind == 1 then s.measBlock 1 else all)
      let body := spdmHead 0x03 0 1 ++ chainDigest ++ s.spdmNonce ++ summary ++ leBytes 2 0 ++ (req.drop 36).take 8
      let sign := spdmSign challengeContext (s.boot.transcript ++ req ++ body)
      let s := { s with fresh := s.fresh + 1 }
      s.spdmReply req (body ++ sign) id)

/-- GET_MEASUREMENTS (R421): the number of measurements, one of them or all, signed when the request asks for it. -/
def execGetMeasurements (req : List (BitVec 8)) (s : State) : Host.Outcome State Fault Refusal :=
  .next (s.spdmReq req 0xE0 4 fun s => s.spdmAgreed req fun s =>
    let signed := (req.getD 2 0).getLsbD 0
    let op := (req.getD 3 0).toNat
    let idx := if op == 255 then [1, 2, 3, 4] else if op == 0 then [] else [op]
    if 4 < op && op != 255 || req.length < (if signed then 45 else 12) || signed && (req.getD 36 0).toNat % 16 != 0 then
      s.sendSpdm (spdmError errInvalid 0)
    else
      let record := idx.flatMap s.measBlock
      let context := if signed then (req.drop 37).take 8 else (req.drop 4).take 8
      let body := spdmHead 0x60 (if op == 0 then 4 else 0) 0 ++ [BitVec.ofNat 8 idx.length] ++ leBytes 3 record.length
        ++ record ++ s.spdmNonce ++ leBytes 2 0 ++ context
      let sign := if signed then spdmSign measurementsContext (s.boot.transcript ++ req ++ body) else []
      let s := { s with fresh := s.fresh + 1 }
      s.spdmReply req (body ++ sign) id)

/-- The request codes that have an event of their own (R421). -/
def spdmKnown : List Byte := [0x84, 0xE1, 0xE3, 0x81, 0x82, 0x83, 0xE0]

/-- SPDM_UNSUPPORTED_REQUEST (R421): every other request is answered with ERROR UnsupportedRequest. -/
def execSpdmUnsupportedRequest (req : List (BitVec 8)) (s : State) : Host.Outcome State Fault Refusal :=
  .next (if s.boot.phase != .ready || spdmKnown.contains (reqCode req) then s
    else s.sendSpdm (spdmError errUnsupported (reqCode req)))

end Sys2Proof.Machine
end

