-- ==== Sys2Proof/Machine/Uniform.lean ====
section
/-! DEFINITION. Machine/Uniform.lean: the words of the uniform block (R66, R88) and the predicate words (R100). -/

namespace Sys2Proof.Machine

/-- What a uniform word with one destination writes: the sources are uniform registers, or vector registers of the
lowest acting lane. -/
def State.uniLane (t : Tri) (sh : Shape) (f : BitVec 64 → BitVec 64 → BitVec 64 → BitVec 64) (s : State) (l : Nat) :
    List (Target × Cell) :=
  let (a, b, c, bad) := s.sources t sh l
  opdResult sh.d t.ty l t.d (f a b c) bad

/-- A uniform arithmetic or bitwise word (R88). -/
def State.uniBin (s : State) (t : Tri) (f : BitVec 64 → BitVec 64 → BitVec 64) : State :=
  s.uniWord t shUBin (State.uniLane t shUBin (fun a b _ => f a b))

/-- A uniform shift (R79, R88). -/
def State.uniShift (s : State) (t : Tri) (op : Bits) : State :=
  if t.sub.getLsbD 5 then
    let sh : Shape := ⟨.sT, .sT, .none, .none⟩
    s.uniWord t sh (State.uniLane t sh (fun a _ _ => bitOp op (widthOf t.ty) a (t.b.setWidth 64)))
  else s.uniWord t shUShift (State.uniLane t shUShift (fun a b _ => bitOp op (widthOf t.ty) a b))

/-- A uniform I32 word (R48, R88). -/
def State.uniImm (s : State) (t : Imm) (reads : Bool) (f : BitVec 64 → BitVec 64) : State :=
  s.vet t.h false {} fun s m =>
    let a := if reads then s.operand 0 1 .s1 false t.a 0 else (0, false)
    s.settle t.h m {} false (uniResult t.d.toNat 1 (f a.1) a.2) 0

/-- A predicate word of two sources (R100): SUB bit 0 and bit 1 negate them. -/
def State.predLane (t : Tri) (two : Bool) (f : Bool → Bool → Bool) (s : State) (l : Nat) :
    List (Target × Cell) × Flags :=
  let a := s.readP s.w l t.a.toNat 0
  let b := if two then s.readP s.w l t.b.toNat 4 else (false, false)
  (predResult l t.d.toNat (f (a.1 != t.sub.getLsbD 0) (b.1 != t.sub.getLsbD 1)) (a.2 || b.2), 0)

@[inherit_doc State.predLane] def State.predWord (s : State) (t : Tri) (two : Bool) (f : Bool → Bool → Bool) : State :=
  s.byLane t.h {} false (State.predLane t two f)

/-- R77, R88. -/
def execUadd (t : Tri) (s : State) : Host.Outcome State Fault Refusal :=
  .next (s.uniBin t (fun a b => arith .add t.ty t.sf a b 0))

/-- R77, R88. -/
def execUaddImm (t : Imm) (s : State) : Host.Outcome State Fault Refusal :=
  .next (s.uniImm t true (fun a => arith .add 1 false a (t.imm.setWidth 64) 0))

/-- R77, R88. -/
def execUsub (t : Tri) (s : State) : Host.Outcome State Fault Refusal :=
  .next (s.uniBin t (fun a b => arith .sub t.ty t.sf a b 0))

/-- R77, R88. -/
def execUmul (t : Tri) (s : State) : Host.Outcome State Fault Refusal :=
  .next (s.uniBin t (fun a b => arith .mul t.ty t.sf a b 0))

/-- R79, R88. -/
def execUand (t : Tri) (s : State) : Host.Outcome State Fault Refusal :=
  .next (s.uniBin t (bitOp .and (widthOf t.ty)))

/-- R79, R88. -/
def execUor (t : Tri) (s : State) : Host.Outcome State Fault Refusal :=
  .next (s.uniBin t (bitOp .or (widthOf t.ty)))

/-- R79, R88. -/
def execUxor (t : Tri) (s : State) : Host.Outcome State Fault Refusal :=
  .next (s.uniBin t (bitOp .xor (widthOf t.ty)))

/-- R79, R88. -/
def execUshl (t : Tri) (s : State) : Host.Outcome State Fault Refusal :=
  .next (s.uniShift t .shl)

/-- R79, R88. -/
def execUshr (t : Tri) (s : State) : Host.Outcome State Fault Refusal :=
  .next (s.uniShift t .shr)

/-- R79, R88. -/
def execUsar (t : Tri) (s : State) : Host.Outcome State Fault Refusal :=
  .next (s.uniShift t .sar)

/-- R85, R88: D := B, in the width of R83. -/
def execUmov (t : Tri) (s : State) : Host.Outcome State Fault Refusal :=
  .next (s.uniWord t shUMov (State.uniLane t shUMov (fun _ b _ => b)))

/-- R85, R88. -/
def execUmovi (t : Imm) (s : State) : Host.Outcome State Fault Refusal :=
  .next (s.uniImm t false (fun _ => t.imm.setWidth 64))

/-- What a uniform compare writes (R84, R88): its condition, and p[C] of the lane, to p[D] in every lane of the gang. -/
def State.ucmpResults (t : Tri) (s : State) (l : Nat) : List (Target × Cell) :=
  let (a, b, _, bad) := s.sources t ⟨.none, .sT, .sT, .none⟩ l
  let v := intCond t.var.toNat (ival t.ty a) (ival t.ty b)
  (lanesOf s.cur.lanes).flatMap (fun k =>
    let c := s.readP s.w k t.c.toNat 8
    predResult k t.d.toNat (v && c.1) (bad || c.2))

/-- R84, R88. -/
def execUcmp (t : Tri) (s : State) : Host.Outcome State Fault Refusal :=
  .next (s.uniWord t shUCmp (State.ucmpResults t))

/-- R100. -/
def execPand (t : Tri) (s : State) : Host.Outcome State Fault Refusal :=
  .next (s.predWord t true (· && ·))

/-- R100. -/
def execPor (t : Tri) (s : State) : Host.Outcome State Fault Refusal :=
  .next (s.predWord t true (· || ·))

/-- R100. -/
def execPxor (t : Tri) (s : State) : Host.Outcome State Fault Refusal :=
  .next (s.predWord t true (fun a b => a != b))

/-- R100. -/
def execPnot (t : Tri) (s : State) : Host.Outcome State Fault Refusal :=
  .next (s.predWord t false (fun a _ => !a))

/-- R100. -/
def execPmov (t : Tri) (s : State) : Host.Outcome State Fault Refusal :=
  .next (s.predWord t false (fun a _ => a))

end Sys2Proof.Machine
end

