-- ==== Sys2Proof/Machine/Wakes.lean ====
section
/-! DEFINITION. Machine/Wakes.lean: the events that let lanes and warps go on (R60, R120, R134, R151, R154), and those by
which accesses perform at their homes (R169, R176, R190, R222, R387). Each leaves the state as it is while its
condition does not hold. -/

namespace Sys2Proof.Machine

/-- A lane that a join names no longer holds up its waiters (R120): it has ended, or stands at a wait point. -/
def Lane.passes (L : Lane) : Bool := !L.alive || L.park.on

/-- The waiters of a join may go (R120): no named thread holds them up. A waiter itself is parked. -/
def Warp.joinOpen (W : Warp) (k : Nat) : Bool := (lanesOf (W.rejoin k)).all (fun l => (W.lane l).passes)

/-- JOIN_RELEASE (R120): every lane parked at the join goes on together. -/
def execJoinRelease (warp lane : Nat) (s : State) : Host.Outcome State Fault Refusal :=
  let s := s.sweep warp
  let W := s.warp warp
  .next (match (W.lane lane).park with
    | .join word k =>
      if W.joinOpen k then (lanesOf (W.mask (fun L => L.park = .join word k))).foldl (fun s l => s.wake warp l) s else s
    | _ => s)

/-- A lane leaves its `wait` with an outcome (R151). -/
def State.waitEnd (s : State) (w l dst : Nat) (conds : List WaitCond) (v : Word) (bad : Bool) : State :=
  ((s.writeTarget w (.vec l dst) ⟨v, bad⟩).accept w [l] (s.condWaits conds)).wake w l

/-- A lane waits for a cell that the ended warp of its share will never fill (R151, R159). -/
def State.orphaned (s : State) (w l : Nat) : WaitCond → Bool
  | .full r => match s.cellAt w l r with
    | some (_, _, full, ended) => !full && ended
    | none => false
  | _ => false

/-- WAIT_RELEASE (R151): the combination holds; or a condition can never hold, and the lane takes the orphan-read fault
(R159). -/
def execWaitRelease (warp lane : Nat) (s : State) : Host.Outcome State Fault Refusal :=
  let s := s.sweep warp
  .next (match ((s.warp warp).lane lane).park with
    | .wait conds all _ dst bad =>
      let hs := conds.map (s.condHolds warp lane)
      if combine all hs then s.waitEnd warp lane dst conds (waitResult all hs false) bad
      else if conds.any (s.orphaned warp lane) then
        let addr := Config.freeWord s.fresh
        { s with fresh := s.fresh + 1 }.trapWarp warp ⟨cOrphan, addr, maskOf [lane], none⟩
      else s
    | _ => s)

/-- WAIT_TIMEOUT (R151): REFTICK has reached the lane's deadline. -/
def execWaitTimeout (warp lane : Nat) (s : State) : Host.Outcome State Fault Refusal :=
  let s := s.sweep warp
  .next (match ((s.warp warp).lane lane).park with
    | .wait conds all (some d) dst bad =>
      if s.refTick < d then s
      else s.waitEnd warp lane dst conds (waitResult all (conds.map (s.condHolds warp lane)) true) bad
    | _ => s)

/-- BARRIER_WAITER_RELEASE (R154): the barrier's generation is no longer the lane's. -/
def execBarrierWaiterRelease (warp lane : Nat) (s : State) : Host.Outcome State Fault Refusal :=
  let s := s.sweep warp
  .next (match ((s.warp warp).lane lane).park with
    | .barrier n tok _ =>
      if (s.bar n).gen == tok then s else (s.accept warp [lane] ((s.bar n).released tok)).wake warp lane
    | _ => s)

/-- LONG_RESULT_DELIVERY (R60, R61): what is known of a long operation reaches its registers. -/
def execLongResultDelivery (warp op : Nat) (s : State) : Host.Outcome State Fault Refusal := .next (s.deliver warp op)

/-- A warp that has completed 256 cycles as a candidate without being chosen rises by a level (R134). -/
def Warp.rise (W : Warp) : Warp :=
  if W.aged < 256 then W else { W with aged := 0, level := min (W.level + 1) (min (W.prio + 8) 63) }

/-- EFFECTIVE_LEVEL_RISE (R134). -/
def execEffectiveLevelRise (warp : Nat) (s : State) : Host.Outcome State Fault Refusal :=
  .next (s.updWarp warp Warp.rise)

/-- SCRATCHPAD_BANK_WAKE (R169): a waking bank is awake, at the latest 2 µs after the access that woke it. -/
def execScratchpadBankWake (die base : Nat) (s : State) : Host.Outcome State Fault Refusal :=
  .next (if (s.die die).waking.isEmpty then s
    else s.updDie die (fun d => { d with waking := d.waking.filter (fun g => g.1 != base) }))

/-- An on-chip byte range of the die scratchpad is in use (R169): by a live block's or warp's stacks, a live cluster's
segment, or an outstanding copy. -/
def State.bankUsed (s : State) (die base len : Nat) : Bool :=
  let k := dspKey die base
  (s.die die).spill.any (fun x => meets x.1 x.2.1 base len)
    || s.clusters.any (fun x => x.1 / 1024 == die && x.2.live && meets x.2.base x.2.size base len)
    || s.copies.any (fun c => c.2.chipRanges.any (fun r => meets r.1 r.2 k len))

/-- SCRATCHPAD_BANK_GATE (R169): a bank in which nothing lives is power-gated; it reads as zero when it is enabled again. -/
def execScratchpadBankGate (die base len : Nat) (s : State) : Host.Outcome State Fault Refusal :=
  .next (if die ≥ 4 || len == 0 || base + len > 2 ^ 27 || base % 64 != 0 || len % 64 != 0 || s.bankUsed die base len
      || (s.die die).gated.any (fun g => meets g.1 g.2 base len)
      || (s.die die).waking.any (fun g => meets g.1 g.2.1 base len) then s
    else
      let lo := dspKey die base
      let s := { s with
        mem := s.mem.filter (fun c => !(within c.1 (lo, lo + len)))
        poison := s.poison.filter (fun u => !(within (8 * u) (lo, lo + len))) }
      s.updDie die (fun d => { d with gated := d.gated ++ [(base, len)] }))

/-- An access that reaches its home performs, and its lane goes on (R190). -/
def State.performAccess (s : State) (w id : Nat) (a : Access) : State := (s.perform w id a).releaseAccess w

/-- LOAD_PRESENCE_RESUME (R176): a load parked on an absent line, on its bank or its segment, performs now. -/
def execLoadPresenceResume (warp acc : Nat) (s : State) : Host.Outcome State Fault Refusal :=
  let s := s.sweep warp
  .next (match tget (s.warp warp).accs acc with
    | none => s
    | some a => match a.kind with
      | .rmw _ _ _ => s
      | _ => if a.parked && s.mayPerform warp a then s.performAccess warp acc a else s)

/-- MEMORY_ACCESS_PERFORM (R387): a load, a store, a reading of a presence bit or a fence arrives at its home. One that
finds its bank gated begins the bank's wake (R169). -/
def execMemoryAccessPerform (warp acc : Nat) (s : State) : Host.Outcome State Fault Refusal :=
  .next (match tget (s.warp warp).accs acc with
    | none => s
    | some a =>
      let s := if a.size != 0 then s.rouseKey a.key else s
      match a.kind with
      | .rmw _ _ _ => s
      | _ => if !a.parked && s.mayPerform warp a then s.performAccess warp acc a else s)

/-- The RMWs of a word at one place, in lane order (R222). -/
def State.performGroup (s : State) (w : Nat) (xs : List (Nat × Access)) : State :=
  (xs.foldl (fun s (x : Nat × Access) => s.perform w x.1 x.2) s).releaseAccess w

/-- A copy queue's entry may act on memory (R196, R224): every earlier entry of its queue has completed. -/
def State.queueHead (s : State) (id : Nat) (c : Copy) : Bool :=
  !s.copies.any (fun x => x.2.core == c.core && x.2.queue == c.queue && x.2.seq < c.seq && x.1 != id)

/-- The access of one lane of a `.mem` atomic. -/
def Copy.access (c : Copy) (a : Nat × Nat × AtomOp × Nat × Nat) : Access :=
  { seq := c.seq, lane := a.1, key := a.2.1, space := .dsp, ea := 0, size := if wideTy a.2.2.1.ty then 8 else 4
    kind := .rmw a.2.2.1 a.2.2.2.1 a.2.2.2.2, acq := c.acq, rel := c.rel, scope := c.scope, cores := c.cores }

/-- The `.mem` atomic of a copy queue's entry may perform (R194, R196, R198): it is at the head of its queue, its lanes'
earlier acquires have performed, and it takes in what it finds when it is an acquire. -/
def State.atomReady (s : State) (id : Nat) (c : Copy) : Bool :=
  s.queueHead id c && s.gangOrdered c.warp c.lanes c.seq
    && c.atoms.all (fun a => s.acquireReady c.warp (c.access a))

/-- Device physical addresses in host memory (R388). -/
def hostKey (key : Nat) : Bool := key / 2 ^ 56 % 2 == 1 && key < 2 ^ 57

/-- One `.mem` atomic of a lane at its home (R222, R224, R354); one on host memory goes out as an AtomicOp. -/
def State.performAtom (s : State) (c : Copy) (a : Nat × Nat × AtomOp × Nat × Nat) : State :=
  let (_, key, x, reg, op) := a
  let s := if hostKey key then
      { s with sent := s.sent ++ [Sent.atomicOp key x.op (widthOf x.ty / 8) x.x x.y] }
    else s
  s.performRmw c.warp (c.access a) x reg op

/-- The lanes of a `.mem` atomic that perform next (R222), and the others: in ascending order, each lane of host memory by
itself, as a host processor may write between them; otherwise all those at the bytes of the first. -/
def Copy.splitAtoms (c : Copy) :
    List (Nat × Nat × AtomOp × Nat × Nat) × List (Nat × Nat × AtomOp × Nat × Nat) :=
  match c.atoms with
  | [] => ([], [])
  | a :: rest => if hostKey a.2.1 then ([a], rest) else (a :: rest).partition (fun b => b.2.1 == a.2.1)

/-- GNOMON_RMW_PERFORM (R222): the RMWs that a word makes at one place perform as consecutive RMWs in lane order. With
`mem` the word is the `.mem` atomic of a copy queue's entry, which leaves its queue (R224). -/
def execGnomonRmwPerform (mem : Bool) (owner acc : Nat) (s : State) : Host.Outcome State Fault Refusal :=
  .next (if mem then
      match tget s.copies owner with
      | none => s
      | some c =>
        if c.atoms.isEmpty || !s.atomReady owner c then s
        else
          let (now, rest) := c.splitAtoms
          let s := now.foldl (fun s (a : Nat × Nat × AtomOp × Nat × Nat) => s.performAtom c a) s
          match rest with
          | [] => { s with copies := tdel s.copies owner }
          | rest => { s with copies := tset s.copies owner { c with atoms := rest } }
    else
      let s := s.sweep owner
      match tget (s.warp owner).accs acc with
      | none => s
      | some a =>
        let s := s.rouseKey a.key
        match a.kind with
        | .rmw _ _ _ =>
          let xs := (s.warp owner).together a
          if xs.all (fun x => s.mayPerform owner x.2) then s.performGroup owner xs else s
        | _ => s)

end Sys2Proof.Machine
end

