-- ==== Sys2Proof/Machine/Dispatch.lean ====
section
/-! DEFINITION. Machine/Dispatch.lean: one arm per constructor of Instr, each a call of its meaning. -/

namespace Sys2Proof.Machine

/-- What an instruction or an event does to the machine. -/
def exec (i : Instr) (s : State) : Host.Outcome State Fault Refusal :=
  match i with
  | .add t => Sys2Proof.Machine.execAdd t s
  | .addImm f => Sys2Proof.Machine.execAddImm f s
  | .sub t => Sys2Proof.Machine.execSub t s
  | .subImm f => Sys2Proof.Machine.execSubImm f s
  | .mul t => Sys2Proof.Machine.execMul t s
  | .mulhi t => Sys2Proof.Machine.execMulhi t s
  | .mad t => Sys2Proof.Machine.execMad t s
  | .addc t => Sys2Proof.Machine.execAddc t s
  | .subb t => Sys2Proof.Machine.execSubb t s
  | .neg t => Sys2Proof.Machine.execNeg t s
  | .abs t => Sys2Proof.Machine.execAbs t s
  | .min t => Sys2Proof.Machine.execMin t s
  | .max t => Sys2Proof.Machine.execMax t s
  | .and t => Sys2Proof.Machine.execAnd t s
  | .andImm f => Sys2Proof.Machine.execAndImm f s
  | .or t => Sys2Proof.Machine.execOr t s
  | .orImm f => Sys2Proof.Machine.execOrImm f s
  | .xor t => Sys2Proof.Machine.execXor t s
  | .xorImm f => Sys2Proof.Machine.execXorImm f s
  | .not t => Sys2Proof.Machine.execNot t s
  | .andn t => Sys2Proof.Machine.execAndn t s
  | .shl t => Sys2Proof.Machine.execShl t s
  | .shr t => Sys2Proof.Machine.execShr t s
  | .sar t => Sys2Proof.Machine.execSar t s
  | .rol t => Sys2Proof.Machine.execRol t s
  | .clz t => Sys2Proof.Machine.execClz t s
  | .ctz t => Sys2Proof.Machine.execCtz t s
  | .popc t => Sys2Proof.Machine.execPopc t s
  | .brev t => Sys2Proof.Machine.execBrev t s
  | .bfe t => Sys2Proof.Machine.execBfe t s
  | .bfi t => Sys2Proof.Machine.execBfi t s
  | .prmt t => Sys2Proof.Machine.execPrmt t s
  | .sel t => Sys2Proof.Machine.execSel t s
  | .cmp t => Sys2Proof.Machine.execCmp t s
  | .mov t => Sys2Proof.Machine.execMov t s
  | .movi f => Sys2Proof.Machine.execMovi f s
  | .movh f => Sys2Proof.Machine.execMovh f s
  | .cvt t => Sys2Proof.Machine.execCvt t s
  | .lea t => Sys2Proof.Machine.execLea t s
  | .fadd t => Sys2Proof.Machine.execFadd t s
  | .fsub t => Sys2Proof.Machine.execFsub t s
  | .fmul t => Sys2Proof.Machine.execFmul t s
  | .ffma t => Sys2Proof.Machine.execFfma t s
  | .fmin t => Sys2Proof.Machine.execFmin t s
  | .fmax t => Sys2Proof.Machine.execFmax t s
  | .fcmp t => Sys2Proof.Machine.execFcmp t s
  | .fclass t => Sys2Proof.Machine.execFclass t s
  | .fcvt t => Sys2Proof.Machine.execFcvt t s
  | .frint t => Sys2Proof.Machine.execFrint t s
  | .fdiv t => Sys2Proof.Machine.execFdiv t s
  | .fsqrt t => Sys2Proof.Machine.execFsqrt t s
  | .frcp t => Sys2Proof.Machine.execFrcp t s
  | .frsq t => Sys2Proof.Machine.execFrsq t s
  | .fexp2 t => Sys2Proof.Machine.execFexp2 t s
  | .flog2 t => Sys2Proof.Machine.execFlog2 t s
  | .fsin t => Sys2Proof.Machine.execFsin t s
  | .fcos t => Sys2Proof.Machine.execFcos t s
  | .fscale t => Sys2Proof.Machine.execFscale t s
  | .fgetexp t => Sys2Proof.Machine.execFgetexp t s
  | .fcopysign t => Sys2Proof.Machine.execFcopysign t s
  | .fdot2 t => Sys2Proof.Machine.execFdot2 t s
  | .uadd t => Sys2Proof.Machine.execUadd t s
  | .uaddImm f => Sys2Proof.Machine.execUaddImm f s
  | .usub t => Sys2Proof.Machine.execUsub t s
  | .umul t => Sys2Proof.Machine.execUmul t s
  | .uand t => Sys2Proof.Machine.execUand t s
  | .uor t => Sys2Proof.Machine.execUor t s
  | .uxor t => Sys2Proof.Machine.execUxor t s
  | .ushl t => Sys2Proof.Machine.execUshl t s
  | .ushr t => Sys2Proof.Machine.execUshr t s
  | .usar t => Sys2Proof.Machine.execUsar t s
  | .umov t => Sys2Proof.Machine.execUmov t s
  | .umovi f => Sys2Proof.Machine.execUmovi f s
  | .ucmp t => Sys2Proof.Machine.execUcmp t s
  | .pand t => Sys2Proof.Machine.execPand t s
  | .por t => Sys2Proof.Machine.execPor t s
  | .pxor t => Sys2Proof.Machine.execPxor t s
  | .pnot t => Sys2Proof.Machine.execPnot t s
  | .pmov t => Sys2Proof.Machine.execPmov t s
  | .vote t => Sys2Proof.Machine.execVote t s
  | .ballot t => Sys2Proof.Machine.execBallot t s
  | .shfl t => Sys2Proof.Machine.execShfl t s
  | .bcast t => Sys2Proof.Machine.execBcast t s
  | .redux t => Sys2Proof.Machine.execRedux t s
  | .ld t => Sys2Proof.Machine.execLd t s
  | .st t => Sys2Proof.Machine.execSt t s
  | .ldp t => Sys2Proof.Machine.execLdp t s
  | .stp t => Sys2Proof.Machine.execStp t s
  | .atom t => Sys2Proof.Machine.execAtom t s
  | .red t => Sys2Proof.Machine.execRed t s
  | .fence t => Sys2Proof.Machine.execFence t s
  | .prs t => Sys2Proof.Machine.execPrs t s
  | .barArrive t => Sys2Proof.Machine.execBarArrive t s
  | .barWait t => Sys2Proof.Machine.execBarWait t s
  | .barSync t => Sys2Proof.Machine.execBarSync t s
  | .barExpect t => Sys2Proof.Machine.execBarExpect t s
  | .scopeGet t => Sys2Proof.Machine.execScopeGet t s
  | .scopeFreeze t => Sys2Proof.Machine.execScopeFreeze t s
  | .scopeThaw t => Sys2Proof.Machine.execScopeThaw t s
  | .scopeQuery t => Sys2Proof.Machine.execScopeQuery t s
  | .bgive t => Sys2Proof.Machine.execBgive t s
  | .btake t => Sys2Proof.Machine.execBtake t s
  | .btakeResume warp gang => Sys2Proof.Machine.execBtakeResume warp gang s
  | .rgive t => Sys2Proof.Machine.execRgive t s
  | .rclaim t => Sys2Proof.Machine.execRclaim t s
  | .rclaimGrant block => Sys2Proof.Machine.execRclaimGrant block s
  | .rshare t => Sys2Proof.Machine.execRshare t s
  | .runshare t => Sys2Proof.Machine.execRunshare t s
  | .runshareResume warp gang => Sys2Proof.Machine.execRunshareResume warp gang s
  | .sharedCellWake warp lane => Sys2Proof.Machine.execSharedCellWake warp lane s
  | .xferIn t => Sys2Proof.Machine.execXferIn t s
  | .xferOut t => Sys2Proof.Machine.execXferOut t s
  | .xfer2d t => Sys2Proof.Machine.execXfer2d t s
  | .xferGat t => Sys2Proof.Machine.execXferGat t s
  | .xferSct t => Sys2Proof.Machine.execXferSct t s
  | .xferDsp t => Sys2Proof.Machine.execXferDsp t s
  | .xferPeer t => Sys2Proof.Machine.execXferPeer t s
  | .chClaimBind t => Sys2Proof.Machine.execChClaimBind t s
  | .chClaim t => Sys2Proof.Machine.execChClaim t s
  | .chCommit t => Sys2Proof.Machine.execChCommit t s
  | .chAwaitBind t => Sys2Proof.Machine.execChAwaitBind t s
  | .chAwait t => Sys2Proof.Machine.execChAwait t s
  | .chRetire t => Sys2Proof.Machine.execChRetire t s
  | .channelClaimResume chan => Sys2Proof.Machine.execChannelClaimResume chan s
  | .channelAwaitResume chan => Sys2Proof.Machine.execChannelAwaitResume chan s
  | .obres t => Sys2Proof.Machine.execObres t s
  | .obrel t => Sys2Proof.Machine.execObrel t s
  | .bload t => Sys2Proof.Machine.execBload t s
  | .bfree t => Sys2Proof.Machine.execBfree t s
  | .mma t => Sys2Proof.Machine.execMma t s
  | .mmaM t => Sys2Proof.Machine.execMmaM t s
  | .accz t => Sys2Proof.Machine.execAccz t s
  | .accrd t => Sys2Proof.Machine.execAccrd t s
  | .accwr t => Sys2Proof.Machine.execAccwr t s
  | .accst t => Sys2Proof.Machine.execAccst t s
  | .accld t => Sys2Proof.Machine.execAccld t s
  | .matrixWordPerform word => Sys2Proof.Machine.execMatrixWordPerform word s
  | .spawn f => Sys2Proof.Machine.execSpawn f s
  | .fref t => Sys2Proof.Machine.execFref t s
  | .fdrop t => Sys2Proof.Machine.execFdrop t s
  | .fget t => Sys2Proof.Machine.execFget t s
  | .fgetResume warp lane => Sys2Proof.Machine.execFgetResume warp lane s
  | .fpoll t => Sys2Proof.Machine.execFpoll t s
  | .rpoint t => Sys2Proof.Machine.execRpoint t s
  | .tret t => Sys2Proof.Machine.execTret t s
  | .taskFutureComplete warp fut => Sys2Proof.Machine.execTaskFutureComplete warp fut s
  | .bra f => Sys2Proof.Machine.execBra f s
  | .brx t => Sys2Proof.Machine.execBrx t s
  | .brxRel t => Sys2Proof.Machine.execBrxRel t s
  | .call f => Sys2Proof.Machine.execCall f s
  | .callx t => Sys2Proof.Machine.execCallx t s
  | .ret t => Sys2Proof.Machine.execRet t s
  | .umark f => Sys2Proof.Machine.execUmark f s
  | .unwind t => Sys2Proof.Machine.execUnwind t s
  | .exit t => Sys2Proof.Machine.execExit t s
  | .nop t => Sys2Proof.Machine.execNop t s
  | .trap f => Sys2Proof.Machine.execTrap f s
  | .brk f => Sys2Proof.Machine.execBrk f s
  | .join t => Sys2Proof.Machine.execJoin t s
  | .joinRelease warp lane => Sys2Proof.Machine.execJoinRelease warp lane s
  | .jleave t => Sys2Proof.Machine.execJleave t s
  | .jmaskGang t => Sys2Proof.Machine.execJmaskGang t s
  | .jmaskAdd t => Sys2Proof.Machine.execJmaskAdd t s
  | .jmaskU t => Sys2Proof.Machine.execJmaskU t s
  | .wait t => Sys2Proof.Machine.execWait t s
  | .waitRelease warp lane => Sys2Proof.Machine.execWaitRelease warp lane s
  | .waitTimeout warp lane => Sys2Proof.Machine.execWaitTimeout warp lane s
  | .barrierWaiterRelease warp lane => Sys2Proof.Machine.execBarrierWaiterRelease warp lane s
  | .sysrd t => Sys2Proof.Machine.execSysrd t s
  | .syswr t => Sys2Proof.Machine.execSyswr t s
  | .eret t => Sys2Proof.Machine.execEret t s
  | .notify t => Sys2Proof.Machine.execNotify t s
  | .notifyEntryWrite warp => Sys2Proof.Machine.execNotifyEntryWrite warp s
  | .haltSave t => Sys2Proof.Machine.execHaltSave t s
  | .haltEnd t => Sys2Proof.Machine.execHaltEnd t s
  | .rng t => Sys2Proof.Machine.execRng t s
  | .rngU01 t => Sys2Proof.Machine.execRngU01 t s
  | .ctxDrain t => Sys2Proof.Machine.execCtxDrain t s
  | .ctxDrainComplete warp gang => Sys2Proof.Machine.execCtxDrainComplete warp gang s
  | .ctxVsave t => Sys2Proof.Machine.execCtxVsave t s
  | .ctxVload t => Sys2Proof.Machine.execCtxVload t s
  | .pairNop p => Sys2Proof.Machine.execPairNop p s
  | .pairAddN32 p => Sys2Proof.Machine.execPairAddN32 p s
  | .pairSubN32 p => Sys2Proof.Machine.execPairSubN32 p s
  | .pairMulN32 p => Sys2Proof.Machine.execPairMulN32 p s
  | .pairAnd p => Sys2Proof.Machine.execPairAnd p s
  | .pairOr p => Sys2Proof.Machine.execPairOr p s
  | .pairXor p => Sys2Proof.Machine.execPairXor p s
  | .pairAndn p => Sys2Proof.Machine.execPairAndn p s
  | .pairMinI32 p => Sys2Proof.Machine.execPairMinI32 p s
  | .pairMaxI32 p => Sys2Proof.Machine.execPairMaxI32 p s
  | .pairMinN32 p => Sys2Proof.Machine.execPairMinN32 p s
  | .pairMaxN32 p => Sys2Proof.Machine.execPairMaxN32 p s
  | .pairShl p => Sys2Proof.Machine.execPairShl p s
  | .pairShr p => Sys2Proof.Machine.execPairShr p s
  | .pairSar p => Sys2Proof.Machine.execPairSar p s
  | .pairMov p => Sys2Proof.Machine.execPairMov p s
  | .pairAddImm p => Sys2Proof.Machine.execPairAddImm p s
  | .pairSubImm p => Sys2Proof.Machine.execPairSubImm p s
  | .pairAndImm p => Sys2Proof.Machine.execPairAndImm p s
  | .pairOrImm p => Sys2Proof.Machine.execPairOrImm p s
  | .pairXorImm p => Sys2Proof.Machine.execPairXorImm p s
  | .pairShlImm p => Sys2Proof.Machine.execPairShlImm p s
  | .pairShrImm p => Sys2Proof.Machine.execPairShrImm p s
  | .pairSarImm p => Sys2Proof.Machine.execPairSarImm p s
  | .pairRolImm p => Sys2Proof.Machine.execPairRolImm p s
  | .pairMovi p => Sys2Proof.Machine.execPairMovi p s
  | .pairFaddF32 p => Sys2Proof.Machine.execPairFaddF32 p s
  | .pairFsubF32 p => Sys2Proof.Machine.execPairFsubF32 p s
  | .pairFmulF32 p => Sys2Proof.Machine.execPairFmulF32 p s
  | .pairFminF32 p => Sys2Proof.Machine.execPairFminF32 p s
  | .pairFmaxF32 p => Sys2Proof.Machine.execPairFmaxF32 p s
  | .pairFaddF64 p => Sys2Proof.Machine.execPairFaddF64 p s
  | .pairFsubF64 p => Sys2Proof.Machine.execPairFsubF64 p s
  | .pairFmulF64 p => Sys2Proof.Machine.execPairFmulF64 p s
  | .pairFminF64 p => Sys2Proof.Machine.execPairFminF64 p s
  | .pairFmaxF64 p => Sys2Proof.Machine.execPairFmaxF64 p s
  | .pairAddN64 p => Sys2Proof.Machine.execPairAddN64 p s
  | .pairSubN64 p => Sys2Proof.Machine.execPairSubN64 p s
  | .pairMovN64 p => Sys2Proof.Machine.execPairMovN64 p s
  | .pairAddN64Imm p => Sys2Proof.Machine.execPairAddN64Imm p s
  | .longResultDelivery warp op => Sys2Proof.Machine.execLongResultDelivery warp op s
  | .effectiveLevelRise warp => Sys2Proof.Machine.execEffectiveLevelRise warp s
  | .trapEntry warp => Sys2Proof.Machine.execTrapEntry warp s
  | .safePointTrap warp => Sys2Proof.Machine.execSafePointTrap warp s
  | .forcedSave core => Sys2Proof.Machine.execForcedSave core s
  | .storageRelease block => Sys2Proof.Machine.execStorageRelease block s
  | .frameRequestServe core => Sys2Proof.Machine.execFrameRequestServe core s
  | .umbraSpillRound core => Sys2Proof.Machine.execUmbraSpillRound core s
  | .scratchpadBankWake die base => Sys2Proof.Machine.execScratchpadBankWake die base s
  | .loadPresenceResume warp acc => Sys2Proof.Machine.execLoadPresenceResume warp acc s
  | .memoryAccessPerform warp acc => Sys2Proof.Machine.execMemoryAccessPerform warp acc s
  | .gnomonRmwPerform mem owner acc => Sys2Proof.Machine.execGnomonRmwPerform mem owner acc s
  | .launchQueueDoorbell vi q val => Sys2Proof.Machine.execLaunchQueueDoorbell vi q val s
  | .launchRecord => Sys2Proof.Machine.execLaunchRecord s
  | .restoreRecord => Sys2Proof.Machine.execRestoreRecord s
  | .blockPlacement grid => Sys2Proof.Machine.execBlockPlacement grid s
  | .gridCompletion grid => Sys2Proof.Machine.execGridCompletion grid s
  | .binTimerExpiry core bin => Sys2Proof.Machine.execBinTimerExpiry core bin s
  | .binSpaceResume warp gang => Sys2Proof.Machine.execBinSpaceResume warp gang s
  | .waveLaunch core => Sys2Proof.Machine.execWaveLaunch core s
  | .taskArgumentRead warp lane => Sys2Proof.Machine.execTaskArgumentRead warp lane s
  | .parallaxIntervalEnd => Sys2Proof.Machine.execParallaxIntervalEnd s
  | .regroupCommit die move => Sys2Proof.Machine.execRegroupCommit die move s
  | .futureRecordWaitResume warp gang => Sys2Proof.Machine.execFutureRecordWaitResume warp gang s
  | .copyQueueRoomResume warp gang => Sys2Proof.Machine.execCopyQueueRoomResume warp gang s
  | .matrixQueueRoomResume warp gang => Sys2Proof.Machine.execMatrixQueueRoomResume warp gang s
  | .pageTableWalk die walk => Sys2Proof.Machine.execPageTableWalk die walk s
  | .copyChunkStart copy => Sys2Proof.Machine.execCopyChunkStart copy s
  | .copyChunkLanding copy chunk => Sys2Proof.Machine.execCopyChunkLanding copy chunk s
  | .copyCompletion copy => Sys2Proof.Machine.execCopyCompletion copy s
  | .doomedCopyStop copy => Sys2Proof.Machine.execDoomedCopyStop copy s
  | .taskReclamation fut => Sys2Proof.Machine.execTaskReclamation fut s
  | .faultQueueEntryWrite vi => Sys2Proof.Machine.execFaultQueueEntryWrite vi s
  | .fqresumeRetry vi token => Sys2Proof.Machine.execFqresumeRetry vi token s
  | .fqresumeAccessError vi token => Sys2Proof.Machine.execFqresumeAccessError vi token s
  | .fqresumeUnserviceable vi token => Sys2Proof.Machine.execFqresumeUnserviceable vi token s
  | .fqresumeIgnored vi token => Sys2Proof.Machine.execFqresumeIgnored vi token s
  | .fqheadWrite vi val => Sys2Proof.Machine.execFqheadWrite vi val s
  | .cqheadWrite vi val => Sys2Proof.Machine.execCqheadWrite vi val s
  | .elheadWrite vi val => Sys2Proof.Machine.execElheadWrite vi val s
  | .ellostRead vi => Sys2Proof.Machine.execEllostRead vi s
  | .tlbinvRange vi val => Sys2Proof.Machine.execTlbinvRange vi val s
  | .tlbinvAll vi => Sys2Proof.Machine.execTlbinvAll vi s
  | .tlbInvalidationDone vi => Sys2Proof.Machine.execTlbInvalidationDone vi s
  | .futareaWrite die val => Sys2Proof.Machine.execFutareaWrite die val s
  | .preqRequest core val => Sys2Proof.Machine.execPreqRequest core val s
  | .preqWithdraw core val => Sys2Proof.Machine.execPreqWithdraw core val s
  | .qclassWrite die val => Sys2Proof.Machine.execQclassWrite die val s
  | .classChangeEffect group => Sys2Proof.Machine.execClassChangeEffect group s
  | .energyAccumulate die nanojoules => Sys2Proof.Machine.execEnergyAccumulate die nanojoules s
  | .energyReadLatch die => Sys2Proof.Machine.execEnergyReadLatch die s
  | .thermalTripChange die tmax => Sys2Proof.Machine.execThermalTripChange die tmax s
  | .registerWrite bar fn off width val => Sys2Proof.Machine.execRegisterWrite bar fn off width val s
  | .hostBar4Access write addr width val => Sys2Proof.Machine.execHostBar4Access write addr width val s
  | .hostAtomicop op addr width x y => Sys2Proof.Machine.execHostAtomicop op addr width x y s
  | .msixPendingSend vi vec => Sys2Proof.Machine.execMsixPendingSend vi vec s
  | .limiterStep group => Sys2Proof.Machine.execLimiterStep group s
  | .mmaPassEnd core => Sys2Proof.Machine.execMmaPassEnd core s
  | .mmaMPassFetch word => Sys2Proof.Machine.execMmaMPassFetch word s
  | .droopDetected die quad => Sys2Proof.Machine.execDroopDetected die quad s
  | .hbmPinGroupMark chan pin => Sys2Proof.Machine.execHbmPinGroupMark chan pin s
  | .ringPacketInject die src dst => Sys2Proof.Machine.execRingPacketInject die src dst s
  | .ringHop die pkt => Sys2Proof.Machine.execRingHop die pkt s
  | .ringDelivery die pkt => Sys2Proof.Machine.execRingDelivery die pkt s
  | .cxlViralOrLinkLoss die loss => Sys2Proof.Machine.execCxlViralOrLinkLoss die loss s
  | .cxlErrorResponse poisoned copy line => Sys2Proof.Machine.execCxlErrorResponse poisoned copy line s
  | .pcieErrorCompletion vi addr => Sys2Proof.Machine.execPcieErrorCompletion vi addr s
  | .peerLinkError copy => Sys2Proof.Machine.execPeerLinkError copy s
  | .packageReset => Sys2Proof.Machine.execPackageReset s
  | .bootRomVerify => Sys2Proof.Machine.execBootRomVerify s
  | .hbmTraining ok => Sys2Proof.Machine.execHbmTraining ok s
  | .linkTraining ok => Sys2Proof.Machine.execLinkTraining ok s
  | .cxlEnumeration caps => Sys2Proof.Machine.execCxlEnumeration caps s
  | .bringUpReady => Sys2Proof.Machine.execBringUpReady s
  | .bootstatRetry => Sys2Proof.Machine.execBootstatRetry s
  | .flashWindowWrite off val => Sys2Proof.Machine.execFlashWindowWrite off val s
  | .getVersion req => Sys2Proof.Machine.execGetVersion req s
  | .getCapabilities req => Sys2Proof.Machine.execGetCapabilities req s
  | .negotiateAlgorithms req => Sys2Proof.Machine.execNegotiateAlgorithms req s
  | .getDigests req => Sys2Proof.Machine.execGetDigests req s
  | .getCertificate req => Sys2Proof.Machine.execGetCertificate req s
  | .challenge req => Sys2Proof.Machine.execChallenge req s
  | .getMeasurements req => Sys2Proof.Machine.execGetMeasurements req s
  | .spdmUnsupportedRequest req => Sys2Proof.Machine.execSpdmUnsupportedRequest req s
  | .regroupCommitEnd die => Sys2Proof.Machine.execRegroupCommitEnd die s
  | .peerAccessReceived vi op addr width x y => Sys2Proof.Machine.execPeerAccessReceived vi op addr width x y s
  | .scratchpadBankGate die base len => Sys2Proof.Machine.execScratchpadBankGate die base len s
  | .configurationRequest fn msixOn msixMask => Sys2Proof.Machine.execConfigurationRequest fn msixOn msixMask s
  | .registerRead bar fn off width => Sys2Proof.Machine.execRegisterRead bar fn off width s

end Sys2Proof.Machine
end

