-- ==== Sys2Proof/Machine/Issue.lean ====
section
/-! DEFINITION. Machine/Issue.lean: which warp a scheduler chooses and which gang issues (R117, R118, R133, R134), the
fetch and decoding of its word (R42, R43, R56), what no cycle may leave undone, and the passing of time (R5, R412). -/

namespace Sys2Proof.Machine

/-- The threads of a warp that are ready in a cycle (R117). A warp whose trap waits for its long operations issues
nothing (R333), nor does one whose context is saved, or one a word of which waits for its long operations (R30, R62, R364)
or for its notification (R366). Log entry 63: DESIGN CHOICE. -/
def Warp.readyAt (W : Warp) (c : Nat) : BitVec 32 :=
  if W.saved || W.trap.isSome || W.stall || W.waitLong || W.waitAll || !W.notes.isEmpty then 0
  else W.mask (fun L => L.ready && L.since ≤ c)

/-- The leader (R118): the ready thread whose ready-since cycle is earliest, the lowest lane among several. -/
def Warp.leader (W : Warp) (c : Nat) : Option (Nat × Lane) :=
  firstBy (fun a b => a.2.since < b.2.since || a.2.since == b.2.since && a.1 < b.1)
    (W.lanes.filter (fun x => (W.readyAt c).getLsbD x.1))

/-- The gang (R118): every ready thread at the leader's program counter. -/
def Warp.gangAt (W : Warp) (c : Nat) (pc : DWord) : BitVec 32 :=
  W.readyAt c &&& W.mask (fun L => L.pc == pc)

/-- The earliest ready-since cycle of a candidate. -/
def Warp.readySince (W : Warp) (c : Nat) : Nat := ((W.leader c).map (·.2.since)).getD 0

/-- The warps of a scheduler. -/
def State.schedWarps (s : State) (core sched : Nat) : List (Nat × Warp) :=
  s.warps.filter (fun x => x.2.core == core && schedOf x.2.slot == sched)

/-- The clock of a core runs (R413). -/
def State.clocked (s : State) (core : Nat) : Bool := (s.group (groupOf core)).cls < 3

/-- The order in which candidates are chosen (R133): on a fairness cycle by age alone, otherwise by effective level and
then by age; the lowest slot last. -/
def chooseBefore (c : Nat) (x y : Nat × Warp) : Bool :=
  let older := x.2.readySince c < y.2.readySince c
    || x.2.readySince c == y.2.readySince c && x.2.slot < y.2.slot
  if c % 1024 == 1023 then older else x.2.level > y.2.level || x.2.level == y.2.level && older

/-- The warp that a scheduler chooses in this cycle (R133). -/
def State.choose (s : State) (core sched : Nat) : Option (Nat × Warp) :=
  let c := s.cycle core
  firstBy (chooseBefore c) ((s.schedWarps core sched).filter (fun x => x.2.readyAt c != 0))

/-- What a cycle of a scheduler leaves of the counts of R134: the chosen warp is back at PRIO, the other candidates have
one more cycle, the rest start again. A cycle in which the scheduler chose nothing had no candidate.
Log entry 9: DESIGN CHOICE. -/
def State.account (s : State) (core sched chosen : Nat) : State :=
  let c := s.cycle core
  let again := tgetD (s.core core).issued sched 0 == c
  let s := { s with warps := tmap s.warps (fun w W =>
    if !(W.core == core && schedOf W.slot == sched) then W
    else if w == chosen then { W with aged := 0, level := W.prio }
    else if W.readyAt c == 0 then { W with aged := 0 }
    else { W with aged := if again then W.aged + 1 else 1 }) }
  s.updCore core (fun k => { k with issued := tset k.issued sched (c + 1) })

/-- A scheduler has a warp to issue, and has not issued in this cycle (R118). -/
def State.mayIssue (s : State) (core sched : Nat) : Bool :=
  s.clocked core && tgetD (s.core core).issued sched 0 != s.cycle core + 1 && (s.choose core sched).isSome

/-- A word of the engine block, 0xC0 to 0xD6 (R66, R289). -/
def engineWord (n : Nat) : Bool := !flag n 63 && 0xC0 ≤ n / 2 ^ 53 % 256 && n / 2 ^ 53 % 256 ≤ 0xD6

/-- A word that is no form takes the illegal-instruction trap (R56); TADDR is the word's address for an engine word
(R289), and open for every other. -/
def State.rejectWord (s : State) (n : Nat) : State :=
  if engineWord n then s.trapAt cIllegal s.cur.pc s.cur.lanes else s.illegal

/-- What a scheduler's choice comes to: an instruction to perform, or a state in which none is performed. -/
inductive Issued where
  | run (i : Instr) (s : State)
  | done (s : State)
  deriving DecidableEq, Repr

/-- The word at an address is fetched and decoded for a gang (R42, R43, R56, R337). -/
def State.issueWord (s : State) (w : Nat) (g : BitVec 32) (pc : DWord) : Issued :=
  let (f, t) := s.fetch w pc
  let t := { t with cur := ⟨w, g, pc⟩ }
  match f with
  | .busy => .done t
  | .replay va => .done (t.parkFetch w g pc va)
  | .bad va => .done ((t.logFetch w va).trapOpen cFetch g)
  | .word n live =>
    match decodeWord n live with
    | .ok i => .run i t
    | .error _ => .done (t.rejectWord n)

/-- One issue of a scheduler (R118, R133, R134). -/
def State.issue (s : State) (core sched : Nat) : Issued :=
  if !s.mayIssue core sched then .done s
  else
    let s := { s with warps := tmap s.warps (fun _ W =>
      if W.core == core && schedOf W.slot == sched then W.rise else W) }
    match s.choose core sched with
    | none => .done s
    | some (w, W) =>
      let c := s.cycle core
      match W.leader c with
      | none => .done s
      | some (_, L) => (s.account core sched w).issueWord w (W.gangAt c L.pc) L.pc

/-- The first scheduler that has yet to issue in this cycle of its core. -/
def State.dueIssue (s : State) : Option (Nat × Nat) :=
  ((s.warps.map (fun x => (x.2.core, schedOf x.2.slot))).eraseDups).find? (fun x => s.mayIssue x.1 x.2)

/-- Lanes that a save area gave back parked at one word, whose warp may go on: warp, lanes and word (R365, R370). -/
def State.dueRedo (s : State) : Option (Nat × BitVec 32 × DWord) :=
  s.warps.findSome? (fun x =>
    let W := x.2
    let stands (L : Lane) : Bool := match L.park with
      | .restored _ _ _ => L.alive
      | _ => false
    if W.saved || W.cur || W.trap.isSome || W.stall || W.busyLong || W.waitAll then none
    else (W.lanes.find? (fun l => stands l.2 && (s.fetch x.1 l.2.pc).1 != .busy)).map (fun l =>
      (x.1, W.mask (fun L => stands L && L.pc == l.2.pc), l.2.pc)))

/-- The word at which restored lanes are parked is performed in them: as they had performed nothing of it, it now
does what it does or parks them where it parked them before, and no scheduler issues it again (R365).
Log entry 73: DEDUCED. -/
def State.redo (s : State) (w : Nat) (g : BitVec 32) (pc : DWord) : Issued :=
  (s.updWarp w (fun W => W.updLanes g (fun _ L => { L with park := .no }))).issueWord w g pc

/-- A join whose condition holds (R120). -/
def State.dueJoin (s : State) : Option Instr :=
  s.warps.findSome? (fun x => if x.2.saved then none else x.2.lanes.findSome? (fun l => match l.2.park with
    | .join _ k => if x.2.joinOpen k then some (.joinRelease x.1 l.1) else none
    | _ => none))

/-- A bin whose timer has run out (R138). -/
def State.dueExpiry (s : State) : Option Instr :=
  s.cores.findSome? (fun c => (c.2.bins.find? (fun b => b.2.due.isNone && b.2.start + b.2.timer ≤ s.refTick)).map
    (fun b => .binTimerExpiry c.1 b.1))

/-- A core whose first due bin can launch (R138). -/
def State.dueWave (s : State) : Option Instr := (s.cores.find? (fun c => s.waveFits c.1)).map (fun c => .waveLaunch c.1)

/-- What the rules make happen in the cycle in which its condition first holds (R120, R138, R187). -/
def State.dueEvent (s : State) : Option Instr :=
  s.dueJoin <|> s.dueExpiry <|> s.dueWave <|> s.dueMove.map (fun m => .regroupCommit m.1 m.2)

/-- The queues of the spill engines hold the cores whose triggers hold (R173). -/
def State.spillsNoted (s : State) : Bool :=
  s.dies.all (fun d => d.2.spillQueue.all s.roundDue)
    && s.cores.all (fun c => !s.roundDue c.1 || (s.die (dieOf c.1)).spillQueue.contains c.1)

/-- The rail groups whose limiter has work. -/
def State.activeGroups (s : State) : List Nat :=
  ((s.cores.map (fun x => groupOf x.1) ++ s.mwords.map (fun x => groupOf x.2.core)).eraseDups).filter
    (fun g => (s.group g).cls < 3 && s.groupActive g)

/-- A limiter that has work stands at a step boundary at which it has not acted (R284). -/
def State.dueLimiter (s : State) : Option Nat :=
  s.activeGroups.find? (fun g =>
    let c := (s.group g).count s.now
    c % 4 == 0 && (s.group g).step != some (c / 4))

/-- Time units to the next cycle of a rail group whose count is a multiple of m (R412). -/
def Group.untilNext (k : Group) (now m : Nat) : Nat :=
  let u := cycleUnits k.cls k.boosted
  (m - k.count now % m) * u - (now - k.since) % u

/-- Time passes: n units, but not past the next cycle in which a scheduler has to issue or a limiter to act, nor past the
reference-tick edge at which a bin becomes due. -/
def State.elapse (s : State) (n : Nat) : State :=
  let warps := s.warps.filter (fun x => s.clocked x.2.core && x.2.readyAt (s.cycle x.2.core + 1) != 0)
  let issue := warps.map (fun x => (s.group (groupOf x.2.core)).untilNext s.now 1)
  let limit := s.activeGroups.map (fun g => (s.group g).untilNext s.now 4)
  let bins := s.cores.flatMap (fun c => (c.2.bins.filter (fun b => b.2.due.isNone)).map
    (fun b => (b.2.start + b.2.timer) * 2970 - s.now))
  { s with now := s.now + (issue ++ limit ++ bins).foldl Nat.min n }

end Sys2Proof.Machine
end

