-- ==== Sys2Proof/Machine/Place.lean ====
section
/-! DEFINITION. Machine/Place.lean: a program placed where the machine runs it. It stands for what a driver does from
outside before the first word of a kernel issues (R124, R395, R422): firmware verified, bring-up done, an interface with
its tables and its code in HBM, a launch record accepted and its one block placed. -/

namespace Sys2Proof.Machine

/-- Where the tables of interface 0 and the code page lie. -/
def tableAt (level : Nat) : Nat := 0x10000 * level
@[inherit_doc tableAt] def codeAt : Nat := 0x200000

/-- The entries of the tables (R389, R390): virtual addresses 0 to 2 MiB − 1 are the code page. -/
def tableEntries : List (Nat × Nat) :=
  [(tableAt 3, tableAt 2 + 3), (tableAt 2, tableAt 1 + 3), (tableAt 1, codeAt + 0xBF)]

/-- The launch record of the placed grid (R124): one block of one warp, frames of 32 granules, entry address 0. -/
def placedRecord : LaunchRec := { demand := 31 }

/-- The module ready, with its tables and the code in place. -/
def State.readyFor (s : State) (code : List Byte) : State :=
  let s := tableEntries.foldl (fun (s : State) e => s.writeNum (dpaKey e.1) 8 e.2 false) s
  let s := s.write (dpaKey codeAt) code false
  let s := s.updVi 0 (fun V => { V with en := true, hbmBase := 0, hbmSize := 1, ptbase := BitVec.ofNat 64 (tableAt 3) })
  let s := s.updGroup 0 (fun k => { k with cls := 0 })
  let s := s.updDie 0 (fun d => { d with tlb := [] })
  { s with boot := { s.boot with phase := .ready } }

/-- The one warp of the one block of a grid, resident on core 0 with every lane at address 0. -/
def State.withCode (s : State) (code : List Byte) : State :=
  let s := s.readyFor code
  let s := { s with warps := [], blocks := [], agenda := [] }
  let s := s.updCore 0 (fun c => { c with issued := [], free := 16128 })
  let (g, s) := s.take
  let s := { s with grids := tset s.grids g { vi := 0, q := 0, seq := 0, launch := placedRecord, next := 1 } }
  let s := s.updCluster 0 (fun k => { k with grid := g, live := true, size := 0x40000, sets := (k.gen, [0]) :: k.sets })
  (s.placeBlock g 0 0 0).getD s

end Sys2Proof.Machine
end

