-- ==== Sys2Proof/Machine/Step.lean ====
section
/-! DEFINITION. Machine/Step.lean: one step of the module: the next move of its agenda, or, when none is named, the issue
of a scheduler that has not issued in this cycle, what no cycle may leave undone, or the passing of time. -/

namespace Sys2Proof.Machine

/-- An issue is performed (R118). -/
def perform (x : Issued) : Host.Outcome State Fault Refusal :=
  match x with
  | .run i s => exec i s
  | .done s => .next s

/-- Time passes once restored lanes stand at their waits again, every scheduler has issued in this cycle, every limiter has
acted at this boundary, and what the rules make happen in this cycle has happened. -/
def stepTime (s : State) (units : Nat) : Host.Outcome State Fault Refusal :=
  match s.dueRedo, s.dueIssue, s.dueLimiter, s.dueEvent with
  | some (w, g, pc), _, _, _ => perform (s.redo w g pc)
  | none, some (core, sched), _, _ => perform (s.issue core sched)
  | none, none, some g, _ => execLimiterStep g s
  | none, none, none, some i => exec i s
  | none, none, none, none => .next (if s.spillsNoted then s.elapse units else s.noteSpills)

/-- An event of the table happens; an instruction word is no event. -/
def stepEvent (i : Instr) (s : State) : Host.Outcome State Fault Refusal := if i.isWord then .next s else exec i s

/-- One step. -/
def step (s : State) : Host.Outcome State Fault Refusal :=
  match s.agenda with
  | [] => stepTime s 110
  | m :: ms =>
    let s := { s with agenda := ms }
    match m with
    | .issue core sched => perform (s.issue core sched)
    | .event i => stepEvent i s
    | .tick units => stepTime s units

/-- The state in which the next step fetches and runs an instruction: its words, from the least significant bit of the
first on, lie at the program counter of the one warp that is resident. Log entry 11: DESIGN CHOICE. -/
def State.withFetchWord (s : State) (_nbits w : Nat) : State := s.withCode (leBytes 16 w)

end Sys2Proof.Machine
end

