-- ==== Sys2Proof/Safety.lean ====
section
/-! DEFINITION. Safety.lean: what a safe state and a safe run are, in the terms that the statements use: when a word
acts with nothing to hold it up, and what it leaves unchanged when it completes. -/

namespace Sys2Proof.Machine

/-- Storage is in its one canonical form. -/
def State.Canonical (s : State) : Prop := Memory.wf s.mem = true

/-- An outcome answers a next state. -/
def Answers (o : Host.Outcome State Fault Refusal) : Prop := ∃ t, o = .next t

/-- A run of n steps stops nowhere. -/
def RunsFor (n : Nat) (s : State) : Prop := Answers (Host.Core.run Sys2Proof.core n s)

/-- The lanes for which a guard holds (R13, R55): p15 holds always. -/
def Lane.guardHolds (L : Lane) (h : Hdr) : Bool :=
  if h.g = 15 then !h.gn else L.preds.getLsbD h.g.toNat != h.gn

/-- A word is about to be issued for a gang (R118): its warp is resident, and every lane of the gang stands ready. -/
structure State.Issues (s : State) : Prop where
  warp : (tget s.warps s.w).isSome
  ready : ∀ l, s.cur.lanes.getLsbD l = true → (s.wp.lane l).ready = true

/-- A warp has no long operation outstanding (R60), and no result that has arrived has yet to show in its register (R61). -/
structure Warp.Quiet (W : Warp) : Prop where
  longs : W.longs = []
  late : W.late = []

/-- A word acts in the lanes of m with nothing to hold it up: no long operation of its warp is outstanding (R60), no
granule of its block is shared (R158), every register that it names lies in the frame of every lane of the gang (R15),
and its guard is not poisoned (R349) and holds in the lanes of m. -/
structure State.Acts (s : State) (h : Hdr) (u : Uses) (m : BitVec 32) : Prop extends State.Issues s where
  quiet : s.wp.Quiet
  alone : (s.block s.wp.block).shares = []
  fits : ∀ l, s.cur.lanes.getLsbD l = true → (s.wp.lane l).fits (u.reads ++ u.writes) = true
  live : ∀ l, s.cur.lanes.getLsbD l = true → (s.wp.lane l).liveFits h.live = true
  clean : h.g ≠ 15 → ∀ l, s.cur.lanes.getLsbD l = true → (s.wp.lane l).pbad.getLsbD h.g.toNat = false
  acting : ∀ l, m.getLsbD l = true ↔ s.cur.lanes.getLsbD l = true ∧ (s.wp.lane l).guardHolds h = true

/-- No pre-emption of the issuing core is requested, or the word is no safe point (R342). -/
def State.Unheld (s : State) (h : Hdr) : Prop := h.live = none ∨ s.requested s.wp.core = false ∨ s.wp.cur = true

/-- A register as it stands: a vector register of a lane's current frame, a predicate, or a uniform register. -/
def State.reads (s : State) (w : Nat) : Target → Cell
  | .vec l r => s.vreg w l r
  | .uni r => tgetD (s.warp w).s r {}
  | .pred l p => ⟨if ((s.warp w).lane l).preds.getLsbD p then 1 else 0, ((s.warp w).lane l).pbad.getLsbD p⟩

/-- A register that keeps what is written to it: every one but p15 (R13). -/
def Target.kept : Target → Bool
  | .pred _ p => p < 15
  | _ => true

/-- What a register holds once a cell has been written to it. -/
def Target.norm : Target → Cell → Cell
  | .pred _ _, c => ⟨if c.val != 0 then 1 else 0, c.bad⟩
  | _, c => c

/-- What a lane holds besides its place and its registers. -/
def Lane.rest (L : Lane) : Lane := { L with pc := 0, since := 0, frames := [], preds := 0, pbad := 0 }

/-- The frames of a lane without their registers. -/
def Lane.shape (L : Lane) : List Frame := L.frames.map (fun f => { f with regs := [] })

/-- What a warp holds besides its lanes, its uniform registers and FPSTAT. -/
def Warp.rest (W : Warp) : Warp := { W with lanes := [], s := [], fpstat := 0 }

/-- From s to t, nothing but lanes, uniform registers and FPSTAT of warp w has changed: memory, every other warp and
every other piece of the machine stand as they stood; of the warp's registers only those of `ts` may have changed. -/
structure State.OnlyRegs (s t : State) (w : Nat) (ts : List Target) : Prop where
  rest : t = { s with warps := t.warps }
  others : ∀ v, v ≠ w → t.warp v = s.warp v
  warp : (t.warp w).rest = (s.warp w).rest
  lane : ∀ l, ((t.warp w).lane l).rest = ((s.warp w).lane l).rest
  shape : ∀ l, ((t.warp w).lane l).shape = ((s.warp w).lane l).shape
  regs : ∀ x, x ∉ ts → t.reads w x = s.reads w x

/-- The word of a gang has completed (R72, R102): its lanes stand at the next word, ready from the next cycle on, and
nothing but the registers of `ts` and FPSTAT has changed. -/
structure State.Completed (s t : State) (h : Hdr) (ts : List Target) (f : Flags) : Prop
    extends State.OnlyRegs s t s.w ts where
  next : ∀ l, s.cur.lanes.getLsbD l = true →
    ((t.warp s.w).lane l).pc = afterWord h s.cur.pc ∧ ((t.warp s.w).lane l).since = s.cyc + 1
  stay : ∀ l, s.cur.lanes.getLsbD l = false →
    ((t.warp s.w).lane l).pc = (s.wp.lane l).pc ∧ ((t.warp s.w).lane l).since = (s.wp.lane l).since
  flags : (t.warp s.w).fpstat = if f = 0 then s.wp.fpstat else fpstatOr s.wp.fpstat f

/-- A word of a gang has begun what ends later (R60, R72): its lanes stand at the next word, ready from the next cycle
on; no register, no FPSTAT and no other warp has changed. -/
structure State.GoesOn (s t : State) (h : Hdr) : Prop where
  others : ∀ v, v ≠ s.w → t.warp v = s.warp v
  regs : ∀ x, t.reads s.w x = s.reads s.w x
  fpstat : (t.warp s.w).fpstat = s.wp.fpstat
  next : ∀ l, s.cur.lanes.getLsbD l = true →
    ((t.warp s.w).lane l).pc = afterWord h s.cur.pc ∧ ((t.warp s.w).lane l).since = s.cyc + 1
  lane : ∀ l, ((t.warp s.w).lane l).rest = (s.wp.lane l).rest
  shape : ∀ l, ((t.warp s.w).lane l).shape = (s.wp.lane l).shape
  stay : ∀ l, s.cur.lanes.getLsbD l = false → (t.warp s.w).lane l = s.wp.lane l

end Sys2Proof.Machine
end

