-- ==== Sys2Proof/Certificates/Slice0/Obligations.lean ====
section
/-! DEFINITION. Certificates/Slice0/Obligations.lean: the statements. The definitions in front of them say, from the
registers as they stand, which operands a word reads and which results it leaves. -/

namespace Sys2Proof.Claims

open Sys2Proof.Machine

/-- An operand of a lane and whether it is poisoned, as the registers stand (R11 to R14, R51, R54, R348). -/
def src (s : State) (l : Nat) (ty : BitVec 3) (o : Opd) (swap : Bool) (r : BitVec 8) : BitVec 64 × Bool :=
  match o with
  | .none => (0, false)
  | .pred =>
    if r = 15 then (1, false)
    else ((s.reads s.w (.pred l r.toNat)).val.setWidth 64, (s.reads s.w (.pred l r.toNat)).bad)
  | o => readWide (o.count ty) (fun i =>
      s.reads s.w (if isVec o != swap then .vec l (r.toNat + i) else .uni (r.toNat + i)))

/-- What one lane of a word writes, and the flags that it raises. -/
abbrev LaneFn := State → Nat → List (Target × Cell) × Flags

/-- A lane of a TRI word with one destination: the result of `f` on the three sources, poisoned if one of them is. -/
def triFn (t : Tri) (sh : Shape) (f : BitVec 64 → BitVec 64 → BitVec 64 → BitVec 64 × Flags) : LaneFn := fun s l =>
  let a := src s l t.ty sh.a false t.a
  let b := src s l t.ty sh.b t.bu t.b
  let c := src s l t.ty sh.c t.cu t.c
  let r := f a.1 b.1 c.1
  (opdResult sh.d t.ty l t.d r.1 (a.2 || b.2 || c.2), r.2)

/-- The registers that a word writes in its acting lanes: writes to p15 are discarded (R13). -/
def targetsOf (s : State) (m : BitVec 32) (f : LaneFn) : List Target :=
  ((lanesOf m).flatMap (fun l => (f s l).1.map (·.1))).filter Target.kept

/-- A short word that acts lane by lane: nothing holds it up, so it completes; each acting lane holds its results, FPSTAT
has the flags, the gang stands at the next word, and nothing else has changed. -/
def ShortWord (i : Instr) (h : Hdr) (u : Uses) (f : LaneFn) : Prop :=
  i.wf = true → ∀ (s : State) (m : BitVec 32), s.Acts h u m → s.Unheld h →
    ∃ t, exec i s = .next t ∧
      s.Completed t h (targetsOf s m f) (flagUnion ((lanesOf m).map (fun l => (f s l).2))) ∧
      ∀ l, m.getLsbD l = true → ∀ r ∈ (f s l).1, r.1.kept = true → t.reads s.w r.1 = r.1.norm r.2

/-- A long word that acts lane by lane: it completes at once with its results outstanding in one long operation, whose
destinations LONG_RESULT_DELIVERY writes (R60); with W set, its warp parks until then. -/
def LongWord (i : Instr) (h : Hdr) (u : Uses) (f : LaneFn) : Prop :=
  i.wf = true → ∀ (s : State) (m : BitVec 32), s.Acts h u m → s.Unheld h → m ≠ 0 →
    ∃ t, exec i s = .next t ∧ s.GoesOn t h ∧
      t = { s with warps := t.warps, uid := s.uid + 1, fresh := s.fresh + 16384 } ∧
      (t.warp s.w).rest = { s.wp.rest with
        longs := [(s.uid, ⟨(lanesOf m).flatMap (fun l => (f s l).1.map (fun r => ⟨r.1, some r.2, false⟩)),
          flagUnion ((lanesOf m).map (fun l => (f s l).2)), 0⟩)]
        stall := s.wp.stall || h.w, stallLanes := if h.w then s.cur.lanes else s.wp.stallLanes }

/-- The integer words of one destination and TRI layout (R76): operands and result (R77, R79 to R85, R87). -/
def intWord : Instr → Option (Tri × Shape × (BitVec 64 → BitVec 64 → BitVec 64 → BitVec 64))
  | .add t => some (t, shBin, fun a b _ => arith .add t.ty t.sf a b 0)
  | .sub t => some (t, shBin, fun a b _ => arith .sub t.ty t.sf a b 0)
  | .mul t => some (t, shBin, fun a b _ => arith .mul t.ty t.sf a b 0)
  | .mulhi t => some (t, shBin, fun a b _ => arith .mulhi t.ty t.sf a b 0)
  | .mad t => some (t, shTern, fun a b c => arith .mad t.ty t.sf a b c)
  | .neg t => some (t, shUn, fun a _ _ => arith .neg t.ty t.sf a 0 0)
  | .abs t => some (t, shUn, fun a _ _ => arith .abs t.ty t.sf a 0 0)
  | .min t => some (t, shBin, fun a b _ => arith .min t.ty t.sf a b 0)
  | .max t => some (t, shBin, fun a b _ => arith .max t.ty t.sf a b 0)
  | .and t => some (t, shBin, fun a b _ => bitOp .and (widthOf t.ty) a b)
  | .or t => some (t, shBin, fun a b _ => bitOp .or (widthOf t.ty) a b)
  | .xor t => some (t, shBin, fun a b _ => bitOp .xor (widthOf t.ty) a b)
  | .not t => some (t, shUn, fun a _ _ => bitOp .not (widthOf t.ty) a 0)
  | .andn t => some (t, shBin, fun a b _ => bitOp .andn (widthOf t.ty) a b)
  | .shl t => some (shift t .shl)
  | .shr t => some (shift t .shr)
  | .sar t => some (shift t .sar)
  | .rol t => some (shift t .rol)
  | .clz t => some (t, shCount, fun a _ _ => countOp .clz (widthOf t.ty) a)
  | .ctz t => some (t, shCount, fun a _ _ => countOp .ctz (widthOf t.ty) a)
  | .popc t => some (t, shCount, fun a _ _ => countOp .popc (widthOf t.ty) a)
  | .brev t => some (t, shUn, fun a _ _ => countOp .brev (widthOf t.ty) a)
  | .bfe t => some (t, shShift, fun a b _ => bitExtract t.ty a b)
  | .bfi t => some (t, shBfi, fun a b c => bitInsert t.ty a b c)
  | .prmt t => some (t, shWord3, fun a b c => permute a b c)
  | .sel t => some (t, shSel, fun a b c => if c != 0 then a else b)
  | .cmp t => some (t, shCmp, fun a b c =>
      if intCond t.var.toNat (ival t.ty a) (ival t.ty b) && c != 0 then 1 else 0)
  | .mov t => some (t, shMov, fun _ b _ => b)
  | .lea t => some (t, shShift, fun a b _ => leaOp t.ty (t.sub.toNat % 8) a b)
  | _ => none
where
  /-- With SUB bit 5 the field B is the count (R79). -/
  shift (t : Tri) (op : Bits) : Tri × Shape × (BitVec 64 → BitVec 64 → BitVec 64 → BitVec 64) :=
    if t.sub.getLsbD 5 then (t, shUn, fun a _ _ => bitOp op (widthOf t.ty) a (t.b.setWidth 64))
    else (t, shShift, fun a b _ => bitOp op (widthOf t.ty) a b)

/-- A lane of `addc` or `subb` (R78): the result to D, and the carry or borrow out to p[C]; with .first the carry in is
0 and p[C] is not read. -/
def carryFn (t : Tri) (op : BitVec 64 → BitVec 64 → Bool → BitVec 64 × Bool) : LaneFn := fun s l =>
  let a := src s l t.ty .v1 false t.a
  let b := src s l t.ty .v1 t.bu t.b
  let c := src s l t.ty .pred false t.c
  let r := op a.1 b.1 (!t.sf && c.1 != 0)
  let bad := a.2 || b.2 || (!t.sf && c.2)
  (vecResult l t.d.toNat 1 r.1 bad ++ predResult l t.c.toNat r.2 bad, 0)

/-- The integer and uniform words with an immediate (R48, R77, R79, R85): the destination register, whether A is read,
and the result. -/
def immWord : Instr → Option (Imm × BitVec 8 × Bool × (BitVec 64 → BitVec 64))
  | .addImm t => some (t, t.d, true, fun a => arith .add 1 false a (t.imm.setWidth 64) 0)
  | .subImm t => some (t, t.d, true, fun a => arith .sub 1 false a (t.imm.setWidth 64) 0)
  | .andImm t => some (t, t.d, true, fun a => bitOp .and 32 a (t.imm.setWidth 64))
  | .orImm t => some (t, t.d, true, fun a => bitOp .or 32 a (t.imm.setWidth 64))
  | .xorImm t => some (t, t.d, true, fun a => bitOp .xor 32 a (t.imm.setWidth 64))
  | .movi t => some (t, t.d, false, fun _ => t.imm.setWidth 64)
  | .movh t => some (t, t.d + 1, false, fun _ => t.imm.setWidth 64)
  | _ => none

/-- A lane of a word with an immediate. -/
def immFn (t : Imm) (d : BitVec 8) (reads : Bool) (f : BitVec 64 → BitVec 64) : LaneFn := fun s l =>
  let a := if reads then src s l 1 .v1 false t.a else (0, false)
  (vecResult l d.toNat 1 (f a.1) a.2, 0)

/-- A lane of `cvt` or `fcvt` (R86, R93): the source has the width of its own type. -/
def cvtFn (t : Tri) (f : BitVec 64 → BitVec 64 × Flags) : LaneFn := fun s l =>
  let a := src s l 0 (cvtSrc t) false t.a
  let r := f a.1
  (vecResult l t.d.toNat (Opd.count t.ty .vT) r.1 a.2, r.2)

/-- The floating-point words (R89): operands, result and flags (R90 to R99), and whether the word is long. -/
def fpWord : Instr → Option (Tri × Shape × Bool × (BitVec 64 → BitVec 64 → BitVec 64 → BitVec 64 × Flags))
  | .fadd t => some (t, shBin, false, fpOp .add t.ty t.rm t.sf t.var.toNat)
  | .fsub t => some (t, shBin, false, fpOp .sub t.ty t.rm t.sf t.var.toNat)
  | .fmul t => some (t, shBin, false, fpOp .mul t.ty t.rm t.sf t.var.toNat)
  | .ffma t => some (t, shTern, false, fpOp .fma t.ty t.rm t.sf t.var.toNat)
  | .fmin t => some (t, shBin, false, fpOp .min t.ty t.rm t.sf t.var.toNat)
  | .fmax t => some (t, shBin, false, fpOp .max t.ty t.rm t.sf t.var.toNat)
  | .fcmp t => some (t, shCmp, false, fun a b c =>
      let r := fCmp (fmtOf t.ty) t.var.toNat (fpat t.ty a) (fpat t.ty b)
      (if r.1 && c != 0 then 1 else 0, r.2))
  | .fclass t => some (t, shCount, false, fun a _ _ => (BitVec.ofNat 64 (fClass (fmtOf t.ty) (fpat t.ty a)), 0))
  | .frint t => some (t, shUn, false, fpOp .rint t.ty t.rm t.sf t.var.toNat)
  | .fdiv t => some (t, shBin, t.ty == 5, fpOp .div t.ty t.rm t.sf t.var.toNat)
  | .fsqrt t => some (t, shUn, t.ty == 5, fpOp .sqrt t.ty t.rm t.sf t.var.toNat)
  | .frcp t => some (t, shUn, true, fpOp (.trans .rcp) t.ty t.rm t.sf t.var.toNat)
  | .frsq t => some (t, shUn, true, fpOp (.trans .rsq) t.ty t.rm t.sf t.var.toNat)
  | .fexp2 t => some (t, shUn, true, fpOp (.trans .exp2) t.ty t.rm t.sf t.var.toNat)
  | .flog2 t => some (t, shUn, true, fpOp (.trans .log2) t.ty t.rm t.sf t.var.toNat)
  | .fsin t => some (t, shUn, true, fpOp (.trans .sin) t.ty t.rm t.sf t.var.toNat)
  | .fcos t => some (t, shUn, true, fpOp (.trans .cos) t.ty t.rm t.sf t.var.toNat)
  | .fscale t => some (t, shShift, false, fpOp .scale t.ty t.rm t.sf t.var.toNat)
  | .fgetexp t => some (t, shCount, false, fun a _ _ =>
      ((fGetexp (fmtOf t.ty) (fpat t.ty a)).1.setWidth 64, (fGetexp (fmtOf t.ty) (fpat t.ty a)).2))
  | .fcopysign t => some (t, if t.var == 3 then shUn else shBin, false, fpOp .copysign t.ty t.rm t.sf t.var.toNat)
  | .fdot2 t => some (t, shWord3, false, dot2Op t.ty t.rm)
  | _ => none

/-- The pair words by half X's opcode (R59). -/
def pairWord : Instr → Option (Pair × BitVec 6)
  | .pairNop p => some (p, 0x00)
  | .pairAddN32 p => some (p, 0x01)
  | .pairSubN32 p => some (p, 0x02)
  | .pairMulN32 p => some (p, 0x03)
  | .pairAnd p => some (p, 0x04)
  | .pairOr p => some (p, 0x05)
  | .pairXor p => some (p, 0x06)
  | .pairAndn p => some (p, 0x07)
  | .pairMinI32 p => some (p, 0x08)
  | .pairMaxI32 p => some (p, 0x09)
  | .pairMinN32 p => some (p, 0x0A)
  | .pairMaxN32 p => some (p, 0x0B)
  | .pairShl p => some (p, 0x0C)
  | .pairShr p => some (p, 0x0D)
  | .pairSar p => some (p, 0x0E)
  | .pairMov p => some (p, 0x0F)
  | .pairAddImm p => some (p, 0x10)
  | .pairSubImm p => some (p, 0x11)
  | .pairAndImm p => some (p, 0x12)
  | .pairOrImm p => some (p, 0x13)
  | .pairXorImm p => some (p, 0x14)
  | .pairShlImm p => some (p, 0x15)
  | .pairShrImm p => some (p, 0x16)
  | .pairSarImm p => some (p, 0x17)
  | .pairRolImm p => some (p, 0x18)
  | .pairMovi p => some (p, 0x19)
  | .pairFaddF32 p => some (p, 0x20)
  | .pairFsubF32 p => some (p, 0x21)
  | .pairFmulF32 p => some (p, 0x22)
  | .pairFminF32 p => some (p, 0x23)
  | .pairFmaxF32 p => some (p, 0x24)
  | .pairFaddF64 p => some (p, 0x28)
  | .pairFsubF64 p => some (p, 0x29)
  | .pairFmulF64 p => some (p, 0x2A)
  | .pairFminF64 p => some (p, 0x2B)
  | .pairFmaxF64 p => some (p, 0x2C)
  | .pairAddN64 p => some (p, 0x30)
  | .pairSubN64 p => some (p, 0x31)
  | .pairMovN64 p => some (p, 0x32)
  | .pairAddN64Imm p => some (p, 0x33)
  | _ => none

/-- A register or pair of vector registers of a lane, with its poison. -/
def vecSrc (s : State) (l n r : Nat) : BitVec 64 × Bool := readWide n (fun i => s.reads s.w (.vec l (r + i)))

/-- One half of a pair word in a lane (R58, R59): opcode 0x00 writes nothing. -/
def halfFn (h : Half) : LaneFn := fun s l =>
  if h.po = 0 then ([], 0)
  else
    let a := if (halfKind h).reads then vecSrc s l (halfCount h) h.a.toNat else (0, false)
    let d := if (halfKind h).acc then vecSrc s l (halfCount h) h.d.toNat else (0, false)
    let r := halfOp h d.1 a.1
    (vecResult l h.d.toNat (halfCount h) r.1 (a.2 || d.2), r.2)

/-- A pair word in a lane: both halves read before either writes, and their flags unite (R58). -/
def pairFn (p : Pair) (po : BitVec 6) : LaneFn := fun s l =>
  ((halfFn (p.x po) s l).1 ++ (halfFn p.y s l).1, (halfFn (p.x po) s l).2 ||| (halfFn p.y s l).2)

/-- A pair word is unguarded (R57). -/
def pairHdr (p : Pair) : Hdr := ⟨p.live, p.w, 15, false⟩

/-- The registers that the halves of a pair word read and write (R58, R59). -/
def pairUses (p : Pair) (po : BitVec 6) : Uses :=
  ⟨(halfUses (p.x po)).reads ++ (halfUses p.y).reads, (halfUses (p.x po)).writes ++ (halfUses p.y).writes, false⟩

/-- The predicate words (R100): whether there is a second source, and the result. -/
def predWord : Instr → Option (Tri × Bool × (Bool → Bool → Bool))
  | .pand t => some (t, true, fun a b => a && b)
  | .por t => some (t, true, fun a b => a || b)
  | .pxor t => some (t, true, fun a b => a != b)
  | .pnot t => some (t, false, fun a _ => !a)
  | .pmov t => some (t, false, fun a _ => a)
  | _ => none

/-- A lane of a predicate word (R100): SUB bit 0 inverts the first source, bit 1 the second. -/
def predFn (t : Tri) (two : Bool) (f : Bool → Bool → Bool) : LaneFn := fun s l =>
  let a := src s l 0 .pred false t.a
  let b := if two then src s l 0 .pred false t.b else (0, false)
  (predResult l t.d.toNat (f ((a.1 != 0) != t.sub.getLsbD 0) ((b.1 != 0) != t.sub.getLsbD 1)) (a.2 || b.2), 0)

end Sys2Proof.Claims

open Sys2Proof Sys2Proof.Machine Sys2Proof.Claims

/-- The integer words of one destination complete with the results of R77, R79 to R85 and R87 (R72, R74, R76). -/
def Obligations.IntegerWords : Prop :=
  ∀ i t sh f, intWord i = some (t, sh, f) →
    ShortWord i t.h (triUses t sh false) (triFn t sh (fun a b c => (f a b c, 0)))

/-- `addc` and `subb` write the result and the carry or borrow (R78). -/
def Sys2Proof.Claims.carryClause : Prop :=
  ∀ t, ShortWord (.addc t) t.h (triUses t shCarry false) (carryFn t addCarry) ∧
    ShortWord (.subb t) t.h (triUses t shCarry false) (carryFn t subBorrow)

/-- The integer words with an immediate: `movh` writes the register after D (R48, R77, R79, R85). -/
def Sys2Proof.Claims.immediateClause : Prop :=
  ∀ i t d rd f, immWord i = some (t, d, rd, f) →
    ShortWord i t.h ⟨if rd then [(t.a.toNat, 1)] else [], [(d.toNat, 1)], false⟩ (immFn t d rd f)

/-- `addc` and `subb` with their carries, and the integer words with an immediate (R48, R77 to R79, R85). -/
def Obligations.CarryAndImmediateWords : Prop := carryClause ∧ immediateClause

/-- `cvt` and `fcvt` convert from the type in SUB to the type in TY (R86, R93). -/
def Obligations.ConvertWords : Prop :=
  ∀ t, ShortWord (.cvt t) t.h (cvtUses t) (cvtFn t (cvtOp t.ty (t.sub.extractLsb' 0 3) t.rm t.sf)) ∧
    ShortWord (.fcvt t) t.h (cvtUses t) (cvtFn t (fcvtOp t.ty (t.sub.extractLsb' 0 3) t.rm))

/-- The short floating-point words complete with result and flags (R89 to R99). -/
def Obligations.FloatWords : Prop :=
  ∀ i t sh f, fpWord i = some (t, sh, false, f) → ShortWord i t.h (triUses t sh false) (triFn t sh f)

/-- The long floating-point words leave their results outstanding (R60, R89, R90, R95). -/
def Obligations.LongFloatWords : Prop :=
  ∀ i t sh f, fpWord i = some (t, sh, true, f) → LongWord i t.h (triUses t sh false) (triFn t sh f)

/-- The pair words whose halves keep the bank rules perform both halves (R57 to R59). -/
def Obligations.PairWords : Prop :=
  ∀ i p po, pairWord i = some (p, po) → pairClash (p.x po) p.y = false →
    ShortWord i (pairHdr p) (pairUses p po) (pairFn p po)

/-- The predicate words (R100). -/
def Obligations.PredicateWords : Prop :=
  ∀ i t two f, predWord i = some (t, two, f) → ShortWord i t.h {} (predFn t two f)

namespace Sys2Proof.Claims

/-- What a word writes that its acting lanes determine together, and the flags that it raises. -/
abbrev GangFn := State → List Nat → List (Target × Cell) × Flags

/-- A short word whose acting lanes act together: it completes, its results stand in their registers, FPSTAT has the
flags, the gang stands at the next word, and nothing else has changed. -/
def GangWord (i : Instr) (h : Hdr) (u : Uses) (f : GangFn) : Prop :=
  i.wf = true → ∀ (s : State) (m : BitVec 32), s.Acts h u m → s.Unheld h → m ≠ 0 →
    ∃ t, exec i s = .next t ∧
      s.Completed t h (((f s (lanesOf m)).1.map (·.1)).filter Target.kept) (f s (lanesOf m)).2 ∧
      ∀ r ∈ (f s (lanesOf m)).1, r.1.kept = true → t.reads s.w r.1 = r.1.norm r.2

/-- The uniform words of TRI layout (R66, R88) with one uniform destination: operands and result. -/
def uniWord : Instr → Option (Tri × Shape × (BitVec 64 → BitVec 64 → BitVec 64))
  | .uadd t => some (t, shUBin, fun a b => arith .add t.ty t.sf a b 0)
  | .usub t => some (t, shUBin, fun a b => arith .sub t.ty t.sf a b 0)
  | .umul t => some (t, shUBin, fun a b => arith .mul t.ty t.sf a b 0)
  | .uand t => some (t, shUBin, bitOp .and (widthOf t.ty))
  | .uor t => some (t, shUBin, bitOp .or (widthOf t.ty))
  | .uxor t => some (t, shUBin, bitOp .xor (widthOf t.ty))
  | .ushl t => some (shift t .shl)
  | .ushr t => some (shift t .shr)
  | .usar t => some (shift t .sar)
  | .umov t => some (t, shUMov, fun _ b => b)
  | _ => none
where
  /-- With SUB bit 5 the field B is the count (R79). -/
  shift (t : Tri) (op : Bits) : Tri × Shape × (BitVec 64 → BitVec 64 → BitVec 64) :=
    if t.sub.getLsbD 5 then
      (t, ⟨.sT, .sT, .none, .none⟩, fun a _ => bitOp op (widthOf t.ty) a (t.b.setWidth 64))
    else (t, shUShift, bitOp op (widthOf t.ty))

/-- A uniform word: a vector source is that of the lowest acting lane (R66). -/
def uniFn (t : Tri) (sh : Shape) (f : BitVec 64 → BitVec 64 → BitVec 64) : GangFn := fun s ls =>
  let l := ls.headD 0
  let a := src s l t.ty sh.a false t.a
  let b := src s l t.ty sh.b t.bu t.b
  (uniResult t.d.toNat (Opd.count t.ty .sT) (f a.1 b.1) (a.2 || b.2), 0)

/-- A uniform word with an immediate (R48, R88). -/
def uniImmFn (t : Imm) (reads : Bool) (f : BitVec 64 → BitVec 64) : GangFn := fun s _ =>
  let a := if reads then src s 0 1 .s1 false t.a else (0, false)
  (uniResult t.d.toNat 1 (f a.1) a.2, 0)

/-- `ucmp` (R84, R88): the condition, and p[C] of the lane, to p[D] of every lane of the gang. -/
def ucmpFn (t : Tri) : GangFn := fun s ls =>
  let l := ls.headD 0
  let a := src s l t.ty .sT false t.a
  let b := src s l t.ty .sT t.bu t.b
  ((lanesOf s.cur.lanes).flatMap (fun k =>
    let c := src s k t.ty .pred false t.c
    predResult k t.d.toNat (intCond t.var.toNat (ival t.ty a.1) (ival t.ty b.1) && c.1 != 0) (a.2 || b.2 || c.2)), 0)

/-- The acting lanes that see each other in a lane operation: under PROT the visible lanes among themselves, and their
shadows among themselves (R141, R351). -/
def teamsOf (s : State) (ls : List Nat) : List (List Nat) :=
  if s.prot then [ls.filter (· % 2 == 0), ls.filter (· % 2 == 1)].filter (fun t => !t.isEmpty) else [ls]

/-- The number of a lane in a lane operation: under PROT, of its pair (R351). -/
def numberOf (s : State) (l : Nat) : Nat := if s.prot then l / 2 else l

/-- A lane operation, team by team. -/
def teamFn (f : GangFn) : GangFn := fun s ls =>
  (((teamsOf s ls).map (f s)).flatMap (·.1), flagUnion (((teamsOf s ls).map (f s)).map (·.2)))

/-- The lanes of a team in which predicate A is true, perhaps inverted. -/
def truthOf (s : State) (p : BitVec 8) (inv : Bool) (ls : List Nat) : List Nat :=
  ls.filter (fun l => ((src s l 0 .pred false p).1 != 0) != inv)

/-- A predicate is poisoned in some lane of a team. -/
def taintOf (s : State) (p : BitVec 8) (ls : List Nat) : Bool := ls.any (fun l => (src s l 0 .pred false p).2)

/-- `vote` (R145). -/
def voteFn (t : Tri) : GangFn := fun s ls =>
  let c := (truthOf s t.a (t.sub.getLsbD 2) ls).length
  let v := match t.sub.toNat % 4 with
    | 0 => decide (c = ls.length)
    | 1 => decide (c ≥ 1)
    | 2 => decide (c = 0 ∨ c = ls.length)
    | _ => decide (2 * c > ls.length)
  (ls.flatMap (fun l => predResult l t.d.toNat v (taintOf s t.a ls)), 0)

/-- `ballot` (R145): under PROT, of the visible lanes. -/
def ballotFn (t : Tri) : GangFn := fun s ls =>
  let team := (teamsOf s ls).headD []
  let v := maskOf ((truthOf s t.a (t.sub.getLsbD 0) team).map (numberOf s))
  (uniResult t.d.toNat 1 (v.setWidth 64) (taintOf s t.a team), 0)

/-- The source lane of `shfl` (R146): in segments of s lanes, pick, rotate, swizzle, mirror. -/
def shflFrom (mode e l b : Nat) : Nat :=
  let s := 2 ^ e
  match mode with
  | 0 => l - l % s + b % s
  | 1 => l - l % s + (l % s + b % s) % s
  | 2 => l - l % s + (l % s ^^^ b % s)
  | _ => l - l % s + ((b % s : Int) - (l % s : Int)).emod s |>.toNat

/-- `shfl` (R146): a lane whose source lane does not act keeps its own value, with p[C] false. -/
def shflFn (t : Tri) : GangFn := fun s ls =>
  (ls.flatMap (fun l =>
    let b := if t.sub.getLsbD 5 then (t.b.setWidth 64, false) else src s l t.ty .v1 t.bu t.b
    let from? := ls.find? (fun k => numberOf s k == shflFrom (t.sub.toNat % 4) (t.sub.toNat / 4 % 8) (numberOf s l) b.1.toNat)
    let v := src s (from?.getD l) t.ty .vT false t.a
    vecResult l t.d.toNat (Opd.count t.ty .vT) v.1 (v.2 || b.2) ++ predResult l t.c.toNat from?.isSome b.2), 0)

/-- `bcast` (R147): the lowest acting lane, the highest, or lane n. -/
def bcastFn (t : Tri) : GangFn := fun s ls =>
  let from? := match t.sub.toNat with
    | 0 => ls.head?
    | 1 => ls.getLast?
    | _ => ls.find? (fun k => numberOf s k == t.b.toNat)
  (ls.flatMap (fun l =>
    let v := src s (from?.getD l) t.ty .vT false t.a
    vecResult l t.d.toNat (Opd.count t.ty .vT) v.1 v.2 ++ predResult l t.c.toNat from?.isSome false), 0)

/-- `redux` (R148): one value from every acting lane to every acting lane. -/
def reduxFn (t : Tri) : GangFn := fun s ls =>
  let xs := ls.map (fun l => src s l t.ty .vT false t.a)
  let r := reduxOf t.sub.toNat t.ty t.rm t.sf (xs.map (·.1))
  (ls.flatMap (fun l => vecResult l t.d.toNat (Opd.count t.ty .vT) r.1 (xs.any (·.2))), r.2)

/-- The vector registers of `shfl` (R144). -/
def shflUses (t : Tri) : Uses := moveUses t (if t.sub.getLsbD 5 then [] else opdRange .v1 t.ty t.bu t.b)

end Sys2Proof.Claims

/-- The uniform words complete with their result in the uniform destination (R66, R79, R85, R88). -/
def Obligations.UniformWords : Prop :=
  (∀ i t sh f, uniWord i = some (t, sh, f) → GangWord i t.h (triUses t sh true) (uniFn t sh f)) ∧
  (∀ t, GangWord (.uaddImm t) t.h {} (uniImmFn t true (fun a => arith .add 1 false a (t.imm.setWidth 64) 0))) ∧
  (∀ t, GangWord (.umovi t) t.h {} (uniImmFn t false (fun _ => t.imm.setWidth 64))) ∧
  ∀ t, GangWord (.ucmp t) t.h (triUses t shUCmp true) (ucmpFn t)

/-- The lane operations complete with the results of R145 to R148 in every acting lane. -/
def Obligations.LaneOperations : Prop :=
  ∀ t, GangWord (.vote t) t.h {} (teamFn (voteFn t)) ∧
    GangWord (.ballot t) t.h {} (ballotFn t) ∧
    GangWord (.shfl t) t.h (shflUses t) (teamFn (shflFn t)) ∧
    GangWord (.bcast t) t.h (moveUses t []) (teamFn (bcastFn t)) ∧
    GangWord (.redux t) t.h (moveUses t []) (teamFn (reduxFn t))

namespace Sys2Proof.Claims

/-- The accesses of a warp with some more, numbered from `base` on in program order. -/
def withAccs (old : Table Access) (base : Nat) (xs : List Access) : Table Access :=
  xs.zipIdx.foldl (fun t x => tset t (base + x.2) { x.1 with seq := base + x.2 }) old

/-- A word that issues accesses and goes on (R60, R190): the accesses `xs` are outstanding, `longs` is what it will
deliver, W parks the warp while something is outstanding, `ids` numbers are used besides the accesses' own; no register,
no byte of storage and no other piece of the machine has changed. -/
structure Begins (s t : State) (h : Hdr) (longs : Table LongOp) (ids : Nat) (xs : List Access) : Prop where
  goes : s.GoesOn t h
  rest : t = { s with
    warps := t.warps, uid := s.uid + ids + xs.length
    fresh := if longs = [] then s.fresh else s.fresh + 16384 }
  warp : (t.warp s.w).rest = { s.wp.rest with
    longs := longs, accs := withAccs s.wp.accs (s.uid + ids) xs
    stall := s.wp.stall || h.w && (t.warp s.w).outstanding
    stallLanes := if h.w && (t.warp s.w).outstanding then s.cur.lanes else s.wp.stallLanes }

/-- The effective address of a lane (R53, R165): the address register and the signed 16-bit offset. -/
def eaOf (s : State) (t : Tri) (l : Nat) : Word :=
  (s.reads s.w (.vec l t.a.toNat)).val + (t.b ++ t.c).signExtend 32

/-- Every acting lane's access passes its checks (R219), at key `key l`; no address is poisoned. -/
def Reaches (s : State) (m : BitVec 32) (a : BitVec 8) (ea : Nat → Word) (sp : Space) (size al : Nat) (writes : Bool)
    (key : Nat → Nat) : Prop :=
  ∀ l, m.getLsbD l = true → (s.reads s.w (.vec l a.toNat)).bad = false ∧
    s.checkAccess s.w sp (ea l) size al writes = .ok (key l)

/-- One long operation whose destinations, n vector registers from r on in each lane, are still unknown. -/
def loadOp (s : State) (m : BitVec 32) (r n : Nat) : Table LongOp :=
  [(s.uid, ⟨(lanesOf m).flatMap (fun l => (List.range n).map (fun i => ⟨.vec l (r + i), none, false⟩)), 0, 0⟩)]

/-- The grid of the issuing warp is neither protected nor deterministic (R351, R353). -/
def Plain (s : State) : Prop := s.prot = false ∧ s.determ = false ∧ ∀ l, (s.wp.lane l).shadow = false

/-- The bytes of a lane's store data: `n` registers from `r` on, the first the lowest (R215, R216). -/
def storeVal (s : State) (l r k : Nat) (n : Nat) : DWord :=
  if n = 1 then (s.reads s.w (.vec l r)).val.setWidth 64
  else (s.reads s.w (.vec l (r + 2 * k + 1))).val ++ (s.reads s.w (.vec l (r + 2 * k))).val

/-- Store data is clean (R349). -/
def CleanData (s : State) (m : BitVec 32) (r n : Nat) : Prop :=
  ∀ l, m.getLsbD l = true → ∀ i, i < n → (s.reads s.w (.vec l (r + i))).bad = false

/-- The gang stands at the next word, ready from the next cycle on; of the registers only those of `ts` may have
changed; every other lane, and every other warp, is as it was. -/
structure Steps (s t : State) (h : Hdr) (ts : List Target) : Prop where
  others : ∀ v, v ≠ s.w → t.warp v = s.warp v
  regs : ∀ x, x ∉ ts → t.reads s.w x = s.reads s.w x
  flags : (t.warp s.w).fpstat = s.wp.fpstat
  next : ∀ l, s.cur.lanes.getLsbD l = true →
    ((t.warp s.w).lane l).pc = afterWord h s.cur.pc ∧ ((t.warp s.w).lane l).since = s.cyc + 1 ∧
      ((t.warp s.w).lane l).ready = true
  stay : ∀ l, s.cur.lanes.getLsbD l = false →
    ((t.warp s.w).lane l).pc = (s.wp.lane l).pc ∧ ((t.warp s.w).lane l).since = (s.wp.lane l).since

/-- The operand and the new value of an atomic in a lane (R220). -/
def atomOf (s : State) (t : Tri) (ret : Bool) (l : Nat) : AtomOp where
  op := t.c.toNat
  ty := t.ty
  rm := t.rm
  x := (src s l t.ty .vT false t.b).1
  y := if t.c = 7 then
      (readWide (Opd.count t.ty .vT) (fun i => s.reads s.w (.vec l (t.b.toNat + Opd.count t.ty .vT + i)))).1
    else 0
  ret := ret

end Sys2Proof.Claims

/-- `ld`, `ldp` and `prs` whose accesses pass their checks and find their lines present, their banks awake and their
segments at rest go on with their results outstanding (R60, R214 to R217, R219). -/
def Sys2Proof.Claims.loadClause : Prop :=
  ∀ (t : Tri) (s : State) (m : BitVec 32) (key : Nat → Nat), m ≠ 0 → s.Unheld t.h →
    (Instr.wf (.ld t) = true →
      s.Acts t.h ⟨[(t.a.toNat, 1)], [(t.d.toNat, Opd.count t.ty .vT)], false⟩ m →
      Reaches s m t.a (eaOf s t) (memSpace t) (accessSize t) (accessSize t) false key →
      (∀ l, m.getLsbD l = true → s.accessible (key l) (accessSize t) = true) →
      ∃ u, exec (.ld t) s = .next u ∧ Begins s u t.h (loadOp s m t.d.toNat (Opd.count t.ty .vT)) 1
        ((lanesOf m).map (fun l =>
          { seq := 0, lane := l, key := key l, space := memSpace t, ea := eaOf s t l, size := accessSize t
            kind := .load (t.ty == 0 && accessSize t < 4) t.d.toNat s.uid
            acq := t.sub.getLsbD 4, scope := t.sub.toNat / 32, cores := s.instanceOf s.w (t.sub.toNat / 32)
            word := s.uid }))) ∧
    (Instr.wf (.ldp t) = true →
      s.Acts t.h ⟨[(t.a.toNat, 1)], [(t.d.toNat, 4)], false⟩ m →
      Reaches s m t.a (eaOf s t) (memSpace t) 16 16 false key →
      (∀ l, m.getLsbD l = true → s.accessible (key l) 8 = true ∧ s.accessible (key l + 8) 8 = true) →
      ∃ u, exec (.ldp t) s = .next u ∧ Begins s u t.h (loadOp s m t.d.toNat 4) 1
        ((lanesOf m).flatMap (fun l => [0, 1].map (fun k =>
          { seq := 0, lane := l, key := key l + 8 * k, space := memSpace t, ea := eaOf s t l, size := 8
            kind := .load false (t.d.toNat + 2 * k) s.uid, word := s.uid })))) ∧
    (Instr.wf (.prs t) = true →
      s.Acts t.h ⟨[(t.a.toNat, 1)], [], false⟩ m →
      Reaches s m t.a (eaOf s t) (memSpace t) 1 1 false key →
      ∃ u, exec (.prs t) s = .next u ∧
        Begins s u t.h [(s.uid, ⟨(lanesOf m).map (fun l => ⟨.pred l t.d.toNat, none, false⟩), 0, 0⟩)] 1
          ((lanesOf m).map (fun l =>
            { seq := 0, lane := l, key := key l, space := memSpace t, ea := eaOf s t l, size := 1
              kind := .presence t.d.toNat s.uid, word := s.uid })))

/-- A load of one lane whose line is absent parks the lane at its access, with the word after it as the place to go on
(R117, R176). -/
def Sys2Proof.Claims.absentClause : Prop :=
  ∀ (t : Tri) (s : State) (m : BitVec 32) (key : Nat → Nat), m ≠ 0 → s.Unheld t.h → Instr.wf (.ld t) = true →
    s.Acts t.h ⟨[(t.a.toNat, 1)], [(t.d.toNat, Opd.count t.ty .vT)], false⟩ m →
    Reaches s m t.a (eaOf s t) (memSpace t) (accessSize t) (accessSize t) false key →
    (∀ l, m.getLsbD l = true → s.present (key l) (accessSize t) = false ∧ s.awake (key l) = true) →
    ∃ u, exec (.ld t) s = .next u ∧ u.mem = s.mem ∧ u.dies = s.dies ∧
      ∀ l, m.getLsbD l = true →
        ((u.warp s.w).lane l).park = .access s.uid ∧ ((u.warp s.w).lane l).pc = (s.wp.lane l).pc ∧
        ((u.warp s.w).lane l).next = afterWord t.h s.cur.pc ∧ ((u.warp s.w).lane l).ready = false ∧
        ∃ id a, tget (u.warp s.w).accs id = some a ∧ a.lane = l ∧ a.key = key l ∧ a.parked = true ∧ a.held = true

/-- The loads and `prs`: their results are outstanding when their lines are present, and a load of an absent line parks its
lane (R60, R117, R176, R214 to R217, R219). -/
def Obligations.LoadWords : Prop := loadClause ∧ absentClause

/-- `st` and `stp` whose accesses pass their checks go on with their stores outstanding; memory has not changed yet
(R190, R214 to R216, R219). -/
def Sys2Proof.Claims.storeClause : Prop :=
  ∀ (t : Tri) (s : State) (m : BitVec 32) (key : Nat → Nat), m ≠ 0 → s.Unheld t.h → Plain s →
    (Instr.wf (.st t) = true →
      s.Acts t.h ⟨[(t.a.toNat, 1), (t.d.toNat, Opd.count t.ty .vT)], [], false⟩ m →
      CleanData s m t.d.toNat (Opd.count t.ty .vT) →
      Reaches s m t.a (eaOf s t) (memSpace t) (accessSize t) (accessSize t) true key →
      ∃ u, exec (.st t) s = .next u ∧ Begins s u t.h [] 1
        ((lanesOf m).map (fun l =>
          { seq := 0, lane := l, key := key l, space := memSpace t, ea := eaOf s t l, size := accessSize t
            kind := .store (cut (8 * accessSize t) (storeVal s l t.d.toNat 0 (Opd.count t.ty .vT))) false
            rel := t.sub.getLsbD 4, scope := t.sub.toNat / 32, cores := s.instanceOf s.w (t.sub.toNat / 32)
            word := s.uid }))) ∧
    (Instr.wf (.stp t) = true →
      s.Acts t.h ⟨[(t.a.toNat, 1), (t.d.toNat, 4)], [], false⟩ m →
      CleanData s m t.d.toNat 4 →
      Reaches s m t.a (eaOf s t) (memSpace t) 16 16 true key →
      ∃ u, exec (.stp t) s = .next u ∧ Begins s u t.h [] 1
        ((lanesOf m).flatMap (fun l => [0, 1].map (fun k =>
          { seq := 0, lane := l, key := key l + 8 * k, space := memSpace t, ea := eaOf s t l, size := 8
            kind := .store (storeVal s l t.d.toNat k 4) false
            rel := t.sub.getLsbD 4, scope := t.sub.toNat / 32, cores := s.instanceOf s.w (t.sub.toNat / 32)
            word := s.uid }))))

/-- An atomic on `.dsp` or `.clp`, returning or not, issues one read-modify-write for each acting lane (R220 to R223). -/
def Sys2Proof.Claims.ChipAtom (i : Instr) (t : Tri) (ret : Bool) : Prop :=
  ∀ (s : State) (m : BitVec 32) (key : Nat → Nat), m ≠ 0 → s.Unheld t.h → Plain s →
    i.wf = true → t.sub.toNat % 4 ≠ 3 →
    s.Acts t.h (atomUses t ret) m →
    CleanData s m t.b.toNat (Opd.count t.ty .vT * if t.c = 7 then 2 else 1) →
    Reaches s m t.a (fun l => (s.reads s.w (.vec l t.a.toNat)).val) (spaceOf (t.sub.toNat % 4))
      (if wideTy t.ty then 8 else 4) (if wideTy t.ty then 8 else 4) true key →
    (∀ l, m.getLsbD l = true → s.accessible (key l) (if wideTy t.ty then 8 else 4) = true) →
    ∃ u, exec i s = .next u ∧
      Begins s u t.h (if ret then loadOp s m t.d.toNat (Opd.count t.ty .vT) else []) (if ret then 2 else 1)
        ((lanesOf m).map (fun l =>
          { seq := 0, lane := l, key := key l, space := spaceOf (t.sub.toNat % 4)
            ea := (s.reads s.w (.vec l t.a.toNat)).val, size := if wideTy t.ty then 8 else 4
            kind := .rmw (atomOf s t ret l) t.d.toNat (if ret then s.uid else 0)
            acq := t.sub.toNat / 64 % 2 == 1, rel := t.sub.toNat / 128 == 1
            scope := t.sub.toNat / 8 % 8, cores := s.instanceOf s.w (t.sub.toNat / 8 % 8)
            word := if ret then s.uid + 1 else s.uid }))

/-- The entries that an atomic on `.mem` writes for its lanes' absent pages: one to a page, at the lowest lane's address,
for the lanes that lie in it (R338, R339). -/
def Sys2Proof.Claims.absentPages (s : State) (m : BitVec 32) (va : Nat → Nat) : List FaultRec :=
  let xs := (lanesOf m).filter (fun l => (s.xlate s.wp.vi s.wp.core (va l) true false).1 = .replay)
  ((xs.map (fun l => va l / 4096)).eraseDups).map (fun p =>
    let mine := xs.filter (fun l => va l / 4096 == p)
    ⟨va (mine.headD 0), 0, 4, true, dieOf s.wp.core, cixOf s.wp.core, .atom s.w s.uid (maskOf mine), none, false⟩)

/-- An atomic on `.mem`, returning or not, is translated at issue. A queue entry holds it once every lane's page is present,
and the gang goes on; with a page not present, the acting lanes park at the word, the others stand at it still, and one
fault for each absent page waits for its queue (R224, R337 to R339). -/
def Sys2Proof.Claims.MemAtom (i : Instr) (t : Tri) (ret : Bool) : Prop :=
  ∀ (s : State) (m : BitVec 32) (va : Nat → Nat) (size : Nat), m ≠ 0 → s.Unheld t.h → Plain s →
    i.wf = true → t.sub.toNat % 4 = 3 → size = (if wideTy t.ty then 8 else 4) →
    s.Acts t.h (atomUses t ret) m → CleanData s m t.a.toNat 2 →
    CleanData s m t.b.toNat (Opd.count t.ty .vT * if t.c = 7 then 2 else 1) →
    (∀ l, m.getLsbD l = true → (vecSrc s l 2 t.a.toNat).1.toNat = va l ∧ va l < 2 ^ 57 ∧ va l % size = 0 ∧
      (s.xlate s.wp.vi s.wp.core (va l) true false).1 ≠ .bad ∧
      (s.xlate s.wp.vi s.wp.core (va l) true false).1 ≠ .busy) →
    (∀ a : Nat → Nat, (∀ l, m.getLsbD l = true → (s.xlate s.wp.vi s.wp.core (va l) true false).1 = .ok (a l)) →
      (∀ l, m.getLsbD l = true → a l / 2 ^ 56 % 2 = 1 → t.c = 0 ∨ t.c = 6 ∨ t.c = 7) →
      s.queueUsed s.wp.core (schedOf s.wp.slot) < 32 →
      ∃ u, exec i s = .next u ∧ Steps s u t.h [] ∧ u.mem = s.mem ∧
        (u.warp s.w).longs = (if ret then loadOp s m t.d.toNat (Opd.count t.ty .vT) else []) ∧
        tget u.copies (if ret then s.uid + 1 else s.uid) = some
          { core := s.wp.core, queue := schedOf s.wp.slot, seq := if ret then s.uid + 1 else s.uid, vi := s.wp.vi
            grid := s.wp.grid, block := s.wp.block, warp := s.w, lanes := m, src := .elems size ((lanesOf m).map va)
            dst := .elems size [], total := 0, pc := s.cur.pc
            acq := t.sub.getLsbD 6, rel := t.sub.getLsbD 7, scope := t.sub.toNat / 8 % 8
            cores := s.instanceOf s.w (t.sub.toNat / 8 % 8)
            waits := { s with uid := if ret then s.uid + 1 else s.uid }.releases s.w (lanesOf m)
            atoms := (lanesOf m).map (fun l =>
              (l, dpaByte s.wp.vi (a l), atomOf s t ret l, t.d.toNat, if ret then s.uid else 0)) }) ∧
    ∀ l, m.getLsbD l = true → (s.xlate s.wp.vi s.wp.core (va l) true false).1 = .replay →
      ∃ u, exec i s = .next u ∧ u.mem = s.mem ∧ u.copies = s.copies ∧
        (∀ k, m.getLsbD k = true → ((u.warp s.w).lane k).park = .gang s.uid ∧
          ((u.warp s.w).lane k).next = s.cur.pc ∧ ((u.warp s.w).lane k).ready = false) ∧
        (∀ k, s.cur.lanes.getLsbD k = true → m.getLsbD k = false →
          ((u.warp s.w).lane k).pc = s.cur.pc ∧ ((u.warp s.w).lane k).ready = true) ∧
        tget (u.warp s.w).gangs s.uid =
          some ⟨m, .fetch (s.newFaults s.wp.vi (absentPages s m va)).1, s.cur.pc, s.cyc, []⟩ ∧
        u.vi s.wp.vi = (s.newFaults s.wp.vi (absentPages s m va)).2.vi s.wp.vi

/-- With no lane acting, `atom` and `red` go on at the next word (R55, R102). -/
def Sys2Proof.Claims.idleAtomClause : Prop :=
  ∀ (t : Tri) (s : State), s.Unheld t.h →
    (Instr.wf (.atom t) = true → s.Acts t.h (atomUses t true) 0 →
      ∃ u, exec (.atom t) s = .next u ∧ s.Completed u t.h [] 0) ∧
    (Instr.wf (.red t) = true → s.Acts t.h (atomUses t false) 0 →
      ∃ u, exec (.red t) s = .next u ∧ s.Completed u t.h [] 0)

/-- `atom` and `red` issue: one read-modify-write for each acting lane on chip, an entry of a copy queue on `.mem`, nothing
where no lane acts (R220 to R224). -/
def Obligations.AtomicWords : Prop :=
  (∀ t, ChipAtom (.atom t) t true ∧ ChipAtom (.red t) t false) ∧
    (∀ t, MemAtom (.atom t) t true ∧ MemAtom (.red t) t false) ∧ idleAtomClause

/-- `fence` makes one Fence event for each acting lane, and the gang goes on; a fence of cluster scope does so when its
handle is current and no commit of the cluster is under way. With nothing pending of its lanes a fence that acquires
leaves an access for each, and one that only releases leaves none; a fence that releases keeps, for a lane with
accesses pending, what they are (R191, R198, R226 to R228). -/
def Sys2Proof.Claims.fenceClause : Prop :=
  ∀ (t : Tri) (s : State) (m : BitVec 32), Instr.wf (.fence t) = true → s.Acts t.h {} m → s.Unheld t.h → Plain s →
    (t.sub.toNat / 4 % 8 = 2 → (s.reads s.w (.uni t.a.toNat)).bad = false ∧ s.committing s.w = false ∧
      s.handleOk s.w (s.reads s.w (.uni t.a.toNat)).val = true) →
    ∃ u, exec (.fence t) s = .next u ∧ s.GoesOn u t.h ∧ u = { s with warps := u.warps, uid := u.uid } ∧
      ((∀ l, m.getLsbD l = true → ∀ n, s.pendingOf s.w l n = []) →
        Begins s u t.h [] 1 (if t.sub.toNat % 4 = 1 then [] else (lanesOf m).map (fun l =>
          { seq := 0, lane := l, key := 0, space := .dsp, ea := 0, size := 0, kind := .fence (t.sub.toNat % 4 == 3)
            scope := t.sub.toNat / 4 % 8, cores := s.instanceOf s.w (t.sub.toNat / 4 % 8), word := s.uid }))) ∧
      (t.sub.toNat % 4 ≠ 0 → ∀ l, m.getLsbD l = true → s.pendingOf s.w l s.uid ≠ [] →
        ∃ f ∈ (u.warp s.w).fences, f.point.warp = s.w ∧ f.point.lane = l ∧ s.uid < f.point.seq ∧
          f.point.scope = t.sub.toNat / 4 % 8 ∧ f.point.cores = s.instanceOf s.w (t.sub.toNat / 4 % 8) ∧
          ∀ x ∈ s.pendingOf s.w l s.uid, x ∈ f.waits)

/-- The stores and `fence` issue one event for each acting lane, or two, and the gang goes on (R190, R214 to R216, R219,
R226 to R228). -/
def Obligations.StoreAndFenceWords : Prop := storeClause ∧ fenceClause

namespace Sys2Proof.Claims

/-- A destination with the cell that a list of results gives it. -/
def learned (rs : List (Target × Cell)) (d : Dest) : Dest :=
  match rs.find? (fun r => r.1 == d.tgt) with
  | some r => { d with val := some r.2 }
  | none => d

/-- A warp's long operation `op` has received results: a known destination is delivered by LONG_RESULT_DELIVERY. -/
def Receives (s t : State) (w op : Nat) (rs : List (Target × Cell)) : Prop :=
  ∀ o, tget (s.warp w).longs op = some o →
    ∃ o', tget (t.warp w).longs op = some o' ∧ o'.dests = o.dests.map (learned rs) ∧ o'.waits = o.waits

/-- An access that performs leaves every register and every other warp's long operations; it is outstanding no more. -/
def Performed (s t : State) (w : Nat) (ids : List Nat) : Prop :=
  (∀ v x, t.reads v x = s.reads v x) ∧ (∀ v, v ≠ w → t.warp v = s.warp v) ∧
    (∀ id, tget (t.warp w).accs id = if id ∈ ids then none else tget (s.warp w).accs id)

/-- Bytes of an access that a thread may write: neither of a bound channel record nor of a stack (R167, R262). -/
def Storable (s : State) (key : Nat) : Prop := isVoid key = false ∧ s.boundLine key = false

/-- No parked lane of a warp belongs to a doomed task whose notice has arrived (R257). -/
def NoNotice (s : State) (w : Nat) : Prop :=
  ∀ x ∈ (s.warp w).lanes, x.2.alive = true → x.2.park ≠ .no → s.laneDoomed x.2 = false

/-- The bytes at a key are no HBM bytes, or no HBM line has an error (R347). -/
def Sound (s : State) (key : Nat) : Prop := s.hbmErr = [] ∨ 0xC000000000 ≤ key

end Sys2Proof.Claims

/-- A load, a store, a reading of a presence bit or a fence performs at its home (R190, R215, R217, R387): a load's result
becomes known, a store's bytes stand in memory, and no other byte has changed. LOAD_PRESENCE_RESUME performs the same
for an access at which its lane is parked, and the lane goes on (R176). -/
def Obligations.AccessesPerform : Prop :=
  ∀ (w id : Nat) (a : Access) (s : State), tget (s.warp w).accs id = some a → s.mayPerform w a = true →
    (match a.kind with | .rmw _ _ _ => False | _ => True) →
    (match a.kind with | .store _ _ => Storable s a.key | _ => True) →
    (a.parked = true → NoNotice s w) →
    ∃ t, exec (if a.parked then .loadPresenceResume w id else .memoryAccessPerform w id) s = .next t ∧
      Performed s t w [id] ∧
      (match a.kind with
      | .load sg r op =>
        Receives s t w op (vecResult a.lane r (if a.size == 8 then 2 else 1) (loadValue a.size sg (s.num a.key a.size))
          (s.tainted a.key a.size)) ∧ t.mem = s.mem
      | .presence p op =>
        Receives s t w op [(.pred a.lane p, ⟨if s.absent.contains (a.key / 64) then 0 else 1, false⟩)] ∧ t.mem = s.mem
      | .store v _ => ∀ k, t.byte k =
          if a.key ≤ k ∧ k < a.key + a.size then BitVec.ofNat 8 (v.toNat / 256 ^ (k - a.key)) else s.byte k
      | _ => t.mem = s.mem) ∧
      (a.parked = true → (∀ x ∈ (s.warp w).accs, x.1 ≠ id → x.2.lane = a.lane → x.2.parked = false) →
        ((s.warp w).lane a.lane).shadow = false → ((s.warp w).lane a.lane).park = .access a.word →
          ((t.warp w).lane a.lane).park = .no ∧
          ((t.warp w).lane a.lane).pc = ((s.warp w).lane a.lane).next)

/-- The read-modify-writes that one word makes at one place perform together, in lane order, each on what the one before
it left (R221, R222); no other byte changes. -/
def Sys2Proof.Claims.chipRmwClause : Prop :=
  ∀ (w id : Nat) (a : Access) (s : State), tget (s.warp w).accs id = some a →
    (match a.kind with | .rmw _ _ _ => True | _ => False) →
    (s.grid (s.warp w).grid).launch.determ = false → Storable s a.key → NoNotice s w → Sound s a.key →
    (∀ x ∈ (s.warp w).together a, x.2.size = a.size ∧ s.mayPerform w x.2 = true) →
    ∃ t, exec (.gnomonRmwPerform false w id) s = .next t ∧
      Performed s t w (((s.warp w).together a).map (·.1)) ∧
      BitVec.ofNat 64 (t.num a.key a.size) = ((s.warp w).together a).foldl (fun v x => match x.2.kind with
        | .rmw op _ _ => cut (8 * a.size) (rmwNew op v).1
        | _ => v) (BitVec.ofNat 64 (s.num a.key a.size)) ∧
      ∀ k, ¬(a.key ≤ k ∧ k < a.key + a.size) → t.byte k = s.byte k

/-- An atomic on `.mem` of one lane performs once every earlier entry of its queue is gone, its lane's earlier acquires have
performed, and what it takes in as an acquire has: its entry leaves the queue, the place holds the new value, and the lane
will receive the old one (R196, R198, R222, R224). -/
def Sys2Proof.Claims.memRmwClause : Prop :=
  ∀ (id n l key reg op size : Nat) (x : AtomOp) (c : Copy) (s : State), tget s.copies id = some c →
    c.atoms = [(l, key, x, reg, op)] → size = (if wideTy x.ty then 8 else 4) →
    (s.grid (s.warp c.warp).grid).launch.determ = false → (s.grid (s.warp c.warp).grid).launch.prot = false →
    Storable s key → Sound s key →
    ((∃ y ∈ s.copies, y.2.core = c.core ∧ y.2.queue = c.queue ∧ y.2.seq < c.seq ∧ y.1 ≠ id) →
      exec (.gnomonRmwPerform true id n) s = .next s) ∧
    ((∀ y ∈ s.copies, y.2.core = c.core → y.2.queue = c.queue → y.2.seq < c.seq → y.1 = id) →
      s.gangOrdered c.warp c.lanes c.seq = true → s.acquireReady c.warp (c.access (l, key, x, reg, op)) = true →
      ∃ t, exec (.gnomonRmwPerform true id n) s = .next t ∧ tget t.copies id = none ∧
        BitVec.ofNat 64 (t.num key size) = cut (8 * size) (rmwNew x (BitVec.ofNat 64 (s.num key size))).1 ∧
        (∀ k, ¬(key ≤ k ∧ k < key + size) → t.byte k = s.byte k) ∧
        (x.ret = true → Receives s t c.warp op (vecResult l reg (if size = 8 then 2 else 1)
          (BitVec.ofNat 64 (s.num key size)) (s.tainted key size))))

/-- The atomics perform at their homes (R196, R221, R222, R224). -/
def Obligations.AtomicsPerform : Prop := chipRmwClause ∧ memRmwClause

namespace Sys2Proof.Claims

/-- The lanes of m go to their targets and the rest of the gang to the next word (R102), ready from the next cycle on;
no register, no byte of storage and nothing outside the warp has changed. -/
structure Moves (s t : State) (h : Hdr) (m : BitVec 32) (target : Nat → DWord) : Prop
    extends State.OnlyRegs s t s.w [] where
  arrive : ∀ l, m.getLsbD l = true → ((t.warp s.w).lane l).pc = target l ∧ ((t.warp s.w).lane l).since = s.cyc + 1
  next : ∀ l, s.cur.lanes.getLsbD l = true → m.getLsbD l = false →
    ((t.warp s.w).lane l).pc = afterWord h s.cur.pc ∧ ((t.warp s.w).lane l).since = s.cyc + 1
  stay : ∀ l, s.cur.lanes.getLsbD l = false →
    ((t.warp s.w).lane l).pc = (s.wp.lane l).pc ∧ ((t.warp s.w).lane l).since = (s.wp.lane l).since
  flags : (t.warp s.w).fpstat = s.wp.fpstat

/-- The same where the lanes of m change their frames: a lane of m holds the frames `fs l` gives it. -/
structure Shifts (s t : State) (h : Hdr) (m : BitVec 32) (target : Nat → DWord) (fs : Nat → List Frame → Prop) :
    Prop where
  mem : t.mem = s.mem
  others : ∀ v, v ≠ s.w → t.warp v = s.warp v
  arrive : ∀ l, m.getLsbD l = true → fs l ((t.warp s.w).lane l).frames ∧
    ((t.warp s.w).lane l).pc = target l ∧ ((t.warp s.w).lane l).since = s.cyc + 1
  next : ∀ l, s.cur.lanes.getLsbD l = true → m.getLsbD l = false →
    ((t.warp s.w).lane l).pc = afterWord h s.cur.pc ∧ ((t.warp s.w).lane l).since = s.cyc + 1
  frames : ∀ l, m.getLsbD l = false → ((t.warp s.w).lane l).frames = (s.wp.lane l).frames
  preds : ∀ l, ((t.warp s.w).lane l).preds = (s.wp.lane l).preds ∧ ((t.warp s.w).lane l).pbad = (s.wp.lane l).pbad
  uni : (t.warp s.w).s = s.wp.s ∧ (t.warp s.w).fpstat = s.wp.fpstat

/-- No acting lane belongs to a doomed task whose notice has arrived (R257), and under PROT the lanes of a pair agree
(R351). -/
def Together (s : State) (m : BitVec 32) (f : Nat → List DWord) : Prop :=
  (∀ l, m.getLsbD l = true → s.laneDoomed (s.wp.lane l) = false) ∧ s.mismatch m f = false

/-- Nothing stops the acting lanes on their way to their targets: each is a landing (R45). -/
def Lands (s : State) (m : BitVec 32) (target : Nat → DWord) : Prop :=
  Together s m (fun l => [target l]) ∧ ∀ l, m.getLsbD l = true → s.landing s.wp.vi s.wp.core (target l) = .ok

/-- A call can be performed (R16, R104, R172): every acting lane has its window and is not too deep, and the pool has
the granules of the new frames. -/
def CanCall (s : State) (m : BitVec 32) (g win : Nat) : Prop :=
  (∀ l, m.getLsbD l = true → win + 7 < 8 * (s.wp.lane l).top.g ∧ (s.wp.lane l).depth < 1024) ∧
    (callNeed g (lanesOf m) = 0 ∨
      s.frameBlocked s.wp.core = false ∧ callNeed g (lanesOf m) ≤ (s.core s.wp.core).free)

/-- What a call leaves (R16, R17, R104, R170): a new frame on top of the others, whose v0 to v7 are the caller's window. -/
def Called (s t : State) (h : Hdr) (m : BitVec 32) (g win : Nat) (target : Nat → DWord) : Prop :=
  Shifts s t h m target (fun l fs => ∃ sf, fs = ⟨g, win, afterWord h s.cur.pc, none, [], sf⟩ :: (s.wp.lane l).frames) ∧
    (∀ l, m.getLsbD l = true → ∀ r, r < 8 → t.reads s.w (.vec l r) = s.reads s.w (.vec l (win + r))) ∧
    (t.core s.wp.core).free = (s.core s.wp.core).free - callNeed g (lanesOf m)

/-- The frame that a lane would return to is in the register file (R174). -/
def Resident (s : State) (m : BitVec 32) (depth : Nat → Nat) : Prop :=
  ∀ l, m.getLsbD l = true → s.wp.spilledAt [l] depth = []

end Sys2Proof.Claims

/-- The branches go to their targets in the acting lanes and to the next word in the others (R45, R102, R103). -/
def Obligations.BranchWords : Prop :=
  ∀ (s : State) (m : BitVec 32),
    (∀ t : Imm, Instr.wf (.bra t) = true → s.Acts t.h {} m → s.Unheld t.h →
      Lands s m (fun _ => s.cur.pc + t.imm.signExtend 64 * 8) →
      ∃ u, exec (.bra t) s = .next u ∧ Moves s u t.h m (fun _ => s.cur.pc + t.imm.signExtend 64 * 8)) ∧
    (∀ t : Tri, Instr.wf (.brx t) = true → s.Acts t.h ⟨[(t.a.toNat, 2)], [], false⟩ m → s.Unheld t.h →
      CleanData s m t.a.toNat 2 → Lands s m (fun l => (vecSrc s l 2 t.a.toNat).1) →
      ∃ u, exec (.brx t) s = .next u ∧ Moves s u t.h m (fun l => (vecSrc s l 2 t.a.toNat).1)) ∧
    (∀ t : Tri, Instr.wf (.brxRel t) = true → s.Acts t.h ⟨[(t.a.toNat, 1)], [], false⟩ m → s.Unheld t.h →
      CleanData s m t.a.toNat 1 →
      Lands s m (fun l => s.cur.pc + (s.reads s.w (.vec l t.a.toNat)).val.signExtend 64 * 8) →
      ∃ u, exec (.brxRel t) s = .next u ∧
        Moves s u t.h m (fun l => s.cur.pc + (s.reads s.w (.vec l t.a.toNat)).val.signExtend 64 * 8)) ∧
    ∀ t : Tri, Instr.wf (.nop t) = true → s.Acts t.h {} m → s.Unheld t.h →
      ∃ u, exec (.nop t) s = .next u ∧ Moves s u t.h 0 (fun _ => 0)

/-- The calls push a frame in the acting lanes; `ret` pops it and goes on at its return address (R16, R17, R104,
R105). -/
def Sys2Proof.Claims.callClause : Prop :=
  ∀ (s : State) (m : BitVec 32), m ≠ 0 →
    (∀ t : Imm, Instr.wf (.call t) = true → s.Acts t.h {} m → s.Unheld t.h →
      CanCall s m t.a.toNat t.d.toNat → Lands s m (fun _ => s.cur.pc + t.imm.signExtend 64 * 8) →
      ∃ u, exec (.call t) s = .next u ∧
        Called s u t.h m t.a.toNat t.d.toNat (fun _ => s.cur.pc + t.imm.signExtend 64 * 8)) ∧
    (∀ t : Tri, Instr.wf (.callx t) = true → s.Acts t.h ⟨[(t.a.toNat, 2)], [], false⟩ m → s.Unheld t.h →
      CleanData s m t.a.toNat 2 → CanCall s m t.sub.toNat t.d.toNat → Lands s m (fun l => (vecSrc s l 2 t.a.toNat).1) →
      ∃ u, exec (.callx t) s = .next u ∧
        Called s u t.h m t.sub.toNat t.d.toNat (fun l => (vecSrc s l 2 t.a.toNat).1)) ∧
    ∀ t : Tri, Instr.wf (.ret t) = true → s.Acts t.h {} m → s.Unheld t.h →
      (∀ l, m.getLsbD l = true → 2 ≤ (s.wp.lane l).depth) → Resident s m (fun l => (s.wp.lane l).depth - 1) →
      Together s m (fun l => [(s.wp.lane l).top.ret]) →
      ∃ u, exec (.ret t) s = .next u ∧
        Shifts s u t.h m (fun l => (s.wp.lane l).top.ret) (fun l fs => fs = (s.wp.lane l).frames.tail)

/-- `umark` marks the current frame of the acting lanes and writes the token; `unwind` pops every frame above the one
that the token names and resumes at its mark (R106 to R108). -/
def Sys2Proof.Claims.unwindClause : Prop :=
  ∀ (s : State) (m : BitVec 32), m ≠ 0 →
    (∀ (t : Imm) (d : Nat), Instr.wf (.umark t) = true → s.Acts t.h {} m → s.Unheld t.h →
      (∀ l, m.getLsbD l = true → (s.wp.lane l).depth = d) →
      ∃ u, exec (.umark t) s = .next u ∧ u = { s with warps := u.warps } ∧
        (∀ v, v ≠ s.w → u.warp v = s.warp v) ∧
        (u.warp s.w).markSer = s.wp.markSer + 1 ∧
        (∀ l, m.getLsbD l = true → ((u.warp s.w).lane l).top.mark =
          if d = 0 then none else some ⟨s.cur.pc + t.imm.signExtend 64 * 8, s.wp.markSer + 1⟩) ∧
        u.reads s.w (.uni t.d.toNat) = ⟨BitVec.ofNat 32 ((s.wp.markSer + 1).toNat * 2 ^ 16 + (d - 1)), false⟩ ∧
        (∀ x, x ≠ .uni t.d.toNat → u.reads s.w x = s.reads s.w x) ∧
        ∀ l, s.cur.lanes.getLsbD l = true →
          ((u.warp s.w).lane l).pc = afterWord t.h s.cur.pc ∧ ((u.warp s.w).lane l).since = s.cyc + 1) ∧
    ∀ (t : Tri) (d : Nat) (ser : BitVec 8) (target : Nat → DWord), Instr.wf (.unwind t) = true →
      s.Acts t.h {} m → s.Unheld t.h → d < 1024 →
      s.reads s.w (.uni t.a.toNat) = ⟨BitVec.ofNat 32 (ser.toNat * 2 ^ 16 + d), false⟩ →
      (∀ l, m.getLsbD l = true → d + 1 ≤ (s.wp.lane l).depth ∧
        ∃ f, (s.wp.lane l).frames[(s.wp.lane l).depth - (d + 1)]? = some f ∧ f.mark = some ⟨target l, ser⟩) →
      Resident s m (fun _ => d + 1) → Lands s m target →
      ∃ u, exec (.unwind t) s = .next u ∧
        Shifts s u t.h m target (fun l fs => fs = (s.wp.lane l).frames.drop ((s.wp.lane l).depth - (d + 1)))

/-- Calls and the return, marks and unwinding (R16, R17, R104 to R108). -/
def Obligations.CallAndUnwindWords : Prop := callClause ∧ unwindClause

namespace Sys2Proof.Claims

/-- Trap entry (R333, R358): the cause, TMASK and TLIVE are written, PRIV keeps its old CUR in PREV and becomes system;
every unended lane stands, ready, at the trap vector of the interface, with its TPC and its park record; no register,
no byte of storage and no other warp has changed. `tpc` gives the TPC of every unended lane. -/
structure Entered (s t : State) (w : Nat) (cause : BitVec 8) (mask : BitVec 32) (tpc : Nat → DWord) (live : DWord) :
    Prop where
  isCause : (t.warp w).tcause = cause.setWidth 32
  isMask : (t.warp w).tmask = mask
  isLive : (t.warp w).tlive = live
  priv : (t.warp w).cur = true ∧ (t.warp w).prev = (s.warp w).cur ∧ (t.warp w).trap = none
  lanes : ∀ l, (s.warp w).alive.getLsbD l = true →
    ((t.warp w).lane l).pc = (s.vi (s.warp w).vi).trapvec ∧
    ((t.warp w).lane l).park = .no ∧ ((t.warp w).lane l).held = false ∧
    ((t.warp w).lane l).since = s.cycle (s.warp w).core + 1 ∧
    ((t.warp w).lane l).tpc = tpc l ∧
    ((t.warp w).lane l).parkRec = (if mask.getLsbD l then .no else ((s.warp w).lane l).park)
  regs : ∀ v x, t.reads v x = s.reads v x
  others : ∀ v, v ≠ w → t.warp v = s.warp v
  mem : t.mem = s.mem

/-- The words that are for system code alone (R56, R66, R359), with their uses. -/
def systemWord : Instr → Option (Hdr × Uses)
  | .sysrd t => if t.b.toNat ≤ 8 then none else some (t.h, ⟨[], sysUses t t.d, false⟩)
  | .syswr t => if t.b = 5 then none else some (t.h, ⟨sysUses t t.a, [], false⟩)
  | .eret t => some (t.h, {})
  | .notify t => some (t.h, {})
  | .haltSave t => some (t.h, {})
  | .haltEnd t => some (t.h, {})
  | .ctxDrain t => some (t.h, {})
  | .ctxVsave t => some (t.h, {})
  | .ctxVload t => some (t.h, {})
  | _ => none

/-- A park that system code has settled: one that a save area gave back (R370), or one whose word takes its trap as `eret`
returns (R337). -/
def settledPark : Park → Bool
  | .restored _ _ _ => true
  | .denied _ _ => true
  | _ => false

/-- The TPC of a lane when the word being issued traps in some lanes: the word in those, the place where it stands in the
others (R332, R333). -/
def tpcAt (s : State) (m : BitVec 32) (l : Nat) : DWord := if m.getLsbD l then s.cur.pc else (s.wp.lane l).pc

end Sys2Proof.Claims

/-- When the guard leaves no lane acting, neither `trap` nor `brk` traps: the gang goes on at the next word (R111). -/
def Sys2Proof.Claims.passedClause : Prop :=
  ∀ (t : Imm) (s : State), s.Acts t.h {} 0 → s.Unheld t.h →
    (Instr.wf (.trap t) = true → ∃ u, exec (.trap t) s = .next u ∧ s.Completed u t.h [] 0) ∧
    (Instr.wf (.brk t) = true → ∃ u, exec (.brk t) s = .next u ∧ s.Completed u t.h [] 0)

/-- `trap` and `brk` enter system code (R333) with causes 0x20 and 0x21, the immediate in TADDR, TMASK the acting lanes,
and TPC the next word or the word itself, in the gang's other lanes the next word (R102); with no lane acting they do
not trap (R111). -/
def Obligations.TrapWords : Prop :=
  passedClause ∧
  ∀ (t : Imm) (s : State) (m : BitVec 32), m ≠ 0 → s.Acts t.h {} m → s.wp.cur = false →
    (Instr.wf (.trap t) = true → ∃ u, exec (.trap t) s = .next u ∧ (u.warp s.w).taddr = t.imm.setWidth 64 ∧
      Entered s u s.w 0x20 m
        (fun l => if s.cur.lanes.getLsbD l then afterWord t.h s.cur.pc else (s.wp.lane l).pc) allLive) ∧
    (Instr.wf (.brk t) = true → ∃ u, exec (.brk t) s = .next u ∧ (u.warp s.w).taddr = t.imm.setWidth 64 ∧
      Entered s u s.w 0x21 m
        (fun l => if s.cur.lanes.getLsbD l && !m.getLsbD l then afterWord t.h s.cur.pc else tpcAt s m l) allLive)

/-- A word of system privilege takes the privilege trap, cause 0x03, in a user warp (R56, R332, R359). -/
def Sys2Proof.Claims.privilegeClause : Prop :=
  ∀ (i : Instr) (h : Hdr) (u : Uses) (s : State) (m : BitVec 32), systemWord i = some (h, u) → i.wf = true →
    s.Acts h u m → s.wp.cur = false →
    ∃ t, exec i s = .next t ∧ Entered s t s.w 0x03 m (tpcAt s m) allLive

/-- An integer word that names a register outside the frame of some lane of its gang takes the illegal-instruction trap,
cause 0x01, in those lanes (R15, R54, R332). -/
def Sys2Proof.Claims.frameClause : Prop :=
  ∀ (i : Instr) (t : Tri) (sh : Shape) (f : BitVec 64 → BitVec 64 → BitVec 64 → BitVec 64) (s : State)
    (bad : BitVec 32), intWord i = some (t, sh, f) → i.wf = true → s.Issues → s.wp.Quiet → s.wp.cur = false →
    bad ≠ 0 → (∀ l, bad.getLsbD l = true ↔ s.cur.lanes.getLsbD l = true ∧
      ((s.wp.lane l).liveFits t.h.live &&
        (s.wp.lane l).fits ((triUses t sh false).reads ++ (triUses t sh false).writes)) = false) →
    ∃ u, exec i s = .next u ∧ Entered s u s.w 0x01 bad (tpcAt s bad) allLive

/-- The privilege trap of the words that are for system code, and the illegal-instruction trap of a register outside the frame
(R15, R54, R56, R332, R359). -/
def Obligations.PrivilegeAndFrameTraps : Prop := privilegeClause ∧ frameClause

/-- A trap in a warp with long operations outstanding waits for them: the word leaves its trap pending and changes
nothing else, and TRAP_ENTRY enters it once they have delivered (R62, R333). -/
def Sys2Proof.Claims.entryClause : Prop :=
  (∀ (t : Imm) (s : State), Instr.wf (.brk t) = true → s.Issues → s.cur.lanes ≠ 0 → t.h.g = 15 → t.h.gn = false →
    t.h.live = none → (s.block s.wp.block).shares = [] → s.wp.cur = false → s.wp.busyLong = true →
    ∃ u, exec (.brk t) s = .next u ∧
      u = { s with warps := u.warps } ∧ (∀ v, v ≠ s.w → u.warp v = s.warp v) ∧
      u.warp s.w = { s.wp with trap := some ⟨0x21, t.imm.setWidth 64, s.cur.lanes, some s.cur.pc⟩ }) ∧
  ∀ (w : Nat) (tr : Trap) (s : State), (s.warp w).trap = some tr → (s.warp w).late = [] →
    ∃ u, exec (.trapEntry w) s = .next u ∧
      if (s.warp w).busyLong then u = s
      else (u.warp w).taddr = tr.addr ∧
        Entered s u w tr.cause tr.mask (fun l =>
          if tr.mask.getLsbD l then tr.tpc.getD ((s.warp w).lane l).pc else ((s.warp w).lane l).pc) allLive

/-- Pre-emption takes a user warp whose unended lanes are all held or parked: the safe-point trap, cause 0x30, with the
held lanes in TMASK and the live registers of their mask words in TLIVE (R342). -/
def Sys2Proof.Claims.safePointClause : Prop :=
  ∀ (w : Nat) (s : State), s.requested (s.warp w).core = true → (s.warp w).cur = false → (s.warp w).saved = false →
    (s.warp w).trap = none → (s.warp w).live = true → (s.warp w).busyLong = false → (s.warp w).late = [] →
    (∀ x ∈ (s.warp w).lanes, x.2.alive = true → x.2.held = true ∨ x.2.park ≠ .no) →
    ∃ u, exec (.safePointTrap w) s = .next u ∧
      Entered s u w 0x30 ((s.warp w).alive &&& ~~~(s.warp w).mask (fun L => L.park.on))
        (fun l => ((s.warp w).lane l).pc) (s.warp w).liveMask ∧
      ((∃ x ∈ (s.warp w).lanes, x.2.alive = true ∧ x.2.park ≠ .no) → (s.warp w).liveMask = allLive)

/-- A trap at system privilege kills: every thread of the warp ends (R335, R349). -/
def Sys2Proof.Claims.doubleClause : Prop :=
  ∀ (t : Imm) (s : State) (m : BitVec 32), m ≠ 0 → s.Acts t.h {} m → s.wp.cur = true →
    Instr.wf (.trap t) = true →
    ∃ u, exec (.trap t) s = .next u ∧ ∀ l, l < 32 → ((u.warp s.w).lane l).alive = false

/-- Trap entry waits for the warp's long operations; a trap at system privilege kills (R62, R333, R335, R349). -/
def Obligations.TrapEntryAndDoubleTraps : Prop := entryClause ∧ doubleClause

/-- `eret` restores PRIV, and each unended lane goes on at its TPC with the park that its record keeps; no register
changes (R334, R365). -/
def Obligations.EretReturns : Prop :=
  ∀ (t : Tri) (s : State) (m : BitVec 32), Instr.wf (.eret t) = true → s.Acts t.h {} m → s.wp.cur = true →
    (s.requested s.wp.core = false ∨ s.wp.prev = true) → s.awaitsRecord s.w = false →
    (∀ x ∈ s.wp.lanes, settledPark x.2.parkRec = false ∧ settledPark x.2.park = false) →
    (∀ l, s.wp.alive.getLsbD l = true → s.landing s.wp.vi s.wp.core (s.wp.lane l).tpc = .ok) →
    ∃ u, exec (.eret t) s = .next u ∧ u = { s with warps := u.warps } ∧ (∀ v, v ≠ s.w → u.warp v = s.warp v) ∧
      (u.warp s.w).cur = s.wp.prev ∧ (u.warp s.w).prev = false ∧
      (∀ l, s.wp.alive.getLsbD l = true →
        ((u.warp s.w).lane l).pc = (s.wp.lane l).tpc ∧ ((u.warp s.w).lane l).park = (s.wp.lane l).parkRec ∧
        ((u.warp s.w).lane l).parkRec = .no ∧ ((u.warp s.w).lane l).next = (s.wp.lane l).nextRec ∧
        ((u.warp s.w).lane l).heldMask = (s.wp.lane l).heldRec ∧ ((u.warp s.w).lane l).since = s.cyc + 1) ∧
      ∀ x, u.reads s.w x = s.reads s.w x

namespace Sys2Proof.Claims

/-- A lane is parked at the word, with the word after it as the place to go on (R117); its registers stand. -/
def ParkedAt (s t : State) (h : Hdr) (l : Nat) (p : Park) : Prop :=
  ((t.warp s.w).lane l).park = p ∧ ((t.warp s.w).lane l).next = afterWord h s.cur.pc ∧
    ((t.warp s.w).lane l).pc = (s.wp.lane l).pc ∧ ∀ r, t.reads s.w (.vec l r) = s.reads s.w (.vec l r)

/-- The gang is parked with its request (R117); no register, no byte of storage and no other warp has changed. -/
structure GangParks (s t : State) (h : Hdr) (m : BitVec 32) (r : Req) : Prop where
  gang : ∃ id rs, tget (t.warp s.w).gangs id = some ⟨m, r, s.cur.pc, s.cyc, rs⟩ ∧
    ∀ l, m.getLsbD l = true → ParkedAt s t h l (.gang id)
  regs : ∀ x, t.reads s.w x = s.reads s.w x
  others : ∀ v, v ≠ s.w → t.warp v = s.warp v
  mem : t.mem = s.mem

/-- A parked lane goes on at the word after its own in the next cycle, held there when that word is a safe point and
pre-emption of its core is requested (R117, R342). -/
def Woken (s t : State) (w l : Nat) : Prop :=
  ((t.warp w).lane l).park = .no ∧ ((t.warp w).lane l).pc = ((s.warp w).lane l).next ∧
    ((t.warp w).lane l).since = s.cycle (s.warp w).core + 1 ∧
    ((t.warp w).lane l).held = (s.requested (s.warp w).core && !(s.warp w).cur &&
      ((s.warp w).lane l).heldMask.getLsbD 0)

/-- Every lane of a parked gang goes on, and the gang is parked no more. -/
def GangWoken (s t : State) (w id : Nat) : Prop :=
  tget (t.warp w).gangs id = none ∧ ∀ l, ((s.warp w).gangLanes id).getLsbD l = true → Woken s t w l

/-- The lanes of a mask whose task's future waits for them, with the value that it will receive (R322). -/
def endingOf (s : State) (m : BitVec 32) (v : Nat → DWord) : List (Nat × Nat × DWord) :=
  ((lanesOf m).filter (fun l => !(s.wp.lane l).shadow)).filterMap (fun l => (s.wp.lane l).task.map (fun f => (f, l, v l)))

/-- The threads of the lanes of m end, and the rest of the gang goes on at the next word (R109). -/
structure Ends (s t : State) (h : Hdr) (m : BitVec 32) (v : Nat → DWord) : Prop where
  gone : ∀ l, m.getLsbD l = true → ((t.warp s.w).lane l).alive = false
  rejoin : ∀ k l, m.getLsbD l = true → ((t.warp s.w).rejoin k).getLsbD l = false
  alive : ∀ l, m.getLsbD l = false → ((t.warp s.w).lane l).alive = (s.wp.lane l).alive
  next : ∀ l, s.cur.lanes.getLsbD l = true → m.getLsbD l = false →
    ((t.warp s.w).lane l).pc = afterWord h s.cur.pc ∧ ((t.warp s.w).lane l).since = s.cyc + 1
  others : ∀ w, w ≠ s.w → (t.warp w).lanes = (s.warp w).lanes
  ending : (t.warp s.w).ending = s.wp.ending ++ endingOf s m v

/-- No acting lane belongs to a doomed task whose notice has arrived (R257). -/
def Wanted (s : State) (m : BitVec 32) : Prop := ∀ l, m.getLsbD l = true → s.laneDoomed (s.wp.lane l) = false

end Sys2Proof.Claims

/-- `exit`, `tret` and `halt.end` end threads; `tret` leaves its pair, the others 0, for the futures of tasks (R109, R121,
R322, R367). -/
def Obligations.EndWords : Prop :=
  ∀ (t : Tri) (s : State) (m : BitVec 32), s.Unheld t.h → s.prot = false → s.determ = false →
    (Instr.wf (.exit t) = true → s.Acts t.h {} m → ∃ u, exec (.exit t) s = .next u ∧ Ends s u t.h m (fun _ => 0)) ∧
    (Instr.wf (.tret t) = true → s.Acts t.h ⟨[(t.a.toNat, 2)], [], false⟩ m → CleanData s m t.a.toNat 2 →
      ∃ u, exec (.tret t) s = .next u ∧ Ends s u t.h m (fun l => (vecSrc s l 2 t.a.toNat).1)) ∧
    (Instr.wf (.haltEnd t) = true → s.Acts t.h {} m → s.wp.cur = true →
      (∀ l, s.wp.alive.getLsbD l = true → (s.wp.lane l).alive = true) →
      ∃ u, exec (.haltEnd t) s = .next u ∧
        Ends s u t.h ((s.reads s.w (.uni t.a.toNat)).val &&& s.wp.alive) (fun _ => 0))

/-- `join` parks the acting lanes; `jleave` and the `jmask` forms change one rejoin mask; JOIN_RELEASE lets every lane
parked at a join go on together once each thread that the mask names has ended or stands at a wait point (R120, R142,
R143). -/
def Obligations.JoinWords : Prop :=
  (∀ (t : Tri) (s : State) (m : BitVec 32), s.Acts t.h {} m → s.Unheld t.h →
    (Instr.wf (.join t) = true → Wanted s m →
      ∃ u, exec (.join t) s = .next u ∧ u = { s with warps := u.warps } ∧ (∀ v, v ≠ s.w → u.warp v = s.warp v) ∧
        (∀ x, u.reads s.w x = s.reads s.w x) ∧
        (∀ l, m.getLsbD l = true → ParkedAt s u t.h l (.join s.cur.pc t.a.toNat)) ∧
        ∀ l, s.cur.lanes.getLsbD l = true → m.getLsbD l = false →
          ((u.warp s.w).lane l).pc = afterWord t.h s.cur.pc) ∧
    (∀ (i : Instr) (k : Nat) (v : Word), i.wf = true →
      ((i = .jleave t ∧ k = t.a.toNat ∧ v = s.wp.rejoin k &&& ~~~m) ∨
        (i = .jmaskGang t ∧ k = t.d.toNat ∧ m ≠ 0 ∧ v = m) ∨
        (i = .jmaskAdd t ∧ k = t.d.toNat ∧ v = s.wp.rejoin k ||| m) ∨
        (i = .jmaskU t ∧ k = t.d.toNat ∧ m ≠ 0 ∧ v = (s.reads s.w (.uni t.b.toNat)).val)) →
      ∃ u, exec i s = .next u ∧ u = { s with warps := u.warps } ∧ Steps s u t.h [] ∧
        (∀ j, (u.warp s.w).rejoin j = if j = k then v else s.wp.rejoin j) ∧
        (u.warp s.w).rest = { s.wp.rest with m := (u.warp s.w).m })) ∧
  ∀ (w lane k : Nat) (word : DWord) (s : State), ((s.warp w).lane lane).park = .join word k → NoNotice s w →
    ∃ u, exec (.joinRelease w lane) s = .next u ∧
      ((∀ l, l < 32 → ((s.warp w).rejoin k).getLsbD l = true →
          ((s.warp w).lane l).alive = false ∨ ((s.warp w).lane l).park ≠ .no) →
        (∀ l, l < 32 → ((s.warp w).lane l).park = .join word k → Woken s u w l) ∧
          (∀ v x, u.reads v x = s.reads v x) ∧ u.mem = s.mem) ∧
      ((∃ l, l < 32 ∧ ((s.warp w).rejoin k).getLsbD l = true ∧ ((s.warp w).lane l).alive = true ∧
        ((s.warp w).lane l).park = .no) → u = s)

/-- `wait` (R149 to R151): a lane whose combination holds, or whose timeout is 0, writes D and goes on; any other parks,
with its deadline. WAIT_RELEASE and WAIT_TIMEOUT write D with the conditions as they then hold. -/
def Obligations.WaitWords : Prop :=
  (∀ (t : Tri) (s : State) (m : BitVec 32) (cs : Nat → List WaitCond) (n : Nat), n = t.sub.toNat % 4 + 1 →
    Instr.wf (.wait t) = true → s.Acts t.h ⟨[(t.b.toNat, n)], [(t.d.toNat, 1)], false⟩ m → s.Unheld t.h →
    Wanted s m → s.committing s.w = false → CleanData s m t.b.toNat n →
    (∀ k, k < n → (s.reads s.w (.uni (t.a.toNat + k))).bad = false) →
    (t.sub.getLsbD 3 = true → (s.reads s.w (.uni t.c.toNat)).bad = false) →
    (∀ l, m.getLsbD l = true → (List.range n).map (fun k =>
      s.waitCond s.w l (s.reads s.w (.uni (t.a.toNat + k))).val (s.reads s.w (.vec l (t.b.toNat + k))).val) =
        (cs l).map .ok) →
    ∃ u, exec (.wait t) s = .next u ∧ (∀ v, v ≠ s.w → u.warp v = s.warp v) ∧ u.mem = s.mem ∧
      (∀ l, m.getLsbD l = true →
        let hs := (cs l).map (s.condHolds s.w l)
        let now := t.sub.getLsbD 3 && (s.reads s.w (.uni t.c.toNat)).val == 0
        if combine (t.sub.getLsbD 2) hs || now then
          u.reads s.w (.vec l t.d.toNat) =
              ⟨BitVec.ofNat 32 (heldBits hs + if combine (t.sub.getLsbD 2) hs then 0 else 16), false⟩ ∧
            ((u.warp s.w).lane l).pc = afterWord t.h s.cur.pc
        else ParkedAt s u t.h l (.wait (cs l) (t.sub.getLsbD 2) (if t.sub.getLsbD 3 then
          some (s.refTick + (s.reads s.w (.uni t.c.toNat)).val.toNat) else none) t.d.toNat false)) ∧
      ∀ x, (∀ l, m.getLsbD l = true → x ≠ .vec l t.d.toNat) → u.reads s.w x = s.reads s.w x) ∧
  ∀ (w l dst : Nat) (conds : List WaitCond) (all bad : Bool) (deadline : Option Nat) (s : State),
    ((s.warp w).lane l).park = .wait conds all deadline dst bad → ((s.warp w).lane l).fits [(dst, 1)] = true →
    (s.block (s.warp w).block).shares = [] → NoNotice s w →
    (∃ u, exec (.waitRelease w l) s = .next u ∧
      if combine all (conds.map (s.condHolds w l)) then
        Woken s u w l ∧ u.reads w (.vec l dst) = ⟨BitVec.ofNat 32 (heldBits (conds.map (s.condHolds w l))), bad⟩ ∧
          (∀ x, x ≠ .vec l dst → u.reads w x = s.reads w x) ∧ u.mem = s.mem
      else u = s) ∧
    ∀ d, deadline = some d → ∃ u, exec (.waitTimeout w l) s = .next u ∧
      if s.refTick < d then u = s
      else Woken s u w l ∧ (∀ x, x ≠ .vec l dst → u.reads w x = s.reads w x) ∧ u.mem = s.mem ∧
        u.reads w (.vec l dst) = ⟨BitVec.ofNat 32 (heldBits (conds.map (s.condHolds w l)) +
          if combine all (conds.map (s.condHolds w l)) then 0 else 16), bad⟩

namespace Sys2Proof.Claims

/-- A barrier word may act (R154, R230, R231): no wave uses a wider scope, a cluster handle is current, an arrival finds
no generation of another grid open, and the acting threads are members of an open generation. -/
structure BarReady (s : State) (t : Tri) (m : BitVec 32) (joins : Bool) : Prop where
  cluster : t.sub.toNat % 8 = 2 → (s.reads s.w (.uni t.b.toNat)).bad = false ∧ s.committing s.w = false ∧
    s.handleOk s.w (s.reads s.w (.uni t.b.toNat)).val = true
  wave : 2 ≤ t.sub.toNat % 8 → s.wp.wave = false
  mine : 3 ≤ t.sub.toNat % 8 → joins = true → (s.bar (s.barOf t)).opened = false ∨ (s.bar (s.barOf t)).owner = s.wp.grid
  member : s.late t m = false

/-- The state of a barrier once some threads have arrived (R152, R154): when every member has arrived and no byte is
expected, the generation is over and the next begins. What the arrivals release, those that wait on the generation
accept (R155). -/
def arrived (s : State) (n : BarName) (ts : List Nat) : Bar :=
  let ws := ts.flatMap (fun t => s.pendingOf (t / 32) (t % 32) s.uid)
  let cores := ts.map (fun t => cixOf (s.warp (t / 32)).core)
  let b : Bar := { s.bar n with
    waits := (s.bar n).waits.filter (fun x => !s.settled x.2) ++ if s.settled ws then [] else [((s.bar n).gen, ws)]
    came := if n.scope = 2 then ((s.bar n).came ++ cores).eraseDups else (s.bar n).came }
  if (b.arrived ++ ts).length = s.barMem n ∧ b.pend = 0 ∧ (b.opened = true ∨ b.arrived ++ ts ≠ []) then
    { b with gen := b.gen + 1, arrived := [], opened := false, members := [], came := [] }
  else { b with arrived := b.arrived ++ ts }

end Sys2Proof.Claims

/-- The barrier words: `bar.arrive` writes the generation joined, `bar.wait` and `bar.sync` park while the generation lasts,
`bar.expect` adds to PEND; BARRIER_WAITER_RELEASE lets a lane go on once its generation is over (R152 to R154, R230,
R231). -/
def Obligations.BarrierWords : Prop :=
  (∀ (t : Tri) (s : State) (m : BitVec 32) (n : BarName) (o : State), s.Acts t.h {} m → s.Unheld t.h → m ≠ 0 →
    n = s.barOf t → o = s.barOpen n s.wp.grid →
    (Instr.wf (.barArrive t) = true → BarReady s t m true →
      (∀ l, m.getLsbD l = true → threadNo s.w l ∉ (s.bar n).arrived) →
      ∃ u, exec (.barArrive t) s = .next u ∧ Steps s u t.h [.uni t.d.toNat] ∧ u.mem = s.mem ∧
        u.reads s.w (.uni t.d.toNat) = ⟨(o.bar n).gen.setWidth 32, false⟩ ∧
        u.bar n = arrived o n (s.threads (s.visible m)) ∧ ∀ k, k ≠ n → u.bar k = s.bar k) ∧
    (Instr.wf (.barSync t) = true → BarReady s t m true → Wanted s m →
      (∀ l, m.getLsbD l = true → threadNo s.w l ∉ (s.bar n).arrived) →
      ∃ u, exec (.barSync t) s = .next u ∧ u.mem = s.mem ∧ u.bar n = arrived o n (s.threads (s.visible m)) ∧
        (∀ k, k ≠ n → u.bar k = s.bar k) ∧ (∀ x, u.reads s.w x = s.reads s.w x) ∧
        ∀ l, m.getLsbD l = true → if (u.bar n).gen = (o.bar n).gen then
            ParkedAt s u t.h l (.barrier n (o.bar n).gen true)
          else ((u.warp s.w).lane l).pc = afterWord t.h s.cur.pc ∧ ((u.warp s.w).lane l).ready = true) ∧
    (Instr.wf (.barWait t) = true → BarReady s t 0 false → Wanted s m →
      (s.reads s.w (.uni t.a.toNat)).val.toNat < 2 ^ 16 →
      ∃ u, exec (.barWait t) s = .next u ∧ u = { s with warps := u.warps } ∧ (∀ x, u.reads s.w x = s.reads s.w x) ∧
        ∀ l, m.getLsbD l = true →
          if (s.bar n).gen = (s.reads s.w (.uni t.a.toNat)).val.setWidth 16 then
            ParkedAt s u t.h l (.barrier n ((s.reads s.w (.uni t.a.toNat)).val.setWidth 16) false)
          else ((u.warp s.w).lane l).pc = afterWord t.h s.cur.pc ∧ ((u.warp s.w).lane l).ready = true) ∧
    (Instr.wf (.barExpect t) = true → BarReady s t 0 true →
      (o.bar n).pend + (s.reads s.w (.uni t.a.toNat)).val.toNat < 2 ^ 40 →
      ∃ u, exec (.barExpect t) s = .next u ∧ Steps s u t.h [] ∧ u.mem = s.mem ∧
        u.bar n = { o.bar n with pend := (o.bar n).pend + (s.reads s.w (.uni t.a.toNat)).val.toNat } ∧
        ∀ k, k ≠ n → u.bar k = s.bar k)) ∧
  ∀ (w l : Nat) (n : BarName) (tok : BitVec 16) (sync : Bool) (s : State),
    ((s.warp w).lane l).park = .barrier n tok sync → NoNotice s w →
    ∃ u, exec (.barrierWaiterRelease w l) s = .next u ∧
      if (s.bar n).gen = tok then u = s
      else Woken s u w l ∧ (∀ v x, u.reads v x = s.reads v x) ∧ u.mem = s.mem

namespace Sys2Proof.Claims

/-- A word on the registers of its whole warp may act (R156): every unended thread of the warp is in the gang and at frame
depth 1, and the guard holds in all of them. -/
structure WholeWarp (s : State) (h : Hdr) : Prop extends State.Issues s where
  quiet : s.wp.Quiet
  live : ∀ l, s.cur.lanes.getLsbD l = true → (s.wp.lane l).liveFits h.live = true
  guard : h.g = 15 ∧ h.gn = false
  all : s.wp.alive = s.cur.lanes
  depth : ∀ l, s.cur.lanes.getLsbD l = true → (s.wp.lane l).depth = 1
  unheld : s.Unheld h

/-- The launch frame of every lane of the gang has g granules. -/
def HasGranules (s : State) (w : Nat) (m : BitVec 32) (g : Nat) : Prop :=
  ∀ l, m.getLsbD l = true → ((s.warp w).lane l).launch.g = g

/-- The gang stands at the next word. -/
def Onward (s t : State) (h : Hdr) : Prop :=
  ∀ l, s.cur.lanes.getLsbD l = true →
    ((t.warp s.w).lane l).pc = afterWord h s.cur.pc ∧ ((t.warp s.w).lane l).since = s.cyc + 1

end Sys2Proof.Claims

/-- `rgive` and `rclaim` move granules between the launch frames of a warp and the exchange of its block: registers that
stay keep their contents; a claim that cannot be served parks, and RCLAIM_GRANT serves the oldest (R156, R157). -/
def Obligations.GranuleMoves : Prop :=
  (∀ (t : Tri) (s : State) (n g : Nat), WholeWarp s t.h → (s.block s.wp.block).shares = [] →
    n = t.sub.toNat % 64 → g = s.wp.launchG → HasGranules s s.w s.cur.lanes g → s.cur.lanes ≠ 0 →
    (tget s.blocks s.wp.block).isSome → Wanted s s.cur.lanes →
    (Instr.wf (.rgive t) = true → n < g →
      ∃ u, exec (.rgive t) s = .next u ∧ Onward s u t.h ∧ HasGranules u s.w s.cur.lanes (g - n) ∧
        (u.block s.wp.block).exchange = (s.block s.wp.block).exchange + n ∧ u.mem = s.mem ∧
        (∀ v, v ≠ s.w → u.warp v = s.warp v) ∧
        ∀ l r, s.cur.lanes.getLsbD l = true → r < 8 * (g - n) → u.reads s.w (.vec l r) = s.reads s.w (.vec l r)) ∧
    (Instr.wf (.rclaim t) = true → g + n ≤ 32 → s.claimsOf s.wp.block = [] →
      ∃ u, exec (.rclaim t) s = .next u ∧
        if n ≤ (s.block s.wp.block).exchange then
          Onward s u t.h ∧ HasGranules u s.w s.cur.lanes (g + n) ∧ u.mem = s.mem ∧
          (u.block s.wp.block).exchange = (s.block s.wp.block).exchange - n ∧
          ∀ l r, s.cur.lanes.getLsbD l = true → r < 8 * (g + n) → u.reads s.w (.vec l r) = s.reads s.w (.vec l r)
        else GangParks s u t.h s.cur.lanes (.rclaim n))) ∧
  ∀ (b id w n : Nat) (rest : List (Nat × Nat × Nat)) (s : State), s.claimsOf b = (id, w, n) :: rest →
    (s.warp w).block = b → (tget s.blocks b).isSome → (∀ g ∈ s.claimsOf b, NoNotice s g.2.1) →
    ∃ u, exec (.rclaimGrant b) s = .next u ∧
      if n ≤ (s.block b).exchange then
        GangWoken s u w id ∧ (u.block b).exchange = (s.block b).exchange - n ∧ u.mem = s.mem ∧
          ∀ l, ((s.warp w).lane l).frames ≠ [] → ((u.warp w).lane l).launch.g = (s.warp w).launchG + n
      else u = s

/-- `rshare` makes granules of the launch frame cells that both warps see, full or empty as SUB says, with their contents;
`runshare` ends that, and the exporter keeps the contents (R158, R160). -/
def Sys2Proof.Claims.shareClause : Prop :=
  (∀ (t : Tri) (s : State) (n i : Nat), Instr.wf (.rshare t) = true → WholeWarp s t.h → s.cur.lanes ≠ 0 →
    (s.block s.wp.block).shares = [] → (tget s.blocks s.wp.block).isSome → n = t.sub.toNat % 64 → s.wp.wave = false →
    s.warpIn s.wp.block t.b.toNat = some i → i ≠ s.w → (s.warp i).live = true →
    t.a.toNat / 8 + n ≤ s.wp.launchG → (s.warp i).launchG + n ≤ 32 → HasGranules s s.w s.cur.lanes s.wp.launchG →
    ∃ u, exec (.rshare t) s = .next u ∧ Onward s u t.h ∧ u.mem = s.mem ∧
      (∃ h, (u.block s.wp.block).shares = [(s.wp.wib, h)] ∧ h.exporter = s.w ∧ h.importer = i ∧
        h.first = t.a.toNat / 8 ∧ h.n = n ∧ h.gi = (s.warp i).launchG ∧
        ∀ l r, l < 32 → r < 8 * n → (h.full.contains (l * 256 + r) = t.sub.getLsbD 6)) ∧
      (∀ l r, s.cur.lanes.getLsbD l = true → u.reads s.w (.vec l r) = s.reads s.w (.vec l r)) ∧
      ∀ l, ((s.warp i).lane l).frames ≠ [] → ((u.warp i).lane l).launch.g = (s.warp i).launchG + n) ∧
  ∀ (t : Tri) (s : State) (k : Nat) (h : Share), Instr.wf (.runshare t) = true → WholeWarp s t.h → s.cur.lanes ≠ 0 →
    (tget s.blocks s.wp.block).isSome → Wanted s s.cur.lanes →
    (s.block s.wp.block).shares = [(k, h)] → h.exporter = s.w → h.importer ≠ s.w →
    (s.warp h.importer).wib = t.b.toNat → HasGranules s s.w s.cur.lanes s.wp.launchG → h.first + h.n ≤ s.wp.launchG →
    ∃ u, exec (.runshare t) s = .next u ∧
      if s.shareBusy k h then GangParks s u t.h s.cur.lanes (.runshare k)
      else Onward s u t.h ∧ u.mem = s.mem ∧ (u.block s.wp.block).shares = [] ∧
        (∀ l r, s.cur.lanes.getLsbD l = true → u.reads s.w (.vec l r) = s.reads s.w (.vec l r)) ∧
        ∀ l, ((s.warp h.importer).lane l).frames ≠ [] →
          ((u.warp h.importer).lane l).launch.g = ((s.warp h.importer).lane l).launch.g - h.n

/-- RUNSHARE_RESUME ends the share once no lane of either warp is parked on it, and the gang goes on; SHARED_CELL_WAKE lets
a lane issue its word again once its cell is full to a reader, empty to a writer, or the other warp has ended (R159,
R160). -/
def Sys2Proof.Claims.shareEventClause : Prop :=
  (∀ (w id k : Nat) (s : State), s.reqOf w id = some (.runshare k) → (tget s.blocks (s.warp w).block).isSome →
    NoNotice s w →
    ∃ u, exec (.runshareResume w id) s = .next u ∧
      match tget (s.block (s.warp w).block).shares k with
      | none => GangWoken s u w id
      | some h => if s.shareBusy k h then u = s
        else GangWoken s u w id ∧ tget (u.block (s.warp w).block).shares k = none) ∧
  ∀ (w l r key k : Nat) (read full ended : Bool) (s : State), ((s.warp w).lane l).park = .cell read r →
    s.cellAt w l r = some (k, key, full, ended) → NoNotice s w →
    ∃ u, exec (.sharedCellWake w l) s = .next u ∧
      if full = read ∨ ended = true then
        ((u.warp w).lane l).park = .no ∧ ((u.warp w).lane l).pc = ((s.warp w).lane l).pc ∧
          ((u.warp w).lane l).since = s.cycle (s.warp w).core + 1 ∧ u = { s with warps := u.warps }
      else u = s

/-- Shares of granules: `rshare`, `runshare`, and what goes on once a share or a cell lets it (R158 to R160). -/
def Obligations.GranuleShares : Prop := shareClause ∧ shareEventClause

/-- `scope.get` writes a handle of the warp's scope, `scope.freeze` and `scope.thaw` count, and `scope.query` leaves the
members of a handle's scope outstanding for four uniform registers (R183, R232 to R235). -/
def Obligations.ScopeWords : Prop :=
  ∀ (t : Tri) (s : State) (m : BitVec 32) (c : Nat), s.Acts t.h {} m → s.Unheld t.h → c = s.clusterOf s.w →
    (Instr.wf (.scopeGet t) = true → (t.sub.toNat % 8 = 2 → s.committing s.w = false) →
      ∃ u, exec (.scopeGet t) s = .next u ∧ u = { s with warps := u.warps } ∧ Steps s u t.h [.uni t.d.toNat] ∧
        u.reads s.w (.uni t.d.toNat) = ⟨BitVec.ofNat 32 ((if t.sub.toNat % 8 = 2 then
          (s.cluster c).gen.toNat * 2 ^ 16 + c % 1024 else 0) +
            dieOf s.wp.core * 2 ^ 14 + t.sub.toNat % 8 * 2 ^ 11), false⟩) ∧
    (∀ v : Word, s.reads s.w (.uni t.a.toNat) = ⟨v, false⟩ → s.committing s.w = false → s.handleOk s.w v = true →
      (Instr.wf (.scopeFreeze t) = true → s.wp.freeze < 255 → (s.wp.freeze = 0 ∨ s.wp.freezeCid = v.toNat % 1024) →
        ∃ u, exec (.scopeFreeze t) s = .next u ∧ u = { s with warps := u.warps } ∧ Steps s u t.h [] ∧
          (u.warp s.w).rest = { s.wp.rest with freeze := s.wp.freeze + 1, freezeCid := v.toNat % 1024 }) ∧
      (Instr.wf (.scopeThaw t) = true → 0 < s.wp.freeze → s.wp.freezeCid = v.toNat % 1024 →
        ∃ u, exec (.scopeThaw t) s = .next u ∧ u = { s with warps := u.warps } ∧ Steps s u t.h [] ∧
          (u.warp s.w).rest = { s.wp.rest with freeze := s.wp.freeze - 1 })) ∧
    (Instr.wf (.scopeQuery t) = true → ∀ v : Cell, s.reads s.w (.uni t.a.toNat) = v →
      ∃ u, exec (.scopeQuery t) s = .next u ∧ Steps s u t.h [] ∧
        u = { s with warps := u.warps, uid := s.uid + 1, fresh := s.fresh + 16384 } ∧
        (u.warp s.w).longs = [(s.uid, ⟨(List.range 4).map (fun i => ⟨.uni (t.d.toNat + i),
          some ⟨if i = 3 then (s.queryScope v.val).2
            else BitVec.ofNat 32 ((s.queryScope v.val).1 / 2 ^ (32 * i)), v.bad⟩, false⟩), 0, 0⟩)])

/-- `bgive` leaves a buffer of the block pending to a core of its cluster and writes its handle; `btake` takes a buffer that
is pending to its core, or parks, and BTAKE_RESUME takes it then (R177, R178, R236, R237). -/
def Obligations.BufferWords : Prop :=
  (∀ (t : Tri) (s : State) (m : BitVec 32) (x h : Word) (a dest : Nat), s.Acts t.h {} m → s.Unheld t.h →
    (Instr.wf (.bgive t) = true → s.reads s.w (.uni t.a.toNat) = ⟨x, false⟩ →
      (s.reads s.w (.uni t.b.toNat)).val.toNat = dest →
      dest ∈ ((s.cluster (s.clusterOf s.w)).sets.headD (0, [])).2 → s.giveOf x = some (h, a) →
      s.lockedByte s.wp.core (blkKey (dieOf s.wp.core * 96 + bufCore h) (s.bufFirst (dieOf s.wp.core) h * 4096))
        (bufUnits h * 4096) = none →
      ∃ u, exec (.bgive t) s = .next u ∧ Steps s u t.h [.uni t.d.toNat] ∧ u.mem = s.mem ∧
        u.reads s.w (.uni t.d.toNat) = ⟨h, false⟩ ∧
        u.pendingBuf (dieOf s.wp.core * 96 + dest) h = true) ∧
    (Instr.wf (.btake t) = true → Wanted s m → s.reads s.w (.uni t.a.toNat) = ⟨h, false⟩ → h.toNat % 2 ^ 13 = 0 →
      (s.homeOf (dieOf s.wp.core) h).isSome →
      ((tget (s.block s.wp.block).windows (t.sub.toNat % 8)).isSome →
        s.homeOf (dieOf s.wp.core) h = some s.wp.block) →
      s.takeAhead s.wp.core h s.uid = false →
      ∃ u, exec (.btake t) s = .next u ∧ u.mem = s.mem ∧
        if s.pendingBuf s.wp.core h then
          Steps s u t.h [] ∧
            u.buffers = (s.takeBuf s.wp.core s.wp.block (t.sub.toNat % 8) h s.w s.cur.lanes).buffers ∧
            u.blocks = (s.takeBuf s.wp.core s.wp.block (t.sub.toNat % 8) h s.w s.cur.lanes).blocks
        else GangParks s u t.h s.cur.lanes (.btake (t.sub.toNat % 8) h))) ∧
  ∀ (w id win : Nat) (h : Word) (s : State), s.reqOf w id = some (.btake win h) →
    s.takeAhead (s.warp w).core h id = false → NoNotice s w →
    (∀ g, tget (s.warp w).gangs id = some g → g.reads = []) →
    ∃ u, exec (.btakeResume w id) s = .next u ∧
      if s.pendingBuf (s.warp w).core h then
        GangWoken s u w id ∧ u.mem = s.mem ∧
          u.buffers = (s.takeBuf (s.warp w).core (s.warp w).block win h w ((s.warp w).gangLanes id)).buffers ∧
          u.blocks = (s.takeBuf (s.warp w).core (s.warp w).block win h w ((s.warp w).gangLanes id)).blocks
      else u = s

namespace Sys2Proof.Claims

/-- The handle that a lane of a future word uses (R315): that of its vector register, or the gang's uniform one. -/
def handleOf (s : State) (t : Tri) (l : Nat) : Word :=
  if t.sub.getLsbD 0 then (s.reads s.w (.uni t.a.toNat)).val else (s.reads s.w (.vec l t.a.toNat)).val

/-- A future word acts in the lanes of m (R315): its handles are clean and no lane of m is a shadow. -/
structure FutActs (s : State) (t : Tri) (writes : List (Nat × Nat)) (m : BitVec 32) : Prop where
  acts : s.Acts t.h ⟨futReads t, writes, false⟩ m
  unheld : s.Unheld t.h
  some : m ≠ 0
  clean : ∀ l, m.getLsbD l = true → (if t.sub.getLsbD 0 then s.reads s.w (.uni t.a.toNat)
    else s.reads s.w (.vec l t.a.toNat)).bad = false
  visible : ∀ l, m.getLsbD l = true → (s.wp.lane l).shadow = false

/-- A future is live under a handle (R243, R318). -/
def liveFor (s : State) (h : Word) : Bool :=
  s.current h && ((s.fut (futNo h)).st = .run || (s.fut (futNo h)).st = .fault || (s.fut (futNo h)).st = .done)

/-- A word has begun a long operation whose results are known (R60): LONG_RESULT_DELIVERY writes them. -/
def Outstanding (s t : State) (h : Hdr) (rs : List (Target × Cell)) : Prop :=
  Steps s t h [] ∧ ∃ id, (t.warp s.w).longs = [(id, ⟨rs.map (fun r => ⟨r.1, some r.2, false⟩), 0, 0⟩)]

end Sys2Proof.Claims

/-- `spawn` makes one task for each acting lane: when the bins can take them all, the tasks lie in bins, each lane's D holds
its future's handle, and the gang goes on (R137, R316). For one lane: the free record of lowest index is RUN with the
lane's one reference, and the task enters the bin that R137 names. -/
def Obligations.SpawnWord : Prop :=
  ∀ (i : Imm) (s : State) (m : BitVec 32) (entry : DWord) (todo : List (Nat × Nat × Word)),
    Instr.wf (.spawn i) = true → s.Acts i.h ⟨[(i.a.toNat, 1)], [(i.d.toNat, 1)], false⟩ m → s.Unheld i.h → m ≠ 0 →
    s.determ = false → s.prot = false → (∀ l, (s.wp.lane l).shadow = false) → CleanData s m i.a.toNat 1 →
    entry = s.cur.pc + i.imm.signExtend 64 * 8 → s.landing s.wp.vi s.wp.core entry = .ok →
    (∀ l, m.getLsbD l = true → (s.reads s.w (.vec l i.a.toNat)).val.toNat % 32 = 0 ∧
      ∃ k, s.locate s.w .dsp (s.reads s.w (.vec l i.a.toNat)).val 32 = .ok k) →
    s.wp.refs.length + (lanesOf m).length ≤ 4096 → s.spawnAhead s.wp.core s.uid = false →
    todo = (lanesOf m).map (fun l => (l, noFut, (s.reads s.w (.vec l i.a.toNat)).val)) →
    (∀ o done, s.spawnTry s.w s.uid entry todo [] = (o, [], done) →
      ∃ u, exec (.spawn i) s = .next u ∧ Onward s u i.h ∧ u.futs = o.futs ∧ u.cores = o.cores ∧ u.mem = s.mem ∧
        ∀ x ∈ done, u.reads s.w (.vec x.1 i.d.toNat) = ⟨x.2, false⟩) ∧
    ∀ l f b, lanesOf m = [l] → s.futFind (dieOf s.wp.core) = some f → s.binFor s.wp.core s.wp.grid entry = some b →
      ∃ u, exec (.spawn i) s = .next u ∧ Onward s u i.h ∧ u.mem = s.mem ∧
        (u.fut f).st = .run ∧ (u.fut f).count = 1 ∧ (u.fut f).kind = .task ∧ (u.fut f).gen = (s.fut f).gen ∧
        u.reads s.w (.vec l i.d.toNat) = ⟨futHandle f (s.fut f).gen, false⟩ ∧
        (u.warp s.w).refs = s.wp.refs ++ [(f, false, m)] ∧
        ((tget (u.core s.wp.core).bins b).map (fun x => x.tasks.getLast?)) =
          some (some ⟨f, (s.reads s.w (.vec l i.a.toNat)).val, s.releases s.w [l]⟩)

/-- `fref` counts one more reference for each acting lane whose future is live, `fdrop` gives one back, `fpoll` looks, and
`rpoint` only goes on (R246, R247, R318, R319, R321). -/
def Obligations.FutureWords : Prop :=
  ∀ (t : Tri) (s : State) (m : BitVec 32),
    (Instr.wf (.fref t) = true → FutActs s t [] m →
      s.wp.refs.length + ((lanesOf m).filter (fun l => liveFor s (handleOf s t l))).length ≤ 4096 →
      (∀ f, (s.fut f).count + 32 ≤ 1048575) →
      ∃ u, exec (.fref t) s = .next u ∧
        Outstanding s u t.h ((lanesOf m).flatMap (fun l => predResult l t.d.toNat (liveFor s (handleOf s t l)) false)) ∧
        (u.warp s.w).refs = s.wp.refs ++ ((lanesOf m).filter (fun l => liveFor s (handleOf s t l))).map (fun l =>
          (futNo (handleOf s t l), false, maskOf [l])) ∧
        ∀ f, u.fut f = { s.fut f with count := (s.fut f).count + ((lanesOf m).filter (fun l =>
          liveFor s (handleOf s t l) && futNo (handleOf s t l) == f)).length }) ∧
    (∀ own : Nat → Nat × Bool × BitVec 32, Instr.wf (.fdrop t) = true → FutActs s t [] m →
      (∀ l, m.getLsbD l = true → s.current (handleOf s t l) = true ∧
        refFind s.wp.refs (futNo (handleOf s t l)) l = some (own l)) →
      ∃ u, exec (.fdrop t) s = .next u ∧ Onward s u t.h ∧ (∀ x, u.reads s.w x = s.reads s.w x) ∧
        (u.warp s.w).refs = (((lanesOf m).map own).eraseDups).foldl List.erase s.wp.refs ∧
        ∀ l, lanesOf m = [l] → 2 ≤ (s.fut (own l).1).count →
          u.mem = s.mem ∧ u.fut (own l).1 = { s.fut (own l).1 with count := (s.fut (own l).1).count - 1 }) ∧
    (Instr.wf (.fpoll t) = true → FutActs s t [] m →
      ∃ u, exec (.fpoll t) s = .next u ∧ u.futs = s.futs ∧ u.mem = s.mem ∧
        Outstanding s u t.h ((lanesOf m).flatMap (fun l => predResult l t.d.toNat
          (s.current (handleOf s t l) && (s.fut (futNo (handleOf s t l))).st = .done) false))) ∧
    (Instr.wf (.rpoint t) = true → s.Acts t.h {} m → s.Unheld t.h → Wanted s m →
      ∃ u, exec (.rpoint t) s = .next u ∧ Moves s u t.h 0 (fun _ => 0))

/-- `fget` gives a lane whose future is DONE its value, with p[C] true, and one whose handle is stale 0, with p[C] false; a
lane whose future is not complete parks, and FGET_RESUME gives it the same when that has changed (R243, R248, R320). -/
def Obligations.FutureGets : Prop :=
  (∀ (t : Tri) (s : State) (m : BitVec 32), Instr.wf (.fget t) = true → FutActs s t [(t.d.toNat, 2)] m → Wanted s m →
    ∃ u, exec (.fget t) s = .next u ∧ u.futs = s.futs ∧ u.mem = s.mem ∧ (∀ x, u.reads s.w x = s.reads s.w x) ∧
      (∃ o, (u.warp s.w).longs = [(s.uid, o)] ∧ o.flags = 0 ∧ o.waits = 0 ∧
        o.dests = (lanesOf m).flatMap (fun l =>
          let known : Option (DWord × Bool) :=
            if !s.current (handleOf s t l) || (s.fut (futNo (handleOf s t l))).st = .free then some (0, false)
            else if (s.fut (futNo (handleOf s t l))).st = .done then some ((s.fut (futNo (handleOf s t l))).value, true)
            else none
          [⟨.vec l t.d.toNat, known.map (fun v => ⟨v.1.setWidth 32, false⟩), false⟩,
            ⟨.vec l (t.d.toNat + 1), known.map (fun v => ⟨v.1.extractLsb' 32 32, false⟩), false⟩,
            ⟨.pred l t.c.toNat, known.map (fun v => ⟨if v.2 then 1 else 0, false⟩), false⟩])) ∧
      ∀ l, m.getLsbD l = true →
        if s.current (handleOf s t l) && ((s.fut (futNo (handleOf s t l))).st = .run ||
            (s.fut (futNo (handleOf s t l))).st = .fault || (s.fut (futNo (handleOf s t l))).st = .doom) then
          ParkedAt s u t.h l (.fget (handleOf s t l) t.d.toNat t.c.toNat s.uid)
        else ((u.warp s.w).lane l).pc = afterWord t.h s.cur.pc ∧ ((u.warp s.w).lane l).ready = true) ∧
  ∀ (w l d p op : Nat) (h : Word) (s : State), ((s.warp w).lane l).park = .fget h d p op → NoNotice s w →
    ∃ u, exec (.fgetResume w l) s = .next u ∧ u.futs = s.futs ∧ u.mem = s.mem ∧
      match s.futPeek h with
      | none => u = s
      | some v => Woken s u w l ∧ Receives s u w op (vecResult l d 2 v.1 false ++ predResult l p v.2 false)

/-- A task that has ended completes its future once its stores have performed; a doomed task leaves its bin, or ends at
its wait point; a bin whose timer has run out becomes due; a parked `spawn` goes on when bins and records let it
(R137, R138, R244, R248, R257, R258, R322). -/
def Obligations.TaskEvents : Prop :=
  (∀ (w f l : Nat) (v : DWord) (s : State), (s.warp w).ending.find? (fun x => x.1 == f) = some (f, l, v) →
    ∃ u, exec (.taskFutureComplete w f) s = .next u ∧
      if s.writing w l then u = s
      else (u.warp w).ending = (s.warp w).ending.filter (fun x => x.1 != f) ∧ u.mem = s.mem ∧
        u.fut f = match (s.fut f).st with
          | .run | .fault => { s.fut f with st := .done, value := v }
          | .doom => { s.fut f with st := .free, gen := nextGen (s.fut f).gen, count := 0, value := 0 }
          | _ => s.fut f) ∧
  (∀ (f : Nat) (s : State), s.noticed f = true → (s.fut f).kind = .task → s.taskLane f = none →
    (∀ x ∈ s.warps, ∀ e ∈ x.2.ending, e.1 ≠ f) →
    ∃ u, exec (.taskReclamation f) s = .next u ∧ (u.fut f).st = .free ∧ (u.fut f).gen = nextGen (s.fut f).gen ∧
      ∀ c b x, s.taskBin f = some (c, b) → tget (s.core c).bins b = some x →
        ((tget (u.core c).bins b).map (·.tasks)).getD [] = x.tasks.filter (fun t => t.fut != f)) ∧
  (∀ (f w l : Nat) (s : State), s.noticed f = true → (s.fut f).kind = .task → s.taskLane f = some (w, l) → l < 32 →
    ((s.warp w).lane l).task = some f → ((s.warp w).lane l).park ≠ .no →
    ∃ u, exec (.taskReclamation f) s = .next u ∧ ((u.warp w).lane l).alive = false) ∧
  (∀ (core bin : Nat) (b : Bin) (s : State), tget (s.core core).bins bin = some b →
    ∃ u, exec (.binTimerExpiry core bin) s = .next u ∧
      if b.due.isSome = false ∧ b.start + b.timer ≤ s.refTick then
        tget (u.core core).bins bin = some { b with due := some s.uid }
      else u = s) ∧
  ∀ (w id : Nat) (entry : DWord) (todo : List (Nat × Nat × Word)) (dst : Nat) (done out : List (Nat × Word))
    (s o : State), s.reqOf w id = some (.spawn entry todo dst done) → s.spawnTry w id entry todo done = (o, [], out) →
    NoNotice s w →
    ∀ i, (i = .binSpaceResume w id ∨ i = .futureRecordWaitResume w id) →
      ∃ u, exec i s = .next u ∧ tget (u.warp w).gangs id = none ∧ u.futs = o.futs ∧ u.cores = o.cores ∧
        ∀ l, ((s.warp w).gangLanes id).getLsbD l = true → ((u.warp w).lane l).park = .no ∧
          ((u.warp w).lane l).pc = ((s.warp w).lane l).next

namespace Sys2Proof.Claims

/-- The copy words by form (R292). -/
def copyForm : Instr → Option (Tri × Nat)
  | .xferIn t => some (t, 0)
  | .xferOut t => some (t, 1)
  | .xfer2d t => some (t, 2)
  | .xferGat t => some (t, 3)
  | .xferSct t => some (t, 4)
  | .xferDsp t => some (t, 5)
  | .xferPeer t => some (t, 6)
  | _ => none

/-- Gathers and scatters read the lanes' addresses (R290). -/
def lists (form : Nat) : Bool := form == 3 || form == 4

/-- The descriptor of a copy word: eight uniform registers, and for a gather or scatter the acting lanes' pairs (R290,
R291). -/
def descOf (s : State) (t : Tri) (form : Nat) (m : BitVec 32) : Desc :=
  ⟨form, (List.range 8).map (fun k => (s.reads s.w (.uni (t.a.toNat + k))).val),
    if lists form then (lanesOf m).map (fun l => (vecSrc s l 2 t.b.toNat).1.toNat) else []⟩

/-- The copy that a descriptor asks for (R250, R291). -/
def copyOf (s : State) (d : Desc) (m : BitVec 32) : Copy where
  core := s.wp.core
  queue := if d.ctl 27 1 = 1 then d.ctl 28 4 else schedOf s.wp.slot
  seq := 0
  vi := s.wp.vi
  grid := s.wp.grid
  block := s.wp.block
  warp := s.w
  lanes := m
  src := (s.sides d).2.1
  dst := (s.sides d).2.2
  total := d.total
  fill := s.fillOf d
  bar := s.descBar d
  pc := s.cur.pc

end Sys2Proof.Claims

/-- A copy word whose descriptor passes the checks of R289 and R293 and overlaps no other queue's copy takes an entry of its
queue and a future: the entry holds the copy, D the future's handle, the gang a reference, and the lines that the copy
will write are absent (R176, R246, R250 to R252, R289 to R294). -/
def Obligations.CopyWords : Prop :=
  ∀ (i : Instr) (t : Tri) (form f : Nat) (s : State) (m : BitVec 32) (d : Desc) (c : Copy),
    copyForm i = some (t, form) → i.wf = true →
    s.Acts t.h ⟨if lists form then [(t.b.toNat, 2)] else [], [], false⟩ m → s.Unheld t.h → s.prot = false →
    (∀ l, m.getLsbD l = true → (s.wp.lane l).shadow = false) →
    d = descOf s t form m → c = copyOf s d m →
    (∀ k, k < 8 → (s.reads s.w (.uni (t.a.toNat + k))).bad = false) →
    (lists form = true → CleanData s m t.b.toNat 2) →
    s.badDesc t d = false → s.badFill d = false → (s.sides d).1 = [] →
    (d.ctl 23 1 = 1 → d.ctl 24 3 = 2 → (s.reads s.w (.uni t.c.toNat)).bad = false ∧ s.committing s.w = false ∧
      s.handleOk s.w (s.reads s.w (.uni t.c.toNat)).val = true) →
    s.overlap c = none → s.wp.refs.length < 4096 →
    ∃ u, exec i s = .next u ∧ u.mem = s.mem ∧
      if s.queueUsed c.core c.queue < 32 ∧ s.futFind (dieOf c.core) = some f then
        Steps s u t.h [.uni t.d.toNat] ∧
        tget u.copies s.uid = some { c with seq := s.uid, fut := f, waits := s.releases s.w (lanesOf m) } ∧
        (u.fut f).st = .run ∧ (u.fut f).count = 1 ∧
        u.reads s.w (.uni t.d.toNat) = ⟨futHandle f (s.fut f).gen, false⟩ ∧
        (u.warp s.w).refs = s.wp.refs ++ [(f, true, m)] ∧
        ∀ k n, c.dst = .chip k → c.fill = none → ∀ j, j < c.total → n = (k + j) / 64 → u.lineAbsent n = true
      else (32 ≤ s.queueUsed c.core c.queue ∨ s.futFind (dieOf c.core) = none) →
        GangParks s u t.h m (.copyRoom c t.d.toNat)

/-- The channel words: a binding names a record; `ch.claim` and `ch.await` take the next granules, or park behind the
gangs that wait; `ch.commit` and `ch.retire` end a claim or a take of the gang (R262, R263, R297). -/
def Obligations.ChannelWords : Prop :=
  ∀ (t : Tri) (s : State) (m : BitVec 32) (c : Nat) (v : Word), s.Acts t.h {} m → s.Unheld t.h →
    s.reads s.w (.uni t.a.toNat) = ⟨v, false⟩ →
    (∀ i, (i = .chClaimBind t ∨ i = .chAwaitBind t) → i.wf = true → c = dieOf s.wp.core * 2 ^ 27 + v.toNat →
      tget s.wp.c t.c.toNat = none → v.toNat % 64 = 0 → s.offLimits (dieOf s.wp.core) v.toNat 64 = false →
      s.chanOk c = true → s.boundCount (dieOf s.wp.core) < 4096 →
      ∃ u, exec i s = .next u ∧ Steps s u t.h [] ∧ u.mem = s.mem ∧ tget (u.warp s.w).c t.c.toNat = some c ∧
        u.chan c = { s.chan c with bound := (s.chan c).bound + 1 }) ∧
    (tget s.wp.c t.c.toNat = some c →
      (Instr.wf (.chClaim t) = true → Wanted s m → v ≠ 0 → v.toNat ≤ s.chanSize c →
        s.firstParked (s.chan c).claimers = none → chanDie c < 4 →
        ∃ u, exec (.chClaim t) s = .next u ∧
          if s.canClaim c v.toNat then
            Outstanding s u t.h [(.uni t.d.toNat, ⟨s.chanClaim c, false⟩)] ∧ u.chanClaim c = s.chanClaim c + v ∧
              (u.chan c).claims = (s.chan c).claims ++ [⟨s.chanClaim c, v.toNat, s.threads (lanesOf m)⟩]
          else GangParks s u t.h s.cur.lanes (.chClaim c v.toNat t.d.toNat s.uid)) ∧
      (Instr.wf (.chAwait t) = true → Wanted s m → v ≠ 0 → v.toNat ≤ s.chanSize c →
        s.firstParked (s.chan c).takers = none → chanDie c < 4 →
        ∃ u, exec (.chAwait t) s = .next u ∧
          if s.canAwait c v.toNat then
            Outstanding s u t.h [(.uni t.d.toNat, ⟨s.chanTaken c, false⟩), (.uni (t.d.toNat + 1),
              ⟨BitVec.ofNat 32 (s.voidBits c (s.chanTaken c) (min v.toNat 32)), false⟩)] ∧
              u.chanTaken c = s.chanTaken c + v ∧
              (u.chan c).takes = (s.chan c).takes ++ [⟨s.chanTaken c, v.toNat, s.threads (lanesOf m)⟩]
          else GangParks s u t.h s.cur.lanes (.chAwait c v.toNat t.d.toNat s.uid)) ∧
      (∀ x, Instr.wf (.chCommit t) = true → ownedClaim (s.chan c).claims v (s.threads (lanesOf m)) = some x →
        ∃ u, exec (.chCommit t) s = .next u ∧ Steps s u t.h [] ∧
          (u.chan c).claims = (s.chan c).claims.filter (· ≠ x) ∧ u.mem = (s.chanCommitOp c x false).mem) ∧
      ∀ x, Instr.wf (.chRetire t) = true → ownedClaim (s.chan c).takes v (s.threads (lanesOf m)) = some x →
        ∃ u, exec (.chRetire t) s = .next u ∧ Steps s u t.h [] ∧
          (u.chan c).takes = (s.chan c).takes.filter (· ≠ x) ∧ u.mem = (s.chanRetireOp c x).mem)

/-- A gang parked at a copy, a claim or an await is served when it can be, in order of arrival, and goes on (R244, R250,
R263). -/
def Obligations.ParkedEngineWords : Prop :=
  (∀ (w id f dst : Nat) (c : Copy) (s : State), s.reqOf w id = some (.copyRoom c dst) → c.warp = w → NoNotice s w →
    (∀ i, (i = .copyQueueRoomResume w id ∨ i = .futureRecordWaitResume w id) →
      ∃ u, exec i s = .next u ∧ u.mem = s.mem ∧
        if s.copyReady c then GangWoken s u w id ∧
          (c.atoms = [] → s.futFind (dieOf c.core) = some f → (tget u.copies s.uid).map (fun x => (x.seq, x.fut)) =
            some (s.uid, f) ∧ (u.fut f).st = .run)
        else u = s)) ∧
  ∀ (w id c k dst op : Nat) (s : State), chanDie c < 4 →
    (s.reqOf w id = some (.chClaim c k dst op) → s.firstParked (s.chan c).claimers = some (w, id) →
      (∀ g ∈ (s.chan c).claimers, NoNotice s g.1) →
      ∃ u, exec (.channelClaimResume c) s = .next u ∧
        if s.canClaim c k then GangWoken s u w id ∧ u.chanClaim c = s.chanClaim c + BitVec.ofNat 32 k ∧
          Receives s u w op [(.uni dst, ⟨s.chanClaim c, false⟩)]
        else u = s) ∧
    (s.reqOf w id = some (.chAwait c k dst op) → s.firstParked (s.chan c).takers = some (w, id) →
      (∀ g ∈ (s.chan c).takers, NoNotice s g.1) →
      ∃ u, exec (.channelAwaitResume c) s = .next u ∧
        if s.canAwait c k then GangWoken s u w id ∧ u.chanTaken c = s.chanTaken c + BitVec.ofNat 32 k ∧
          Receives s u w op [(.uni dst, ⟨s.chanTaken c, false⟩), (.uni (dst + 1),
            ⟨BitVec.ofNat 32 (s.voidBits c (s.chanTaken c) (min k 32)), false⟩)]
        else u = s)

namespace Sys2Proof.Claims

/-- A matrix word may act (R298): its gang holds every lane of its warp. -/
structure MatrixActs (s : State) (h : Hdr) (u : Uses) : Prop where
  acts : s.Acts h u (BitVec.allOnes 32)
  all : s.cur.lanes = BitVec.allOnes 32
  unheld : s.Unheld h

/-- There is room in the matrix queue of the issuing warp's scheduler (R269). -/
def MatrixRoom (s : State) : Prop := s.matrixUsed s.wp.core (schedOf s.wp.slot) < 8

/-- A matrix word has taken the next entry of its scheduler's queue (R269, R299), with what its lanes have issued before it
that has not performed (R197), and the gang goes on. -/
def Enters (s t : State) (h : Hdr) (ts : List Target) (op : MOp) : Prop :=
  Onward s t h ∧ (∀ x, x ∉ ts → t.reads s.w x = s.reads s.w x) ∧ t.mem = s.mem ∧
    tget t.mwords s.uid = some ⟨s.w, s.wp.block, s.wp.core, schedOf s.wp.slot, s.cur.lanes, op,
      { s with uid := s.uid + 1 }.releases s.w (lanesOf s.cur.lanes)⟩

/-- The two values that a lane gives `accwr` (R312, R313). -/
def accPair (s : State) (t : Tri) (l : Nat) : Nat × Nat :=
  if t.ty = 7 then
    ((s.reads s.w (.vec l t.a.toNat)).val.toNat % 2 ^ 16, (s.reads s.w (.vec l t.a.toNat)).val.toNat / 2 ^ 16)
  else if wideTy t.ty then ((vecSrc s l 2 t.a.toNat).1.toNat, (vecSrc s l 2 (t.a.toNat + 2)).1.toNat)
  else ((s.reads s.w (.vec l t.a.toNat)).val.toNat, (s.reads s.w (.vec l (t.a.toNat + 1))).val.toNat)

/-- The columns that `accwr` writes, each with its cell and the flags of its conversion (R312, R313). -/
def accOuts (s : State) (t : Tri) (tag : Nat) : List (Nat × Nat × Flags) :=
  let cell (x : Nat) : Nat × Flags := (accWrite tag t.ty t.rm (BitVec.ofNat 64 x)).getD (0, 0)
  (lanesOf (BitVec.allOnes 32)).flatMap (fun l => [(l, cell (accPair s t l).1), (l + 32, cell (accPair s t l).2)])

end Sys2Proof.Claims

/-- `obres` reserves the lowest consecutive units of the operand buffer that are free, and every byte of them reads as zero;
where none fit, the gang parks (R301). -/
def Obligations.MatrixReserve : Prop :=
  ∀ (t : Tri) (s : State) (b o : Nat), Instr.wf (.obres t) = true → MatrixActs s t.h {} → Wanted s (BitVec.allOnes 32) →
    b ≠ 0 → s.reads s.w (.uni t.a.toNat) = ⟨BitVec.ofNat 32 b, false⟩ →
    s.reads s.w (.uni t.b.toNat) = ⟨BitVec.ofNat 32 o, false⟩ → tget s.wp.t t.d.toNat = none →
    b % 256 = 0 → b ≤ 524288 →
    (if t.sub.getLsbD 4 then o % 16 = 0 ∧ o < b ∧ o * 8 / elemBits (t.sub.toNat % 16) % 64 = 0 ∧
        o * 8 / elemBits (t.sub.toNat % 16) / 32 ≤ b - o
      else o = 0 ∧ b * 8 / elemBits (t.sub.toNat % 16) % 64 = 0) →
    ∃ u, exec (.obres t) s = .next u ∧
      match lowestFit (s.obHeld s.wp.core) 2048 (b / 256) with
      | some base => Steps s u t.h [] ∧ tget (u.warp s.w).t t.d.toNat = some s.uid ∧
          (tget u.resvs s.uid).map (fun r => (r.block, r.fmt, r.mx, r.ord, r.soff, r.len, r.base, r.ended)) =
            some (s.wp.block, t.sub.toNat % 16, t.sub.getLsbD 4, t.sub.getLsbD 7, o / 16, b / 256 - 1, base, false) ∧
          ∀ k, u.byte k = if obKey s.wp.core (base * 256) ≤ k ∧ k < obKey s.wp.core (base * 256 + b) then 0
            else s.byte k
      | none => ∃ r, GangParks s u t.h s.cur.lanes (.obres t.d.toNat r)

/-- The matrix words take an entry of their queue; `obrel` unbinds its handle, `accz` and `accld` bind theirs, and a word
issued by less than its whole warp takes the convergence trap, cause 0x16 (R269, R298, R299, R302 to R304, R310 to
R314). -/
def Obligations.MatrixWords : Prop :=
  ∀ (t : Tri) (s : State), s.prot = false → MatrixRoom s →
    (∀ r x, Instr.wf (.obrel t) = true → MatrixActs s t.h {} → s.resvOf t.a.toNat = some (r, x) →
      ∃ u, exec (.obrel t) s = .next u ∧ Enters s u t.h [] (.obrel r) ∧ tget (u.warp s.w).t t.a.toNat = none ∧
        tget u.resvs r = some { x with ended := true }) ∧
    (∀ r x, Instr.wf (.bload t) = true → MatrixActs s t.h {} → s.resvOf t.a.toNat = some (r, x) →
      (x.mx && x.ord) = false → t.b.toNat % groupSlots x.fmt = 0 → t.b.toNat + x.slotCount ≤ 64 →
      ∃ u, exec (.bload t) s = .next u ∧ Enters s u t.h [] (.bload r t.b.toNat x.slotCount) ∧
        ∀ i, i < x.slotCount → u.slotView s.wp.block s.wp.core (t.b.toNat + i) =
          some (x.slotRec (i / groupSlots x.fmt))) ∧
    (Instr.wf (.bfree t) = true → MatrixActs s t.h {} → t.b.toNat + t.c.toNat ≤ 64 →
      (∀ i, i < t.c.toNat → (s.slotView s.wp.block s.wp.core (t.b.toNat + i)).isSome) →
      ∃ u, exec (.bfree t) s = .next u ∧ Enters s u t.h [] (.bfree t.b.toNat t.c.toNat) ∧
        ∀ i, i < t.c.toNat → u.slotView s.wp.block s.wp.core (t.b.toNat + i) = none) ∧
    (Instr.wf (.accz t) = true → MatrixActs s t.h {} → s.tileOk t.b.toNat (t.sub.toNat % 4) = true →
      ∃ u, exec (.accz t) s = .next u ∧ Enters s u t.h [] (.accz t.b.toNat (t.sub.toNat % 4)) ∧
        tget (u.warp s.w).a t.d.toNat = some ⟨t.b.toNat, t.sub.toNat % 4⟩) ∧
    (∀ tile tag row, Instr.wf (.accrd t) = true → MatrixActs s t.h ⟨[], [(t.d.toNat, accRegs t.ty)], false⟩ →
      s.wp.accTile t.a.toNat (fun _ => true) = some (tile, tag) → row < 64 →
      s.reads s.w (.uni t.b.toNat) = ⟨BitVec.ofNat 32 row, false⟩ → (accRead tag t.ty 0 false 0).isSome →
      ∃ u, exec (.accrd t) s = .next u ∧
        Enters s u t.h [] (.accrd tile tag row t.ty t.rm t.sf t.d.toNat (s.uid + 1)) ∧
        (u.warp s.w).longs = [(s.uid + 1, ⟨(List.range 32).flatMap (fun l => (List.range (accRegs t.ty)).map (fun i =>
          ⟨.vec l (t.d.toNat + i), none, false⟩)), 0, 0⟩)]) ∧
    (∀ tile tag row, Instr.wf (.accwr t) = true → MatrixActs s t.h ⟨[(t.a.toNat, accRegs t.ty)], [], false⟩ →
      CleanData s (BitVec.allOnes 32) t.a.toNat (accRegs t.ty) → (∀ l, (s.wp.lane l).shadow = false) →
      s.wp.accTile t.d.toNat (fun _ => true) = some (tile, tag) → row < 64 →
      s.reads s.w (.uni t.b.toNat) = ⟨BitVec.ofNat 32 row, false⟩ → (accWrite tag t.ty 0 0).isSome →
      ∃ u, exec (.accwr t) s = .next u ∧
        Enters s u t.h [] (.accwr tile tag row ((accOuts s t tag).map (fun o => (o.1, BitVec.ofNat 64 o.2.1)))
          (flagUnion ((accOuts s t tag).map (·.2.2)))) ∧
        (u.warp s.w).fpstat = if flagUnion ((accOuts s t tag).map (·.2.2)) = 0 then s.wp.fpstat
          else fpstatOr s.wp.fpstat (flagUnion ((accOuts s t tag).map (·.2.2)))) ∧
    (∀ tile tag key ea, Instr.wf (.accst t) = true → MatrixActs s t.h {} →
      s.wp.accTile t.a.toNat (fun _ => true) = some (tile, tag) → s.reads s.w (.uni t.b.toNat) = ⟨ea, false⟩ →
      s.firstBad s.w (spaceOf (t.sub.toNat % 4)) ea.toNat (accBytes tag) = none →
      s.checkAccess s.w (spaceOf (t.sub.toNat % 4)) ea (accBytes tag) 64 true = .ok key →
      ∃ u, exec (.accst t) s = .next u ∧ Enters s u t.h [] (.accst tile tag key (s.uid + 1)) ∧
        (u.warp s.w).longs = [(s.uid + 1, ⟨[], 0, 1⟩)]) ∧
    (∀ key ea, Instr.wf (.accld t) = true → MatrixActs s t.h {} →
      s.tileOk t.c.toNat (t.sub.toNat / 4 % 4) = true → s.reads s.w (.uni t.b.toNat) = ⟨ea, false⟩ →
      s.firstBad s.w (spaceOf (t.sub.toNat % 4)) ea.toNat (accBytes (t.sub.toNat / 4 % 4)) = none →
      s.checkAccess s.w (spaceOf (t.sub.toNat % 4)) ea (accBytes (t.sub.toNat / 4 % 4)) 64 false = .ok key →
      ∃ u, exec (.accld t) s = .next u ∧
        Enters s u t.h [] (.accld t.c.toNat (t.sub.toNat / 4 % 4) key (s.uid + 1)) ∧
        tget (u.warp s.w).a t.d.toNat = some ⟨t.c.toNat, t.sub.toNat / 4 % 4⟩ ∧
        (u.warp s.w).longs = [(s.uid + 1, ⟨[], 0, 1⟩)]) ∧
    (Instr.wf (.accz t) = true → s.Acts t.h {} s.cur.lanes → s.cur.lanes ≠ BitVec.allOnes 32 → s.wp.cur = false →
      ∃ u, exec (.accz t) s = .next u ∧ (u.warp s.w).taddr = s.cur.pc ∧
        Entered s u s.w 0x16 s.cur.lanes (tpcAt s s.cur.lanes) allLive)

/-- `mma` and `mma.m` whose fields name a reservation, a bound tile and loaded slots take a future and an entry of their
queue; `mma.m` keeps where it streams A from (R246, R269, R299, R305, R306, R308). -/
def Obligations.MatrixMultiplies : Prop :=
  ∀ (t : Tri) (s : State) (f k id tile : Nat) (r : Resv) (gs : List BSlot), MatrixActs s t.h {} → MatrixRoom s →
    s.futFind (dieOf s.wp.core) = some f → s.wp.refs.length < 4096 → s.mmaParts t k = some (id, r, tile, gs) →
    (Instr.wf (.mma t) = true →
      k = (t.c.toNat + t.sub.toNat / 16 % 2 * 256 + 1) * chunkK (t.sub.toNat % 16) → k ≤ r.kOf →
      ∃ u, exec (.mma t) s = .next u ∧
        Enters s u t.h [.uni t.d.toNat] (.mma { fut := f, tile := tile, resv := id, slot := t.b.toNat, k := k
                                                fmt := t.sub.toNat % 16, groups := gs }) ∧
        u.reads s.w (.uni t.d.toNat) = ⟨futHandle f (s.fut f).gen, false⟩ ∧ (u.fut f).st = .run ∧
        (u.fut f).count = 1 ∧ (u.warp s.w).refs = s.wp.refs ++ [(f, true, s.cur.lanes)]) ∧
    ∀ w : Nat → Word, Instr.wf (.mmaM t) = true →
      (∀ i, i < 8 → s.reads s.w (.uni (t.c.toNat + i)) = ⟨w i, false⟩) →
      k = ((w 6).toNat % 512 + 1) * chunkK (t.sub.toNat % 16) → r.ord = false → r.slay ≠ 1 → (w 6).toNat < 512 →
      w 7 = 0 → 64 * passK r.fmt * elemBits r.fmt / 8 ≤ r.region → r.fmt = t.sub.toNat % 16 →
      (if r.mx then 2 * passK r.fmt ≤ (r.len + 1) * 256 - r.soff * 16 ∧ (w 5).toNat % 8 = 0 ∧ (w 3).toNat % 8 = 0 ∧
          (w 3).toNat + (w 4).toNat * 2 ^ 32 + 63 * (w 5).toNat + k / 32 ≤ 2 ^ 57
        else w 3 = 0 ∧ w 4 = 0 ∧ w 5 = 0) →
      (w 0).toNat % 8 = 0 → (w 2).toNat % 8 = 0 → k * elemBits (t.sub.toNat % 16) / 8 % 8 = 0 →
      (w 0).toNat + (w 1).toNat * 2 ^ 32 + 63 * (w 2).toNat + k * elemBits (t.sub.toNat % 16) / 8 ≤ 2 ^ 57 →
      ∃ u, exec (.mmaM t) s = .next u ∧
        Enters s u t.h [.uni t.d.toNat] (.mma { fut := f, tile := tile, resv := id, slot := t.b.toNat, k := k
                                                fmt := t.sub.toNat % 16, groups := gs
                                                stream := some ⟨(w 0).toNat + (w 1).toNat * 2 ^ 32, (w 2).toNat,
                                                  (w 3).toNat + (w 4).toNat * 2 ^ 32, (w 5).toNat, none⟩ }) ∧
        u.reads s.w (.uni t.d.toNat) = ⟨futHandle f (s.fut f).gen, false⟩ ∧ (u.fut f).st = .run

namespace Sys2Proof.Claims

/-- What a system register reads as in a lane (R123, R358 to R363): under PROT, LANE is the number of the pair (R351). -/
def sysValue (s : State) (l : Nat) (n : BitVec 8) : DWord :=
  if n = 0x00 then BitVec.ofNat 64 (numberOf s l)
  else if n = 0x01 then BitVec.ofNat 64 ((if s.wp.wave then 2 ^ 31 else s.wp.wib) + s.wp.slot * 2 ^ 8
    + schedOf s.wp.slot * 2 ^ 6)
  else if n = 0x02 then s.wp.bix.setWidth 64
  else if n = 0x03 then BitVec.ofNat 64 (dieOf s.wp.core * 2 ^ 8 + cixOf s.wp.core)
  else if n = 0x04 then s.wp.role.setWidth 64
  else if n = 0x05 then s.wp.fpstat.setWidth 64
  else if n = 0x06 then BitVec.ofNat 64 s.refTick
  else if n = 0x07 then ((s.die (dieOf s.wp.core)).energy.extractLsb' 0 32).setWidth 64
  else if n = 0x08 then s.wp.energyHi.setWidth 64
  else if n = 0x10 then BitVec.ofNat 64 ((if s.wp.prev then 2 else 0) + if s.wp.cur then 1 else 0)
  else if n = 0x11 then (s.wp.lane l).tpc
  else if n = 0x12 then s.wp.tcause.setWidth 64
  else if n = 0x13 then s.wp.taddr
  else if n = 0x14 then s.wp.tmask.setWidth 64
  else if n = 0x15 then s.wp.tlive
  else if n = 0x16 then (s.block s.wp.block).saveptr.setWidth 64
  else if n = 0x17 then (s.core s.wp.core).preq.setWidth 64
  else (tgetD s.wp.kscr (n.toNat - 0x18) 0).setWidth 64

/-- The results of `sysrd` (R359, R364): in each acting lane, or that of the lowest in a uniform register. -/
def sysOut (s : State) (t : Tri) (ls : List Nat) : List (Target × Cell) :=
  let c := if sysWide t.b then 2 else 1
  if t.sub.getLsbD 0 then uniResult t.d.toNat c (sysValue s (ls.headD 0) t.b) false
  else ls.flatMap (fun l => vecResult l t.d.toNat c (sysValue s l t.b) false)

/-- The source of `syswr` in a lane (R359, R364). -/
def sysSrc (s : State) (t : Tri) (l : Nat) : DWord × Bool :=
  readWide (if sysWide t.b then 2 else 1) (fun i =>
    s.reads s.w (if t.sub.getLsbD 0 then .uni (t.a.toNat + i) else .vec l (t.a.toNat + i)))

/-- A warp's registers once `syswr` has written v, but for its lanes and KSCR (R30, R358, R360). -/
def sysLeft (W : Warp) (n : BitVec 8) (v : DWord) : Warp :=
  if n = 0x10 then { W with prev := v.getLsbD 1 }
  else if n = 0x13 then { W with taddr := v }
  else if n = 0x14 then { W with tmask := v.setWidth 32 }
  else W

/-- A lane of `rng` (R368). -/
def rngFn (t : Tri) (n : Nat) (f : BitVec 64 → BitVec 64 → BitVec 64) : LaneFn := fun s l =>
  let a := src s l 0 .v2 (t.sub.getLsbD 6) t.a
  let b := src s l 0 .v2 (t.sub.getLsbD 7) t.b
  (vecResult l t.d.toNat n (f a.1 b.1) (a.2 || b.2), 0)

/-- The vector registers of `rng` (R368). -/
def rngUses (t : Tri) (n : Nat) : Uses :=
  ⟨(if t.sub.getLsbD 6 then [] else [(t.a.toNat, 2)]) ++ (if t.sub.getLsbD 7 then [] else [(t.b.toNat, 2)]),
    [(t.d.toNat, n)], false⟩

end Sys2Proof.Claims

/-- `sysrd` reads FPSTAT at once and leaves every other register's value outstanding; reading ENERGY_LO latches the high half
(R123, R358, R359, R362, R364). -/
def Sys2Proof.Claims.sysrdClause : Prop :=
  ∀ (t : Tri) (s : State) (m : BitVec 32), Instr.wf (.sysrd t) = true →
    s.Acts t.h ⟨[], sysUses t t.d, false⟩ m → s.Unheld t.h → m ≠ 0 → (t.b.toNat ≤ 8 ∨ s.wp.cur = true) →
    ∃ u, exec (.sysrd t) s = .next u ∧
      if t.b = 5 then
        s.Completed u t.h ((sysOut s t (lanesOf m)).map (·.1)) 0 ∧
          ∀ r ∈ sysOut s t (lanesOf m), u.reads s.w r.1 = r.2
      else Outstanding s u t.h (sysOut s t (lanesOf m)) ∧
        u = { s with warps := u.warps, uid := s.uid + 1, fresh := s.fresh + 16384 } ∧
        (u.warp s.w).rest = { s.wp.rest with
          longs := (u.warp s.w).longs, stall := s.wp.stall || t.h.w
          stallLanes := if t.h.w then s.cur.lanes else s.wp.stallLanes
          energyHi := if t.b = 7 then (s.die (dieOf s.wp.core)).energy.extractLsb' 32 32 else s.wp.energyHi }

/-- `syswr` writes the register that it names: FPSTAT, PREV, TPC in each acting lane, TADDR, TMASK, SAVEPTR of the block,
PREQ of the core, or KSCR (R30, R341, R358 to R360, R363, R364). -/
def Sys2Proof.Claims.syswrClause : Prop :=
  ∀ (t : Tri) (s : State) (m : BitVec 32) (v : DWord), Instr.wf (.syswr t) = true →
    s.Acts t.h ⟨sysUses t t.a, [], false⟩ m → s.Unheld t.h → m ≠ 0 → (t.b = 5 ∨ s.wp.cur = true) →
    (∀ l, m.getLsbD l = true → (sysSrc s t l).2 = false) → v = (sysSrc s t ((lanesOf m).headD 0)).1 →
    (tget s.blocks s.wp.block).isSome →
    ∃ u, exec (.syswr t) s = .next u ∧ Onward s u t.h ∧ (∀ x, u.reads s.w x = s.reads s.w x) ∧ u.mem = s.mem ∧
      (u.warp s.w).rest = { sysLeft s.wp.rest t.b v with kscr := (u.warp s.w).kscr } ∧
      (∀ k, k < 8 → tgetD (u.warp s.w).kscr k 0 =
        if t.b.toNat = 0x18 + k then v.setWidth 32 else tgetD s.wp.kscr k 0) ∧
      (u.warp s.w).fpstat = (if t.b = 5 then v.setWidth 32 &&& 0x1F else s.wp.fpstat) ∧
      (∀ l, l < 32 → ((u.warp s.w).lane l).tpc = if t.b = 0x11 ∧ m.getLsbD l = true then (sysSrc s t l).1
        else (s.wp.lane l).tpc) ∧
      u.block s.wp.block = (if t.b = 0x16 then
        { s.block s.wp.block with saveptr := v.setWidth 32 &&& 0x07FFF000 } else s.block s.wp.block) ∧
      (u.core s.wp.core).preq = (if t.b = 0x17 then
          (if v.getLsbD 31 then 0x80000000 else (s.core s.wp.core).preq &&& 0x60000000) |||
            (v.extractLsb' 0 16).setWidth 32
        else (s.core s.wp.core).preq) ∧
      (u.core s.wp.core).bound = (if t.b = 0x17 then
          if v.getLsbD 31 then some (s.cyc + 64 * max 1 (v.extractLsb' 0 16).toNat) else none
        else (s.core s.wp.core).bound)

/-- `notify` keeps its vector and value until the warp's stores have performed, those apart that system code suspends; then
NOTIFY_ENTRY_WRITE writes the entry at the tail of the completion queue, and the queue has one entry more. `halt.save`
makes the warp saved, and SAVED of PREQ is set with the core's last warp (R333, R341, R366, R367, R396). -/
def Sys2Proof.Claims.notifyClause : Prop :=
  (∀ (t : Tri) (s : State) (m : BitVec 32), s.Acts t.h {} m → s.wp.cur = true →
    (Instr.wf (.notify t) = true →
      ∃ u, exec (.notify t) s = .next u ∧ u = { s with warps := u.warps, uid := s.uid + 1 } ∧ Steps s u t.h [] ∧
        (u.warp s.w).rest = { s.wp.rest with
          notes := s.wp.notes ++ [(s.uid, t.sub.toNat % 64, (s.reads s.w (.uni t.a.toNat)).val)] }) ∧
    (Instr.wf (.haltSave t) = true →
      ∃ u, exec (.haltSave t) s = .next u ∧ Steps s u t.h [] ∧ u.mem = s.mem ∧
        (u.warp s.w).rest = { s.wp.rest with saved := true } ∧
        ((∀ x ∈ u.warps, x.2.core = s.wp.core → x.2.saved = true ∨ x.2.live = false) →
          (u.core s.wp.core).preq.getLsbD 29 = true))) ∧
  ∀ (w seq vec : Nat) (v : Word) (rest : List (Nat × Nat × Word)) (s : State), (s.warp w).notes = (seq, vec, v) :: rest →
    ((∃ x ∈ (s.warp w).accs, (s.warp w).asleep x.2 = false ∧ ∃ d b, x.2.kind = .store d b) →
      exec (.notifyEntryWrite w) s = .next s) ∧
    ((∀ x ∈ (s.warp w).accs, (s.warp w).asleep x.2 = false → match x.2.kind with
        | .store _ _ => False
        | .rmw _ _ _ => False
        | _ => True) →
      (∀ x ∈ s.copies, x.2.warp = w → x.2.atoms = []) → (s.warp w).live = true →
      (s.vi (s.warp w).vi).cq.used < 2 ^ (s.vi (s.warp w).vi).cq.log2n →
      s.ringOk (s.warp w).vi (s.vi (s.warp w).vi).cq 32 = true → (s.vi (s.warp w).vi).cqWait = [] →
      (s.vi (s.warp w).vi).msixOn = true →
      ∃ u, exec (.notifyEntryWrite w) s = .next u ∧ (u.warp w).notes = rest ∧
        (u.vi (s.warp w).vi).cq = (s.vi (s.warp w).vi).cq.push ∧
        ∀ k, u.byte k =
          let at' := dpaKey ((s.vi (s.warp w).vi).cq.slot 32)
          if at' ≤ k ∧ k < at' + 32 then
            (completion 1 0 0 0 v.toNat (dieOf (s.warp w).core + cixOf (s.warp w).core * 4 + (s.warp w).slot * 2 ^ 9)
              ++ leBytes 8 (s.vi (s.warp w).vi).cq.phase.toNat).getD (k - at') 0
          else s.byte k)

/-- The system registers, `notify`, `halt.save` and the random numbers (R358 to R368). -/
def Obligations.SystemWords : Prop :=
  sysrdClause ∧ syswrClause ∧ notifyClause ∧
    ∀ t, ShortWord (.rng t) t.h (rngUses t 2) (rngFn t 2 rngOp) ∧
      ShortWord (.rngU01 t) t.h (rngUses t 1) (rngFn t 1 rngU01)

namespace Sys2Proof.Claims

/-- The address of a byte of a warp's area in a save area (R369). -/
def areaKey (s : State) (base : Word) (off : Nat) : Nat :=
  dspKey (dieOf s.wp.core) (base.toNat + (0x1000 + 0x9000 * s.wp.wib + off))

/-- No byte of a save area holds a stack or a bound channel record (R167, R262). -/
def AreaClear (s : State) (base : Word) : Prop :=
  s.wp.wib < 32 ∧ ∀ i, i < 2 ^ 22 → (s.die (dieOf s.wp.core)).holdsStack (base.toNat + i) = false ∧
    Storable s (dspKey (dieOf s.wp.core) (base.toNat + i))

/-- A class word passes its checks (R219, R371, R373): the mask has no bit that its class forbids, the area is aligned and
lies in the die scratchpad, no copy has locked it, and the warp's own stores to it have performed. -/
structure CtxPasses (s : State) (t : Tri) (load : Bool) (m : BitVec 32) (base mask : Word) : Prop where
  acts : s.Acts t.h {} m
  system : s.wp.cur = true
  baseReg : s.reads s.w (.uni t.a.toNat) = ⟨base, false⟩
  maskReg : (s.reads s.w (.uni t.b.toNat)).val = mask
  allowed : s.badMask s.w (t.sub.toNat % 16) mask = false
  inside : base.toNat + 2 ^ 22 ≤ 2 ^ 27 ∧ base.toNat % 4096 = 0
  unlocked : s.ctxLocked load (t.sub.toNat % 16) base.toNat mask = none
  settled : s.areaStores base.toNat = false

end Sys2Proof.Claims

/-- `ctx.vsave` writes the parts of its class into the save area; class 1 writes KSCR and the uniform registers, class 3 the
return state (R369 to R371, R373). A block class parks while other warps or engines hold it. -/
def Sys2Proof.Claims.vsaveClause : Prop :=
  ∀ (t : Tri) (s : State) (m : BitVec 32) (base mask : Word), Instr.wf (.ctxVsave t) = true →
    CtxPasses s t false m base mask →
    (s.ctxWaits s.w false (t.sub.toNat % 16) mask = true →
      ∃ u, exec (.ctxVsave t) s = .next u ∧
        GangParks s u t.h s.cur.lanes (.ctx false (t.sub.toNat % 16) base.toNat mask)) ∧
    (s.ctxWaits s.w false (t.sub.toNat % 16) mask = false → ∀ o,
      (if t.sub.toNat % 16 = 0 then s.spillCallers s.w else some s) = some o →
      ∃ u, exec (.ctxVsave t) s = .next u ∧ Onward s u t.h ∧ (∀ x, u.reads s.w x = s.reads s.w x) ∧
        u.mem = (o.putParts s.w base.toNat (o.classParts s.w (t.sub.toNat % 16) mask)).mem ∧
        (AreaClear s base → t.sub.toNat % 16 = 1 → ∀ k j, k < 8 → j < 8 → mask.getLsbD k = true →
          u.num (areaKey s base (0x140 + 32 * k + 4 * j)) 4 =
            if k = 0 then (tgetD s.wp.kscr j 0).toNat else (s.reads s.w (.uni (8 * k + j))).val.toNat) ∧
        (AreaClear s base → t.sub.toNat % 16 = 3 → (∀ l, l < 32 →
            u.num (areaKey s base (0x260 + 8 * l)) 8 = (s.wp.lane l).tpc.toNat) ∧
          u.num (areaKey s base 0x08) 4 = s.wp.tcause.toNat ∧ u.num (areaKey s base 0x0C) 4 = s.wp.tmask.toNat ∧
          u.num (areaKey s base 0x10) 8 = s.wp.taddr.toNat ∧ u.num (areaKey s base 0x18) 8 = s.wp.tlive.toNat ∧
          u.num (areaKey s base 0x20) 4 = s.wp.fpstat.toNat))

/-- `ctx.vload` reads the parts of its class from the save area: class 1 KSCR and the uniform registers, class 3 the return
state (R369 to R371, R373). A block class parks while engines hold it. -/
def Sys2Proof.Claims.vloadClause : Prop :=
  ∀ (t : Tri) (s : State) (m : BitVec 32) (base mask : Word), Instr.wf (.ctxVload t) = true →
    CtxPasses s t true m base mask →
    (s.ctxWaits s.w true (t.sub.toNat % 16) mask = true →
      ∃ u, exec (.ctxVload t) s = .next u ∧
        GangParks s u t.h s.cur.lanes (.ctx true (t.sub.toNat % 16) base.toNat mask)) ∧
    (s.ctxWaits s.w true (t.sub.toNat % 16) mask = false →
      (t.sub.toNat % 16 = 3 →
        s.ctlBad s.w ⟨dieOf s.wp.core, base.toNat + warpArea s.wp.wib⟩ = 0 ∧
          ∀ l, l < 32 → bitOf (s.areaNum ⟨dieOf s.wp.core, base.toNat + warpArea s.wp.wib⟩ (0x360 + 4 * l) 4) 16 = false) →
      ∃ u, exec (.ctxVload t) s = .next u ∧
        u = (s.ctxPerform s.w true (t.sub.toNat % 16) base.toNat mask).finish t.h ∧
        (t.sub.toNat % 16 < 10 → Onward s u t.h) ∧
        (AreaClear s base → t.sub.toNat % 16 = 1 → u.mem = s.mem ∧
          ∀ k j, k < 8 → j < 8 →
            if k = 0 then tgetD (u.warp s.w).kscr j 0 =
              if mask.getLsbD 0 then BitVec.ofNat 32 (s.num (areaKey s base (0x140 + 4 * j)) 4) else tgetD s.wp.kscr j 0
            else u.reads s.w (.uni (8 * k + j)) = if mask.getLsbD k then
                ⟨BitVec.ofNat 32 (s.num (areaKey s base (0x140 + 32 * k + 4 * j)) 4),
                  s.tainted (areaKey s base (0x140 + 32 * k + 4 * j)) 4⟩
              else s.reads s.w (.uni (8 * k + j))) ∧
        (AreaClear s base → t.sub.toNat % 16 = 3 →
          (∀ l, s.wp.alive.getLsbD l = true →
            ((u.warp s.w).lane l).tpc = BitVec.ofNat 64 (s.num (areaKey s base (0x260 + 8 * l)) 8)) ∧
          (∀ k, k < 8 → (u.warp s.w).rejoin k = BitVec.ofNat 32 (s.num (areaKey s base (0x240 + 4 * k)) 4)) ∧
          (u.warp s.w).tcause = BitVec.ofNat 32 (s.num (areaKey s base 0x08) 1) ∧
          (u.warp s.w).tmask = BitVec.ofNat 32 (s.num (areaKey s base 0x0C) 4) ∧
          (u.warp s.w).taddr = BitVec.ofNat 64 (s.num (areaKey s base 0x10) 8) ∧
          (u.warp s.w).tlive = BitVec.ofNat 64 (s.num (areaKey s base 0x18) 8)))

/-- `ctx.drain` writes whether a faulted operation pins storage of the block, once no other engine operation of it is
outstanding; until then it parks, and CTX_DRAIN_COMPLETE serves it and the parked block classes (R344, R345, R372,
R373). -/
def Sys2Proof.Claims.drainClause : Prop :=
  (∀ (t : Tri) (s : State) (m : BitVec 32), Instr.wf (.ctxDrain t) = true → s.Acts t.h {} m → s.wp.cur = true →
    ∃ u, exec (.ctxDrain t) s = .next u ∧
      if s.engineBusy s.wp.block then GangParks s u t.h s.cur.lanes (.drain t.d.toNat)
      else Steps s u t.h [.uni t.d.toNat] ∧ u = { s with warps := u.warps } ∧
        u.reads s.w (.uni t.d.toNat) = ⟨if (s.pinsOf s.wp.block).none then 0 else 1, false⟩) ∧
  (∀ (w id dst : Nat) (s : State), s.reqOf w id = some (.drain dst) → NoNotice s w →
    ∃ u, exec (.ctxDrainComplete w id) s = .next u ∧
      if s.engineBusy (s.warp w).block then u = s
      else GangWoken s u w id ∧ u.mem = s.mem ∧ (∀ x, x ≠ .uni dst → u.reads w x = s.reads w x) ∧
        u.reads w (.uni dst) = ⟨if (s.pinsOf (s.warp w).block).none then 0 else 1, false⟩) ∧
  ∀ (w id cls base : Nat) (mask : Word) (s : State), s.reqOf w id = some (.ctx false cls base mask) → NoNotice s w →
    ∃ u, exec (.ctxDrainComplete w id) s = .next u ∧
      if s.ctxWaits w false cls mask then u = s
      else GangWoken s u w id ∧ u.mem = (s.putParts w base (s.classParts w cls mask)).mem

/-- The words that drain a block and move its context (R369 to R373). -/
def Obligations.ContextWords : Prop := vsaveClause ∧ vloadClause ∧ drainClause

/-- PREQ_REQUEST sets REQ and starts the bound; PREQ_WITHDRAW withdraws the request, and the held lanes of the core's user
warps become ready (R341). -/
def Sys2Proof.Claims.requestClause : Prop :=
  ∀ (core : Nat) (v : Word) (s : State),
    (∃ u, exec (.preqRequest core v) s = .next u ∧
      if v.getLsbD 31 then
        u = { s with cores := u.cores } ∧ (∀ c, c ≠ core → u.core c = s.core c) ∧
        u.core core = { s.core core with
          preq := 0x80000000 ||| (v.extractLsb' 0 16).setWidth 32
          bound := some (s.cycle core + 64 * max 1 (v.extractLsb' 0 16).toNat) }
      else u = s) ∧
    ∃ u, exec (.preqWithdraw core v) s = .next u ∧
      if v.getLsbD 31 then u = s
      else u = { s with cores := u.cores, warps := u.warps } ∧
        u.core core = { s.core core with
          preq := (s.core core).preq &&& 0x60000000 ||| (v.extractLsb' 0 16).setWidth 32, bound := none } ∧
        (∀ w l, (s.warp w).core = core → (s.warp w).cur = false → ((s.warp w).lane l).held = true →
          (u.warp w).lane l = { (s.warp w).lane l with held := false, heldMask := 0, since := s.cycle core + 1 }) ∧
        (∀ w, (s.warp w).core ≠ core ∨ (s.warp w).cur = true → u.warp w = s.warp w) ∧
        ∀ w l, ((s.warp w).lane l).held = false → (u.warp w).lane l = (s.warp w).lane l

/-- FORCED_SAVE takes the user warps that can be saved once the bound has expired: TPC and the park record of each lane, KSCR
from s0 to s7, cause 0x30, and PREQ.FORCE (R343, R374). STORAGE_RELEASE frees what a saved block held, and keeps each lane's
frames as its spill stack holds them (R344, R370). -/
def Sys2Proof.Claims.forcedClause : Prop :=
  (∀ (core t : Nat) (s : State), (s.core core).bound = some t →
    (s.requested core = false ∨ s.cycle core < t → exec (.forcedSave core) s = .next s) ∧
    ∀ w, s.requested core = true → t ≤ s.cycle core →
      (s.warps.filter (fun x => x.2.core == core && s.forceable x.1)).map (·.1) = [w] → (s.spillCallers w).isSome →
      (s.warp w).late = [] →
      ∃ u, exec (.forcedSave core) s = .next u ∧ (u.core core).preq.getLsbD 30 = true ∧
        (u.warp w).saved = true ∧ (u.warp w).forced = true ∧ (u.warp w).tcause = 0x30 ∧ (u.warp w).tlive = allLive ∧
        (u.warp w).tmask = (s.warp w).mask (·.held) ∧ (u.warp w).cur = true ∧ (u.warp w).prev = false ∧
        (∀ k, k < 8 → tgetD (u.warp w).kscr k 0 = (s.reads w (.uni k)).val) ∧
        ∀ l, (s.warp w).alive.getLsbD l = true →
          ((u.warp w).lane l).tpc = ((s.warp w).lane l).pc ∧ ((u.warp w).lane l).parkRec = ((s.warp w).lane l).park ∧
          ((u.warp w).lane l).park = .no) ∧
  ∀ (b : Nat) (s : State), (s.block b).live = true → (s.block b).released = false → (s.block b).warps.Nodup →
    (∃ w ∈ (s.block b).warps, (s.warp w).live = true) →
    ((∃ w ∈ (s.block b).warps, (s.warp w).live = true ∧ (s.warp w).saved = false) ∨ s.engineBusy b = true →
      exec (.storageRelease b) s = .next s) ∧
    ((∀ w ∈ (s.block b).warps, (s.warp w).live = true → (s.warp w).saved = true) → s.engineBusy b = false →
      ∃ u, exec (.storageRelease b) s = .next u ∧ (u.block b).saved = true ∧ (u.block b).released = true ∧
        ((s.block b).hwSave = false → u.mem = s.mem) ∧
        ∀ w ∈ (s.block b).warps, ∀ l, ((u.warp w).lane l).stack = ((s.warp w).lane l).frames ∨
          tget (s.warp w).lanes l = none)

/-- What pre-emption does: its request and withdrawal, the safe-point trap, the forced save and the release of a saved
block's storage (R341 to R344, R370, R374). -/
def Obligations.PreemptionEvents : Prop := safePointClause ∧ requestClause ∧ forcedClause

/-- LONG_RESULT_DELIVERY writes the known results of a long operation (R60, R61): a destination that no later word has
written receives its value, a contested one its value or keeps its own, FPSTAT the flags; what is unknown stays
outstanding, and no other register of an unended lane, and no uniform register, changes. In a deterministic grid what has
arrived shows at the lane's next switch marker, which is log entry 65's choice (R356). -/
def Obligations.ResultDelivery : Prop :=
  ∀ (w op : Nat) (o : LongOp) (s : State), tget (s.warp w).longs op = some o → (s.warp w).late = [] →
    (s.block (s.warp w).block).shares = [] → (o.dests.map (·.tgt)).Nodup →
    (∀ d ∈ o.dests, match d.tgt with
      | .vec l r => ((s.warp w).lane l).fits [(r, 1)] = true ∧ ((s.warp w).lane l).alive = true
      | .pred l _ => ((s.warp w).lane l).alive = true
      | .uni _ => True) →
    ∃ u, exec (.longResultDelivery w op) s = .next u ∧ u.mem = s.mem ∧
      (∀ v, v ≠ w → u.warp v = s.warp v) ∧
      (u.warp w).fpstat = (if o.flags = 0 then (s.warp w).fpstat else fpstatOr (s.warp w).fpstat o.flags) ∧
      (s.determOf w = true → (s.warp w).stall = false → (∀ x, u.reads w x = s.reads w x) ∧
        (u.warp w).late = (o.dests.filter (fun d => d.val.isSome && !d.contested)).map (fun d =>
          (op, d.tgt, d.val.getD {}))) ∧
      (∀ d ∈ o.dests, ∀ c, d.val = some c → d.tgt.kept = true →
        (s.determOf w = false → d.contested = false → u.reads w d.tgt = d.tgt.norm c) ∧
        (u.reads w d.tgt = d.tgt.norm c ∨ u.reads w d.tgt = s.reads w d.tgt)) ∧
      (∀ x, (match x with
          | .vec l _ => ((s.warp w).lane l).alive = true
          | .pred l _ => ((s.warp w).lane l).alive = true
          | .uni _ => True) →
        (∀ d ∈ o.dests, d.tgt = x → d.val = none) → u.reads w x = s.reads w x) ∧
      tget (u.warp w).longs op =
        if o.dests.all (fun d => d.val.isSome) && o.waits == 0 then none
        else some { o with dests := o.dests.filter (fun d => d.val.isNone), flags := 0 }

/-- EFFECTIVE_LEVEL_RISE raises a warp's level by one, to eight above its priority and 63 at most (R134);
TASK_ARGUMENT_READ gives a launching task v0 to v7 of its record once the lines are present and what its spawner had issued
has performed; a doomed task never reads it (R197, R317). Under PROT both lanes of a pair have it (R351). -/
def Sys2Proof.Claims.levelClause : Prop :=
  (∀ (w : Nat) (s : State), ∃ u, exec (.effectiveLevelRise w) s = .next u ∧ u = { s with warps := u.warps } ∧
    (∀ v, v ≠ w → u.warp v = s.warp v) ∧
    u.warp w = if (s.warp w).aged < 256 then s.warp w
      else { s.warp w with aged := 0, level := min ((s.warp w).level + 1) (min ((s.warp w).prio + 8) 63) }) ∧
  ∀ (w l key : Nat) (s : State), ((s.warp w).lane l).park = .argument → ((s.warp w).lane l).shadow = false →
    (s.taskDoomed ((s.warp w).lane l) = true ∨ s.laneOrdered w l 0 = false → exec (.taskArgumentRead w l) s = .next s) ∧
    let pair := if ((s.warp w).lane (l + 1)).shadow then [l, l + 1] else [l]
    (s.taskDoomed ((s.warp w).lane l) = false → s.laneOrdered w l 0 = true →
      key = dspKey (dieOf (s.warp w).core) ((s.warp w).lane l).arg.toNat →
      (s.block (s.warp w).block).shares = [] → (∀ k ∈ pair, ((s.warp w).lane k).fits [(0, 8)] = true) →
      ∃ u, exec (.taskArgumentRead w l) s = .next u ∧ u.mem = s.mem ∧
        if s.accessible key 32 then
          (∀ k ∈ pair, Woken s u w k ∧ ∀ j, j < 8 →
            u.reads w (.vec k j) = ⟨BitVec.ofNat 32 (s.num (key + 4 * j) 4), s.tainted (key + 4 * j) 4⟩) ∧
          ∀ x, (∀ k ∈ pair, ∀ j, j < 8 → x ≠ .vec k j) → u.reads w x = s.reads w x
        else u.warps = s.warps)

/-- FRAME_REQUEST_SERVE takes the first blocked request of a core, whole or not at all: its lanes go on in their called
frames, or in the frames that they return to (R104, R105, R172, R174). -/
def Sys2Proof.Claims.serveClause : Prop :=
  ∀ (core : Nat) (q : FrameReq) (s : State), firstBy FrameReq.before (s.frameReqs core) = some q →
    (∀ r ∈ s.frameReqs core, NoNotice s r.warp) →
    ∃ u, exec (.frameRequestServe core) s = .next u ∧
      match (s.core core).cover q.warp (s.reqNeed q) with
      | none => u = s
      | some _ => u.mem = s.mem ∧
        (∀ g win ts ret, s.reqOf q.warp q.gang = some (.call g win ts ret) → (ts.map (·.1)).Nodup →
          tget (u.warp q.warp).gangs q.gang = none ∧
          ∀ l d, ((s.warp q.warp).gangLanes q.gang).getLsbD l = true → (l, d) ∈ ts →
            ((u.warp q.warp).lane l).park = .no ∧ ((u.warp q.warp).lane l).pc = d ∧
            ∃ sf, ((u.warp q.warp).lane l).frames = ⟨g, win, ret, none, [], sf⟩ :: ((s.warp q.warp).lane l).frames) ∧
        ∀ dest, s.reqOf q.warp q.gang = some (.refill dest) → (dest.map (·.1)).Nodup →
          tget (u.warp q.warp).gangs q.gang = none ∧
          ∀ l n d, ((s.warp q.warp).gangLanes q.gang).getLsbD l = true → (l, n, d) ∈ dest →
            ((u.warp q.warp).lane l).park = .no ∧ ((u.warp q.warp).lane l).pc = d ∧
            ((u.warp q.warp).lane l).frames =
              ((s.warp q.warp).lane l).frames.drop (((s.warp q.warp).lane l).depth - n)

/-- UMBRA_SPILL_ROUND acts only when a round is due and the core is the one that has waited longest on its die: with nothing
left to spill, the first request takes the frame-spill trap, cause 0x11; with one slice-frame to spill, its image goes to the
spill area, and its granules to the pool (R173). -/
def Sys2Proof.Claims.spillClause : Prop :=
  ∀ (core : Nat) (q : FrameReq) (s s' : State), firstBy FrameReq.before (s.frameReqs core) = some q →
    s' = s.noteSpills.updDie (dieOf core) (fun d => { d with spillQueue := d.spillQueue.tail }) →
    (s.roundDue core = false ∨ (s.noteSpills.die (dieOf core)).spillQueue.head? ≠ some core →
      exec (.umbraSpillRound core) s = .next s) ∧
    ((s.noteSpills.die (dieOf core)).spillQueue.head? = some core →
      (((s.core core).cover q.warp (s.reqNeed q)).isSome → exec (.umbraSpillRound core) s = .next s') ∧
      ((s.core core).cover q.warp (s.reqNeed q) = none →
      ((∀ v ∈ s.frameReqs core, s.spillable v.warp = []) → (s.warp q.warp).cur = false → (s.warp q.warp).Quiet →
        ∃ u, exec (.umbraSpillRound core) s = .next u ∧
          Entered s u q.warp 0x11 ((s.warp q.warp).gangLanes q.gang)
            (fun l => if ((s.warp q.warp).gangLanes q.gang).getLsbD l
              then ((tget (s.warp q.warp).gangs q.gang).map (·.word)).getD 0 else ((s.warp q.warp).lane l).pc) allLive) ∧
      ∀ v sf x o, ((sortBy FrameReq.victimBefore (s.frameReqs core)).map (·.warp)).eraseDups.flatMap
          (fun w => (s.spillable w).map (fun y => (w, y.1))) = [(v, sf)] →
        tget (s.warp v).slices sf = some x → s'.spillOne v sf = some o →
        ((o.core core).cover q.warp (o.reqNeed q)).isSome →
        ∃ u, exec (.umbraSpillRound core) s = .next u ∧ u = o ∧
          tget (u.warp v).slices sf = some { x with spilled := true, image := (s.warp v).imageOf sf x } ∧
          u.core (s.warp v).core = (s.core (s.warp v).core).release ((s.warp v).imageOf sf x)))

/-- Scheduling levels, argument records, and the events of the register pool (R134, R172 to R174, R317). -/
def Obligations.CoreEvents : Prop := levelClause ∧ serveClause ∧ spillClause

namespace Sys2Proof.Claims

/-- The completion queue of an interface takes its next entry at once (R395, R399, R424). -/
def CqRoom (s : State) (vi : Nat) : Prop :=
  (s.vi vi).cq.used < 2 ^ (s.vi vi).cq.log2n ∧ s.ringOk vi (s.vi vi).cq 32 = true ∧ (s.vi vi).cqWait = []

/-- An entry, closed by its PHASE, stands at the tail of the completion queue, which has one entry more; no other byte of
storage has changed (R396). -/
def CqEntry (s t : State) (vi : Nat) (bs : List Byte) : Prop :=
  (t.vi vi).cq = { (s.vi vi).cq with tail := (s.vi vi).cq.tail + 1 } ∧
    ∀ k, t.byte k =
      let at' := dpaKey ((s.vi vi).cq.slot 32)
      if at' ≤ k ∧ k < at' + 32 then (bs ++ leBytes 8 (s.vi vi).cq.phase.toNat).getD (k - at') 0 else s.byte k

/-- A launched warp begins (R127): every thread at ENTRY in a launch frame of its granules, ready; s0 to s7 hold UARG. -/
structure Begun (t : State) (w : Nat) (L : LaunchRec) (cycle : Nat) : Prop where
  lanes : ∀ l, l < 32 → ((t.warp w).lane l).alive = true ∧ ((t.warp w).lane l).pc = L.entry ∧
    ((t.warp w).lane l).park = .no ∧ ((t.warp w).lane l).since = cycle ∧ ((t.warp w).lane l).preds = 0 ∧
    ∃ sf, ((t.warp w).lane l).frames = [⟨L.demand + 1, 0, 0, none, [], sf⟩]
  args : ∀ k, k < 8 → t.reads w (.uni k) = ⟨L.uarg.getD k 0, false⟩
  rest : (t.warp w).cur = false ∧ (t.warp w).fpstat = 0 ∧ (t.warp w).m = [] ∧ (t.warp w).prio = L.prio ∧
    (t.warp w).level = L.prio ∧ (t.warp w).role = L.roles.getD (t.warp w).wib 0

end Sys2Proof.Claims

/-- The doorbell moves LQTAIL unless more entries than the queue holds would stand in it (R396). LAUNCH_RECORD takes the entry
in turn: an accepted record makes a grid, a rejected one a completion entry with its status (R124, R126, R396). -/
def Sys2Proof.Claims.recordClause : Prop :=
  (∀ (vi q : Nat) (v : Word) (s : State), s.ringOk vi ((s.vi vi).queue q) 128 = true →
    ∃ u, exec (.launchQueueDoorbell vi q v) s = .next u ∧
      if (v.setWidth 17 - ((s.vi vi).queue q).head).toNat ≤ 2 ^ ((s.vi vi).queue q).log2n then
        u = { s with vis := u.vis } ∧ (u.vi vi).queue q = { (s.vi vi).queue q with tail := v.setWidth 17 } ∧
        (∀ p, p ≠ q → (u.vi vi).queue p = (s.vi vi).queue p) ∧ ∀ x, x ≠ vi → u.vi x = s.vi x
      else (u.vi vi).queue q = (s.vi vi).queue q) ∧
  ∀ (vi q : Nat) (bs : List Byte) (s : State), s.nextEntry = some (vi, q) → bs = s.entryBytes vi q →
    (recNum bs 0x18 1 = 1 → exec .launchRecord s = .next s) ∧
    (recNum bs 0x18 1 = 0 → s.launchStatus vi bs = none →
      ∃ u, exec .launchRecord s = .next u ∧ u = { s with vis := u.vis, turn := (vi + 1) % 64, grids := u.grids,
                                                          uid := s.uid + 1 } ∧
        (u.vi vi).queue q = { (s.vi vi).queue q with head := ((s.vi vi).queue q).head + 1 } ∧
        tget u.grids s.uid =
          some { vi := vi, q := q, seq := ((s.vi vi).queue q).head.toNat, launch := launchOf bs } ∧
        ∀ g, g ≠ s.uid → tget u.grids g = tget s.grids g) ∧
    ∀ st, (recNum bs 0x18 1 = 0 ∧ s.launchStatus vi bs = some st ∨ 2 ≤ recNum bs 0x18 1 ∧ st = 1) → CqRoom s vi →
      ∃ u, exec .launchRecord s = .next u ∧ u.grids = s.grids ∧
        (u.vi vi).queue q = { (s.vi vi).queue q with head := ((s.vi vi).queue q).head + 1 } ∧
        CqEntry s u vi (completion 0 st q ((s.vi vi).queue q).head.toNat 0 0)

/-- BLOCK_PLACEMENT places the next initial cluster of a grid that nothing goes before: each block has its warps, which begin
as R127 says. Nothing changes while it cannot (R127, R129 to R132). -/
def Sys2Proof.Claims.placementClause : Prop :=
  ∀ (g : Nat) (s : State), s.waitingRestore g = none → s.queueBehind g = false →
    (∀ x ∈ s.grids, x.1 < g → s.queueBehind x.1 = true ∨ s.tryPlace x.1 = none) →
    (s.tryPlace g = none → exec (.blockPlacement g) s = .next s) ∧
    ((s.tryPlace g).isSome →
      ∃ u, exec (.blockPlacement g) s = .next u ∧
        ∀ i ∈ (s.grid g).nextBlocks, ∃ b, (u.block b).grid = g ∧ (u.block b).bix = i ∧ (u.block b).live = true ∧
          (u.block b).warps.length = (s.grid g).launch.warps + 1 ∧
          ∀ w ∈ (u.block b).warps, (u.warp w).block = b ∧ (u.warp w).core = (u.block b).core ∧
            Begun u w (s.grid g).launch (s.cycle (u.block b).core))

/-- GRID_COMPLETION writes the completion entry once everything of the grid is over (R128, R350, R396). -/
def Sys2Proof.Claims.completionClause : Prop :=
  ∀ (g : Nat) (G : Grid) (s : State), tget s.grids g = some G →
    (s.gridOver g = false → exec (.gridCompletion g) s = .next s) ∧
    (s.gridOver g = true → G.leaves = [] → CqRoom s G.vi →
      ∃ u, exec (.gridCompletion g) s = .next u ∧ tget u.grids g = some { G with done := true } ∧
        CqEntry s u G.vi (completion 0 (G.failed.getD 0) G.q G.seq 0 0))

/-- RESTORE_RECORD: a record that names no saved block completes with status 7; one that names a saved block and a core that
may take it is accepted, and its block restored as soon as a core admits it: every warp at the restore vector, at system
privilege, its lanes in launch frames (R346, R375, R396). -/
def Sys2Proof.Claims.restoreClause : Prop :=
  ∀ (vi q : Nat) (bs : List Byte) (s : State), s.nextEntry = some (vi, q) → bs = s.entryBytes vi q →
    (recNum bs 0x18 1 ≠ 1 → exec .restoreRecord s = .next s) ∧
    (recNum bs 0x18 1 = 1 → restoreReserved bs = false →
      ((∀ x ∈ s.blocks, s.allSaved x.1 = true → x.2.restore = none → x.2.vi = vi →
          dieOf x.2.core = recNum bs 0x20 4 / 2 ^ 27 % 4 →
          x.2.saveptr.toNat ≠ recNum bs 0x20 4 % 2 ^ 27) → CqRoom s vi →
        ∃ u, exec .restoreRecord s = .next u ∧ u.blocks = s.blocks ∧
          CqEntry s u vi (completion 0 7 q ((s.vi vi).queue q).head.toNat 0 0)) ∧
      ∀ b B t, s.blocks.find? (fun x => s.allSaved x.1 && x.2.restore.isNone && x.2.vi == vi
            && dieOf x.2.core == recNum bs 0x20 4 / 2 ^ 27 % 4 && x.2.saveptr.toNat == recNum bs 0x20 4 % 2 ^ 27) =
          some (b, B) → tget s.blocks b = some B → B.warps.Nodup →
        t = recNum bs 0x24 4 % 2 ^ 7 →
        (t = 0x7F ∨ t < 96 ∧ (s.mustReturn b = false ∨ dieOf B.core * 96 + t = B.core) ∧
          s.inPool vi (dieOf B.core * 96 + t) (s.grid B.grid).launch.opclass = true) →
        ∃ u, exec .restoreRecord s = .next u ∧
          (u.vi vi).queue q = { (s.vi vi).queue q with head := ((s.vi vi).queue q).head + 1 } ∧
          match ((s.passEntry vi q).updBlock b (fun B => { B with restore := some t })).tryRestore b t with
          | none => u.block b = { B with restore := some t } ∧ u.warps = s.warps
          | some _ => (u.block b).restore = none ∧ (u.block b).brecLoaded = false ∧
            ∀ w ∈ B.warps, (tget s.warps w).isSome →
              (u.warp w).cur = true ∧ (u.warp w).prev = false ∧ (u.warp w).saved = false ∧
              (u.warp w).restoring = true ∧ (u.warp w).core = (u.block b).core ∧
              ∀ l, (s.warp w).alive.getLsbD l = true →
                ((u.warp w).lane l).pc = (s.vi (s.warp w).vi).restvec ∧ ((u.warp w).lane l).depth = 1 ∧
                ((u.warp w).lane l).park = .no)

/-- WAVE_LAUNCH makes a wave of the first due bin once a slot and its granules are free: each task's lane stands at ENTRY,
parked for its argument record (R132, R138, R139, R317). -/
def Sys2Proof.Claims.waveClause : Prop :=
  ∀ (core k slot : Nat) (b : Bin) (s : State), (s.core core).dueBin = some (k, b) → s.pickSlot core = some slot →
    (s.grid b.grid).launch.prot = false → b.tasks.length ≤ 32 →
    (∀ x ∈ (s.core core).bins, ∀ t ∈ x.2.tasks, (s.fut t.fut).st ≠ .doom) →
    ∃ u, exec (.waveLaunch core) s = .next u ∧
      let need := ((b.tasks.length + 3) / 4) * ((s.grid b.grid).launch.tdemand + 1)
      if s.launching core = false ∨ (s.core core).free < need then u = s
      else u.mem = s.mem ∧ tget (u.core core).bins k = none ∧ (u.core core).free = (s.core core).free - need ∧
        (u.warp (s.uid + 1)).wave = true ∧ (u.warp (s.uid + 1)).slot = slot ∧ (u.warp (s.uid + 1)).core = core ∧
        (u.warp (s.uid + 1)).grid = b.grid ∧ (u.warp (s.uid + 1)).bix = b.bix ∧
        (u.warp (s.uid + 1)).prio = b.prio ∧ (u.warp (s.uid + 1)).block = s.uid ∧
        ∀ i x, b.tasks[i]? = some x → ∃ sf, (u.warp (s.uid + 1)).lane i =
          { alive := true, pc := b.entry, next := b.entry, since := s.cycle core, park := .argument
            task := some x.fut, arg := x.arg
            frames := [⟨(s.grid b.grid).launch.tdemand + 1, 0, 0, none, [], sf⟩] }

/-- Launch queues, placement, completion, restores and waves (R124 to R132, R138, R139, R346, R375, R396). -/
def Obligations.LaunchEvents : Prop :=
  recordClause ∧ placementClause ∧ completionClause ∧ restoreClause ∧ waveClause

/-- PARALLAX_INTERVAL_END closes an interval of 65,536 fabric cycles: every score is cleared, and each die's moves are those
of its new proposal. A move draws a core from one cluster of a grid to another whose members pull it at least twice as
strongly and by 64 more; no cluster is in two moves (R186, R187). -/
def Sys2Proof.Claims.intervalClause : Prop :=
  ∀ s : State, ∃ u, exec .parallaxIntervalEnd s = .next u ∧
    if s.fabric / 65536 ≤ s.interval then u = s
    else u = { s with dies := u.dies, interval := s.interval + 1 } ∧
      ∀ d, d < 4 → (u.die d).scores = [] ∧ (u.die d).commit = (s.die d).commit ∧
        (∀ p ∈ (u.die d).moves, ∃ g X Y c, X ∈ s.clustersOf d g ∧ Y ∈ s.clustersOf d g ∧ X.1 = p.2.x ∧ Y.1 = p.2.y ∧
          X.1 ≠ Y.1 ∧ p.2.core = d * 96 + c ∧ c < 96 ∧ c ∈ X.2 ∧ 2 ≤ X.2.length ∧ Y.2.length ≤ 15 ∧
          2 * (s.die d).pull c X.2 + 64 ≤ (s.die d).pull c Y.2) ∧
        (u.die d).moves.Pairwise (fun p q => p.2.x ≠ q.2.x ∧ p.2.x ≠ q.2.y ∧ p.2.y ≠ q.2.x ∧ p.2.y ≠ q.2.y)

/-- REGROUP_COMMIT begins a move when its clusters are those that it was proposed for, live, unfrozen, with no barrier or fence
open, no copy in their segments and no commit of theirs under way; REGROUP_COMMIT_END moves the blocks of the core to the
other cluster once the drained writes have performed, unless one of the two has ended; no byte of storage changes (R187,
R188, R228). -/
def Sys2Proof.Claims.commitClause : Prop :=
  (∀ (die k : Nat) (r : Regroup) (s : State), tget (s.die die).moves k = some r →
    ∃ u, exec (.regroupCommit die k) s = .next u ∧
      if s.moveStands die r = true ∧ s.commitFree (clusterNo die r.x) = true ∧ s.commitFree (clusterNo die r.y) = true
      then u = { s with dies := u.dies, uid := s.uid + 1 } ∧
        (u.die die).commit = (s.die die).commit ++ [{ r with began := s.uid }] ∧ tget (u.die die).moves k = none ∧
        (∀ j, j ≠ k → tget (u.die die).moves j = tget (s.die die).moves j) ∧ ∀ d, d ≠ die → u.die d = s.die d
      else u = s) ∧
  ∀ (die : Nat) (s s' : State),
    ((s.die die).commit.find? s.commitDrained = none → exec (.regroupCommitEnd die) s = .next s) ∧
    ∀ r, (s.die die).commit.find? s.commitDrained = some r → r.x ≠ r.y → r.x < 1024 → r.y < 1024 →
      s' = s.updDie die (fun d => { d with commit := d.commit.filter (· != r) }) →
      (∀ w, s.clusterOf w = clusterNo die r.x ∨ s.clusterOf w = clusterNo die r.y → NoNotice s w) →
      ∃ u, exec (.regroupCommitEnd die) s = .next u ∧ u.mem = s.mem ∧
        (u.die die).commit = (s.die die).commit.filter (· != r) ∧
        (s'.moveStands die r = true →
          (u.cluster (clusterNo die r.y)).gen = (s.cluster (clusterNo die r.y)).gen + 1 ∧
          (u.die die).commits = (s.die die).commits ++
            [(r.began, s.uid, ((s.cluster (clusterNo die r.x)).members ++ (s.cluster (clusterNo die r.y)).members).map
              (· + die * 96))]) ∧
        ∀ b B, tget s.blocks b = some B → tget u.blocks b = some
          (if s'.moveStands die r = true ∧ B.live = true ∧ B.wave = false ∧ B.core = r.core ∧ B.cid = r.x ∧
              B.serial = r.xs then { B with cid := r.y, serial := r.ys } else B)

/-- A waking bank of the die scratchpad is awake in the end; a bank in which nothing lives is gated, and reads as zero
(R169). -/
def Sys2Proof.Claims.bankClause : Prop :=
  (∀ (die base : Nat) (s : State), ∃ u, exec (.scratchpadBankWake die base) s = .next u ∧
    (u.die die).waking = (s.die die).waking.filter (fun g => g.1 != base) ∧ (u.die die).gated = (s.die die).gated ∧
    u = { s with dies := u.dies } ∧ ∀ d, d ≠ die → u.die d = s.die d) ∧
  ∀ (die base len : Nat) (s : State), die < 4 → 0 < len → base + len ≤ 2 ^ 27 → base % 64 = 0 → len % 64 = 0 →
    (s.die die).gated.any (fun g => meets g.1 g.2 base len) = false →
    (s.die die).waking.any (fun g => meets g.1 g.2.1 base len) = false →
    ∃ u, exec (.scratchpadBankGate die base len) s = .next u ∧
      if s.bankUsed die base len then u = s
      else (u.die die).gated = (s.die die).gated ++ [(base, len)] ∧
        ∀ k, u.byte k = if dspKey die base ≤ k ∧ k < dspKey die base + len then 0 else s.byte k

/-- Regrouping of clusters, and the banks of the die scratchpad (R169, R186 to R188). -/
def Obligations.ParallaxAndBankEvents : Prop := intervalClause ∧ commitClause ∧ bankClause

/-- COPY_CHUNK_START: a copy whose next chunk may start, whose pages are all translated and whose source is present puts the
chunk in flight with the bytes as they now stand, those under a stack as zeros; a page that the TLB does not hold is asked of
the die's MMU first (R167, R196, R253, R254, R392). -/
def Sys2Proof.Claims.chunkStartClause : Prop :=
  ∀ (id : Nat) (c : Copy) (s : State) (src dst stream : List Piece), tget s.copies id = some c →
    src = s.sidePieces c c.src false (4096 * c.next) (min 4096 (c.total - 4096 * c.next)) →
    dst = s.sidePieces c c.dst true (4096 * c.next) (min 4096 (c.total - 4096 * c.next)) →
    stream = s.streamPieces c c.next →
    (s.chunkMay id c = false → exec (.copyChunkStart id) s = .next s) ∧
    (s.chunkMay id c = true → (∀ p ∈ src ++ dst ++ stream, p.look ≠ .bad) →
      ((∃ p ∈ src ++ dst ++ stream, p.look = .miss) →
        ∃ u, exec (.copyChunkStart id) s = .next u ∧ u.copies = s.copies ∧ u.mem = s.mem ∧
          ∃ x ∈ (u.die (dieOf c.core)).walks, ∃ p ∈ src ++ dst ++ stream,
            p.look = .miss ∧ x.2.va / 4096 = p.va / 4096 ∧ x.2.who = .copy id c.next p.write) ∧
      ((∀ p ∈ src ++ dst ++ stream, p.look ≠ .miss ∧ s.pieceFree p = true) →
        (∀ p ∈ src ++ stream, s.sourcePresent id p = true) →
        (∀ d ∈ s.cxlPorts (src ++ dst ++ stream), (s.die d).cxlUp = true) → s.hbmErr = [] →
        ∃ u f dl, exec (.copyChunkStart id) s = .next u ∧ u = { s with copies := u.copies, dies := u.dies } ∧
          tget u.copies id = some { c with
            next := c.next + 1, flying := c.flying ++ [f], fill := c.fill.map (fun x => { x with delta := dl }) } ∧
          (∀ j, j ≠ id → tget u.copies j = tget s.copies j) ∧ f.chunk = c.next ∧
          f.bytes = src.flatMap (fun p => match p.look with
            | .key k => (List.range p.n).map (fun i => if s.underStack (k + i) then 0 else s.byte (k + i))
            | _ => []) ∧
          f.dst = dst.filterMap (fun p => match p.look with | .key k => some (k, p.n) | _ => none)))

/-- COPY_CHUNK_LANDING: a chunk that may land leaves its bytes at their place, and its bytes leave the barrier's PEND; no other
byte changes. Its lines are present once the copy has no more to write in them; the last chunk in flight of a copy that has
failed makes its other lines present too (R155, R176, R196, R253 to R255). -/
def Sys2Proof.Claims.chunkLandClause : Prop :=
  ∀ (id : Nat) (c : Copy) (f : Flight) (s : State) (k n : Nat), tget s.copies id = some c →
    c.flying.find? (fun g => g.chunk == f.chunk) = some f → c.dst.off = false → c.fill = none →
    f.dst = [(k, n)] → f.bytes.length = n → 2 ^ 100 ≤ k →
    (∀ i, i < n → Storable s (k + i) ∧ s.underStack (k + i) = false) →
    (∀ b, c.bar = some b → (c.chunkSpan f.chunk).2 ≤ (s.bar b).pend) →
    ∃ u, exec (.copyChunkLanding id f.chunk) s = .next u ∧
      if s.mayWrite c f = false ∨ s.rehousing k = true ∨ s.awake k = false then u = s
      else
        (∀ x k', c.dst = .chip k' → x ∈ linesIn (k' + 4096 * f.chunk) (c.chunkSpan f.chunk).2 →
          { c with landed := c.landed ++ [f.chunk] }.owes x = false → x ∉ u.absent) ∧
        (c.code = 0 →
          (∀ a, u.byte a = if k ≤ a ∧ a < k + n then f.bytes.getD (a - k) 0 else s.byte a) ∧
          tget u.copies id = some { c with
            flying := c.flying.filter (fun g => g.chunk != f.chunk), landed := c.landed ++ [f.chunk] } ∧
          ∀ b, c.bar = some b → (u.bar b).pend = (s.bar b).pend - (c.chunkSpan f.chunk).2) ∧
        (c.code ≠ 0 → c.cut = false → c.flying = [f] → ∀ x ∈ c.lines,
          { c with landed := c.landed ++ [f.chunk] }.owes x = true → x ∉ u.absent)

/-- COPY_COMPLETION completes the future of a copy whose chunks have all landed, in queue order and after what its issuers had
issued before it; DOOMED_COPY_STOP ends a doomed
copy whose chunks in flight have landed, and frees its record (R197, R245, R248, R254, R255, R259). -/
def Sys2Proof.Claims.copyEndClause : Prop :=
  ∀ (id : Nat) (c : Copy) (s : State), tget s.copies id = some c →
    (c.doomed = true ∨ c.faults ≠ [] ∨ c.allLanded = false ∨ s.ahead c ≠ [] ∨ s.settled c.waits = false →
      exec (.copyCompletion id) s = .next s) ∧
    (c.atoms = [] → c.doomed = false → c.faults = [] → c.allLanded = true → s.ahead c = [] → s.settled c.waits = true →
      ∃ u, exec (.copyCompletion id) s = .next u ∧ tget u.copies id = none ∧ u.mem = s.mem ∧
        u.fut c.fut = match (s.fut c.fut).st with
          | .run | .fault => { s.fut c.fut with st := .done, value := BitVec.ofNat 64 (c.landed.length * 2 ^ 32 + c.code) }
          | .doom => { s.fut c.fut with st := .free, gen := nextGen (s.fut c.fut).gen, count := 0, value := 0 }
          | _ => s.fut c.fut) ∧
    (c.doomed = false ∨ c.flying ≠ [] → exec (.doomedCopyStop id) s = .next s) ∧
    (c.atoms = [] → c.doomed = true → c.flying = [] →
      ∃ u, exec (.doomedCopyStop id) s = .next u ∧ tget u.copies id = none ∧
        (u.fut c.fut).st = .free ∧ (u.fut c.fut).gen = nextGen (s.fut c.fut).gen ∧
        (c.cut = false → ∀ x ∈ c.lines, c.owes x = true → x ∉ u.absent))

/-- The life of a copy: its chunks start and land, and it completes or stops (R176, R195, R196, R248, R253 to R255,
R259). -/
def Obligations.CopyEvents : Prop := chunkStartClause ∧ chunkLandClause ∧ copyEndClause

/-- A walk of four levels whose entries are valid, present and allow the access ends at the leaf's page (R389 to R391); what
translates, and what does not, at the first entry that is absent or invalid; a table outside the partition is no valid entry
(R8, R336, R390, R400, R426). -/
def Sys2Proof.Claims.walkClause : Prop :=
  ∀ (s : State) (vi va : Nat) (wr ex : Bool) (a3 a2 a1 a0 e3 e2 e1 e0 : Nat), va < 2 ^ 57 → s.hbmErr = [] → s.poison = [] →
    a3 = (s.vi vi).ptbase.toNat / 2 ^ 12 % 2 ^ 45 * 2 ^ 12 + va / 2 ^ 45 % 4096 * 8 → e3 = s.num (dpaByte vi a3) 8 →
    a2 = pteAddr e3 + va / 2 ^ 33 % 4096 * 8 → e2 = s.num (dpaByte vi a2) 8 →
    a1 = pteAddr e2 + va / 2 ^ 21 % 4096 * 8 → e1 = s.num (dpaByte vi a1) 8 →
    a0 = pteAddr e1 + va / 2 ^ 12 % 512 * 8 → e0 = s.num (dpaByte vi a0) 8 →
    let table (a e level : Nat) : Bool := s.dpaOk vi a && pteValid e level && pteBit e 1 && !pteBit e 4
    let leaf (a e level : Nat) : Bool :=
      s.dpaOk vi a && pteValid e level && pteBit e 4 && (!ex || pteBit e 3) && (!wr || pteBit e 2)
    (s.dpaOk vi a3 = false ∨ pteValid e3 3 = false → (s.walk vi va wr ex).1 = .bad) ∧
    (s.dpaOk vi a3 = true → pteValid e3 3 = true → pteBit e3 1 = false → (s.walk vi va wr ex).1 = .replay) ∧
    (table a3 e3 3 = true → s.dpaOk vi a2 = false ∨ pteValid e2 2 = false → (s.walk vi va wr ex).1 = .bad) ∧
    (table a3 e3 3 = true → table a2 e2 2 = true → leaf a1 e1 1 = true → (s.walk vi va wr ex).1 =
      if pteBit e1 1 = false then .replay else if s.dpaOk vi (pteAddr e1 + va % 2 ^ 21) then
        .ok (pteAddr e1 + va % 2 ^ 21) else .bad) ∧
    (table a3 e3 3 = true → table a2 e2 2 = true → table a1 e1 1 = true → leaf a0 e0 0 = true → (s.walk vi va wr ex).1 =
      if pteBit e0 1 = false then .replay else if s.dpaOk vi (pteAddr e0 + va % 2 ^ 12) then
        .ok (pteAddr e0 + va % 2 ^ 12) else .bad)

/-- PAGE_TABLE_WALK ends a walk for a copy: its translation reaches the quad's TLB; a page that is not present leaves the copy
and its future in FAULT with the next token that no unanswered entry has; a denied one ends the copy with code 0x01 (R245,
R254, R336, R338, R392). -/
def Sys2Proof.Claims.walkEventClause : Prop :=
  ∀ (die n id chunk : Nat) (W : Walk) (wr : Bool) (c : Copy) (s : State),
    ((s.die die).walks.take 64).find? (fun x => x.1 == n) = some (n, W) → W.who = .copy id chunk wr →
    tget s.copies id = some c → c.doomed = false → c.code = 0 → (∀ f ∈ c.faults, f.1 = chunk) → s.hbmErr = [] →
    let tok := freeToken (s.vi c.vi).faults (s.vi c.vi).faults.length (s.vi c.vi).token
    ∃ u, exec (.pageTableWalk die n) s = .next u ∧ (∀ x ∈ (u.die die).walks, x.1 ≠ n) ∧
      match s.walk c.vi W.va wr false with
      | (.ok _, some e) => (u.tlbOf c.core).head? = some e ∧ u.copies = s.copies ∧ u.mem = s.mem
      | (.ok _, none) => True
      | (.busy, _) => True
      | (.replay, _) => tget u.copies id = some { c with faults := c.faults ++ [(chunk, tok)] } ∧ u.mem = s.mem ∧
        (u.fut c.fut).st = (if (s.fut c.fut).st = .run then .fault else (s.fut c.fut).st) ∧
        (tget (s.vi c.vi).faults (s.vi c.vi).token = none → tok = (s.vi c.vi).token) ∧
        tget (u.vi c.vi).faults tok = some ⟨W.va, futHandle c.fut (s.fut c.fut).gen,
          if wr then 1 else 0, wr, dieOf c.core, cixOf c.core, W.who, none, false⟩ ∧
        (u.vi c.vi).fqWait = (s.vi c.vi).fqWait ++ [tok]
      | (.bad, _) => ∃ cut, tget u.copies id = some { c with code := 1, cut := cut }

/-- The walks of the MMU (R245, R254, R336, R338, R389 to R392, R426). -/
def Obligations.PageWalks : Prop := walkClause ∧ walkEventClause

namespace Sys2Proof.Claims

/-- The result of `accrd` in a lane (R312, without PROT): columns l and l + 32 of the row, converted, with their poison; a
16-bit type packs the two. -/
def accrdOf (s : State) (b tile tag row : Nat) (ty : BitVec 3) (rm : BitVec 2) (sf : Bool) (dst l : Nat) :
    List (Target × Cell) :=
  let cell (c : Nat) : BitVec 64 × Bool :=
    (((accRead tag ty rm sf (s.accCell b tile tag (row % 64 * 64 + c)).1).getD (0, 0)).1,
      (s.accCell b tile tag (row % 64 * 64 + c)).2)
  if ty = 7 then
    [(.vec l dst, ⟨((cell (l + 32)).1.setWidth 16) ++ ((cell l).1.setWidth 16), (cell l).2 || (cell (l + 32)).2⟩)]
  else
    let n := if wideTy ty then 2 else 1
    vecResult l dst n (cell l).1 (cell l).2 ++ vecResult l (dst + n) n (cell (l + 32)).1 (cell (l + 32)).2

/-- What a matrix word other than a multiplication leaves when it performs (R302 to R304, R311 to R314). -/
def MatrixDone (s u : State) (m : MWord) : Prop :=
  match m.op with
  | .obrel r => ∀ x, tget s.resvs r = some x → (s.block m.block).live = true →
      tget u.resvs r = some { x with freed := true }
  | .bload r slot n => ∀ x, tget s.resvs r = some x → (s.block m.block).live = true →
      u.mem = ((List.range (n / groupSlots x.fmt)).foldl (fun s g => s.loadGroup m.core slot g x) s).mem ∧
      ∀ i, i < n → tget (u.core m.core).holders (slot + i) = some m.block
  | .bfree slot n => u.mem = s.mem ∧ ∀ i, i < n → tget (s.core m.core).holders (slot + i) = some m.block →
      tget (u.core m.core).holders (slot + i) ≠ some m.block
  | .mma _ => u = s
  | .accz tile tag => (s.block m.block).live = true → ∀ c, c < 4096 → u.accCell m.block tile tag c = (0, false)
  | .accrd tile tag row ty rm sf dst op => (s.grid (s.warp m.warp).grid).launch.prot = false →
      Receives s u m.warp op ((List.range 32).flatMap (accrdOf s m.block tile tag row ty rm sf dst)) ∧ u.mem = s.mem
  | .accwr tile tag row cells _ => (s.block m.block).live = true → (cells.map (·.1)).Nodup → (∀ c ∈ cells, c.1 < 64) →
      (tag = 2 → s.cellKey m.block (tile + 1) 0 ≠ s.cellKey m.block tile 0) →
      ∀ c ∈ cells, u.accCell m.block tile tag (row % 64 * 64 + c.1) =
        (if tag = 2 then c.2.toNat else c.2.toNat % 2 ^ 40, false)
  | .accst tile tag key _ => (∀ i, i < accBytes tag → Storable s (key + i)) → 2 ^ 100 ≤ key →
      ∀ i, i < accBytes tag → u.byte (key + i) =
        s.byte (s.cellKey m.block (tile + i / 5 / 4096) (i / 5 % 4096) + i % 5)
  | .accld tile tag key _ => (s.block m.block).live = true →
      (tag = 2 → s.cellKey m.block (tile + 1) 0 ≠ s.cellKey m.block tile 0) →
      ∀ i, i < accBytes tag / 5 → u.num (s.cellKey m.block (tile + i / 4096) (i % 4096)) 5 = s.num (key + 5 * i) 5

end Sys2Proof.Claims

/-- MATRIX_WORD_PERFORM: a matrix word other than a multiplication performs at the head of its queue, once no earlier word or
fill stands in its way, the warp's earlier accesses to its image have performed and its storage can be reached; it leaves its
queue (R195, R269, R299, R302 to R304, R311 to R314). -/
def Sys2Proof.Claims.performClause : Prop :=
  ∀ (id : Nat) (m : MWord) (s : State), tget s.mwords id = some m →
    (s.matrixHead id m = false ∨ s.matrixClear id m = false ∨ s.imageReady id m = false →
      exec (.matrixWordPerform id) s = .next s) ∧
    (s.matrixHead id m = true → s.matrixClear id m = true → s.imageReady id m = true → s.matrixReach m = true →
      ∃ u, exec (.matrixWordPerform id) s = .next u ∧ MatrixDone s u m ∧
        ((∀ o, m.op ≠ .mma o) → tget u.mwords id = none))

/-- MATRIX_QUEUE_ROOM_RESUME: a parked matrix word takes an entry of its queue once one is free, a parked `obres` its units
once they are (R244, R269, R301). -/
def Sys2Proof.Claims.roomClause : Prop :=
  (∀ (w id dst : Nat) (m : MWord) (s : State), s.reqOf w id = some (.matrixRoom m dst) → NoNotice s w →
    ∃ u, exec (.matrixQueueRoomResume w id) s = .next u ∧
      if s.matrixReady m then
        GangWoken s u w id ∧ u.mem = s.mem ∧ (tget u.mwords s.uid).map (fun x => (x.warp, x.block, x.core, x.q)) =
          some (m.warp, m.block, m.core, m.q)
      else u = s) ∧
  ∀ (w id dst : Nat) (r : Resv) (s : State), s.reqOf w id = some (.obres dst r) → NoNotice s w →
    ∃ u, exec (.matrixQueueRoomResume w id) s = .next u ∧
      match lowestFit (s.obHeld (s.warp w).core) 2048 (r.len + 1) with
      | some b => GangWoken s u w id ∧ tget (u.warp w).t dst = some s.uid ∧
        tget u.resvs s.uid = some { r with base := b }
      | none => u = s

/-- MMA_PASS_END: once the granted end of a pass has come, its chunks have been added to every cell of the tile in increasing k;
the last pass completes the future with the number of chunks, once what the issuers had issued before the word has
performed; a pass of a killed word keeps nothing (R197, R248, R279, R280, R286, R307). -/
def Sys2Proof.Claims.passClause : Prop :=
  ∀ (core : Nat) (p : Pass) (m : MWord) (o : Mma) (r : Resv) (s : State), (s.core core).pass = some p →
    tget s.mwords p.word = some m → m.op = .mma o → m.core = core → tget s.resvs o.resv = some r →
    (∀ x ∈ s.mwords, x.1 ≠ p.word → ∀ o', x.2.op = .mma o' →
      s.mmaStopped o' = false ∧ o'.code = 0 ∧ o'.passes < o'.total) →
    (s.cycle core < p.stop → exec (.mmaPassEnd core) s = .next s) ∧
    (p.stop ≤ s.cycle core → s.noticed o.fut = false → o.code = 0 → o.faults = [] →
      (o.dead = true ∨ s.passPoison m o r o.passes = false) → (s.block m.block).live = true →
      ∃ u, exec (.mmaPassEnd core) s = .next u ∧ (u.core core).pass = none ∧
        if o.dead then tget u.mwords p.word = none ∧ u.mem = s.mem
        else
          ((fmtTag o.fmt = 2 → s.cellKey m.block (o.tile + 1) 0 ≠ s.cellKey m.block o.tile 0) →
            ∀ i, i < 4096 → (u.accCell m.block o.tile (fmtTag o.fmt) i).1 =
              ((List.range (o.width o.passes / chunkK o.fmt)).foldl (s.cellChunk m o r o.passes (i / 64) (i % 64))
                ((s.accCell m.block o.tile (fmtTag o.fmt) i).1, 0)).1 % (if fmtTag o.fmt = 2 then 2 ^ 64 else 2 ^ 40)) ∧
          if o.total ≤ o.passes + 1 ∧ s.settled m.waits = true then
            tget u.mwords p.word = none ∧ ((s.fut o.fut).st = .run → (u.fut o.fut).st = .done ∧
              (u.fut o.fut).value =
                BitVec.ofNat 64 (min o.k ((o.passes + 1) * passK o.fmt) / chunkK o.fmt * 2 ^ 32))
          else ∃ o', tget u.mwords p.word = some { m with op := .mma o' } ∧ o'.passes = o.passes + 1)

/-- LIMITER_STEP, once at each fourth cycle: G is the sum of the draws; a pass is granted only while the granted draws stay
within eight of the last G and within CAP; filler holds G to four below the last one and no higher (R283 to R285,
R287). -/
def Sys2Proof.Claims.limiterClause : Prop :=
  ∀ (g : Nat) (s : State), g < 48 → (s.group g).cls < 3 →
    let c := (s.group g).count s.now
    (c % 4 ≠ 0 ∨ (s.group g).step = some (c / 4) → exec (.limiterStep g) s = .next s) ∧
    (c % 4 = 0 → (s.group g).step ≠ some (c / 4) →
      ∃ u, exec (.limiterStep g) s = .next u ∧ (u.group g).step = some (c / 4) ∧
        (u.group g).g = ((groupCores g).map (fun k => (u.core k).draw)).sum ∧
        let n := ((groupCores g).map (fun k => (((u.core k).pass).map (·.e)).getD 0)).sum
        n ≤ (u.group g).g ∧ ((u.group g).g = n ∨ (u.group g).g + 4 ≤ (s.group g).g) ∧
        ∀ k ∈ groupCores g, ∀ p, (u.core k).pass = some p → (s.core k).pass ≠ some p →
          p.start = c ∧ n ≤ (s.group g).g + 8 ∧ n ≤ s.cap g)

/-- MMA_M_PASS_FETCH stages the next pass of an `mma.m` that may go on, once every page of it is translated and its ports are
up; DROOP_DETECTED kills every warp whose multiplication ran in the quad in the last 16 steps (R288, R309, R349, R352). -/
def Sys2Proof.Claims.fetchAndDroopClause : Prop :=
  (∀ (id : Nat) (m : MWord) (o : Mma) (x : Stream) (r : Resv) (s : State), s.mmaOf id = some (m, o) →
    o.stream = some x → tget s.resvs o.resv = some r → r.base < 2048 → r.soff < 2 ^ 15 →
    (x.staged.isSome = true ∨ s.mmaReady id m o = false ∨ s.gangOrdered m.warp m.lanes id = false →
      exec (.mmaMPassFetch id) s = .next s) ∧
    (x.staged = none → s.mmaReady id m o = true → s.gangOrdered m.warp m.lanes id = true → s.hbmErr = [] →
      (s.core m.core).pass.any (fun p => p.word == id) = false →
      (∀ row, row < 64 → ∀ p, p ∈ (s.rowPieces m o x r.mx row).1 ++ (s.rowPieces m o x r.mx row).2 →
        ∃ k, p.look = .key k ∧ ∀ d, dpaTarget s k = .cxl d → (s.die d).cxlUp = true) →
      ∃ u, exec (.mmaMPassFetch id) s = .next u ∧
        tget u.mwords id = some { m with op := .mma { o with stream := some { x with staged := some o.passes } } } ∧
        ∀ k, (k < obKey m.core 0 ∨ obKey (m.core + 1) 0 ≤ k) → u.byte k = s.byte k)) ∧
  ∀ (die quad i w : Nat) (p : Pass) (m : MWord) (s : State), die < 4 → quad < 24 → i < 4 →
    (s.core (die * 96 + quad * 4 + i)).pass = some p → tget s.mwords p.word = some m → m.warp = w →
    (s.grid (s.warp w).grid).done = false →
    ∃ u, exec (.droopDetected die quad) s = .next u ∧ ∀ l, l < 32 → ((u.warp w).lane l).alive = false

/-- The matrix unit's events: words and passes perform, streamed passes are fetched, and the limiter grants (R244, R248,
R269, R279, R283 to R288, R299 to R314, R352). -/
def Obligations.MatrixEvents : Prop :=
  performClause ∧ roomClause ∧ passClause ∧ limiterClause ∧ fetchAndDroopClause

namespace Sys2Proof.Claims

/-- An entry of an interface's error log (R397): it stands at the tail of the log, which has one entry more, and no other
byte of storage has changed; a full log, or one that lies where it may not, counts it in ELLOST (R395, R399, R424). -/
def Logged (s t : State) (vi code die cix : Nat) (bix : Word) (addr : Nat) : Prop :=
  if (s.vi vi).el.used < 2 ^ (s.vi vi).el.log2n ∧ s.ringOk vi (s.vi vi).el 32 = true then
    (t.vi vi).el = { (s.vi vi).el with tail := (s.vi vi).el.tail + 1 } ∧ (t.vi vi).ellost = (s.vi vi).ellost ∧
      ∀ k, t.byte k =
        let at' := dpaKey ((s.vi vi).el.slot 32)
        if at' ≤ k ∧ k < at' + 32 then
          (leBytes 4 (code + die * 2 ^ 8 + cix * 2 ^ 10) ++ leBytes 4 bix.toNat ++ leBytes 8 addr ++ leBytes 8 0
            ++ leBytes 8 (s.vi vi).el.phase.toNat).getD (k - at') 0
        else s.byte k
  else t.vi vi = { s.vi vi with ellost := (s.vi vi).ellost + 1 } ∧ t.mem = s.mem

/-- The lanes of a parked gang are ready at their word again, and the gang is parked no more (R337). -/
def GangRetries (s t : State) (w g : Nat) : Prop :=
  tget (t.warp w).gangs g = none ∧ ∀ l, ((s.warp w).gangLanes g).getLsbD l = true →
    ((t.warp w).lane l).park = .no ∧ ((t.warp w).lane l).pc = ((s.warp w).lane l).pc ∧
    ((t.warp w).lane l).since = s.cycle (s.warp w).core + 1

/-- What an answer leaves of a gang that waits for pages at its word (R224, R337, R340): a retry takes the token away, and with
the last one the gang issues its word again; any other answer is a trap of the lanes of m, at once in user code, and when
system code returns in the lanes that it suspends. -/
def GangServed (s t : State) (w g tok code : Nat) (m : BitVec 32) (cause : BitVec 8) (va : Nat) : Prop :=
  ∀ x toks, tget (s.warp w).gangs g = some x → x.req = .fetch toks → NoNotice s w →
    let rest := toks.filter (· != tok)
    let now := (s.warp w).gangLanes g &&& m
    ∃ o, o = s.unparkGang w g ∧ GangRetries s o w g ∧
      if code = 0 then
        if rest = [] then t.warps = o.warps
        else (t.warp w).lanes = (s.warp w).lanes ∧ tget (t.warp w).gangs g = some { x with req := .fetch rest }
      else
        (rest = [] → now ≠ 0 → (s.warp w).cur = false → (s.warp w).Quiet →
          Entered o t w cause now (fun l => if now.getLsbD l then x.word else ((s.warp w).lane l).pc) allLive ∧
            (t.warp w).taddr = BitVec.ofNat 64 va) ∧
        (now = 0 → ∀ l, m.getLsbD l = true → ((s.warp w).lane l).alive = true →
          ((s.warp w).lane l).parkRec = .gang g → ((t.warp w).lane l).parkRec = .denied cause (BitVec.ofNat 64 va))

/-- What an answer with a code leaves of the work that an entry stands for (R254, R309, R337): with 0 it is translated
again, once every entry of it has been answered; otherwise a copy or an `mma.m` ends with the code, and lanes take the trap
of R337. -/
def Resumed (s t : State) (f : FaultRec) (tok code : Nat) : Prop :=
  match f.who with
  | .copy id _ _ => ∀ c, tget s.copies id = some c → (∃ x ∈ c.faults, x.2 = tok) →
    let left := if code = 0 then c.faults.filter (fun x => x.2 != tok) else []
    (∃ cut, tget t.copies id = some { c with faults := left, code := if c.code = 0 then code else c.code, cut := cut }) ∧
      (t.fut c.fut).st = (if left = [] ∧ (s.fut c.fut).st = .fault then .run else (s.fut c.fut).st)
  | .matrix word _ _ => ∀ m o, s.mmaOf word = some (m, o) → tok ∈ o.faults →
    let left := if code = 0 then o.faults.filter (· != tok) else []
    let o' := { o with faults := left, code := if o.code = 0 then code else o.code }
    t.mmaOf word = some ({ m with op := .mma o' }, o') ∧
      (t.fut o.fut).st = (if left = [] ∧ (s.fut o.fut).st = .fault then .run else (s.fut o.fut).st) ∧ t.warps = s.warps
  | .atom w g m => GangServed s t w g tok code m 0x19 f.va
  | .fetch w g => GangServed s t w g tok code (BitVec.allOnes 32) 0x05 f.va

/-- An answer with a code makes its work go on, and ends nothing. -/
def GoesOnWith (s : State) (f : FaultRec) (code : Nat) : Prop :=
  code = 0 ∧ match f.who with
    | .copy id _ _ => ∀ c, tget s.copies id = some c → c.code = 0
    | .matrix _ _ _ => True
    | .atom w _ _ => NoNotice s w
    | .fetch w _ => NoNotice s w

/-- An event answers the entry of a token with a code (R340): the entry is answered no more; a cancelled one changes nothing
else; an unknown token is logged with code 0x05. -/
def AnswersWith (event : Nat → Nat → Instr) (code : Nat) : Prop :=
  ∀ (vi tok : Nat) (s : State),
    (∀ f, tget (s.vi vi).faults tok = some f → f.entry.isSome →
      ∃ u, exec (event vi tok) s = .next u ∧ tget (u.vi vi).faults tok = none ∧
        (GoesOnWith s f code →
          (∀ j, j ≠ tok → tget (u.vi vi).faults j = tget (s.vi vi).faults j) ∧ u.mem = s.mem) ∧
        if f.cancelled then u = { s with vis := u.vis } else Resumed s u f tok code) ∧
    ((tget (s.vi vi).faults tok = none ∨ ∃ f, tget (s.vi vi).faults tok = some f ∧ f.entry = none) →
      ∃ u, exec (event vi tok) s = .next u ∧ Logged s u vi 0x05 0 0 0 tok ∧ u.warps = s.warps ∧ u.copies = s.copies)

end Sys2Proof.Claims

/-- The next entry that waits for the fault queue is written when there is room for it (R338, R339, R424); ACTION 0 to 2 of
FQRESUME answer an entry, and ACTION 3 is ignored (R338, R340). -/
def Sys2Proof.Claims.faultEntryClause : Prop :=
  (∀ (vi tok : Nat) (rest : List Nat) (f : FaultRec) (s : State), (s.vi vi).fqWait = tok :: rest →
    tget (s.vi vi).faults tok = some f →
    let r := (s.vi vi).fq
    (2 ^ r.log2n ≤ r.used ∨ s.ringOk vi r 32 = false → exec (.faultQueueEntryWrite vi) s = .next s) ∧
    (r.used < 2 ^ r.log2n → s.ringOk vi r 32 = true →
      ∃ u, exec (.faultQueueEntryWrite vi) s = .next u ∧ (u.vi vi).fq = { r with tail := r.tail + 1 } ∧
        (u.vi vi).fqWait = rest ∧ tget (u.vi vi).faults tok = some { f with entry := some (r.slot 32) } ∧
        ((s.vi vi).msixOn = true → (s.vi vi).msixMask = false → (tgetD (s.vi vi).msix ((s.vi vi).vec 1) {}).masked = false →
          u.sent = s.sent ++ [.msix vi ((s.vi vi).vec 1) (tgetD (s.vi vi).msix ((s.vi vi).vec 1) {}).addr
            (tgetD (s.vi vi).msix ((s.vi vi).vec 1) {}).data]) ∧
        ∀ k, u.byte k =
          let at' := dpaKey (r.slot 32)
          if at' ≤ k ∧ k < at' + 32 then
            (leBytes 8 f.va ++ leBytes 4 tok ++ leBytes 4 f.fut.toNat
              ++ leBytes 4 (f.kind + (if f.wr then 8 else 0) + f.die * 2 ^ 4 + f.cix * 2 ^ 6)
              ++ leBytes 4 (if f.cancelled then 1 else 0) ++ leBytes 8 r.phase.toNat).getD (k - at') 0
          else s.byte k)) ∧
  AnswersWith .fqresumeRetry 0 ∧ AnswersWith .fqresumeAccessError 1 ∧ AnswersWith .fqresumeUnserviceable 2 ∧
    ∀ vi tok s, exec (.fqresumeIgnored vi tok) s = .next s

/-- A new HEAD between the old one and TAIL is taken, any other is logged with code 0x0D (R338); a completion entry that waits
is written as room comes (R339, R399); reading ELLOST clears it (R395). -/
def Sys2Proof.Claims.queueHeadClause : Prop :=
  ∀ (vi : Nat) (v : Word) (s : State),
    (∃ u, exec (.fqheadWrite vi v) s = .next u ∧
      if ((s.vi vi).fq.tail - v.setWidth 17).toNat ≤ ((s.vi vi).fq.tail - (s.vi vi).fq.head).toNat then
        u = { s with vis := u.vis } ∧ u.vi vi = { s.vi vi with fq := { (s.vi vi).fq with head := v.setWidth 17 } } ∧
          ∀ x, x ≠ vi → u.vi x = s.vi x
      else Logged s u vi 0x0D 0 0 0 v.toNat ∧ (u.vi vi).fq = (s.vi vi).fq) ∧
    (∃ u, exec (.elheadWrite vi v) s = .next u ∧
      if ((s.vi vi).el.tail - v.setWidth 17).toNat ≤ ((s.vi vi).el.tail - (s.vi vi).el.head).toNat then
        u = { s with vis := u.vis } ∧ u.vi vi = { s.vi vi with el := { (s.vi vi).el with head := v.setWidth 17 } } ∧
          ∀ x, x ≠ vi → u.vi x = s.vi x
      else Logged s u vi 0x0D 0 0 0 v.toNat) ∧
    (∃ u, exec (.cqheadWrite vi v) s = .next u ∧
      if ((s.vi vi).cq.tail - v.setWidth 17).toNat ≤ ((s.vi vi).cq.tail - (s.vi vi).cq.head).toNat then
        let r : Ring := { (s.vi vi).cq with head := v.setWidth 17 }
        ((s.vi vi).cqWait = [] → u = { s with vis := u.vis } ∧ u.vi vi = { s.vi vi with cq := r }) ∧
        ∀ bs c b, (s.vi vi).cqWait = [⟨bs, 64, c, b⟩] → bs.length = 24 → r.used < 2 ^ r.log2n → s.ringOk vi r 32 = true →
          (u.vi vi).cqWait = [] ∧ (u.vi vi).cq = { r with tail := r.tail + 1 } ∧
          ∀ k, u.byte k =
            let at' := dpaKey (r.slot 32)
            if at' ≤ k ∧ k < at' + 32 then (bs ++ leBytes 8 r.phase.toNat).getD (k - at') 0 else s.byte k
      else Logged s u vi 0x0D 0 0 0 v.toNat ∧ (u.vi vi).cq = (s.vi vi).cq) ∧
    ∃ u, exec (.ellostRead vi) s = .next u ∧ u = { s with vis := u.vis, sent := u.sent } ∧
      u.sent = s.sent ++ [.readData 4 ((s.vi vi).ellost.setWidth 64)] ∧ u.vi vi = { s.vi vi with ellost := 0 } ∧
      ∀ x, x ≠ vi → u.vi x = s.vi x

/-- An invalidation begins, or is logged while one is under way; when it is done, no TLB holds a page that it covers, and
every other translation stays (R392). -/
def Sys2Proof.Claims.invalidationClause : Prop :=
  (∀ (vi : Nat) (v : DWord) (s : State),
    (∃ u, exec (.tlbinvRange vi v) s = .next u ∧
      if (s.vi vi).tlbBusy then Logged s u vi 0x0D 0 0 0 v.toNat ∧ u.dies = s.dies
      else u = { s with vis := u.vis } ∧
        u.vi vi = { s.vi vi with tlbBusy := true, tlbinv := some (some (v.toNat / 2 ^ 12 % 2 ^ 45, v.toNat % 2 ^ 12 + 1)) }) ∧
    ∃ u, exec (.tlbinvAll vi) s = .next u ∧
      if (s.vi vi).tlbBusy then Logged s u vi 0x0D 0 0 0 (2 ^ 63) ∧ u.dies = s.dies
      else u = { s with vis := u.vis } ∧ u.vi vi = { s.vi vi with tlbBusy := true, tlbinv := some none }) ∧
  ∀ (vi : Nat) (s : State), ∃ u, exec (.tlbInvalidationDone vi) s = .next u ∧
    match (s.vi vi).tlbinv with
    | none => u = s
    | some pages => u = { s with dies := u.dies, vis := u.vis } ∧
      u.vi vi = { s.vi vi with tlbBusy := false, tlbinv := none } ∧
      ∀ d q e, e ∈ tgetD (u.die d).tlb q [] ↔ e ∈ tgetD (s.die d).tlb q [] ∧
        (e.vi = vi → match pages with
          | none => False
          | some (p, n) => e.va - e.va % e.size + e.size ≤ p * 4096 ∨ (p + n) * 4096 ≤ e.va - e.va % e.size)

/-- Fault queues and their answers, queue heads, and the invalidation of TLBs (R254, R309, R337 to R340, R392, R395). -/
def Obligations.FaultEvents : Prop := faultEntryClause ∧ queueHeadClause ∧ invalidationClause

namespace Sys2Proof.Claims

/-- What the registers of BAR0 read as (R338, R355, R395, R399, R400, R404): offset, width of the access, value. Two
registers of 32 bits that lie together are read by one access of 8 bytes too. -/
def bar0Reads (V : Vi) : List (Nat × Nat × DWord) :=
  let two (a b : BitVec 17) : DWord := a.setWidth 64 ||| (b.setWidth 64 <<< 32)
  [(0x00, 4, if V.en then 1 else 0), (0x08, 8, V.trapvec), (0x10, 8, V.restvec), (0x18, 8, V.ptbase),
    (0x28, 4, if V.tlbBusy then 1 else 0), (0x30, 8, V.fq.base), (0x38, 4, V.fq.head.setWidth 64),
    (0x3C, 4, V.fq.tail.setWidth 64), (0x38, 8, two V.fq.head V.fq.tail), (0x48, 8, V.digtab), (0x50, 8, V.cq.base),
    (0x58, 8, two V.cq.head V.cq.tail), (0x5C, 4, V.cq.tail.setWidth 64), (0x60, 8, V.el.base),
    (0x68, 8, two V.el.head V.el.tail), (0x70, 4, V.vectors.setWidth 64),
    (0x210, 4, (BitVec.ofNat 32 (V.hbmBase + V.hbmSize * 2 ^ 10)).setWidth 64)] ++
  (List.range 4).flatMap (fun k => [(0x80 + 16 * k, 8, (V.queue k).base),
    (0x88 + 16 * k, 8, two (V.queue k).head (V.queue k).tail), (0x200 + 4 * k, 4, (tgetD V.quads k 0).setWidth 64)]) ++
  (List.range 16).map (fun i => (0x100 + 8 * i, 8, tgetD V.peers i 0))

/-- What the registers of a die's management block read as (R166, R244, R287, R341, R381, R398, R413, R416 to R418,
R423). -/
def dieReads (s : State) (d : Nat) : List (Nat × Nat × DWord) :=
  let D := s.die d
  [(0x00, 4, D.spillArea.setWidth 64), (0x04, 4, D.clpArea.setWidth 64), (0x08, 8, D.futArea),
    (0x10, 4, D.route.setWidth 64), (0xC08, 8, D.energy), (0xC0C, 4, D.energyLatch.setWidth 64),
    (0xC10, 4, (D.tmax.setWidth 64 <<< 8) ||| (if D.trip then 1 else 0)), (0xC14, 4, D.cxlwin.setWidth 64)] ++
  (List.range 12).map (fun g => (0x200 + 4 * g, 4, (s.group (d * 12 + g)).slewcap.setWidth 64)) ++
  (List.range 96).map (fun c => (0x400 + 4 * c, 4, (s.core (d * 96 + c)).preq.setWidth 64)) ++
  (List.range 16).map (fun i =>
    let p := s.port d (i / 2) (i % 2)
    (0x100 + 4 * i, 4, (BitVec.ofNat 32 (p.escCnt.toNat * 2 ^ 16 + p.escape * 2 ^ 8 + p.shared)).setWidth 64))

/-- Registers of BAR0 that a write changes and nothing else: offset, width of the access, and what they then hold; RSV
bits read as zero (R7, R338, R355, R395, R399, R404). -/
def bar0Writes (v : DWord) : List (Nat × Nat × (Vi → Vi)) :=
  [(0x00, 4, fun V => { V with en := v.getLsbD 0 }), (0x08, 8, fun V => { V with trapvec := v &&& 0x01FFFFFFFFFFFFFF }),
    (0x10, 8, fun V => { V with restvec := v &&& 0x01FFFFFFFFFFFFFF }),
    (0x18, 8, fun V => { V with ptbase := v &&& 0x01FFFFFFFFFFF000 }),
    (0x70, 4, fun V => { V with vectors := v.setWidth 32 &&& 0x003F3F3F })] ++
  (List.range 16).map (fun i => (0x100 + 8 * i, 8, fun V =>
    { V with peers := tset V.peers i (v &&& 0x8000FFF0FFFF003F) }))

/-- RO registers of BAR0: offset and RO bits (R338, R392, R395). -/
def bar0Ro : List (Nat × DWord) :=
  [(0x28, 1), (0x3C, 0x1FFFF), (0x5C, 0x1FFFF), (0x6C, 0x1FFFF), (0x88, 0x1FFFF), (0x98, 0x1FFFF),
    (0xA8, 0x1FFFF), (0xB8, 0x1FFFF), (0x200, 0xFFFFFF), (0x210, 0x1FFFFF)]

/-- Offsets of BAR0 at which no register lies (R395); the MSI-X table and its pending bits lie from 0x8000 to 0x8407, which is
log entry 6's choice (R393). -/
def bar0Gap (off : Nat) : Prop :=
  off ∈ [0x04, 0x2C, 0x78, 0x7C] ∨ 0xC0 ≤ off ∧ off < 0x100 ∨ 0x180 ≤ off ∧ off < 0x200 ∨
    0x214 ≤ off ∧ off < 0x8000 ∨ 0x8408 ≤ off

end Sys2Proof.Claims

/-- A read sends the value of the register and changes nothing; ELLOST is cleared, and the low half of ENERGY latches the high
half. A read of no register, of a write-only one, or not of 4 or 8 aligned bytes, gives 0 and is logged with code 0x0C;
a virtual function reaches nothing outside its BAR0 (R393 to R395, R398, R400, R418, R420). -/
def Sys2Proof.Claims.registerReadClause : Prop :=
  ∀ (fn : Nat) (s : State), fn < 64 → s.boot.phase ≠ .recovery →
    (∀ r ∈ bar0Reads (s.vi fn), exec (.registerRead 0 fn r.1 r.2.1) s =
      .next { s with sent := s.sent ++ [.readData r.2.1 r.2.2] }) ∧
    exec (.registerRead 0 fn 0x74 4) s = exec (.ellostRead fn) s ∧
    (∀ off, off % 4 = 0 ∧ (bar0Gap off ∨ off / 8 = 4 ∨ off / 8 = 8) ∨ off % 4 ≠ 0 →
      ∃ u, exec (.registerRead 0 fn off 4) s = .next u ∧ u.sent.getLast? = some (.readData 4 0) ∧
        Logged s u fn 0x0C 0 0 0 off) ∧
    (∀ off w, w ≠ 4 → w ≠ 8 → ∃ u, exec (.registerRead 0 fn off w) s = .next u ∧ Logged s u fn 0x0C 0 0 0 off) ∧
    (fn ≠ 0 → ∀ off, ∃ u, exec (.registerRead 2 fn (4 * off) 4) s = .next u ∧ Logged s u fn 0x0C 0 0 0 (4 * off) ∧
      u.sent.getLast? = some (.readData 4 0)) ∧
    (∀ d, d < 4 →
      (∀ r ∈ dieReads s d, exec (.registerRead 2 0 (0x100000 * d + r.1) r.2.1) s =
        .next { s with sent := s.sent ++ [.readData r.2.1 r.2.2] }) ∧
      exec (.registerRead 2 0 (0x100000 * d + 0xC08) 4) s = exec (.energyReadLatch d) s) ∧
    exec (.registerRead 2 0 0x500000 4) s = .next { s with sent := s.sent ++ [.readData 4
      ((s.boot.fail.setWidth 64 <<< 8) ||| (if s.boot.slot then 4 else 0) ||| (if s.boot.phase = .ready then 2 else 0))] }

/-- A write leaves its value in the RW bits of its register, or is the event that the register stands for. A register of 64
bits that is write-only holds its low half until its high half is written. A 1 in an RO bit, a write to no register and
one not of 4 or 8 aligned bytes are logged with code 0x0C; a ring that lies where it may not with code 0x10 (R338, R341,
R392 to R398, R400, R413, R420, R424). A write to ELLOST, which is RC, does nothing: log entry 70's choice. -/
def Sys2Proof.Claims.registerWriteClause : Prop :=
  ∀ (fn : Nat) (v : DWord) (s : State), fn < 64 → s.boot.phase ≠ .recovery →
    (∀ r ∈ bar0Writes v, ∃ u, exec (.registerWrite 0 fn r.1 r.2.1 v) s = .next u ∧ u = { s with vis := u.vis } ∧
      u.vi fn = r.2.2 (s.vi fn) ∧ ∀ x, x ≠ fn → u.vi x = s.vi x) ∧
    exec (.registerWrite 0 fn 0x38 4 v) s = exec (.fqheadWrite fn (v.setWidth 32)) s ∧
    exec (.registerWrite 0 fn 0x58 4 v) s = exec (.cqheadWrite fn (v.setWidth 32)) s ∧
    exec (.registerWrite 0 fn 0x68 4 v) s = exec (.elheadWrite fn (v.setWidth 32)) s ∧
    (∀ k, k < 4 → exec (.registerWrite 0 fn (0x8C + 16 * k) 4 v) s = exec (.launchQueueDoorbell fn k (v.setWidth 32)) s) ∧
    (∃ u, exec (.registerWrite 0 fn 0x20 4 v) s = .next u ∧ u = { s with vis := u.vis } ∧
      u.vi fn = { s.vi fn with tlbinvLo := v.setWidth 32 }) ∧
    (∃ o, o = { s with vis := o.vis } ∧ o.vi fn = { s.vi fn with tlbinvLo := 0 } ∧ (∀ x, x ≠ fn → o.vi x = s.vi x) ∧
      exec (.registerWrite 0 fn 0x24 4 v) s = exec (if v.getLsbD 31 then .tlbinvAll fn
        else .tlbinvRange fn (v.setWidth 32 ++ (s.vi fn).tlbinvLo)) o ∧
      exec (.registerWrite 0 fn 0x20 8 v) s = exec (if v.getLsbD 63 then .tlbinvAll fn else .tlbinvRange fn v) o) ∧
    (∃ o, o = { s with vis := o.vis } ∧ o.vi fn = { s.vi fn with fqresumeLo := 0 } ∧ (∀ x, x ≠ fn → o.vi x = s.vi x) ∧
      exec (.registerWrite 0 fn 0x40 8 v) s = exec (match (v.extractLsb' 32 2).toNat with
        | 0 => .fqresumeRetry fn (v.toNat % 2 ^ 32)
        | 1 => .fqresumeAccessError fn (v.toNat % 2 ^ 32)
        | 2 => .fqresumeUnserviceable fn (v.toNat % 2 ^ 32)
        | _ => .fqresumeIgnored fn (v.toNat % 2 ^ 32)) o) ∧
    (∃ o, o = { s with vis := o.vis } ∧ (∀ x, x ≠ fn → o.vi x = s.vi x) ∧
      o.vi fn = { s.vi fn with fq := { (s.vi fn).fq with base := v &&& 0x01FFFFFFFFFFF01F } } ∧
      ∃ u, exec (.registerWrite 0 fn 0x30 8 v) s = .next u ∧
        if s.ringOk fn (o.vi fn).fq 32 then u = o else Logged o u fn 0x10 0 0 0 (o.vi fn).fq.addr) ∧
    (∀ r ∈ bar0Ro, ∃ u, exec (.registerWrite 0 fn r.1 4 v) s = .next u ∧
      if v &&& r.2 = 0 then u = s else Logged s u fn 0x0C 0 0 0 r.1) ∧
    exec (.registerWrite 0 fn 0x74 4 v) s = .next s ∧
    (∀ off, off % 4 = 0 ∧ bar0Gap off ∨ off % 4 ≠ 0 →
      ∃ u, exec (.registerWrite 0 fn off 4 v) s = .next u ∧ Logged s u fn 0x0C 0 0 0 off) ∧
    (∀ d, d < 4 →
      (∃ u, exec (.registerWrite 2 0 (0x100000 * d) 4 v) s = .next u ∧ u = { s with dies := u.dies } ∧
        u.die d = { s.die d with spillArea := v.setWidth 32 &&& 0x7FFF007F }) ∧
      (∃ u, exec (.registerWrite 2 0 (0x100000 * d + 0x04) 4 v) s = .next u ∧ u = { s with dies := u.dies } ∧
        u.die d = { s.die d with clpArea := v.setWidth 32 &&& 0x0000FF7F }) ∧
      (∃ u, exec (.registerWrite 2 0 (0x100000 * d + 0x10) 4 v) s = .next u ∧ u = { s with dies := u.dies } ∧
        u.die d = { s.die d with route := v.setWidth 2 }) ∧
      exec (.registerWrite 2 0 (0x100000 * d + 0x08) 8 v) s = exec (.futareaWrite d v) s ∧
      (v &&& 0x00000FFF00000000 = 0 →
        exec (.registerWrite 2 0 (0x100000 * d + 0xC00) 8 v) s = exec (.qclassWrite d v) s) ∧
      (v &&& 0x0FFF0000 = 0 → ∃ u, exec (.registerWrite 2 0 (0x100000 * d + 0xC18) 4 v) s = .next u ∧
        u = { s with dies := u.dies } ∧ u.die d = { s.die d with boostEn := v.setWidth 12 }) ∧
      (∀ g, g < 12 → ∃ u, exec (.registerWrite 2 0 (0x100000 * d + 0x200 + 4 * g) 4 v) s = .next u ∧
        u = { s with groups := u.groups } ∧
        u.group (d * 12 + g) = { s.group (d * 12 + g) with slewcap := v.setWidth 32 &&& 0x00FFFF00 }) ∧
      ∀ c, c < 96 → v &&& 0x60000000 = 0 → exec (.registerWrite 2 0 (0x100000 * d + 0x400 + 4 * c) 4 v) s =
        exec (if v.getLsbD 31 then .preqRequest (d * 96 + c) (v.setWidth 32)
          else .preqWithdraw (d * 96 + c) (v.setWidth 32)) s) ∧
    (∀ vi i, vi < 64 → i < 4 → ∃ u, exec (.registerWrite 2 0 (0x400000 + 32 * vi + 4 * i) 4 v) s = .next u ∧
      u = { s with vis := u.vis } ∧ u.vi vi = { s.vi vi with quads := tset (s.vi vi).quads i (v.setWidth 24) }) ∧
    (∀ vi, vi < 64 → (s.vi vi).cqWait = [] → ∃ u, exec (.registerWrite 2 0 (0x400000 + 32 * vi + 16) 4 v) s = .next u ∧
      u = { s with vis := u.vis } ∧ u.vi vi = { s.vi vi with
        hbmBase := (v.extractLsb' 0 10).toNat, hbmSize := (v.extractLsb' 10 11).toNat }) ∧
    exec (.registerWrite 2 0 0x500000 4 1) s = exec .bootstatRetry s

/-- QCLASS gives each rail group its next class; the group that is empty waits 200 rt, and then the class takes effect while
its count of cycles goes on (R412 to R414). -/
def Sys2Proof.Claims.classClause : Prop :=
  (∀ (d : Nat) (v : DWord) (s : State), d < 4 → ∃ u, exec (.qclassWrite d v) s = .next u ∧ u = { s with groups := u.groups } ∧
    (∀ g, g < 12 →
      let c := (v.extractLsb' (2 * g) 2).toNat
      u.group (d * 12 + g) = if c = (s.group (d * 12 + g)).cls then
          { s.group (d * 12 + g) with pend := none, emptySince := none }
        else { s.group (d * 12 + g) with pend := some c }) ∧
    ∀ k, k < d * 12 ∨ d * 12 + 12 ≤ k → u.group k = s.group k) ∧
  ∀ (g c : Nat) (s : State), (s.group g).pend = some c →
    ∃ u, exec (.classChangeEffect g) s = .next u ∧
      match (s.group g).emptySince with
      | none =>
        if ∀ x ∈ s.blocks, groupOf x.2.core = g → x.2.live = false ∨ x.2.released = true ∧ s.pinned x.1 = false then
          u = { s with groups := u.groups } ∧ u.group g = { s.group g with emptySince := some s.now }
        else u = s
      | some t =>
        if s.now < t + 200 * 2970 then u = s
        else u = { s with groups := u.groups } ∧ (u.group g).cls = c ∧ (u.group g).pend = none ∧
          (u.group g).emptySince = none ∧ (u.group g).boosted = false ∧
          (u.group g).count s.now = (s.group g).count s.now

/-- Energy, temperature, the overflow records and configuration requests (R244, R393, R416, R418, R422). -/
def Sys2Proof.Claims.meterClause : Prop :=
  (∀ (d n : Nat) (s : State), d < 4 → ∃ u, exec (.energyAccumulate d n) s = .next u ∧
    if s.refTick / 100 ≤ (s.die d).energyAt then u = s
    else u = { s with dies := u.dies } ∧ (∀ x, x ≠ d → u.die x = s.die x) ∧
      u.die d = { s.die d with
        energy := (s.die d).energy + BitVec.ofNat 64 (((s.die d).energyFrac + n) / 1000)
        energyFrac := ((s.die d).energyFrac + n) % 1000, energyAt := (s.die d).energyAt + 1 }) ∧
  (∀ (d : Nat) (s : State), d < 4 → ∃ u, exec (.energyReadLatch d) s = .next u ∧ u = { s with dies := u.dies, sent := u.sent } ∧
    u.sent = s.sent ++ [.readData 4 ((s.die d).energy &&& 0xFFFFFFFF)] ∧
    u.die d = { s.die d with energyLatch := (s.die d).energy.extractLsb' 32 32 }) ∧
  (∀ (d : Nat) (t : BitVec 8) (s : State), d < 4 → ∃ u, exec (.thermalTripChange d t) s = .next u ∧
    u = { s with dies := u.dies } ∧ (∀ x, x ≠ d → u.die x = s.die x) ∧
    u.die d = { s.die d with tmax := t, trip := decide (105 ≤ t.toNat) || decide (95 < t.toNat) && (s.die d).trip }) ∧
  (∀ (d : Nat) (v : DWord) (s : State), d < 4 → ∃ u, exec (.futareaWrite d v) s = .next u ∧
    if ∃ x ∈ s.futs, x.1 / 2 ^ 22 = d ∧ 262144 ≤ x.1 % 2 ^ 22 ∧ x.2.st ≠ .free then
      Logged s u 0 0x04 d 0 0 0 ∧ u.dies = s.dies
    else u = { s with dies := u.dies } ∧ (∀ x, x ≠ d → u.die x = s.die x) ∧
      u.die d = { s.die d with futArea := v &&& 0xFFC01FFFFFFFFFFF }) ∧
  ∀ (fn : Nat) (on mask : Bool) (s : State), ∃ u, exec (.configurationRequest fn on mask) s = .next u ∧
    u = { s with sent := u.sent, vis := u.vis } ∧ (s.boot.phase ≠ .recovery →
      u.sent = s.sent ++ [.config (decide (s.boot.phase ≠ .ready))]) ∧
    (∀ x, x ≠ fn → u.vi x = s.vi x) ∧
    u.vi fn = if s.boot.phase = .ready ∧ fn < 64 then { s.vi fn with msixOn := on, msixMask := mask } else s.vi fn

/-- The register blocks, and the events behind their registers (R244, R338, R392 to R400, R412 to R424). -/
def Obligations.RegisterEvents : Prop := registerReadClause ∧ registerWriteClause ∧ classClause ∧ meterClause

namespace Sys2Proof.Claims

/-- Bytes stand at a key, and no other byte of storage has changed. -/
def BytesAt (s t : State) (key : Nat) (bs : List Byte) : Prop :=
  ∀ k, t.byte k = if key ≤ k ∧ k < key + bs.length then bs.getD (k - key) 0 else s.byte k

/-- A copy that is under way fails at a port: its log entry names it, and it ends with CODE 0x01, a faulted one once it is
served (R245); an atomic on `.mem` of one lane leaves its queue, and the lane takes the access-error trap at the word (R337,
R403, R405). -/
def FailsAtPort (s t : State) (id : Nat) (c : Copy) (code : Nat) : Prop :=
  (c.atoms = [] → c.doomed = false → c.allLanded = false →
    (∃ cut, tget t.copies id = some { c with code := 1, cut := cut }) ∧
    ((∀ b, c.bar = some b → c.total - c.landedBytes ≤ (s.bar b).pend) →
      Logged s t c.vi code (dieOf c.core) (cixOf c.core) (BitVec.ofNat 32 (s.block c.block).bix) 0)) ∧
  ∀ l x n va, c.atoms = [(l, x)] → c.src = .elems n [va] → l < 32 → (s.warp c.warp).alive.getLsbD l = true →
    (tget s.warps c.warp).isSome → (s.warp c.warp).cur = false → (s.warp c.warp).Quiet →
    tget t.copies id = none ∧ (t.warp c.warp).tcause = 0x19 ∧ (t.warp c.warp).tmask = maskOf [l] ∧
      (t.warp c.warp).taddr = BitVec.ofNat 64 va ∧ (t.warp c.warp).cur = true ∧
      ((t.warp c.warp).lane l).tpc = c.pc ∧ ((t.warp c.warp).lane l).pc = (s.vi (s.warp c.warp).vi).trapvec

end Sys2Proof.Claims

/-- The host reads and writes HBM through BAR4 at the home, and performs FetchAdd, Swap and CAS there (R220, R221, R393); a
pending message goes out once neither its vector nor its function is masked (R366, R399). -/
def Sys2Proof.Claims.hostClause : Prop :=
  (∀ (addr n : Nat) (v : DWord) (s : State), 1 ≤ n → n ≤ 8 → addr + n ≤ 768 * 2 ^ 30 →
    (s.hbmErr = [] → exec (.hostBar4Access false addr n v) s =
      .next { s with sent := s.sent ++ [.readData n (BitVec.ofNat 64 (s.num (dpaKey addr) n))] }) ∧
    (∃ u, exec (.hostBar4Access true addr n v) s = .next u ∧ BytesAt s u (dpaKey addr) (leBytes n v.toNat) ∧
      u.sent = s.sent) ∧
    ((n = 4 ∨ n = 8) → addr % n = 0 → s.hbmErr = [] → ∀ op y, op = 0 ∨ op = 6 ∨ op = 7 →
      ∃ u, exec (.hostAtomicop op addr n v y) s = .next u ∧
        let old := s.num (dpaKey addr) n
        u.sent = s.sent ++ [.readData n (BitVec.ofNat 64 old)] ∧
        BytesAt s u (dpaKey addr) (leBytes n (if op = 0 then old + v.toNat else if op = 6 then v.toNat
          else if old = v.toNat % 2 ^ (8 * n) then y.toNat else old)))) ∧
  (∀ (addr n op : Nat) (v y : DWord) (write : Bool) (s : State), 768 * 2 ^ 30 < addr + n →
    exec (.hostBar4Access write addr n v) s = .next s ∧ exec (.hostAtomicop op addr n v y) s = .next s) ∧
  ∀ (vi vec : Nat) (s : State), ∃ u, exec (.msixPendingSend vi vec) s = .next u ∧
    let e := tgetD (s.vi vi).msix vec {}
    if (s.vi vi).msixOn = true ∧ (s.vi vi).msixMask = false ∧ e.masked = false ∧ e.pending = true then
      u = { s with sent := s.sent ++ [.msix vi vec e.addr e.data], vis := u.vis } ∧ (∀ x, x ≠ vi → u.vi x = s.vi x) ∧
        u.vi vi = { s.vi vi with msix := tset (s.vi vi).msix vec { e with pending := false } }
    else u = s

/-- An access of a peer is translated in the tables of the interface that it names and performs at its home; one that does not
translate is answered with a failure and logged with code 0x09 (R336, R387, R404). -/
def Sys2Proof.Claims.peerClause : Prop :=
  ∀ (vi addr n : Nat) (x y : DWord) (s : State), vi < 64 → 1 ≤ n → n ≤ 8 → addr % n = 0 →
    (∀ a, (s.walk vi addr false false).1 = .ok a → s.hbmErr = [] → exec (.peerAccessReceived vi 0 addr n x y) s =
      .next { s with sent := s.sent ++ [.peer (BitVec.ofNat 64 (s.num (dpaByte vi a) n)) true] }) ∧
    (∀ a, (s.walk vi addr true false).1 = .ok a → Storable s (dpaByte vi a) →
      (∃ u, exec (.peerAccessReceived vi 1 addr n x y) s = .next u ∧ u.sent = s.sent ++ [.peer 0 true] ∧
        BytesAt s u (dpaByte vi a) (leBytes n x.toNat)) ∧
      (s.hbmErr = [] → ∀ (o : Nat) (ty : BitVec 3), n = (if wideTy ty then 8 else 4) →
        ∃ u, exec (.peerAccessReceived vi (2 + 8 * o + ty.toNat) addr n x y) s = .next u ∧
          let old := BitVec.ofNat 64 (s.num (dpaByte vi a) n)
          u.sent = s.sent ++ [.peer old true] ∧
          BytesAt s u (dpaByte vi a) (leBytes n (rmwNew ⟨o, ty, 0, x, y, true⟩ old).1.toNat))) ∧
    ∀ op, (∀ a, (s.walk vi addr (op != 0) false).1 ≠ .ok a) →
      ∃ u, exec (.peerAccessReceived vi op addr n x y) s = .next u ∧ Logged s u vi 0x09 0 0 0 addr ∧
        u.sent.getLast? = some (.peer 0 false)

/-- The stop of the bridge by which a die sends to another (R386): H, at stop 0, while the columns differ, otherwise V, at
stop 4. -/
def Sys2Proof.Claims.bridgeStop (die d : Nat) : Nat := if die % 2 ≠ d % 2 then 0 else 4

/-- A packet enters its ring by the shorter way or as ROUTE says (R383); its head takes the next link when a slot is free, one
packet at a time in the order of R384, and its tail follows for four fabric cycles; at its stop the sinks take it (R381,
R382, R384). One for another die goes over bridge H while the columns differ, and then over bridge V, from the stop of the
same number (R386); that the event names such a destination as 8 × (1 + die) + stop is log entry 71's choice. -/
def Sys2Proof.Claims.ringClause : Prop :=
  (∀ (die src dst : Nat) (s : State), die < 4 → src < 8 → dst < 8 → src ≠ dst →
    ∃ u, exec (.ringPacketInject die src dst) s = .next u ∧ u = { s with dies := u.dies, uid := s.uid + 1 } ∧
      (∀ d, d ≠ die → u.die d = s.die d) ∧
      let right := (dst + 8 - src) % 8
      let left := (src + 8 - dst) % 8
      let cw := decide ((s.die die).route = 1 ∨ (s.die die).route ≠ 2 ∧ right ≤ left)
      let p : Packet := { cw := cw, dst := dst, hops := if cw then right else left, stop := src, injecting := true, vc := 0
                          ready := s.fabric, arrived := s.fabric, far := (die, dst) }
      u.die die = { s.die die with packets := tset (s.die die).packets s.uid p }) ∧
  (∀ (die src d k : Nat) (s : State), die < 4 → src < 8 → d < 4 → k < 8 → d ≠ die → src ≠ bridgeStop die d →
    ∃ u p, exec (.ringPacketInject die src (8 * (1 + d) + k)) s = .next u ∧ u = { s with dies := u.dies, uid := s.uid + 1 } ∧
      u.die die = { s.die die with packets := tset (s.die die).packets s.uid p } ∧
      p.stop = src ∧ p.dst = bridgeStop die d ∧ p.injecting = true ∧ p.far = (d, k)) ∧
  ∀ (die pkt : Nat) (p : Packet) (s : State), tget (s.die die).packets pkt = some p →
    let here := s.port die p.stop p.ring
    let there := s.port die p.nextStop p.ring
    let goes := (p.injecting = true ∨ p.stop ≠ p.dst) ∧ p.ready ≤ s.fabric ∧ here.busy ≤ s.fabric ∧
      (4 ≤ there.shared ∨ 4 ≤ there.escape ∧ (p.injecting = false ∧ p.vc = 2 ∨ 2 ≤ s.freeEscapes die p.ring)) ∧
      ∀ x ∈ (s.die die).packets, x.2.stop = p.stop → x.2.cw = p.cw → s.sendable die x.2 = true →
        servedBefore x (pkt, p) = false
    let left : Port := if p.injecting then here else { here with returns := here.returns ++ [(s.fabric + 4, p.vc == 2)] }
    (¬ goes → exec (.ringHop die pkt) s = .next s) ∧
    (goes → ∃ u, exec (.ringHop die pkt) s = .next u ∧ u = { s with dies := u.dies } ∧
      tget (u.die die).packets pkt = some { p with
        stop := p.nextStop, injecting := false, hops := p.hops - 1, crossed := p.crossing
        vc := if 4 ≤ there.shared then (if p.crossing then 1 else 0) else 2
        ready := s.fabric + 3, arrived := s.fabric + 1 } ∧
      (∀ k, k ≠ pkt → tget (u.die die).packets k = tget (s.die die).packets k) ∧
      u.port die p.stop p.ring = { left with busy := s.fabric + 4 } ∧
      u.port die p.nextStop p.ring = if 4 ≤ there.shared then { there with shared := there.shared - 4 }
        else { there with escape := there.escape - 4, escCnt := there.escCnt + 1 }) ∧
    ∃ u, exec (.ringDelivery die pkt) s = .next u ∧
      if p.injecting = false ∧ p.stop = p.dst ∧ p.ready ≤ s.fabric ∧ here.sink ≤ s.fabric then
        (p.far = (die, p.dst) → u = { s with dies := u.dies } ∧ tget (u.die die).packets pkt = none ∧
          (∀ k, k ≠ pkt → tget (u.die die).packets k = tget (s.die die).packets k) ∧
          u.port die p.stop p.ring = { left with sink := s.fabric + 4 }) ∧
        (die < 4 → p.far.1 < 4 → p.far.1 ≠ die → p.dst = bridgeStop die p.far.1 →
          let e := if p.dst = 0 then Nat.xor die 1 else Nat.xor die 2
          let leg := if e = p.far.1 then p.far.2 else bridgeStop e p.far.1
          tget (u.die die).packets pkt = none ∧
          if leg = p.stop then (u.die e).packets = (s.die e).packets
          else ∃ q, tget (u.die e).packets s.uid = some q ∧ q.stop = p.stop ∧ q.dst = leg ∧ q.injecting = true ∧
            q.far = p.far)
      else u = s

/-- Errors at the ports: poison of a CXL line, a failed access, the loss of a link with what is outstanding behind it, an error
completion of the host, an error of a peer (R397, R403, R405); and the sixteenth correction of a pin group within 10 ms,
which marks it failed (R347). -/
def Sys2Proof.Claims.portClause : Prop :=
  (∀ (id line d : Nat) (s : State), dpaTarget s (64 * line) = .cxl d →
    ∃ u, exec (.cxlErrorResponse true id line) s = .next u ∧ u = { s with poison := u.poison } ∧
      ∀ k, k ∈ u.poison ↔ k ∈ s.poison ∨ 8 * line ≤ k ∧ k < 8 * line + 8) ∧
  (∀ (id line : Nat) (c : Copy) (s : State), tget s.copies id = some c →
    (∃ u, exec (.cxlErrorResponse false id line) s = .next u ∧ FailsAtPort s u id c 0x0B) ∧
    ∃ u, exec (.peerLinkError id) s = .next u ∧
      (c.src.isPeer = true ∨ c.dst.isPeer = true ∨ (∃ a ∈ c.atoms, a.2.1 / 2 ^ 100 = 8) → FailsAtPort s u id c 0x0E)) ∧
  (∀ (die : Nat) (loss : Bool) (s : State), die < 4 → (s.copies.map (·.1)).Nodup → (∀ x ∈ s.copies, s.atomAtPort x.2 die = false) →
    ∃ u, exec (.cxlViralOrLinkLoss die loss) s = .next u ∧
      (u.die die).cxlUp = ((s.die die).cxlUp && !loss) ∧ (∀ d, d ≠ die → u.die d = s.die d) ∧
      ((∀ x ∈ s.copies, (∃ f ∈ x.2.flying, die ∈ f.ports) → x.2.bar = none) →
        ∀ v, v < 64 → if (s.vi v).el.used < 2 ^ (s.vi v).el.log2n ∧ s.ringOk v (s.vi v).el 32 = true then
          (u.vi v).el = { (s.vi v).el with tail := (s.vi v).el.tail + 1 }
        else u.vi v = { s.vi v with ellost := (s.vi v).ellost + 1 }) ∧
      ∀ x ∈ s.copies, if ∃ f ∈ x.2.flying, die ∈ f.ports then
          ∃ cut, tget u.copies x.1 = some { x.2 with
            code := 1, cut := cut, flying := x.2.flying.filter (fun f => !f.ports.contains die) }
        else tget u.copies x.1 = some x.2) ∧
  (∀ (vi addr : Nat) (s : State), ∃ u, exec (.pcieErrorCompletion vi addr) s = .next u ∧ Logged s u vi 0x0A 0 0 0 addr ∧
    u = { s with vis := u.vis, mem := u.mem, poison := u.poison, sent := u.sent }) ∧
  ∀ (chan pin : Nat) (s : State), ∃ u, exec (.hbmPinGroupMark chan pin) s = .next u ∧
    if (tget s.pinMarks chan).isSome ∨
        (s.pinHits.filter (fun h => h.1 == chan && h.2.1 == pin && s.now - h.2.2 ≤ 2970000000)).length < 16 then u = s
    else tget u.pinMarks chan = some pin ∧ (∀ k, k ≠ chan → tget u.pinMarks k = tget s.pinMarks k) ∧
      ∀ v, v < 64 → if (s.vi v).el.used < 2 ^ (s.vi v).el.log2n ∧ s.ringOk v (s.vi v).el 32 = true then
          (u.vi v).el = { (s.vi v).el with tail := (s.vi v).el.tail + 1 }
        else u.vi v = { s.vi v with ellost := (s.vi v).ellost + 1 }

/-- What the host, the CXL ports, the peers and the rings do (R221, R336, R337, R347, R366, R379 to R387, R393, R397, R399,
R403 to R405). -/
def Obligations.HostAndLinkEvents : Prop := hostClause ∧ peerClause ∧ ringClause ∧ portClause

namespace Sys2Proof.Claims

/-- Bytes of a firmware slot: A from 0 of flash, B from 2^32 (R419; the places are the model's, log entry 44). -/
def slotAt (s : State) (b : Bool) (off n : Nat) : List Byte := bytesAt s.mem (flashKey ((if b then 2 ^ 32 else 0) + off)) n

/-- What the boot ROM asks of a slot (R419): its key is fused and not revoked, its SVN is not below the minimum, its signature
verifies, and its body has its digest. -/
def Accepted (s : State) (b : Bool) : Prop :=
  let key := slotAt s b 0x30 32
  (∃ i, i < 4 ∧ s.boot.digests[i]? = some (digestBits (sha256 key)) ∧ s.boot.revoked.getLsbD i = false) ∧
    s.boot.minSvn.toNat ≤ leNat (slotAt s b 0x04 4) ∧
    Config.slhVerify key (slotAt s b 0 0x50) (slotAt s b 0x50 7856) = true ∧
    sha256 (slotAt s b 0x1F00 (leNat (slotAt s b 0x08 8))) = slotAt s b 0x10 32

/-- Verification (R419, R420): the first slot that is accepted runs; with neither, recovery, and FAIL holds why the last one
was rejected. -/
def Verifies (s t : State) : Prop :=
  t = { s with boot := t.boot } ∧ t.boot.digests = s.boot.digests ∧ t.boot.revoked = s.boot.revoked ∧
    t.boot.minSvn = s.boot.minSvn ∧
    (Accepted s false → t.boot.phase = .verified ∧ t.boot.slot = false ∧ t.boot.fail = s.boot.fail) ∧
    (¬ Accepted s false → Accepted s true →
      t.boot.phase = .verified ∧ t.boot.slot = true ∧ 1 ≤ t.boot.fail ∧ t.boot.fail ≤ 4) ∧
    (¬ Accepted s false → ¬ Accepted s true →
      t.boot.phase = .recovery ∧ t.boot.erased = [] ∧ 1 ≤ t.boot.fail ∧ t.boot.fail ≤ 4)

/-- The responder sends bytes. -/
def Sends (s t : State) (bs : List Byte) : Prop := t = { s with sent := s.sent ++ [.spdm bs] }

/-- The responder answers a request, and both messages join the transcript (R421). -/
def Replies (s t : State) (req resp : List Byte) : Prop :=
  t = { s with sent := s.sent ++ [.spdm resp], boot := t.boot, fresh := t.fresh } ∧
    t.boot.transcript = s.boot.transcript ++ req ++ resp ∧ t.boot.phase = s.boot.phase

/-- A measurement block (R421): index, DMTF form, value type, and the SHA-256 digest. -/
def blockOf (s : State) (i : Nat) : List Byte :=
  [BitVec.ofNat 8 i, 1, 35, 0, BitVec.ofNat 8 (i - 1), 32, 0] ++ sha256 (s.measured i)

end Sys2Proof.Claims

/-- A package reset gives every register its reset value and starts REFTICK at 0; fuses, flash, memory outside the module and
the generations of clusters stay (R181, R422; what stays is the model's choice, log entry 44). -/
def Sys2Proof.Claims.resetClause : Prop :=
  ∀ s : State, (s.clusters.map (·.1)).Nodup → ∃ u, exec .packageReset s = .next u ∧
    u = { State.reset with mem := u.mem, poison := u.poison, clusters := u.clusters, boot := u.boot, sent := s.sent
                           uid := s.uid, fresh := s.fresh, agenda := s.agenda } ∧
    u.refTick = 0 ∧ u.boot = { digests := s.boot.digests, revoked := s.boot.revoked, minSvn := s.boot.minSvn } ∧
    (∀ c, (u.cluster c).gen = (s.cluster c).gen ∧ (u.cluster c).live = false) ∧
    ∀ k, u.byte k = if 768 * 2 ^ 30 ≤ k ∧ k < 2 ^ 100 ∨ k / 2 ^ 100 = 8 ∨ k / 2 ^ 100 = 9 then s.byte k else 0

/-- Bring-up passes its phases in turn: verification, memory, links, windows, READY. A phase that fails leaves recovery with its
code; HBM is zero after phase 3 and the die scratchpads after phase 6 (R419, R420, R422, R423). -/
def Sys2Proof.Claims.phaseClause : Prop :=
  ∀ s : State,
    (∃ u, exec .bootRomVerify s = .next u ∧ if s.boot.phase = .reset then Verifies s u else u = s) ∧
    (∃ u, exec .bootstatRetry s = .next u ∧ if s.boot.phase = .recovery then Verifies s u else u = s) ∧
    (∀ ok, ∃ u, exec (.hbmTraining ok) s = .next u ∧
      if s.boot.phase ≠ .verified then u = s
      else if ok then u.boot = { s.boot with phase := .memory } ∧ u.hbmErr = [] ∧
        u = { s with mem := u.mem, poison := u.poison, hbmErr := u.hbmErr, boot := u.boot } ∧
        ∀ k, u.byte k = if k < 768 * 2 ^ 30 then 0 else s.byte k
      else u = { s with boot := { s.boot with phase := .recovery, fail := 0x05, erased := [] } }) ∧
    (∀ ok, ∃ u, exec (.linkTraining ok) s = .next u ∧
      if s.boot.phase ≠ .memory then u = s
      else if ok then u = { s with boot := { s.boot with phase := .links } }
      else u = { s with boot := { s.boot with phase := .recovery, fail := 0x06, erased := [] } }) ∧
    (∀ caps, ∃ u, exec (.cxlEnumeration caps) s = .next u ∧
      if s.boot.phase ≠ .links then u = s
      else u = { s with dies := u.dies, boot := { s.boot with phase := .windows } } ∧
        ∀ d, d < 4 → (u.die d).cxlwin.toNat = min 1024 (caps.getD d 0 / 2 ^ 30) ∧
          (u.die d).cxlUp = decide (2 ^ 30 ≤ caps.getD d 0)) ∧
    ∃ u, exec .bringUpReady s = .next u ∧
      if s.boot.phase ≠ .windows then u = s
      else u = { s with mem := u.mem, poison := u.poison, boot := { s.boot with phase := .ready } } ∧
        ∀ k, u.byte k = if k / 2 ^ 100 = 1 then 0 else s.byte k

/-- In recovery an aligned write of the flash window lands in slot B, whose block of 64 KiB is erased on its first write
(R419). -/
def Sys2Proof.Claims.flashClause : Prop :=
  ∀ (off : Nat) (v : DWord) (s : State), ∃ u, exec (.flashWindowWrite off v) s = .next u ∧
    if s.boot.phase = .recovery ∧ off % 8 = 0 ∧ off < 2 ^ 32 then
      u = { s with mem := u.mem, boot := { s.boot with erased := u.boot.erased } } ∧
      (∀ b, b ∈ u.boot.erased ↔ b ∈ s.boot.erased ∨ b = off / 65536) ∧
      ∀ k, u.byte k =
        let lo := flashKey (2 ^ 32 + off)
        let blk := flashKey (2 ^ 32 + off / 65536 * 65536)
        if lo ≤ k ∧ k < lo + 8 then (leBytes 8 v.toNat).getD (k - lo) 0
        else if blk ≤ k ∧ k < blk + 65536 ∧ off / 65536 ∉ s.boot.erased then Config.erasedByte
        else s.byte k
    else u = s

/-- The SPDM responder agrees on version, capabilities and algorithms in turn, gives digests, the certificate chain and
measurements, and signs when asked; any other request is unsupported (R421; message layouts are DSP0274's, log entry 24). -/
def Sys2Proof.Claims.spdmClause : Prop :=
  ∀ (req : List Byte) (s : State), s.boot.phase = .ready → 45 ≤ req.length →
    let code := req.getD 1 0
    let agreed := s.boot.algs = true ∧ req.headD 0 = 0x13
    (code = 0x84 → ∃ u, exec (.getVersion req) s = .next u ∧
      let resp : List Byte := [0x10, 0x04, 0, 0, 0, 1, 0, 0x13]
      u = { s with sent := s.sent ++ [.spdm resp], boot := { s.boot with
        transcript := req ++ resp, version := true, caps := false, algs := false } }) ∧
    (code = 0xE1 → s.boot.version = true → req.headD 0 = 0x13 → ∃ u, exec (.getCapabilities req) s = .next u ∧
      u.boot.caps = true ∧ u.boot.algs = s.boot.algs ∧ ∃ resp, Replies s u req resp ∧ resp.take 4 = [0x13, 0x61, 0, 0] ∧
        (resp.drop 8).take 4 = [0x16, 0, 0, 0]) ∧
    (code = 0xE3 → s.boot.caps = true → req.headD 0 = 0x13 → ∃ u, exec (.negotiateAlgorithms req) s = .next u ∧
      u.boot.algs = true ∧ ∃ resp, Replies s u req resp ∧ resp.take 4 = [0x13, 0x63, 0, 0] ∧ resp.length = 40) ∧
    (code = 0x81 → agreed → ∃ u, exec (.getDigests req) s = .next u ∧
      Replies s u req ([0x13, 0x01, 1, 1] ++ sha256 Config.certChain)) ∧
    (code = 0x82 → agreed → (req.getD 2 0).toNat % 16 = 0 → ∃ u, exec (.getCertificate req) s = .next u ∧
      let off := leNat ((req.drop 4).take 2)
      let n := min (leNat ((req.drop 6).take 2)) (min 0xFFFF (Config.certChain.length - off))
      if off < Config.certChain.length then
        Replies s u req ([0x13, 0x02, 0, 0] ++ leBytes 2 n ++ leBytes 2 (Config.certChain.length - off - n)
          ++ (Config.certChain.drop off).take n)
      else Sends s u [0x13, 0x7F, 0x01, 0]) ∧
    (code = 0x83 → agreed → (req.getD 2 0).toNat % 16 = 0 → (req.getD 3 0 = 0 ∨ req.getD 3 0 = 1 ∨ req.getD 3 0 = 0xFF) →
      ∃ u, exec (.challenge req) s = .next u ∧
        let summary := if req.getD 3 0 = 0 then [] else sha256 (if req.getD 3 0 = 1 then blockOf s 1
          else blockOf s 1 ++ blockOf s 2 ++ blockOf s 3 ++ blockOf s 4)
        let body := [0x13, 0x03, 0, 1] ++ sha256 Config.certChain ++ s.spdmNonce ++ summary ++ [0, 0] ++ (req.drop 36).take 8
        Replies s u req (body ++ spdmSign challengeContext (s.boot.transcript ++ req ++ body))) ∧
    (code = 0xE0 → agreed → (req.getD 36 0).toNat % 16 = 0 → ∀ i, (req.getD 3 0 = BitVec.ofNat 8 i ∧ 1 ≤ i ∧ i ≤ 4) →
      ∃ u, exec (.getMeasurements req) s = .next u ∧
        let signed := (req.getD 2 0).getLsbD 0
        let body := [0x13, 0x60, 0, 0, 1, 39, 0, 0] ++ blockOf s i ++ s.spdmNonce ++ [0, 0]
          ++ (req.drop (if signed then 37 else 4)).take 8
        Replies s u req (body ++ if signed then spdmSign measurementsContext (s.boot.transcript ++ req ++ body) else [])) ∧
    (code ∉ [0x84, 0xE1, 0xE3, 0x81, 0x82, 0x83, 0xE0] → ∃ u, exec (.spdmUnsupportedRequest req) s = .next u ∧
      Sends s u [0x13, 0x7F, 0x07, code])

/-- Package reset, bring-up, recovery and attestation (R181, R419 to R423). -/
def Obligations.BringUpEvents : Prop := resetClause ∧ phaseClause ∧ flashClause ∧ spdmClause

namespace Sys2Proof.Claims

/-- The exact result of R77, clamped to the type with SF, otherwise the residue that its width holds. -/
def rule77 (t : Tri) (exact : Int → Int → Int → Int) (a b c : BitVec 64) : BitVec 64 :=
  let w := if t.ty = 2 ∨ t.ty = 3 then 64 else 32
  let signed := t.ty = 0 ∨ t.ty = 2
  let val (x : BitVec 64) : Int :=
    if signed ∧ 2 ^ (w - 1) ≤ x.toNat % 2 ^ w then (x.toNat % 2 ^ w : Int) - 2 ^ w else (x.toNat % 2 ^ w : Int)
  let lo : Int := if signed then -2 ^ (w - 1) else 0
  let hi : Int := if signed then 2 ^ (w - 1) - 1 else 2 ^ w - 1
  let x := exact (val a) (val b) (val c)
  BitVec.ofInt 64 ((if t.sf then max lo (min x hi) else x) % 2 ^ w)

/-- `addc` and `subb` in a lane (R78). -/
def rule78 (t : Tri) (borrow : Bool) : LaneFn := fun s l =>
  let a := src s l t.ty .v1 false t.a
  let b := src s l t.ty .v1 t.bu t.b
  let c := src s l t.ty .pred false t.c
  let cin : Int := if t.sf = false ∧ c.1 ≠ 0 then 1 else 0
  let x : Int := (a.1.toNat % 2 ^ 32 : Int)
  let y : Int := (b.1.toNat % 2 ^ 32 : Int)
  let r := if borrow then x - y - cin else x + y + cin
  let bad := a.2 || b.2 || (!t.sf && c.2)
  (vecResult l t.d.toNat 1 (BitVec.ofInt 64 (r % 2 ^ 32)) bad ++
    predResult l t.c.toNat (if borrow then decide (r < 0) else decide (2 ^ 32 ≤ r)) bad, 0)

end Sys2Proof.Claims

/-- R77: the arithmetic words compute exactly and then clamp or wrap; the I32 forms of `add` and `sub` wrap at 32 bits; none
raises a flag. -/
def Obligations.ArithmeticRule : Prop :=
  (∀ t, ShortWord (.add t) t.h (triUses t shBin false) (triFn t shBin (fun a b c => (rule77 t (fun x y _ => x + y) a b c, 0))) ∧
    ShortWord (.sub t) t.h (triUses t shBin false) (triFn t shBin (fun a b c => (rule77 t (fun x y _ => x - y) a b c, 0))) ∧
    ShortWord (.mul t) t.h (triUses t shBin false) (triFn t shBin (fun a b c => (rule77 t (fun x y _ => x * y) a b c, 0))) ∧
    ShortWord (.mad t) t.h (triUses t shTern false)
      (triFn t shTern (fun a b c => (rule77 t (fun x y z => x * y + z) a b c, 0))) ∧
    ShortWord (.neg t) t.h (triUses t shUn false) (triFn t shUn (fun a b c => (rule77 t (fun x _ _ => 0 - x) a b c, 0))) ∧
    ShortWord (.abs t) t.h (triUses t shUn false) (triFn t shUn (fun a b c => (rule77 t (fun x _ _ => max x (-x)) a b c, 0))) ∧
    ShortWord (.min t) t.h (triUses t shBin false) (triFn t shBin (fun a b c => (rule77 t (fun x y _ => min x y) a b c, 0))) ∧
    ShortWord (.max t) t.h (triUses t shBin false) (triFn t shBin (fun a b c => (rule77 t (fun x y _ => max x y) a b c, 0))) ∧
    ShortWord (.mulhi t) t.h (triUses t shBin false) (triFn t shBin (fun a b c =>
      (rule77 t (fun x y _ => (x * y) / 2 ^ (if t.ty = 2 ∨ t.ty = 3 then 64 else 32)) a b c, 0)))) ∧
  ∀ t, ShortWord (.addImm t) t.h ⟨[(t.a.toNat, 1)], [(t.d.toNat, 1)], false⟩
      (immFn t t.d true (fun a => ((a.setWidth 32 + t.imm).setWidth 64))) ∧
    ShortWord (.subImm t) t.h ⟨[(t.a.toNat, 1)], [(t.d.toNat, 1)], false⟩
      (immFn t t.d true (fun a => ((a.setWidth 32 - t.imm).setWidth 64)))

/-- R78: `addc` and `subb` chain through p[C]: the carry in is 0 with .first and p[C] otherwise, which is 1 for p15; the carry
or borrow out goes to p[C], and is discarded for p15. -/
def Obligations.CarryRule : Prop :=
  ∀ t, ShortWord (.addc t) t.h (triUses t shCarry false) (rule78 t false) ∧
    ShortWord (.subb t) t.h (triUses t shCarry false) (rule78 t true)

/-- Words that the spec encodes (R46 to R49, R53, R57): a guarded `add`; `fmul` with S, W and its mask word; a `cmp`; a `mov`
from a uniform register; a guarded `bra` and a `call`; an acquiring `ld`; `redux`, `join` and `bar.sync`; a pair word; and
the words of zeros and of ones, which are none (R56). -/
def Obligations.DecodeWords : Prop :=
  decodeTableWord 64 0x0026010203000000 = some (.add { h := { g := 3 }, d := 1, a := 2, b := 3 }) ∧
  decodeTableWord 128 0x0000000300000008685E06080A001500 = some (.fmul
    { h := { live := some 0x0000000300000008, w := true }, d := 6, a := 8, b := 10, rm := 1, ty := 5 }) ∧
  decodeTableWord 64 0x045E0102030F0002 = some (.cmp { d := 1, a := 2, b := 3, c := 15, sub := 2 }) ∧
  decodeTableWord 64 0x047E050009000080 = some (.mov { d := 5, b := 9, sub := 0x80 }) ∧
  decodeTableWord 64 0x1C03000000000005 = some (.bra { h := { g := 1, gn := true }, imm := 5 }) ∧
  decodeTableWord 64 0x1C5E100300000008 = some (.call { d := 16, a := 3, imm := 8 }) ∧
  decodeTableWord 64 0x141E030200400172 = some (.ld { d := 3, a := 2, c := 0x40, ty := 1, sub := 0x72 }) ∧
  decodeTableWord 64 0x139E040100000408 = some (.redux { d := 4, a := 1, ty := 4, sub := 8 }) ∧
  decodeTableWord 64 0x1D7E000100000000 = some (.join { a := 1 }) ∧
  decodeTableWord 64 0x155E000006000012 = some (.barSync { b := 6, sub := 0x12 }) ∧
  decodeTableWord 64 0x8082048044020C00 = some (.pairAddN32
    { d := 4, a := 9, y := { po := 0x22, d := 1, a := 6 } }) ∧
  decodeTableWord 64 0 = none ∧ decodeTableWord 128 (2 ^ 128 - 1) = none

/-- Decoding an encoded well-formed instruction gives it back, with the bytes after it (R42, R43, R46 to R49, R57). -/
def Obligations.RoundTrip : Prop :=
  ∀ (i : Instr) (bs : List Byte), i.isWord = true → i.wf = true → decode (encode i ++ bs) = .ok (i, bs)

/-- Whatever decodes is a well-formed instruction word, and the bytes decoded are its encoding: no bit of a word is dropped, and
no other bytes decode (R42, R43, R46 to R49, R56, R57). -/
def Obligations.DecodeSound : Prop :=
  ∀ (bs rest : List Byte) (i : Instr), decode bs = .ok (i, rest) →
    i.isWord = true ∧ i.wf = true ∧ bs = encode i ++ rest

namespace Sys2Proof.Claims

/-- The state in which a scheduler chooses: the levels of its warps have risen as they aged (R134). -/
def risen (s : State) (core sched : Nat) : State :=
  { s with warps := tmap s.warps (fun _ W => if W.core == core && schedOf W.slot == sched then W.rise else W) }

/-- The bytes of the word at an address, and of its mask word when S is set, at their translated places a and b (R42,
R43). -/
def wordBytes (X : State) (vi a b : Nat) : List Byte :=
  bytesAt X.mem (dpaByte vi a) 8 ++
    (if flag (leNat (bytesAt X.mem (dpaByte vi a) 8)) 62 then bytesAt X.mem (dpaByte vi b) 8 else [])

end Sys2Proof.Claims

/-- A scheduler that issues chooses a warp and its leading gang (R118, R133, R134), and the step is `exec` of the instruction to
which the bytes at the gang's program counter decode; bytes that decode to none take the illegal-instruction trap (R42,
R43, R56). An event of the agenda is performed as it stands. -/
def Obligations.StepRunsDecoded : Prop :=
  (∀ (s X : State) (core sched w l a b vi : Nat) (ms : List Move) (W : Warp) (L : Lane) (g : BitVec 32),
    s.agenda = .issue core sched :: ms → ({ s with agenda := ms }).mayIssue core sched = true →
    (risen { s with agenda := ms } core sched).choose core sched = some (w, W) →
    W.leader (s.cycle core) = some (l, L) → g = W.gangAt (s.cycle core) L.pc →
    X = (risen { s with agenda := ms } core sched).account core sched w → vi = (X.warp w).vi →
    s.hbmErr = [] → X.tainted (dpaByte vi a) 8 = false → X.tainted (dpaByte vi b) 8 = false →
    L.pc.toNat % 8 = 0 → (X.xlate vi (X.warp w).core L.pc.toNat false true).1 = .ok a →
    (flag (leNat (bytesAt X.mem (dpaByte vi a) 8)) 62 = true →
      (X.xlate vi (X.warp w).core (L.pc.toNat + 8) false true).1 = .ok b) →
    ∃ t, t = { X with dies := t.dies, cur := ⟨w, g, L.pc⟩ } ∧
      (∀ i rest, decode (wordBytes X vi a b) = .ok (i, rest) → step s = exec i t) ∧
      ∀ e, decode (wordBytes X vi a b) = .error e →
        step s = .next (t.rejectWord (leNat (bytesAt X.mem (dpaByte vi a) 8)))) ∧
  ∀ (s : State) (ms : List Move) (i : Instr), s.agenda = .event i :: ms → i.isWord = false →
    step s = exec i { s with agenda := ms }

/-- What reset leaves (R5, R244, R287, R338, R341, R381, R395, R398, R400, R412, R413, R416 to R418, R420, R422, R423): time 0;
every register holds its reset value, no work stands on the module, and storage is canonical. That VECTORS, ELLOST and the
registers of the CQ, EL and LQ rings are 0, and that a byte which nothing has written reads as zero, is the model's choice
(log entries 5 and 7). -/
def Obligations.ResetState : Prop :=
  State.reset.Canonical ∧ State.reset.refTick = 0 ∧ (∀ k, State.reset.byte k = 0) ∧
  (∀ v, (State.reset.vi v).en = false ∧ (State.reset.vi v).trapvec = 0 ∧ (State.reset.vi v).restvec = 0 ∧
    (State.reset.vi v).ptbase = 0 ∧ (State.reset.vi v).tlbBusy = false ∧ (State.reset.vi v).fq = {} ∧
    (State.reset.vi v).cq = {} ∧ (State.reset.vi v).el = {} ∧ (State.reset.vi v).digtab = 0 ∧
    (State.reset.vi v).vectors = 0 ∧ (State.reset.vi v).ellost = 0 ∧ (∀ k, (State.reset.vi v).queue k = {}) ∧
    (∀ i, tgetD (State.reset.vi v).quads i 0 = 0 ∧ tgetD (State.reset.vi v).peers i 0 = 0) ∧
    (State.reset.vi v).hbmBase = 0 ∧ (State.reset.vi v).hbmSize = 0) ∧
  (∀ d, (State.reset.die d).spillArea = 0 ∧ (State.reset.die d).clpArea = 0 ∧ (State.reset.die d).futArea = 0 ∧
    (State.reset.die d).route = 0 ∧ (State.reset.die d).energy = 0 ∧ (State.reset.die d).boostEn = 0 ∧
    (State.reset.die d).cxlwin = 0 ∧ (State.reset.die d).tmax = 0 ∧ (State.reset.die d).trip = false) ∧
  (∀ d stop ring, (State.reset.port d stop ring).shared = 16 ∧ (State.reset.port d stop ring).escape = 4 ∧
    (State.reset.port d stop ring).escCnt = 0) ∧
  (∀ g, (State.reset.group g).cls = 0 ∧ (State.reset.group g).pend = none ∧
    (State.reset.group g).slewcap.extractLsb' 16 8 = 64 ∧ (State.reset.group g).slewcap.extractLsb' 8 8 = 64) ∧
  (∀ c, (State.reset.core c).preq = 0x400 ∧ State.reset.cycle c = 0) ∧
  (∀ f, (State.reset.fut f).st = .free) ∧ State.reset.warps = [] ∧ State.reset.blocks = [] ∧ State.reset.grids = [] ∧
  State.reset.boot.phase = .reset ∧ State.reset.boot.fail = 0 ∧ State.reset.boot.slot = false

/-- Every step answers a next state, and from storage in its canonical form it leaves storage in its canonical form. -/
def Obligations.StepKeepsCanonical : Prop :=
  ∀ s : State, ∃ t, step s = .next t ∧ (s.Canonical → t.Canonical)
end

