-- ==== Sys2Proof/Laws/Memory.lean ====
section
/-! SUPPORT. Laws/Memory.lean: every operation on the list of cells keeps its canonical form, and what a byte reads as
after it. -/

namespace Sys2Proof.Machine

/-- The canonical form, as a fact about the head and the tail. -/
theorem wf_cons (k : Nat) (v : Byte) (m : List Host.Cell) :
    Memory.wf ((k, v) :: m) = true ↔ v ≠ emptyByte ∧ (∀ c ∈ m, k < c.1) ∧ Memory.wf m = true := by
  induction m generalizing k v with
  | nil => simp [Memory.wf]
  | cons c m ih =>
    obtain ⟨k', v'⟩ := c
    simp only [Memory.wf, Bool.and_eq_true, decide_eq_true_eq, bne_iff_ne, List.mem_cons, forall_eq_or_imp]
    constructor
    · rintro ⟨⟨hk, hv⟩, hm⟩
      exact ⟨hv, ⟨hk, fun c hc => lt_trans hk (((ih k' v').mp hm).2.1 c hc)⟩, hm⟩
    · rintro ⟨hv, ⟨hk, -⟩, hm⟩
      exact ⟨⟨hk, hv⟩, hm⟩

theorem wf_nil : Memory.wf [] = true := rfl

theorem mem_cellDel {m : List Host.Cell} {a : Nat} {c : Host.Cell} (h : c ∈ cellDel m a) : c ∈ m := by
  induction m with
  | nil => simp [cellDel] at h
  | cons d m ih =>
    obtain ⟨k, v⟩ := d
    unfold cellDel at h
    split_ifs at h
    · exact List.mem_cons_of_mem _ (ih h)
    · rcases List.mem_cons.mp h with h | h
      · exact h ▸ List.mem_cons_self
      · exact List.mem_cons_of_mem _ (ih h)

theorem wf_cellDel {m : List Host.Cell} (a : Nat) (h : Memory.wf m = true) : Memory.wf (cellDel m a) = true := by
  induction m with
  | nil => rfl
  | cons d m ih =>
    obtain ⟨k, v⟩ := d
    rw [wf_cons] at h
    unfold cellDel
    split_ifs
    · exact ih h.2.2
    · rw [wf_cons]
      exact ⟨h.1, fun c hc => h.2.1 c (mem_cellDel hc), ih h.2.2⟩

theorem mem_cellPut {m : List Host.Cell} {a : Nat} {b : Byte} {c : Host.Cell} (h : c ∈ cellPut m a b) :
    c = (a, b) ∨ c ∈ m := by
  induction m with
  | nil => simpa [cellPut] using h
  | cons d m ih =>
    obtain ⟨k, v⟩ := d
    unfold cellPut at h
    split_ifs at h
    · simpa using h
    · rcases List.mem_cons.mp h with h | h
      · exact .inl h
      · exact .inr (List.mem_cons_of_mem _ h)
    · rcases List.mem_cons.mp h with h | h
      · exact .inr (h ▸ List.mem_cons_self)
      · exact (ih h).imp_right (List.mem_cons_of_mem _)

theorem wf_cellPut {m : List Host.Cell} (a : Nat) {b : Byte} (hb : b ≠ emptyByte) (h : Memory.wf m = true) :
    Memory.wf (cellPut m a b) = true := by
  induction m with
  | nil => simpa [cellPut, Memory.wf] using hb
  | cons d m ih =>
    obtain ⟨k, v⟩ := d
    unfold cellPut
    have h' := h
    rw [wf_cons] at h
    split_ifs with h1 h2
    · rw [wf_cons]
      refine ⟨hb, fun c hc => ?_, h'⟩
      rcases List.mem_cons.mp hc with hc | hc
      · exact hc ▸ h1
      · exact lt_trans h1 (h.2.1 c hc)
    · rw [wf_cons]
      exact ⟨hb, fun c hc => h2 ▸ h.2.1 c hc, h.2.2⟩
    · rw [wf_cons]
      refine ⟨h.1, fun c hc => ?_, ih h.2.2⟩
      rcases mem_cellPut hc with hc | hc
      · rw [hc]; show k < a; omega
      · exact h.2.1 c hc

/-- A byte written keeps the canonical form. -/
theorem wf_cellSet {m : List Host.Cell} (a : Nat) (b : Byte) (h : Memory.wf m = true) :
    Memory.wf (cellSet m a b) = true := by
  unfold cellSet
  split_ifs with hb
  · exact wf_cellDel a h
  · exact wf_cellPut a hb h

/-- Bytes written keep the canonical form. -/
theorem wf_putBytes {m : List Host.Cell} (key : Nat) (bs : List Byte) (h : Memory.wf m = true) :
    Memory.wf (putBytes m key bs) = true := by
  induction bs generalizing m key with
  | nil => exact h
  | cons b bs ih => exact ih (key + 1) (wf_cellSet key b h)

theorem wf_putList {m : List Host.Cell} (ws : List (Nat × Byte)) (h : Memory.wf m = true) :
    Memory.wf (putList m ws) = true := by
  unfold putList
  induction ws generalizing m with
  | nil => exact h
  | cons w ws ih => exact ih (wf_cellSet w.1 w.2 h)

/-- Cells dropped keep the canonical form. -/
theorem wf_filter {m : List Host.Cell} (p : Host.Cell → Bool) (h : Memory.wf m = true) :
    Memory.wf (m.filter p) = true := by
  induction m with
  | nil => rfl
  | cons d m ih =>
    obtain ⟨k, v⟩ := d
    rw [wf_cons] at h
    rw [List.filter_cons]
    split_ifs
    · rw [wf_cons]
      exact ⟨h.1, fun c hc => h.2.1 c (List.mem_filter.mp hc).1, ih h.2.2⟩
    · exact ih h.2.2

theorem cellGet_cellDel (m : List Host.Cell) (a c : Nat) :
    cellGet (cellDel m a) c = if c = a then emptyByte else cellGet m c := by
  induction m with
  | nil => simp [cellDel, cellGet]
  | cons d m ih =>
    obtain ⟨k, v⟩ := d
    unfold cellDel
    by_cases h1 : k = a
    · by_cases h2 : c = a
      · subst h2
        simpa [h1] using ih
      · simp [h1, h2, ih, cellGet, Ne.symm h2]
    · by_cases hk : k = c
      · subst hk
        simp [h1, cellGet]
      · simp [h1, cellGet, hk, ih]

theorem cellGet_cellPut (m : List Host.Cell) (a c : Nat) (b : Byte) :
    cellGet (cellPut m a b) c = if c = a then b else cellGet m c := by
  induction m with
  | nil =>
    by_cases h : c = a
    · simp [cellPut, cellGet, h]
    · simp [cellPut, cellGet, h, Ne.symm h]
  | cons d m ih =>
    obtain ⟨k, v⟩ := d
    unfold cellPut
    by_cases h1 : a < k
    · by_cases h : c = a
      · simp [h1, cellGet, h]
      · simp [h1, cellGet, h, Ne.symm h]
    · by_cases h2 : k = a
      · by_cases h : c = a
        · simp [h2, cellGet, h]
        · simp [h2, cellGet, h, Ne.symm h]
      · by_cases hk : k = c
        · have hc : c ≠ a := fun e => h2 (hk.trans e)
          subst hk
          simp [h1, hc, cellGet]
        · simp [h1, h2, cellGet, hk, ih]

/-- Reading a byte after a write of one byte. -/
theorem cellGet_cellSet (m : List Host.Cell) (a c : Nat) (b : Byte) :
    cellGet (cellSet m a b) c = if c = a then b else cellGet m c := by
  unfold cellSet
  split_ifs with hb h1 h1
  · rw [cellGet_cellDel, if_pos h1, hb]
  · rw [cellGet_cellDel, if_neg h1]
  · rw [cellGet_cellPut, if_pos h1]
  · rw [cellGet_cellPut, if_neg h1]

/-- Reading a byte after a write of several: a byte of the written range reads as written, any other as before. -/
theorem cellGet_putBytes (m : List Host.Cell) (key c : Nat) (bs : List Byte) :
    cellGet (putBytes m key bs) c =
      if key ≤ c ∧ c < key + bs.length then bs.getD (c - key) emptyByte else cellGet m c := by
  induction bs generalizing m key with
  | nil => simp [putBytes]
  | cons b bs ih =>
    rw [putBytes, ih, cellGet_cellSet]
    simp only [List.length_cons]
    by_cases h1 : c = key
    · subst h1
      rw [if_neg (by omega), if_pos rfl, if_pos (by omega)]
      simp
    · by_cases h2 : key ≤ c ∧ c < key + (bs.length + 1)
      · rw [if_pos (by omega), if_pos h2]
        obtain ⟨n, hn⟩ : ∃ n, c - key = n + 1 := ⟨c - key - 1, by omega⟩
        rw [hn, show c - (key + 1) = n from by omega, List.getD_cons_succ]
      · rw [if_neg (by omega), if_neg h1, if_neg h2]

end Sys2Proof.Machine
end

