-- ==== Sys2Proof/Laws/PerInstr.lean ====
section
/-! SUPPORT. Laws/PerInstr.lean: what holds of every instruction, one lemma for each constructor: decoding the encoding of
a well-formed word gives it back. -/

namespace Sys2Proof.Laws

set_option Elab.async false

theorem field_eq {n lo w : Nat} {x : BitVec w} (h : n / 2 ^ lo % 2 ^ w = x.toNat) : field n lo w = x := by
  apply BitVec.eq_of_toNat_eq
  simp [field, h]

theorem flag_eq {n lo : Nat} {b : Bool} (h : n / 2 ^ lo % 2 = if b then 1 else 0) : flag n lo = b := by
  unfold flag
  rw [h]
  cases b <;> rfl

/-- One bit at its place: 0 or 1, times the place. -/
theorem bitNat_eq (b : Bool) (lo : Nat) : ∃ k, k < 2 ∧ bitNat b lo = k * 2 ^ lo ∧ (if b then 1 else 0) = k := by
  cases b
  · exact ⟨0, by decide, by simp [bitNat], rfl⟩
  · exact ⟨1, by decide, by simp [bitNat], rfl⟩

/-- A TRI word of an opcode: each field stands at its place (R46, R47). -/
theorem tri_word (t : Tri) {op : Nat} (h : op < 256) :
    triOf (t.word op) t.h.live = t ∧ t.word op < 2 ^ 63 ∧ (field (t.word op) 53 8).toNat = op ∧
      flag (t.word op) 62 = t.h.live.isSome := by
  obtain ⟨⟨live, w, g, gn⟩, d, a, b, c, ra, rb, rm, sf, ty, sub⟩ := t
  have hg := g.isLt; have hd := d.isLt; have ha := a.isLt; have hb := b.isLt; have hc := c.isLt
  have hrm := rm.isLt; have hty := ty.isLt; have hsub := sub.isLt
  obtain ⟨k1, k1l, e1, f1⟩ := bitNat_eq live.isSome 62
  obtain ⟨k2, k2l, e2, f2⟩ := bitNat_eq w 61
  obtain ⟨k3, k3l, e3, f3⟩ := bitNat_eq gn 48
  obtain ⟨k4, k4l, e4, f4⟩ := bitNat_eq ra 15
  obtain ⟨k5, k5l, e5, f5⟩ := bitNat_eq rb 14
  obtain ⟨k6, k6l, e6, f6⟩ := bitNat_eq sf 11
  simp only [triOf, hdrOf, Tri.mk.injEq, Hdr.mk.injEq, Tri.word, Hdr.bits, e1, e2, e3, e4, e5, e6, true_and]
  refine ⟨⟨⟨flag_eq ?_, field_eq ?_, flag_eq ?_⟩, field_eq ?_, field_eq ?_, field_eq ?_, field_eq ?_, flag_eq ?_,
    flag_eq ?_, field_eq ?_, flag_eq ?_, field_eq ?_, field_eq ?_⟩, ?_, ?_, flag_eq ?_⟩
  case refine_15 => simp only [field, BitVec.toNat_ofNat, Nat.reducePow]; omega
  all_goals simp only [f1, f2, f3, f4, f5, f6, Nat.reducePow]
  all_goals omega

/-- An I32 or BR word of an opcode: each field stands at its place (R46, R48, R49). -/
theorem imm_word (t : Imm) {op : Nat} (h : op < 256) :
    immOf (t.word op) t.h.live = t ∧ t.word op < 2 ^ 63 ∧ (field (t.word op) 53 8).toNat = op ∧
      flag (t.word op) 62 = t.h.live.isSome := by
  obtain ⟨⟨live, w, g, gn⟩, d, a, imm⟩ := t
  have hg := g.isLt; have hd := d.isLt; have ha := a.isLt; have hi := imm.isLt
  obtain ⟨k1, k1l, e1, f1⟩ := bitNat_eq live.isSome 62
  obtain ⟨k2, k2l, e2, f2⟩ := bitNat_eq w 61
  obtain ⟨k3, k3l, e3, f3⟩ := bitNat_eq gn 48
  simp only [immOf, hdrOf, Imm.mk.injEq, Hdr.mk.injEq, Imm.word, Hdr.bits, e1, e2, e3, true_and]
  refine ⟨⟨⟨flag_eq ?_, field_eq ?_, flag_eq ?_⟩, field_eq ?_, field_eq ?_, field_eq ?_⟩, ?_, ?_, flag_eq ?_⟩
  case refine_8 => simp only [field, BitVec.toNat_ofNat, Nat.reducePow]; omega
  all_goals simp only [f1, f2, f3, Nat.reducePow]
  all_goals omega

/-- A pair word of an opcode of half X: each field stands at its place (R57). -/
theorem pair_word (p : Pair) {po : Nat} (h : po < 64) :
    pairOf (p.word po) p.live = p ∧ 2 ^ 63 ≤ p.word po ∧ p.word po < 2 ^ 64 ∧ (field (p.word po) 55 6).toNat = po ∧
      flag (p.word po) 62 = p.live.isSome ∧ flag (p.word po) 0 = false := by
  obtain ⟨live, w, d, a, i, ⟨ypo, yd, ya, yi⟩⟩ := p
  have hd := d.isLt; have ha := a.isLt; have hi := i.isLt
  have h1 := ypo.isLt; have h2 := yd.isLt; have h3 := ya.isLt; have h4 := yi.isLt
  obtain ⟨k1, k1l, e1, f1⟩ := bitNat_eq live.isSome 62
  obtain ⟨k2, k2l, e2, f2⟩ := bitNat_eq w 61
  simp only [pairOf, Pair.mk.injEq, Half.mk.injEq, Pair.word, e1, e2, true_and]
  refine ⟨⟨flag_eq ?_, field_eq ?_, field_eq ?_, field_eq ?_, field_eq ?_, field_eq ?_, field_eq ?_, field_eq ?_⟩,
    ?_, ?_, ?_, flag_eq ?_, flag_eq ?_⟩
  case refine_11 => simp only [field, BitVec.toNat_ofNat, Nat.reducePow]; omega
  all_goals simp only [f1, f2, Nat.reducePow, if_false, Bool.false_eq_true]
  all_goals omega

theorem leBytes_length (k n : Nat) : (leBytes k n).length = k := by
  induction k generalizing n with
  | zero => rfl
  | succ k ih => simp [leBytes, ih]

theorem leNat_leBytes (k : Nat) {n : Nat} (h : n < 256 ^ k) : leNat (leBytes k n) = n := by
  induction k generalizing n with
  | zero => simp only [Nat.pow_zero, Nat.lt_one_iff] at h; simp [leBytes, leNat, h]
  | succ k ih =>
    have := ih (n := n / 256) (Nat.div_lt_of_lt_mul (by rwa [Nat.pow_succ, Nat.mul_comm] at h))
    simp only [leBytes, leNat, this, BitVec.toNat_ofNat, Nat.reducePow]
    omega

/-- A word and its mask word, laid out in memory, decode as the word (R43). -/
theorem decode_word {n : Nat} {live : Option DWord} {i : Instr} (hn : n < 2 ^ 64) (hf : flag n 62 = live.isSome)
    (he : encodeWord i = some (n, live)) (hd : decodeWord n live = .ok i) (bs : List Byte) :
    decode (encode i ++ bs) = .ok (i, bs) := by
  have l8 (k : Nat) : (leBytes 8 k).length = 8 := leBytes_length 8 k
  have v8 : leNat (leBytes 8 n) = n := leNat_leBytes 8 (by simpa using hn)
  cases live with
  | none =>
    have hf' : flag n 62 = false := hf
    simp [decode, encode, he, l8, v8, hf', hd, Except.map]
  | some m =>
    have hf' : flag n 62 = true := hf
    have w8 : leNat (leBytes 8 m.toNat) = m.toNat := leNat_leBytes 8 (by simpa using m.isLt)
    simp [decode, encode, he, l8, v8, w8, hf', hd, Except.map]

namespace RoundTrip

/-- Decoding the encoding of a well-formed word gives it back, with the bytes after it (R42, R43, R46 to R49, R57). -/
def Statement (i : Instr) : Prop :=
  ∀ bs : List Byte, i.isWord = true → i.wf = true → decode (encode i ++ bs) = .ok (i, bs)

theorem decodeWord_full {n op : Nat} {live : Option DWord} {i : Instr} (hn : n < 2 ^ 63)
    (ho : (field n 53 8).toNat = op) (hi : fullForm op (triOf n live) (immOf n live) = some i) (hw : i.wf = true) :
    decodeWord n live = .ok i := by
  have h63 : flag n 63 = false := by
    unfold flag
    rw [Nat.div_eq_of_lt hn]
    rfl
  simp [decodeWord, h63, ho, hi, checkForm, hw]

theorem tri_trip {t : Tri} {i : Instr} (op : Nat) (ho : op < 256) (hf : i.wf = true → ∀ m, fullForm op t m = some i)
    (he : encodeWord i = some (t.word op, t.h.live)) : Statement i := fun bs _ hw =>
  have ⟨h1, h2, h3, h4⟩ := tri_word t ho
  decode_word (by omega) h4 he (decodeWord_full h2 h3 (by rw [h1]; exact hf hw _) hw) bs

theorem imm_trip {t : Imm} {i : Instr} (op : Nat) (ho : op < 256) (hf : ∀ r, fullForm op r t = some i)
    (he : encodeWord i = some (t.word op, t.h.live)) : Statement i := fun bs _ hw =>
  have ⟨h1, h2, h3, h4⟩ := imm_word t ho
  decode_word (by omega) h4 he (decodeWord_full h2 h3 (by rw [h1]; exact hf _) hw) bs

theorem decodeWord_pair {n po : Nat} {live : Option DWord} {i : Instr} (hn : 2 ^ 63 ≤ n) (hm : n < 2 ^ 64)
    (h0 : flag n 0 = false) (ho : (field n 55 6).toNat = po) (hi : pairForm po (pairOf n live) = some i)
    (hw : i.wf = true) : decodeWord n live = .ok i := by
  have h63 : flag n 63 = true := by
    have h1 : n / 2 ^ 63 = 1 := by omega
    unfold flag
    rw [h1]
    rfl
  simp [decodeWord, h63, h0, ho, hi, checkForm, hw]

theorem pair_trip {p : Pair} {i : Instr} (po : Nat) (ho : po < 64) (hf : pairForm po p = some i)
    (he : encodeWord i = some (p.word po, p.live)) : Statement i := fun bs _ hw =>
  have ⟨h1, h2, h3, h4, h5, h6⟩ := pair_word p ho
  decode_word h3 h5 he (decodeWord_pair h2 h3 h6 h4 (by rw [h1]; exact hf) hw) bs

theorem event_trip {i : Instr} (h : i.isWord = false) : Statement i := fun _ hw => by simp [h] at hw

theorem add (t : Tri) : Statement (.add t) := tri_trip 0x01 (by decide) (fun _ _ => rfl) rfl
theorem addImm (i : Imm) : Statement (.addImm i) := imm_trip 0x02 (by decide) (fun _ => rfl) rfl
theorem sub (t : Tri) : Statement (.sub t) := tri_trip 0x03 (by decide) (fun _ _ => rfl) rfl
theorem subImm (i : Imm) : Statement (.subImm i) := imm_trip 0x04 (by decide) (fun _ => rfl) rfl
theorem mul (t : Tri) : Statement (.mul t) := tri_trip 0x05 (by decide) (fun _ _ => rfl) rfl
theorem mulhi (t : Tri) : Statement (.mulhi t) := tri_trip 0x06 (by decide) (fun _ _ => rfl) rfl
theorem mad (t : Tri) : Statement (.mad t) := tri_trip 0x07 (by decide) (fun _ _ => rfl) rfl
theorem addc (t : Tri) : Statement (.addc t) := tri_trip 0x08 (by decide) (fun _ _ => rfl) rfl
theorem subb (t : Tri) : Statement (.subb t) := tri_trip 0x09 (by decide) (fun _ _ => rfl) rfl
theorem neg (t : Tri) : Statement (.neg t) := tri_trip 0x0A (by decide) (fun _ _ => rfl) rfl
theorem abs (t : Tri) : Statement (.abs t) := tri_trip 0x0B (by decide) (fun _ _ => rfl) rfl
theorem min (t : Tri) : Statement (.min t) := tri_trip 0x0C (by decide) (fun _ _ => rfl) rfl
theorem max (t : Tri) : Statement (.max t) := tri_trip 0x0D (by decide) (fun _ _ => rfl) rfl
theorem and (t : Tri) : Statement (.and t) := tri_trip 0x0E (by decide) (fun _ _ => rfl) rfl
theorem andImm (i : Imm) : Statement (.andImm i) := imm_trip 0x0F (by decide) (fun _ => rfl) rfl
theorem or (t : Tri) : Statement (.or t) := tri_trip 0x10 (by decide) (fun _ _ => rfl) rfl
theorem orImm (i : Imm) : Statement (.orImm i) := imm_trip 0x11 (by decide) (fun _ => rfl) rfl
theorem xor (t : Tri) : Statement (.xor t) := tri_trip 0x12 (by decide) (fun _ _ => rfl) rfl
theorem xorImm (i : Imm) : Statement (.xorImm i) := imm_trip 0x13 (by decide) (fun _ => rfl) rfl
theorem not (t : Tri) : Statement (.not t) := tri_trip 0x14 (by decide) (fun _ _ => rfl) rfl
theorem andn (t : Tri) : Statement (.andn t) := tri_trip 0x15 (by decide) (fun _ _ => rfl) rfl
theorem shl (t : Tri) : Statement (.shl t) := tri_trip 0x16 (by decide) (fun _ _ => rfl) rfl
theorem shr (t : Tri) : Statement (.shr t) := tri_trip 0x17 (by decide) (fun _ _ => rfl) rfl
theorem sar (t : Tri) : Statement (.sar t) := tri_trip 0x18 (by decide) (fun _ _ => rfl) rfl
theorem rol (t : Tri) : Statement (.rol t) := tri_trip 0x19 (by decide) (fun _ _ => rfl) rfl
theorem clz (t : Tri) : Statement (.clz t) := tri_trip 0x1A (by decide) (fun _ _ => rfl) rfl
theorem ctz (t : Tri) : Statement (.ctz t) := tri_trip 0x1B (by decide) (fun _ _ => rfl) rfl
theorem popc (t : Tri) : Statement (.popc t) := tri_trip 0x1C (by decide) (fun _ _ => rfl) rfl
theorem brev (t : Tri) : Statement (.brev t) := tri_trip 0x1D (by decide) (fun _ _ => rfl) rfl
theorem bfe (t : Tri) : Statement (.bfe t) := tri_trip 0x1E (by decide) (fun _ _ => rfl) rfl
theorem bfi (t : Tri) : Statement (.bfi t) := tri_trip 0x1F (by decide) (fun _ _ => rfl) rfl
theorem prmt (t : Tri) : Statement (.prmt t) := tri_trip 0x20 (by decide) (fun _ _ => rfl) rfl
theorem sel (t : Tri) : Statement (.sel t) := tri_trip 0x21 (by decide) (fun _ _ => rfl) rfl
theorem cmp (t : Tri) : Statement (.cmp t) := tri_trip 0x22 (by decide) (fun _ _ => rfl) rfl
theorem mov (t : Tri) : Statement (.mov t) := tri_trip 0x23 (by decide) (fun _ _ => rfl) rfl
theorem movi (i : Imm) : Statement (.movi i) := imm_trip 0x24 (by decide) (fun _ => rfl) rfl
theorem movh (i : Imm) : Statement (.movh i) := imm_trip 0x25 (by decide) (fun _ => rfl) rfl
theorem cvt (t : Tri) : Statement (.cvt t) := tri_trip 0x26 (by decide) (fun _ _ => rfl) rfl
theorem lea (t : Tri) : Statement (.lea t) := tri_trip 0x27 (by decide) (fun _ _ => rfl) rfl
theorem fadd (t : Tri) : Statement (.fadd t) := tri_trip 0x40 (by decide) (fun _ _ => rfl) rfl
theorem fsub (t : Tri) : Statement (.fsub t) := tri_trip 0x41 (by decide) (fun _ _ => rfl) rfl
theorem fmul (t : Tri) : Statement (.fmul t) := tri_trip 0x42 (by decide) (fun _ _ => rfl) rfl
theorem ffma (t : Tri) : Statement (.ffma t) := tri_trip 0x43 (by decide) (fun _ _ => rfl) rfl
theorem fmin (t : Tri) : Statement (.fmin t) := tri_trip 0x44 (by decide) (fun _ _ => rfl) rfl
theorem fmax (t : Tri) : Statement (.fmax t) := tri_trip 0x45 (by decide) (fun _ _ => rfl) rfl
theorem fcmp (t : Tri) : Statement (.fcmp t) := tri_trip 0x46 (by decide) (fun _ _ => rfl) rfl
theorem fclass (t : Tri) : Statement (.fclass t) := tri_trip 0x47 (by decide) (fun _ _ => rfl) rfl
theorem fcvt (t : Tri) : Statement (.fcvt t) := tri_trip 0x48 (by decide) (fun _ _ => rfl) rfl
theorem frint (t : Tri) : Statement (.frint t) := tri_trip 0x49 (by decide) (fun _ _ => rfl) rfl
theorem fdiv (t : Tri) : Statement (.fdiv t) := tri_trip 0x4A (by decide) (fun _ _ => rfl) rfl
theorem fsqrt (t : Tri) : Statement (.fsqrt t) := tri_trip 0x4B (by decide) (fun _ _ => rfl) rfl
theorem frcp (t : Tri) : Statement (.frcp t) := tri_trip 0x4C (by decide) (fun _ _ => rfl) rfl
theorem frsq (t : Tri) : Statement (.frsq t) := tri_trip 0x4D (by decide) (fun _ _ => rfl) rfl
theorem fexp2 (t : Tri) : Statement (.fexp2 t) := tri_trip 0x4E (by decide) (fun _ _ => rfl) rfl
theorem flog2 (t : Tri) : Statement (.flog2 t) := tri_trip 0x4F (by decide) (fun _ _ => rfl) rfl
theorem fsin (t : Tri) : Statement (.fsin t) := tri_trip 0x50 (by decide) (fun _ _ => rfl) rfl
theorem fcos (t : Tri) : Statement (.fcos t) := tri_trip 0x51 (by decide) (fun _ _ => rfl) rfl
theorem fscale (t : Tri) : Statement (.fscale t) := tri_trip 0x52 (by decide) (fun _ _ => rfl) rfl
theorem fgetexp (t : Tri) : Statement (.fgetexp t) := tri_trip 0x53 (by decide) (fun _ _ => rfl) rfl
theorem fcopysign (t : Tri) : Statement (.fcopysign t) := tri_trip 0x54 (by decide) (fun _ _ => rfl) rfl
theorem fdot2 (t : Tri) : Statement (.fdot2 t) := tri_trip 0x55 (by decide) (fun _ _ => rfl) rfl
theorem uadd (t : Tri) : Statement (.uadd t) := tri_trip 0x80 (by decide) (fun _ _ => rfl) rfl
theorem uaddImm (i : Imm) : Statement (.uaddImm i) := imm_trip 0x81 (by decide) (fun _ => rfl) rfl
theorem usub (t : Tri) : Statement (.usub t) := tri_trip 0x82 (by decide) (fun _ _ => rfl) rfl
theorem umul (t : Tri) : Statement (.umul t) := tri_trip 0x83 (by decide) (fun _ _ => rfl) rfl
theorem uand (t : Tri) : Statement (.uand t) := tri_trip 0x84 (by decide) (fun _ _ => rfl) rfl
theorem uor (t : Tri) : Statement (.uor t) := tri_trip 0x85 (by decide) (fun _ _ => rfl) rfl
theorem uxor (t : Tri) : Statement (.uxor t) := tri_trip 0x86 (by decide) (fun _ _ => rfl) rfl
theorem ushl (t : Tri) : Statement (.ushl t) := tri_trip 0x87 (by decide) (fun _ _ => rfl) rfl
theorem ushr (t : Tri) : Statement (.ushr t) := tri_trip 0x88 (by decide) (fun _ _ => rfl) rfl
theorem usar (t : Tri) : Statement (.usar t) := tri_trip 0x89 (by decide) (fun _ _ => rfl) rfl
theorem umov (t : Tri) : Statement (.umov t) := tri_trip 0x8A (by decide) (fun _ _ => rfl) rfl
theorem umovi (i : Imm) : Statement (.umovi i) := imm_trip 0x8B (by decide) (fun _ => rfl) rfl
theorem ucmp (t : Tri) : Statement (.ucmp t) := tri_trip 0x8C (by decide) (fun _ _ => rfl) rfl
theorem pand (t : Tri) : Statement (.pand t) := tri_trip 0x90 (by decide) (fun _ _ => rfl) rfl
theorem por (t : Tri) : Statement (.por t) := tri_trip 0x91 (by decide) (fun _ _ => rfl) rfl
theorem pxor (t : Tri) : Statement (.pxor t) := tri_trip 0x92 (by decide) (fun _ _ => rfl) rfl
theorem pnot (t : Tri) : Statement (.pnot t) := tri_trip 0x93 (by decide) (fun _ _ => rfl) rfl
theorem pmov (t : Tri) : Statement (.pmov t) := tri_trip 0x94 (by decide) (fun _ _ => rfl) rfl
theorem vote (t : Tri) : Statement (.vote t) := tri_trip 0x98 (by decide) (fun _ _ => rfl) rfl
theorem ballot (t : Tri) : Statement (.ballot t) := tri_trip 0x99 (by decide) (fun _ _ => rfl) rfl
theorem shfl (t : Tri) : Statement (.shfl t) := tri_trip 0x9A (by decide) (fun _ _ => rfl) rfl
theorem bcast (t : Tri) : Statement (.bcast t) := tri_trip 0x9B (by decide) (fun _ _ => rfl) rfl
theorem redux (t : Tri) : Statement (.redux t) := tri_trip 0x9C (by decide) (fun _ _ => rfl) rfl
theorem ld (t : Tri) : Statement (.ld t) := tri_trip 0xA0 (by decide) (fun _ _ => rfl) rfl
theorem st (t : Tri) : Statement (.st t) := tri_trip 0xA1 (by decide) (fun _ _ => rfl) rfl
theorem ldp (t : Tri) : Statement (.ldp t) := tri_trip 0xA2 (by decide) (fun _ _ => rfl) rfl
theorem stp (t : Tri) : Statement (.stp t) := tri_trip 0xA3 (by decide) (fun _ _ => rfl) rfl
theorem atom (t : Tri) : Statement (.atom t) := tri_trip 0xA4 (by decide) (fun _ _ => rfl) rfl
theorem red (t : Tri) : Statement (.red t) := tri_trip 0xA5 (by decide) (fun _ _ => rfl) rfl
theorem fence (t : Tri) : Statement (.fence t) := tri_trip 0xA6 (by decide) (fun _ _ => rfl) rfl
theorem prs (t : Tri) : Statement (.prs t) := tri_trip 0xA7 (by decide) (fun _ _ => rfl) rfl
theorem barArrive (t : Tri) : Statement (.barArrive t) := tri_trip 0xA8 (by decide) (fun _ _ => rfl) rfl
theorem barWait (t : Tri) : Statement (.barWait t) := tri_trip 0xA9 (by decide) (fun _ _ => rfl) rfl
theorem barSync (t : Tri) : Statement (.barSync t) := tri_trip 0xAA (by decide) (fun _ _ => rfl) rfl
theorem barExpect (t : Tri) : Statement (.barExpect t) := tri_trip 0xAB (by decide) (fun _ _ => rfl) rfl
theorem scopeGet (t : Tri) : Statement (.scopeGet t) := tri_trip 0xAC (by decide) (fun _ _ => rfl) rfl
theorem scopeFreeze (t : Tri) : Statement (.scopeFreeze t) := tri_trip 0xAD (by decide) (fun _ _ => rfl) rfl
theorem scopeThaw (t : Tri) : Statement (.scopeThaw t) := tri_trip 0xAE (by decide) (fun _ _ => rfl) rfl
theorem scopeQuery (t : Tri) : Statement (.scopeQuery t) := tri_trip 0xAF (by decide) (fun _ _ => rfl) rfl
theorem bgive (t : Tri) : Statement (.bgive t) := tri_trip 0xB0 (by decide) (fun _ _ => rfl) rfl
theorem btake (t : Tri) : Statement (.btake t) := tri_trip 0xB1 (by decide) (fun _ _ => rfl) rfl
theorem btakeResume (warp gang : Nat) : Statement (.btakeResume warp gang) := event_trip rfl
theorem rgive (t : Tri) : Statement (.rgive t) := tri_trip 0xB2 (by decide) (fun _ _ => rfl) rfl
theorem rclaim (t : Tri) : Statement (.rclaim t) := tri_trip 0xB3 (by decide) (fun _ _ => rfl) rfl
theorem rclaimGrant (block : Nat) : Statement (.rclaimGrant block) := event_trip rfl
theorem rshare (t : Tri) : Statement (.rshare t) := tri_trip 0xB4 (by decide) (fun _ _ => rfl) rfl
theorem runshare (t : Tri) : Statement (.runshare t) := tri_trip 0xB5 (by decide) (fun _ _ => rfl) rfl
theorem runshareResume (warp gang : Nat) : Statement (.runshareResume warp gang) := event_trip rfl
theorem sharedCellWake (warp lane : Nat) : Statement (.sharedCellWake warp lane) := event_trip rfl
theorem xferIn (t : Tri) : Statement (.xferIn t) := tri_trip 0xC0 (by decide) (fun h m => by
  simp only [Instr.wf, Tri.xferOk, Bool.and_eq_true, beq_iff_eq] at h
  simp [fullForm, xferForm, h]) rfl
theorem xferOut (t : Tri) : Statement (.xferOut t) := tri_trip 0xC0 (by decide) (fun h m => by
  simp only [Instr.wf, Tri.xferOk, Bool.and_eq_true, beq_iff_eq] at h
  simp [fullForm, xferForm, h]) rfl
theorem xfer2d (t : Tri) : Statement (.xfer2d t) := tri_trip 0xC0 (by decide) (fun h m => by
  simp only [Instr.wf, Tri.xferOk, Bool.and_eq_true, beq_iff_eq] at h
  simp [fullForm, xferForm, h]) rfl
theorem xferGat (t : Tri) : Statement (.xferGat t) := tri_trip 0xC0 (by decide) (fun h m => by
  simp only [Instr.wf, Tri.xferOk, Bool.and_eq_true, beq_iff_eq] at h
  simp [fullForm, xferForm, h]) rfl
theorem xferSct (t : Tri) : Statement (.xferSct t) := tri_trip 0xC0 (by decide) (fun h m => by
  simp only [Instr.wf, Tri.xferOk, Bool.and_eq_true, beq_iff_eq] at h
  simp [fullForm, xferForm, h]) rfl
theorem xferDsp (t : Tri) : Statement (.xferDsp t) := tri_trip 0xC0 (by decide) (fun h m => by
  simp only [Instr.wf, Tri.xferOk, Bool.and_eq_true, beq_iff_eq] at h
  simp [fullForm, xferForm, h]) rfl
theorem xferPeer (t : Tri) : Statement (.xferPeer t) := tri_trip 0xC0 (by decide) (fun h m => by
  simp only [Instr.wf, Tri.xferOk, Bool.and_eq_true, beq_iff_eq] at h
  simp [fullForm, xferForm, h]) rfl
theorem chClaimBind (t : Tri) : Statement (.chClaimBind t) := tri_trip 0xC1 (by decide) (fun h m => by
  simp only [Instr.wf, Tri.chOk, Bool.and_eq_true, beq_iff_eq] at h
  simp [fullForm, pick2, h]) rfl
theorem chClaim (t : Tri) : Statement (.chClaim t) := tri_trip 0xC1 (by decide) (fun h m => by
  simp only [Instr.wf, Tri.chOk, Bool.and_eq_true, beq_iff_eq] at h
  simp [fullForm, pick2, h]) rfl
theorem chCommit (t : Tri) : Statement (.chCommit t) := tri_trip 0xC2 (by decide) (fun _ _ => rfl) rfl
theorem chAwaitBind (t : Tri) : Statement (.chAwaitBind t) := tri_trip 0xC3 (by decide) (fun h m => by
  simp only [Instr.wf, Tri.chOk, Bool.and_eq_true, beq_iff_eq] at h
  simp [fullForm, pick2, h]) rfl
theorem chAwait (t : Tri) : Statement (.chAwait t) := tri_trip 0xC3 (by decide) (fun h m => by
  simp only [Instr.wf, Tri.chOk, Bool.and_eq_true, beq_iff_eq] at h
  simp [fullForm, pick2, h]) rfl
theorem chRetire (t : Tri) : Statement (.chRetire t) := tri_trip 0xC4 (by decide) (fun _ _ => rfl) rfl
theorem channelClaimResume (chan : Nat) : Statement (.channelClaimResume chan) := event_trip rfl
theorem channelAwaitResume (chan : Nat) : Statement (.channelAwaitResume chan) := event_trip rfl
theorem obres (t : Tri) : Statement (.obres t) := tri_trip 0xC5 (by decide) (fun _ _ => rfl) rfl
theorem obrel (t : Tri) : Statement (.obrel t) := tri_trip 0xC6 (by decide) (fun _ _ => rfl) rfl
theorem bload (t : Tri) : Statement (.bload t) := tri_trip 0xC7 (by decide) (fun _ _ => rfl) rfl
theorem bfree (t : Tri) : Statement (.bfree t) := tri_trip 0xC8 (by decide) (fun _ _ => rfl) rfl
theorem mma (t : Tri) : Statement (.mma t) := tri_trip 0xC9 (by decide) (fun _ _ => rfl) rfl
theorem mmaM (t : Tri) : Statement (.mmaM t) := tri_trip 0xCA (by decide) (fun _ _ => rfl) rfl
theorem accz (t : Tri) : Statement (.accz t) := tri_trip 0xCB (by decide) (fun _ _ => rfl) rfl
theorem accrd (t : Tri) : Statement (.accrd t) := tri_trip 0xCC (by decide) (fun _ _ => rfl) rfl
theorem accwr (t : Tri) : Statement (.accwr t) := tri_trip 0xCD (by decide) (fun _ _ => rfl) rfl
theorem accst (t : Tri) : Statement (.accst t) := tri_trip 0xCE (by decide) (fun _ _ => rfl) rfl
theorem accld (t : Tri) : Statement (.accld t) := tri_trip 0xCF (by decide) (fun _ _ => rfl) rfl
theorem matrixWordPerform (word : Nat) : Statement (.matrixWordPerform word) := event_trip rfl
theorem spawn (i : Imm) : Statement (.spawn i) := imm_trip 0xD0 (by decide) (fun _ => rfl) rfl
theorem fref (t : Tri) : Statement (.fref t) := tri_trip 0xD1 (by decide) (fun _ _ => rfl) rfl
theorem fdrop (t : Tri) : Statement (.fdrop t) := tri_trip 0xD2 (by decide) (fun _ _ => rfl) rfl
theorem fget (t : Tri) : Statement (.fget t) := tri_trip 0xD3 (by decide) (fun _ _ => rfl) rfl
theorem fgetResume (warp lane : Nat) : Statement (.fgetResume warp lane) := event_trip rfl
theorem fpoll (t : Tri) : Statement (.fpoll t) := tri_trip 0xD4 (by decide) (fun _ _ => rfl) rfl
theorem rpoint (t : Tri) : Statement (.rpoint t) := tri_trip 0xD5 (by decide) (fun _ _ => rfl) rfl
theorem tret (t : Tri) : Statement (.tret t) := tri_trip 0xD6 (by decide) (fun _ _ => rfl) rfl
theorem taskFutureComplete (warp fut : Nat) : Statement (.taskFutureComplete warp fut) := event_trip rfl
theorem bra (i : Imm) : Statement (.bra i) := imm_trip 0xE0 (by decide) (fun _ => rfl) rfl
theorem brx (t : Tri) : Statement (.brx t) := tri_trip 0xE1 (by decide) (fun h m => by
  simp only [Instr.wf, Bool.and_eq_true, beq_iff_eq] at h
  simp [fullForm, pick2, h]) rfl
theorem brxRel (t : Tri) : Statement (.brxRel t) := tri_trip 0xE1 (by decide) (fun h m => by
  simp only [Instr.wf, Bool.and_eq_true, beq_iff_eq] at h
  simp [fullForm, pick2, h]) rfl
theorem call (i : Imm) : Statement (.call i) := imm_trip 0xE2 (by decide) (fun _ => rfl) rfl
theorem callx (t : Tri) : Statement (.callx t) := tri_trip 0xE3 (by decide) (fun _ _ => rfl) rfl
theorem ret (t : Tri) : Statement (.ret t) := tri_trip 0xE4 (by decide) (fun _ _ => rfl) rfl
theorem umark (i : Imm) : Statement (.umark i) := imm_trip 0xE5 (by decide) (fun _ => rfl) rfl
theorem unwind (t : Tri) : Statement (.unwind t) := tri_trip 0xE6 (by decide) (fun _ _ => rfl) rfl
theorem exit (t : Tri) : Statement (.exit t) := tri_trip 0xE7 (by decide) (fun _ _ => rfl) rfl
theorem nop (t : Tri) : Statement (.nop t) := tri_trip 0xE8 (by decide) (fun _ _ => rfl) rfl
theorem trap (i : Imm) : Statement (.trap i) := imm_trip 0xE9 (by decide) (fun _ => rfl) rfl
theorem brk (i : Imm) : Statement (.brk i) := imm_trip 0xEA (by decide) (fun _ => rfl) rfl
theorem join (t : Tri) : Statement (.join t) := tri_trip 0xEB (by decide) (fun _ _ => rfl) rfl
theorem joinRelease (warp lane : Nat) : Statement (.joinRelease warp lane) := event_trip rfl
theorem jleave (t : Tri) : Statement (.jleave t) := tri_trip 0xEC (by decide) (fun _ _ => rfl) rfl
theorem jmaskGang (t : Tri) : Statement (.jmaskGang t) := tri_trip 0xED (by decide) (fun h m => by
  simp only [Instr.wf, Bool.and_eq_true, beq_iff_eq] at h
  simp [fullForm, jmaskForm, h]) rfl
theorem jmaskAdd (t : Tri) : Statement (.jmaskAdd t) := tri_trip 0xED (by decide) (fun h m => by
  simp only [Instr.wf, Bool.and_eq_true, beq_iff_eq] at h
  simp [fullForm, jmaskForm, h]) rfl
theorem jmaskU (t : Tri) : Statement (.jmaskU t) := tri_trip 0xED (by decide) (fun h m => by
  simp only [Instr.wf, Bool.and_eq_true, beq_iff_eq] at h
  simp [fullForm, jmaskForm, h]) rfl
theorem wait (t : Tri) : Statement (.wait t) := tri_trip 0xEE (by decide) (fun _ _ => rfl) rfl
theorem waitRelease (warp lane : Nat) : Statement (.waitRelease warp lane) := event_trip rfl
theorem waitTimeout (warp lane : Nat) : Statement (.waitTimeout warp lane) := event_trip rfl
theorem barrierWaiterRelease (warp lane : Nat) : Statement (.barrierWaiterRelease warp lane) := event_trip rfl
theorem sysrd (t : Tri) : Statement (.sysrd t) := tri_trip 0xF0 (by decide) (fun _ _ => rfl) rfl
theorem syswr (t : Tri) : Statement (.syswr t) := tri_trip 0xF1 (by decide) (fun _ _ => rfl) rfl
theorem eret (t : Tri) : Statement (.eret t) := tri_trip 0xF2 (by decide) (fun _ _ => rfl) rfl
theorem notify (t : Tri) : Statement (.notify t) := tri_trip 0xF3 (by decide) (fun _ _ => rfl) rfl
theorem notifyEntryWrite (warp : Nat) : Statement (.notifyEntryWrite warp) := event_trip rfl
theorem haltSave (t : Tri) : Statement (.haltSave t) := tri_trip 0xF4 (by decide) (fun h m => by
  simp only [Instr.wf, Tri.bare, Bool.and_eq_true, beq_iff_eq] at h
  simp [fullForm, pick2, h]) rfl
theorem haltEnd (t : Tri) : Statement (.haltEnd t) := tri_trip 0xF4 (by decide) (fun h m => by
  simp only [Instr.wf, Bool.and_eq_true, beq_iff_eq] at h
  simp [fullForm, pick2, h]) rfl
theorem rng (t : Tri) : Statement (.rng t) := tri_trip 0xF5 (by decide) (fun h m => by
  simp only [Instr.wf, Tri.rngOk, Bool.and_eq_true, beq_iff_eq] at h
  simp [fullForm, pick2, h]) rfl
theorem rngU01 (t : Tri) : Statement (.rngU01 t) := tri_trip 0xF5 (by decide) (fun h m => by
  simp only [Instr.wf, Tri.rngOk, Bool.and_eq_true, beq_iff_eq] at h
  simp [fullForm, pick2, h]) rfl
theorem ctxDrain (t : Tri) : Statement (.ctxDrain t) := tri_trip 0xF6 (by decide) (fun _ _ => rfl) rfl
theorem ctxDrainComplete (warp gang : Nat) : Statement (.ctxDrainComplete warp gang) := event_trip rfl
theorem ctxVsave (t : Tri) : Statement (.ctxVsave t) := tri_trip 0xF7 (by decide) (fun _ _ => rfl) rfl
theorem ctxVload (t : Tri) : Statement (.ctxVload t) := tri_trip 0xF8 (by decide) (fun _ _ => rfl) rfl
theorem pairNop (p : Pair) : Statement (.pairNop p) := pair_trip 0x00 (by decide) rfl rfl
theorem pairAddN32 (p : Pair) : Statement (.pairAddN32 p) := pair_trip 0x01 (by decide) rfl rfl
theorem pairSubN32 (p : Pair) : Statement (.pairSubN32 p) := pair_trip 0x02 (by decide) rfl rfl
theorem pairMulN32 (p : Pair) : Statement (.pairMulN32 p) := pair_trip 0x03 (by decide) rfl rfl
theorem pairAnd (p : Pair) : Statement (.pairAnd p) := pair_trip 0x04 (by decide) rfl rfl
theorem pairOr (p : Pair) : Statement (.pairOr p) := pair_trip 0x05 (by decide) rfl rfl
theorem pairXor (p : Pair) : Statement (.pairXor p) := pair_trip 0x06 (by decide) rfl rfl
theorem pairAndn (p : Pair) : Statement (.pairAndn p) := pair_trip 0x07 (by decide) rfl rfl
theorem pairMinI32 (p : Pair) : Statement (.pairMinI32 p) := pair_trip 0x08 (by decide) rfl rfl
theorem pairMaxI32 (p : Pair) : Statement (.pairMaxI32 p) := pair_trip 0x09 (by decide) rfl rfl
theorem pairMinN32 (p : Pair) : Statement (.pairMinN32 p) := pair_trip 0x0A (by decide) rfl rfl
theorem pairMaxN32 (p : Pair) : Statement (.pairMaxN32 p) := pair_trip 0x0B (by decide) rfl rfl
theorem pairShl (p : Pair) : Statement (.pairShl p) := pair_trip 0x0C (by decide) rfl rfl
theorem pairShr (p : Pair) : Statement (.pairShr p) := pair_trip 0x0D (by decide) rfl rfl
theorem pairSar (p : Pair) : Statement (.pairSar p) := pair_trip 0x0E (by decide) rfl rfl
theorem pairMov (p : Pair) : Statement (.pairMov p) := pair_trip 0x0F (by decide) rfl rfl
theorem pairAddImm (p : Pair) : Statement (.pairAddImm p) := pair_trip 0x10 (by decide) rfl rfl
theorem pairSubImm (p : Pair) : Statement (.pairSubImm p) := pair_trip 0x11 (by decide) rfl rfl
theorem pairAndImm (p : Pair) : Statement (.pairAndImm p) := pair_trip 0x12 (by decide) rfl rfl
theorem pairOrImm (p : Pair) : Statement (.pairOrImm p) := pair_trip 0x13 (by decide) rfl rfl
theorem pairXorImm (p : Pair) : Statement (.pairXorImm p) := pair_trip 0x14 (by decide) rfl rfl
theorem pairShlImm (p : Pair) : Statement (.pairShlImm p) := pair_trip 0x15 (by decide) rfl rfl
theorem pairShrImm (p : Pair) : Statement (.pairShrImm p) := pair_trip 0x16 (by decide) rfl rfl
theorem pairSarImm (p : Pair) : Statement (.pairSarImm p) := pair_trip 0x17 (by decide) rfl rfl
theorem pairRolImm (p : Pair) : Statement (.pairRolImm p) := pair_trip 0x18 (by decide) rfl rfl
theorem pairMovi (p : Pair) : Statement (.pairMovi p) := pair_trip 0x19 (by decide) rfl rfl
theorem pairFaddF32 (p : Pair) : Statement (.pairFaddF32 p) := pair_trip 0x20 (by decide) rfl rfl
theorem pairFsubF32 (p : Pair) : Statement (.pairFsubF32 p) := pair_trip 0x21 (by decide) rfl rfl
theorem pairFmulF32 (p : Pair) : Statement (.pairFmulF32 p) := pair_trip 0x22 (by decide) rfl rfl
theorem pairFminF32 (p : Pair) : Statement (.pairFminF32 p) := pair_trip 0x23 (by decide) rfl rfl
theorem pairFmaxF32 (p : Pair) : Statement (.pairFmaxF32 p) := pair_trip 0x24 (by decide) rfl rfl
theorem pairFaddF64 (p : Pair) : Statement (.pairFaddF64 p) := pair_trip 0x28 (by decide) rfl rfl
theorem pairFsubF64 (p : Pair) : Statement (.pairFsubF64 p) := pair_trip 0x29 (by decide) rfl rfl
theorem pairFmulF64 (p : Pair) : Statement (.pairFmulF64 p) := pair_trip 0x2A (by decide) rfl rfl
theorem pairFminF64 (p : Pair) : Statement (.pairFminF64 p) := pair_trip 0x2B (by decide) rfl rfl
theorem pairFmaxF64 (p : Pair) : Statement (.pairFmaxF64 p) := pair_trip 0x2C (by decide) rfl rfl
theorem pairAddN64 (p : Pair) : Statement (.pairAddN64 p) := pair_trip 0x30 (by decide) rfl rfl
theorem pairSubN64 (p : Pair) : Statement (.pairSubN64 p) := pair_trip 0x31 (by decide) rfl rfl
theorem pairMovN64 (p : Pair) : Statement (.pairMovN64 p) := pair_trip 0x32 (by decide) rfl rfl
theorem pairAddN64Imm (p : Pair) : Statement (.pairAddN64Imm p) := pair_trip 0x33 (by decide) rfl rfl
theorem longResultDelivery (warp op : Nat) : Statement (.longResultDelivery warp op) := event_trip rfl
theorem effectiveLevelRise (warp : Nat) : Statement (.effectiveLevelRise warp) := event_trip rfl
theorem trapEntry (warp : Nat) : Statement (.trapEntry warp) := event_trip rfl
theorem safePointTrap (warp : Nat) : Statement (.safePointTrap warp) := event_trip rfl
theorem forcedSave (core : Nat) : Statement (.forcedSave core) := event_trip rfl
theorem storageRelease (block : Nat) : Statement (.storageRelease block) := event_trip rfl
theorem frameRequestServe (core : Nat) : Statement (.frameRequestServe core) := event_trip rfl
theorem umbraSpillRound (core : Nat) : Statement (.umbraSpillRound core) := event_trip rfl
theorem scratchpadBankWake (die base : Nat) : Statement (.scratchpadBankWake die base) := event_trip rfl
theorem loadPresenceResume (warp acc : Nat) : Statement (.loadPresenceResume warp acc) := event_trip rfl
theorem memoryAccessPerform (warp acc : Nat) : Statement (.memoryAccessPerform warp acc) := event_trip rfl
theorem gnomonRmwPerform (mem : Bool) (owner acc : Nat) : Statement (.gnomonRmwPerform mem owner acc) := event_trip rfl
theorem launchQueueDoorbell (vi q : Nat) (val : BitVec 32) : Statement (.launchQueueDoorbell vi q val) := event_trip rfl
theorem launchRecord : Statement .launchRecord := event_trip rfl
theorem restoreRecord : Statement .restoreRecord := event_trip rfl
theorem blockPlacement (grid : Nat) : Statement (.blockPlacement grid) := event_trip rfl
theorem gridCompletion (grid : Nat) : Statement (.gridCompletion grid) := event_trip rfl
theorem binTimerExpiry (core bin : Nat) : Statement (.binTimerExpiry core bin) := event_trip rfl
theorem binSpaceResume (warp gang : Nat) : Statement (.binSpaceResume warp gang) := event_trip rfl
theorem waveLaunch (core : Nat) : Statement (.waveLaunch core) := event_trip rfl
theorem taskArgumentRead (warp lane : Nat) : Statement (.taskArgumentRead warp lane) := event_trip rfl
theorem parallaxIntervalEnd : Statement .parallaxIntervalEnd := event_trip rfl
theorem regroupCommit (die move : Nat) : Statement (.regroupCommit die move) := event_trip rfl
theorem futureRecordWaitResume (warp gang : Nat) : Statement (.futureRecordWaitResume warp gang) := event_trip rfl
theorem copyQueueRoomResume (warp gang : Nat) : Statement (.copyQueueRoomResume warp gang) := event_trip rfl
theorem matrixQueueRoomResume (warp gang : Nat) : Statement (.matrixQueueRoomResume warp gang) := event_trip rfl
theorem pageTableWalk (die walk : Nat) : Statement (.pageTableWalk die walk) := event_trip rfl
theorem copyChunkStart (copy : Nat) : Statement (.copyChunkStart copy) := event_trip rfl
theorem copyChunkLanding (copy chunk : Nat) : Statement (.copyChunkLanding copy chunk) := event_trip rfl
theorem copyCompletion (copy : Nat) : Statement (.copyCompletion copy) := event_trip rfl
theorem doomedCopyStop (copy : Nat) : Statement (.doomedCopyStop copy) := event_trip rfl
theorem taskReclamation (fut : Nat) : Statement (.taskReclamation fut) := event_trip rfl
theorem faultQueueEntryWrite (vi : Nat) : Statement (.faultQueueEntryWrite vi) := event_trip rfl
theorem fqresumeRetry (vi token : Nat) : Statement (.fqresumeRetry vi token) := event_trip rfl
theorem fqresumeAccessError (vi token : Nat) : Statement (.fqresumeAccessError vi token) := event_trip rfl
theorem fqresumeUnserviceable (vi token : Nat) : Statement (.fqresumeUnserviceable vi token) := event_trip rfl
theorem fqresumeIgnored (vi token : Nat) : Statement (.fqresumeIgnored vi token) := event_trip rfl
theorem fqheadWrite (vi : Nat) (val : BitVec 32) : Statement (.fqheadWrite vi val) := event_trip rfl
theorem cqheadWrite (vi : Nat) (val : BitVec 32) : Statement (.cqheadWrite vi val) := event_trip rfl
theorem elheadWrite (vi : Nat) (val : BitVec 32) : Statement (.elheadWrite vi val) := event_trip rfl
theorem ellostRead (vi : Nat) : Statement (.ellostRead vi) := event_trip rfl
theorem tlbinvRange (vi : Nat) (val : BitVec 64) : Statement (.tlbinvRange vi val) := event_trip rfl
theorem tlbinvAll (vi : Nat) : Statement (.tlbinvAll vi) := event_trip rfl
theorem tlbInvalidationDone (vi : Nat) : Statement (.tlbInvalidationDone vi) := event_trip rfl
theorem futareaWrite (die : Nat) (val : BitVec 64) : Statement (.futareaWrite die val) := event_trip rfl
theorem preqRequest (core : Nat) (val : BitVec 32) : Statement (.preqRequest core val) := event_trip rfl
theorem preqWithdraw (core : Nat) (val : BitVec 32) : Statement (.preqWithdraw core val) := event_trip rfl
theorem qclassWrite (die : Nat) (val : BitVec 64) : Statement (.qclassWrite die val) := event_trip rfl
theorem classChangeEffect (group : Nat) : Statement (.classChangeEffect group) := event_trip rfl
theorem energyAccumulate (die nanojoules : Nat) : Statement (.energyAccumulate die nanojoules) := event_trip rfl
theorem energyReadLatch (die : Nat) : Statement (.energyReadLatch die) := event_trip rfl
theorem thermalTripChange (die : Nat) (tmax : BitVec 8) : Statement (.thermalTripChange die tmax) := event_trip rfl
theorem registerWrite (bar fn off width : Nat) (val : BitVec 64) : Statement (.registerWrite bar fn off width val) := event_trip rfl
theorem hostBar4Access (write : Bool) (addr width : Nat) (val : BitVec 64) : Statement (.hostBar4Access write addr width val) := event_trip rfl
theorem hostAtomicop (op addr width : Nat) (x y : BitVec 64) : Statement (.hostAtomicop op addr width x y) := event_trip rfl
theorem msixPendingSend (vi vec : Nat) : Statement (.msixPendingSend vi vec) := event_trip rfl
theorem limiterStep (group : Nat) : Statement (.limiterStep group) := event_trip rfl
theorem mmaPassEnd (core : Nat) : Statement (.mmaPassEnd core) := event_trip rfl
theorem mmaMPassFetch (word : Nat) : Statement (.mmaMPassFetch word) := event_trip rfl
theorem droopDetected (die quad : Nat) : Statement (.droopDetected die quad) := event_trip rfl
theorem hbmPinGroupMark (stack pin : Nat) : Statement (.hbmPinGroupMark stack pin) := event_trip rfl
theorem ringPacketInject (die src dst : Nat) : Statement (.ringPacketInject die src dst) := event_trip rfl
theorem ringHop (die pkt : Nat) : Statement (.ringHop die pkt) := event_trip rfl
theorem ringDelivery (die pkt : Nat) : Statement (.ringDelivery die pkt) := event_trip rfl
theorem cxlViralOrLinkLoss (die : Nat) (loss : Bool) : Statement (.cxlViralOrLinkLoss die loss) := event_trip rfl
theorem cxlErrorResponse (poisoned : Bool) (copy line : Nat) : Statement (.cxlErrorResponse poisoned copy line) := event_trip rfl
theorem pcieErrorCompletion (vi addr : Nat) : Statement (.pcieErrorCompletion vi addr) := event_trip rfl
theorem peerLinkError (copy : Nat) : Statement (.peerLinkError copy) := event_trip rfl
theorem packageReset : Statement .packageReset := event_trip rfl
theorem bootRomVerify : Statement .bootRomVerify := event_trip rfl
theorem hbmTraining (ok : Bool) : Statement (.hbmTraining ok) := event_trip rfl
theorem linkTraining (ok : Bool) : Statement (.linkTraining ok) := event_trip rfl
theorem cxlEnumeration (caps : List Nat) : Statement (.cxlEnumeration caps) := event_trip rfl
theorem bringUpReady : Statement .bringUpReady := event_trip rfl
theorem bootstatRetry : Statement .bootstatRetry := event_trip rfl
theorem flashWindowWrite (off : Nat) (val : BitVec 64) : Statement (.flashWindowWrite off val) := event_trip rfl
theorem getVersion (req : List (BitVec 8)) : Statement (.getVersion req) := event_trip rfl
theorem getCapabilities (req : List (BitVec 8)) : Statement (.getCapabilities req) := event_trip rfl
theorem negotiateAlgorithms (req : List (BitVec 8)) : Statement (.negotiateAlgorithms req) := event_trip rfl
theorem getDigests (req : List (BitVec 8)) : Statement (.getDigests req) := event_trip rfl
theorem getCertificate (req : List (BitVec 8)) : Statement (.getCertificate req) := event_trip rfl
theorem challenge (req : List (BitVec 8)) : Statement (.challenge req) := event_trip rfl
theorem getMeasurements (req : List (BitVec 8)) : Statement (.getMeasurements req) := event_trip rfl
theorem spdmUnsupportedRequest (req : List (BitVec 8)) : Statement (.spdmUnsupportedRequest req) := event_trip rfl
theorem regroupCommitEnd (die : Nat) : Statement (.regroupCommitEnd die) := event_trip rfl
theorem peerAccessReceived (vi op addr width : Nat) (x y : BitVec 64) : Statement (.peerAccessReceived vi op addr width x y) := event_trip rfl
theorem scratchpadBankGate (die base len : Nat) : Statement (.scratchpadBankGate die base len) := event_trip rfl
theorem configurationRequest (fn : Nat) (msixOn msixMask : Bool) : Statement (.configurationRequest fn msixOn msixMask) := event_trip rfl
theorem registerRead (bar fn off width : Nat) : Statement (.registerRead bar fn off width) := event_trip rfl

end RoundTrip

end Sys2Proof.Laws
end

