-- ==== Sys2Proof/Laws/Table.lean ====
section
/-! SUPPORT. Laws/Table.lean: reading a sparse table after each operation on it, and masks of lanes. -/

namespace Sys2Proof.Machine

variable {α : Type}

@[simp] theorem tget_nil (i : Nat) : tget ([] : Table α) i = none := rfl

@[simp] theorem tget_tset_self (t : Table α) (i : Nat) (a : α) : tget (tset t i a) i = some a := by
  induction t with
  | nil => simp [tset, tget]
  | cons p t ih =>
    obtain ⟨k, v⟩ := p
    unfold tset
    split_ifs <;> simp_all [tget]

theorem tget_tset_ne (t : Table α) {i j : Nat} (a : α) (h : j ≠ i) : tget (tset t i a) j = tget t j := by
  induction t with
  | nil => simp [tset, tget, Ne.symm h]
  | cons p t ih =>
    obtain ⟨k, v⟩ := p
    unfold tset
    split_ifs with h1 h2
    · subst h1; simp [tget, Ne.symm h]
    · simp [tget, Ne.symm h]
    · simp [tget, ih]

theorem tget_tset (t : Table α) (i j : Nat) (a : α) :
    tget (tset t i a) j = if j = i then some a else tget t j := by
  split_ifs with h
  · subst h; simp
  · exact tget_tset_ne t a h

@[simp] theorem tget_tdel_self (t : Table α) (i : Nat) : tget (tdel t i) i = none := by
  induction t with
  | nil => rfl
  | cons p t ih =>
    obtain ⟨k, v⟩ := p
    by_cases h : k = i
    · simpa [tdel, h] using ih
    · simpa [tdel, tget, h] using ih

theorem tget_tdel_ne (t : Table α) {i j : Nat} (h : j ≠ i) : tget (tdel t i) j = tget t j := by
  induction t with
  | nil => rfl
  | cons p t ih =>
    obtain ⟨k, v⟩ := p
    by_cases hk : k = i
    · subst hk; simpa [tdel, tget, Ne.symm h] using ih
    · simp only [tdel] at ih
      simp [tdel, tget, hk, ih]

theorem tget_tmap (t : Table α) (f : Nat → α → α) (i : Nat) :
    tget (tmap t f) i = (tget t i).map (f i) := by
  induction t with
  | nil => rfl
  | cons p t ih =>
    obtain ⟨k, v⟩ := p
    by_cases h : k = i
    · subst h; simp [tmap, tget]
    · simp only [tmap] at ih
      simp [tmap, tget, h, ih]

theorem tget_tupd (t : Table α) (i j : Nat) (f : α → α) :
    tget (tupd t i f) j = if j = i then (tget t i).map f else tget t j := by
  unfold tupd
  split
  · next h => split_ifs with hj <;> simp [hj, h]
  · next v h => rw [tget_tset, h]; rfl

theorem tgetD_tmod (t : Table α) (i j : Nat) (d : α) (f : α → α) :
    tgetD (tmod t i d f) j d = if j = i then f (tgetD t i d) else tgetD t j d := by
  unfold tmod
  rw [tgetD, tget_tset]
  split_ifs with h <;> simp [tgetD]

theorem tget_tmod (t : Table α) (i j : Nat) (d : α) (f : α → α) :
    tget (tmod t i d f) j = if j = i then some (f (tgetD t i d)) else tget t j := tget_tset t i j _

@[simp] theorem tgetD_tset_self (t : Table α) (i : Nat) (a d : α) : tgetD (tset t i a) i d = a := by
  simp [tgetD]

theorem tgetD_tset_ne (t : Table α) {i j : Nat} (a d : α) (h : j ≠ i) : tgetD (tset t i a) j d = tgetD t j d := by
  simp [tgetD, tget_tset_ne t a h]

/-- The lanes of a mask. -/
theorem mem_lanesOf {m : BitVec 32} {l : Nat} : l ∈ lanesOf m ↔ m.getLsbD l = true := by
  unfold lanesOf
  simp only [List.mem_filter, List.mem_range, and_iff_right_iff_imp]
  intro h
  exact BitVec.lt_of_getLsbD h

theorem getLsbD_foldl_twoPow (ls : List Nat) (m : BitVec 32) (l : Nat) :
    (ls.foldl (fun m l => m ||| BitVec.twoPow 32 l) m).getLsbD l =
      (m.getLsbD l || (decide (l < 32) && ls.contains l)) := by
  induction ls generalizing m with
  | nil => simp
  | cons a ls ih =>
    rw [List.foldl_cons, ih]
    by_cases h : l < 32
    · simp only [BitVec.getLsbD_or, BitVec.getLsbD_twoPow, h, decide_true, Bool.true_and, List.contains_cons,
        Bool.or_assoc]
      congr 2
      by_cases e : a = l
      · subst e; simp [h]
      · simp [e, Ne.symm e]
    · have e : a < 32 → ¬a = l := fun ha e => h (e ▸ ha)
      simp [h, BitVec.getLsbD_of_ge m l (by omega)]; exact e

/-- A lane of the mask of some lanes. -/
theorem getLsbD_maskOf (ls : List Nat) (l : Nat) :
    (maskOf ls).getLsbD l = (decide (l < 32) && ls.contains l) := by
  unfold maskOf
  rw [getLsbD_foldl_twoPow]
  simp

@[simp] theorem maskOf_lanesOf (m : BitVec 32) : maskOf (lanesOf m) = m := by
  apply BitVec.eq_of_getLsbD_eq
  intro l hl
  rw [getLsbD_maskOf]
  simp only [hl, decide_true, Bool.true_and]
  rw [Bool.eq_iff_iff, List.contains_iff_mem, mem_lanesOf]

end Sys2Proof.Machine
end

