-- ==== Sys2Proof/Laws/State.lean ====
section
/-! SUPPORT. Laws/State.lean: one lemma for each field of the state after each update of one entry, and what an entry
reads as after it. -/

set_option Elab.async false

namespace Sys2Proof.Machine

section updWarp
variable (s : State) (w : Nat) (f : Warp → Warp)
@[simp] theorem updWarp_now : (s.updWarp w f).now = s.now := rfl
@[simp] theorem updWarp_mem : (s.updWarp w f).mem = s.mem := rfl
@[simp] theorem updWarp_poison : (s.updWarp w f).poison = s.poison := rfl
@[simp] theorem updWarp_hbmErr : (s.updWarp w f).hbmErr = s.hbmErr := rfl
@[simp] theorem updWarp_pinMarks : (s.updWarp w f).pinMarks = s.pinMarks := rfl
@[simp] theorem updWarp_pinHits : (s.updWarp w f).pinHits = s.pinHits := rfl
@[simp] theorem updWarp_blocks : (s.updWarp w f).blocks = s.blocks := rfl
@[simp] theorem updWarp_grids : (s.updWarp w f).grids = s.grids := rfl
@[simp] theorem updWarp_clusters : (s.updWarp w f).clusters = s.clusters := rfl
@[simp] theorem updWarp_cores : (s.updWarp w f).cores = s.cores := rfl
@[simp] theorem updWarp_groups : (s.updWarp w f).groups = s.groups := rfl
@[simp] theorem updWarp_dies : (s.updWarp w f).dies = s.dies := rfl
@[simp] theorem updWarp_vis : (s.updWarp w f).vis = s.vis := rfl
@[simp] theorem updWarp_futs : (s.updWarp w f).futs = s.futs := rfl
@[simp] theorem updWarp_copies : (s.updWarp w f).copies = s.copies := rfl
@[simp] theorem updWarp_absent : (s.updWarp w f).absent = s.absent := rfl
@[simp] theorem updWarp_chans : (s.updWarp w f).chans = s.chans := rfl
@[simp] theorem updWarp_resvs : (s.updWarp w f).resvs = s.resvs := rfl
@[simp] theorem updWarp_mwords : (s.updWarp w f).mwords = s.mwords := rfl
@[simp] theorem updWarp_bars : (s.updWarp w f).bars = s.bars := rfl
@[simp] theorem updWarp_rels : (s.updWarp w f).rels = s.rels := rfl
@[simp] theorem updWarp_buffers : (s.updWarp w f).buffers = s.buffers := rfl
@[simp] theorem updWarp_boot : (s.updWarp w f).boot = s.boot := rfl
@[simp] theorem updWarp_sent : (s.updWarp w f).sent = s.sent := rfl
@[simp] theorem updWarp_turn : (s.updWarp w f).turn = s.turn := rfl
@[simp] theorem updWarp_interval : (s.updWarp w f).interval = s.interval := rfl
@[simp] theorem updWarp_uid : (s.updWarp w f).uid = s.uid := rfl
@[simp] theorem updWarp_fresh : (s.updWarp w f).fresh = s.fresh := rfl
@[simp] theorem updWarp_cur : (s.updWarp w f).cur = s.cur := rfl
@[simp] theorem updWarp_agenda : (s.updWarp w f).agenda = s.agenda := rfl
end updWarp

section updBlock
variable (s : State) (b : Nat) (f : Block → Block)
@[simp] theorem updBlock_now : (s.updBlock b f).now = s.now := rfl
@[simp] theorem updBlock_mem : (s.updBlock b f).mem = s.mem := rfl
@[simp] theorem updBlock_poison : (s.updBlock b f).poison = s.poison := rfl
@[simp] theorem updBlock_hbmErr : (s.updBlock b f).hbmErr = s.hbmErr := rfl
@[simp] theorem updBlock_pinMarks : (s.updBlock b f).pinMarks = s.pinMarks := rfl
@[simp] theorem updBlock_pinHits : (s.updBlock b f).pinHits = s.pinHits := rfl
@[simp] theorem updBlock_warps : (s.updBlock b f).warps = s.warps := rfl
@[simp] theorem updBlock_grids : (s.updBlock b f).grids = s.grids := rfl
@[simp] theorem updBlock_clusters : (s.updBlock b f).clusters = s.clusters := rfl
@[simp] theorem updBlock_cores : (s.updBlock b f).cores = s.cores := rfl
@[simp] theorem updBlock_groups : (s.updBlock b f).groups = s.groups := rfl
@[simp] theorem updBlock_dies : (s.updBlock b f).dies = s.dies := rfl
@[simp] theorem updBlock_vis : (s.updBlock b f).vis = s.vis := rfl
@[simp] theorem updBlock_futs : (s.updBlock b f).futs = s.futs := rfl
@[simp] theorem updBlock_copies : (s.updBlock b f).copies = s.copies := rfl
@[simp] theorem updBlock_absent : (s.updBlock b f).absent = s.absent := rfl
@[simp] theorem updBlock_chans : (s.updBlock b f).chans = s.chans := rfl
@[simp] theorem updBlock_resvs : (s.updBlock b f).resvs = s.resvs := rfl
@[simp] theorem updBlock_mwords : (s.updBlock b f).mwords = s.mwords := rfl
@[simp] theorem updBlock_bars : (s.updBlock b f).bars = s.bars := rfl
@[simp] theorem updBlock_rels : (s.updBlock b f).rels = s.rels := rfl
@[simp] theorem updBlock_buffers : (s.updBlock b f).buffers = s.buffers := rfl
@[simp] theorem updBlock_boot : (s.updBlock b f).boot = s.boot := rfl
@[simp] theorem updBlock_sent : (s.updBlock b f).sent = s.sent := rfl
@[simp] theorem updBlock_turn : (s.updBlock b f).turn = s.turn := rfl
@[simp] theorem updBlock_interval : (s.updBlock b f).interval = s.interval := rfl
@[simp] theorem updBlock_uid : (s.updBlock b f).uid = s.uid := rfl
@[simp] theorem updBlock_fresh : (s.updBlock b f).fresh = s.fresh := rfl
@[simp] theorem updBlock_cur : (s.updBlock b f).cur = s.cur := rfl
@[simp] theorem updBlock_agenda : (s.updBlock b f).agenda = s.agenda := rfl
end updBlock

section updGrid
variable (s : State) (g : Nat) (f : Grid → Grid)
@[simp] theorem updGrid_now : (s.updGrid g f).now = s.now := rfl
@[simp] theorem updGrid_mem : (s.updGrid g f).mem = s.mem := rfl
@[simp] theorem updGrid_poison : (s.updGrid g f).poison = s.poison := rfl
@[simp] theorem updGrid_hbmErr : (s.updGrid g f).hbmErr = s.hbmErr := rfl
@[simp] theorem updGrid_pinMarks : (s.updGrid g f).pinMarks = s.pinMarks := rfl
@[simp] theorem updGrid_pinHits : (s.updGrid g f).pinHits = s.pinHits := rfl
@[simp] theorem updGrid_warps : (s.updGrid g f).warps = s.warps := rfl
@[simp] theorem updGrid_blocks : (s.updGrid g f).blocks = s.blocks := rfl
@[simp] theorem updGrid_clusters : (s.updGrid g f).clusters = s.clusters := rfl
@[simp] theorem updGrid_cores : (s.updGrid g f).cores = s.cores := rfl
@[simp] theorem updGrid_groups : (s.updGrid g f).groups = s.groups := rfl
@[simp] theorem updGrid_dies : (s.updGrid g f).dies = s.dies := rfl
@[simp] theorem updGrid_vis : (s.updGrid g f).vis = s.vis := rfl
@[simp] theorem updGrid_futs : (s.updGrid g f).futs = s.futs := rfl
@[simp] theorem updGrid_copies : (s.updGrid g f).copies = s.copies := rfl
@[simp] theorem updGrid_absent : (s.updGrid g f).absent = s.absent := rfl
@[simp] theorem updGrid_chans : (s.updGrid g f).chans = s.chans := rfl
@[simp] theorem updGrid_resvs : (s.updGrid g f).resvs = s.resvs := rfl
@[simp] theorem updGrid_mwords : (s.updGrid g f).mwords = s.mwords := rfl
@[simp] theorem updGrid_bars : (s.updGrid g f).bars = s.bars := rfl
@[simp] theorem updGrid_rels : (s.updGrid g f).rels = s.rels := rfl
@[simp] theorem updGrid_buffers : (s.updGrid g f).buffers = s.buffers := rfl
@[simp] theorem updGrid_boot : (s.updGrid g f).boot = s.boot := rfl
@[simp] theorem updGrid_sent : (s.updGrid g f).sent = s.sent := rfl
@[simp] theorem updGrid_turn : (s.updGrid g f).turn = s.turn := rfl
@[simp] theorem updGrid_interval : (s.updGrid g f).interval = s.interval := rfl
@[simp] theorem updGrid_uid : (s.updGrid g f).uid = s.uid := rfl
@[simp] theorem updGrid_fresh : (s.updGrid g f).fresh = s.fresh := rfl
@[simp] theorem updGrid_cur : (s.updGrid g f).cur = s.cur := rfl
@[simp] theorem updGrid_agenda : (s.updGrid g f).agenda = s.agenda := rfl
end updGrid

section updCore
variable (s : State) (c : Nat) (f : Core → Core)
@[simp] theorem updCore_now : (s.updCore c f).now = s.now := rfl
@[simp] theorem updCore_mem : (s.updCore c f).mem = s.mem := rfl
@[simp] theorem updCore_poison : (s.updCore c f).poison = s.poison := rfl
@[simp] theorem updCore_hbmErr : (s.updCore c f).hbmErr = s.hbmErr := rfl
@[simp] theorem updCore_pinMarks : (s.updCore c f).pinMarks = s.pinMarks := rfl
@[simp] theorem updCore_pinHits : (s.updCore c f).pinHits = s.pinHits := rfl
@[simp] theorem updCore_warps : (s.updCore c f).warps = s.warps := rfl
@[simp] theorem updCore_blocks : (s.updCore c f).blocks = s.blocks := rfl
@[simp] theorem updCore_grids : (s.updCore c f).grids = s.grids := rfl
@[simp] theorem updCore_clusters : (s.updCore c f).clusters = s.clusters := rfl
@[simp] theorem updCore_groups : (s.updCore c f).groups = s.groups := rfl
@[simp] theorem updCore_dies : (s.updCore c f).dies = s.dies := rfl
@[simp] theorem updCore_vis : (s.updCore c f).vis = s.vis := rfl
@[simp] theorem updCore_futs : (s.updCore c f).futs = s.futs := rfl
@[simp] theorem updCore_copies : (s.updCore c f).copies = s.copies := rfl
@[simp] theorem updCore_absent : (s.updCore c f).absent = s.absent := rfl
@[simp] theorem updCore_chans : (s.updCore c f).chans = s.chans := rfl
@[simp] theorem updCore_resvs : (s.updCore c f).resvs = s.resvs := rfl
@[simp] theorem updCore_mwords : (s.updCore c f).mwords = s.mwords := rfl
@[simp] theorem updCore_bars : (s.updCore c f).bars = s.bars := rfl
@[simp] theorem updCore_rels : (s.updCore c f).rels = s.rels := rfl
@[simp] theorem updCore_buffers : (s.updCore c f).buffers = s.buffers := rfl
@[simp] theorem updCore_boot : (s.updCore c f).boot = s.boot := rfl
@[simp] theorem updCore_sent : (s.updCore c f).sent = s.sent := rfl
@[simp] theorem updCore_turn : (s.updCore c f).turn = s.turn := rfl
@[simp] theorem updCore_interval : (s.updCore c f).interval = s.interval := rfl
@[simp] theorem updCore_uid : (s.updCore c f).uid = s.uid := rfl
@[simp] theorem updCore_fresh : (s.updCore c f).fresh = s.fresh := rfl
@[simp] theorem updCore_cur : (s.updCore c f).cur = s.cur := rfl
@[simp] theorem updCore_agenda : (s.updCore c f).agenda = s.agenda := rfl
end updCore

section updDie
variable (s : State) (d : Nat) (f : Die → Die)
@[simp] theorem updDie_now : (s.updDie d f).now = s.now := rfl
@[simp] theorem updDie_mem : (s.updDie d f).mem = s.mem := rfl
@[simp] theorem updDie_poison : (s.updDie d f).poison = s.poison := rfl
@[simp] theorem updDie_hbmErr : (s.updDie d f).hbmErr = s.hbmErr := rfl
@[simp] theorem updDie_pinMarks : (s.updDie d f).pinMarks = s.pinMarks := rfl
@[simp] theorem updDie_pinHits : (s.updDie d f).pinHits = s.pinHits := rfl
@[simp] theorem updDie_warps : (s.updDie d f).warps = s.warps := rfl
@[simp] theorem updDie_blocks : (s.updDie d f).blocks = s.blocks := rfl
@[simp] theorem updDie_grids : (s.updDie d f).grids = s.grids := rfl
@[simp] theorem updDie_clusters : (s.updDie d f).clusters = s.clusters := rfl
@[simp] theorem updDie_cores : (s.updDie d f).cores = s.cores := rfl
@[simp] theorem updDie_groups : (s.updDie d f).groups = s.groups := rfl
@[simp] theorem updDie_vis : (s.updDie d f).vis = s.vis := rfl
@[simp] theorem updDie_futs : (s.updDie d f).futs = s.futs := rfl
@[simp] theorem updDie_copies : (s.updDie d f).copies = s.copies := rfl
@[simp] theorem updDie_absent : (s.updDie d f).absent = s.absent := rfl
@[simp] theorem updDie_chans : (s.updDie d f).chans = s.chans := rfl
@[simp] theorem updDie_resvs : (s.updDie d f).resvs = s.resvs := rfl
@[simp] theorem updDie_mwords : (s.updDie d f).mwords = s.mwords := rfl
@[simp] theorem updDie_bars : (s.updDie d f).bars = s.bars := rfl
@[simp] theorem updDie_rels : (s.updDie d f).rels = s.rels := rfl
@[simp] theorem updDie_buffers : (s.updDie d f).buffers = s.buffers := rfl
@[simp] theorem updDie_boot : (s.updDie d f).boot = s.boot := rfl
@[simp] theorem updDie_sent : (s.updDie d f).sent = s.sent := rfl
@[simp] theorem updDie_turn : (s.updDie d f).turn = s.turn := rfl
@[simp] theorem updDie_interval : (s.updDie d f).interval = s.interval := rfl
@[simp] theorem updDie_uid : (s.updDie d f).uid = s.uid := rfl
@[simp] theorem updDie_fresh : (s.updDie d f).fresh = s.fresh := rfl
@[simp] theorem updDie_cur : (s.updDie d f).cur = s.cur := rfl
@[simp] theorem updDie_agenda : (s.updDie d f).agenda = s.agenda := rfl
end updDie

section updVi
variable (s : State) (v : Nat) (f : Vi → Vi)
@[simp] theorem updVi_now : (s.updVi v f).now = s.now := rfl
@[simp] theorem updVi_mem : (s.updVi v f).mem = s.mem := rfl
@[simp] theorem updVi_poison : (s.updVi v f).poison = s.poison := rfl
@[simp] theorem updVi_hbmErr : (s.updVi v f).hbmErr = s.hbmErr := rfl
@[simp] theorem updVi_pinMarks : (s.updVi v f).pinMarks = s.pinMarks := rfl
@[simp] theorem updVi_pinHits : (s.updVi v f).pinHits = s.pinHits := rfl
@[simp] theorem updVi_warps : (s.updVi v f).warps = s.warps := rfl
@[simp] theorem updVi_blocks : (s.updVi v f).blocks = s.blocks := rfl
@[simp] theorem updVi_grids : (s.updVi v f).grids = s.grids := rfl
@[simp] theorem updVi_clusters : (s.updVi v f).clusters = s.clusters := rfl
@[simp] theorem updVi_cores : (s.updVi v f).cores = s.cores := rfl
@[simp] theorem updVi_groups : (s.updVi v f).groups = s.groups := rfl
@[simp] theorem updVi_dies : (s.updVi v f).dies = s.dies := rfl
@[simp] theorem updVi_futs : (s.updVi v f).futs = s.futs := rfl
@[simp] theorem updVi_copies : (s.updVi v f).copies = s.copies := rfl
@[simp] theorem updVi_absent : (s.updVi v f).absent = s.absent := rfl
@[simp] theorem updVi_chans : (s.updVi v f).chans = s.chans := rfl
@[simp] theorem updVi_resvs : (s.updVi v f).resvs = s.resvs := rfl
@[simp] theorem updVi_mwords : (s.updVi v f).mwords = s.mwords := rfl
@[simp] theorem updVi_bars : (s.updVi v f).bars = s.bars := rfl
@[simp] theorem updVi_rels : (s.updVi v f).rels = s.rels := rfl
@[simp] theorem updVi_buffers : (s.updVi v f).buffers = s.buffers := rfl
@[simp] theorem updVi_boot : (s.updVi v f).boot = s.boot := rfl
@[simp] theorem updVi_sent : (s.updVi v f).sent = s.sent := rfl
@[simp] theorem updVi_turn : (s.updVi v f).turn = s.turn := rfl
@[simp] theorem updVi_interval : (s.updVi v f).interval = s.interval := rfl
@[simp] theorem updVi_uid : (s.updVi v f).uid = s.uid := rfl
@[simp] theorem updVi_fresh : (s.updVi v f).fresh = s.fresh := rfl
@[simp] theorem updVi_cur : (s.updVi v f).cur = s.cur := rfl
@[simp] theorem updVi_agenda : (s.updVi v f).agenda = s.agenda := rfl
end updVi

section updGroup
variable (s : State) (g : Nat) (f : Group → Group)
@[simp] theorem updGroup_now : (s.updGroup g f).now = s.now := rfl
@[simp] theorem updGroup_mem : (s.updGroup g f).mem = s.mem := rfl
@[simp] theorem updGroup_poison : (s.updGroup g f).poison = s.poison := rfl
@[simp] theorem updGroup_hbmErr : (s.updGroup g f).hbmErr = s.hbmErr := rfl
@[simp] theorem updGroup_pinMarks : (s.updGroup g f).pinMarks = s.pinMarks := rfl
@[simp] theorem updGroup_pinHits : (s.updGroup g f).pinHits = s.pinHits := rfl
@[simp] theorem updGroup_warps : (s.updGroup g f).warps = s.warps := rfl
@[simp] theorem updGroup_blocks : (s.updGroup g f).blocks = s.blocks := rfl
@[simp] theorem updGroup_grids : (s.updGroup g f).grids = s.grids := rfl
@[simp] theorem updGroup_clusters : (s.updGroup g f).clusters = s.clusters := rfl
@[simp] theorem updGroup_cores : (s.updGroup g f).cores = s.cores := rfl
@[simp] theorem updGroup_dies : (s.updGroup g f).dies = s.dies := rfl
@[simp] theorem updGroup_vis : (s.updGroup g f).vis = s.vis := rfl
@[simp] theorem updGroup_futs : (s.updGroup g f).futs = s.futs := rfl
@[simp] theorem updGroup_copies : (s.updGroup g f).copies = s.copies := rfl
@[simp] theorem updGroup_absent : (s.updGroup g f).absent = s.absent := rfl
@[simp] theorem updGroup_chans : (s.updGroup g f).chans = s.chans := rfl
@[simp] theorem updGroup_resvs : (s.updGroup g f).resvs = s.resvs := rfl
@[simp] theorem updGroup_mwords : (s.updGroup g f).mwords = s.mwords := rfl
@[simp] theorem updGroup_bars : (s.updGroup g f).bars = s.bars := rfl
@[simp] theorem updGroup_rels : (s.updGroup g f).rels = s.rels := rfl
@[simp] theorem updGroup_buffers : (s.updGroup g f).buffers = s.buffers := rfl
@[simp] theorem updGroup_boot : (s.updGroup g f).boot = s.boot := rfl
@[simp] theorem updGroup_sent : (s.updGroup g f).sent = s.sent := rfl
@[simp] theorem updGroup_turn : (s.updGroup g f).turn = s.turn := rfl
@[simp] theorem updGroup_interval : (s.updGroup g f).interval = s.interval := rfl
@[simp] theorem updGroup_uid : (s.updGroup g f).uid = s.uid := rfl
@[simp] theorem updGroup_fresh : (s.updGroup g f).fresh = s.fresh := rfl
@[simp] theorem updGroup_cur : (s.updGroup g f).cur = s.cur := rfl
@[simp] theorem updGroup_agenda : (s.updGroup g f).agenda = s.agenda := rfl
end updGroup

section updCluster
variable (s : State) (c : Nat) (f : Cluster → Cluster)
@[simp] theorem updCluster_now : (s.updCluster c f).now = s.now := rfl
@[simp] theorem updCluster_mem : (s.updCluster c f).mem = s.mem := rfl
@[simp] theorem updCluster_poison : (s.updCluster c f).poison = s.poison := rfl
@[simp] theorem updCluster_hbmErr : (s.updCluster c f).hbmErr = s.hbmErr := rfl
@[simp] theorem updCluster_pinMarks : (s.updCluster c f).pinMarks = s.pinMarks := rfl
@[simp] theorem updCluster_pinHits : (s.updCluster c f).pinHits = s.pinHits := rfl
@[simp] theorem updCluster_warps : (s.updCluster c f).warps = s.warps := rfl
@[simp] theorem updCluster_blocks : (s.updCluster c f).blocks = s.blocks := rfl
@[simp] theorem updCluster_grids : (s.updCluster c f).grids = s.grids := rfl
@[simp] theorem updCluster_cores : (s.updCluster c f).cores = s.cores := rfl
@[simp] theorem updCluster_groups : (s.updCluster c f).groups = s.groups := rfl
@[simp] theorem updCluster_dies : (s.updCluster c f).dies = s.dies := rfl
@[simp] theorem updCluster_vis : (s.updCluster c f).vis = s.vis := rfl
@[simp] theorem updCluster_futs : (s.updCluster c f).futs = s.futs := rfl
@[simp] theorem updCluster_copies : (s.updCluster c f).copies = s.copies := rfl
@[simp] theorem updCluster_absent : (s.updCluster c f).absent = s.absent := rfl
@[simp] theorem updCluster_chans : (s.updCluster c f).chans = s.chans := rfl
@[simp] theorem updCluster_resvs : (s.updCluster c f).resvs = s.resvs := rfl
@[simp] theorem updCluster_mwords : (s.updCluster c f).mwords = s.mwords := rfl
@[simp] theorem updCluster_bars : (s.updCluster c f).bars = s.bars := rfl
@[simp] theorem updCluster_rels : (s.updCluster c f).rels = s.rels := rfl
@[simp] theorem updCluster_buffers : (s.updCluster c f).buffers = s.buffers := rfl
@[simp] theorem updCluster_boot : (s.updCluster c f).boot = s.boot := rfl
@[simp] theorem updCluster_sent : (s.updCluster c f).sent = s.sent := rfl
@[simp] theorem updCluster_turn : (s.updCluster c f).turn = s.turn := rfl
@[simp] theorem updCluster_interval : (s.updCluster c f).interval = s.interval := rfl
@[simp] theorem updCluster_uid : (s.updCluster c f).uid = s.uid := rfl
@[simp] theorem updCluster_fresh : (s.updCluster c f).fresh = s.fresh := rfl
@[simp] theorem updCluster_cur : (s.updCluster c f).cur = s.cur := rfl
@[simp] theorem updCluster_agenda : (s.updCluster c f).agenda = s.agenda := rfl
end updCluster

section updFut
variable (s : State) (n : Nat) (f : Fut → Fut)
@[simp] theorem updFut_now : (s.updFut n f).now = s.now := rfl
@[simp] theorem updFut_mem : (s.updFut n f).mem = s.mem := rfl
@[simp] theorem updFut_poison : (s.updFut n f).poison = s.poison := rfl
@[simp] theorem updFut_hbmErr : (s.updFut n f).hbmErr = s.hbmErr := rfl
@[simp] theorem updFut_pinMarks : (s.updFut n f).pinMarks = s.pinMarks := rfl
@[simp] theorem updFut_pinHits : (s.updFut n f).pinHits = s.pinHits := rfl
@[simp] theorem updFut_warps : (s.updFut n f).warps = s.warps := rfl
@[simp] theorem updFut_blocks : (s.updFut n f).blocks = s.blocks := rfl
@[simp] theorem updFut_grids : (s.updFut n f).grids = s.grids := rfl
@[simp] theorem updFut_clusters : (s.updFut n f).clusters = s.clusters := rfl
@[simp] theorem updFut_cores : (s.updFut n f).cores = s.cores := rfl
@[simp] theorem updFut_groups : (s.updFut n f).groups = s.groups := rfl
@[simp] theorem updFut_dies : (s.updFut n f).dies = s.dies := rfl
@[simp] theorem updFut_vis : (s.updFut n f).vis = s.vis := rfl
@[simp] theorem updFut_copies : (s.updFut n f).copies = s.copies := rfl
@[simp] theorem updFut_absent : (s.updFut n f).absent = s.absent := rfl
@[simp] theorem updFut_chans : (s.updFut n f).chans = s.chans := rfl
@[simp] theorem updFut_resvs : (s.updFut n f).resvs = s.resvs := rfl
@[simp] theorem updFut_mwords : (s.updFut n f).mwords = s.mwords := rfl
@[simp] theorem updFut_bars : (s.updFut n f).bars = s.bars := rfl
@[simp] theorem updFut_rels : (s.updFut n f).rels = s.rels := rfl
@[simp] theorem updFut_buffers : (s.updFut n f).buffers = s.buffers := rfl
@[simp] theorem updFut_boot : (s.updFut n f).boot = s.boot := rfl
@[simp] theorem updFut_sent : (s.updFut n f).sent = s.sent := rfl
@[simp] theorem updFut_turn : (s.updFut n f).turn = s.turn := rfl
@[simp] theorem updFut_interval : (s.updFut n f).interval = s.interval := rfl
@[simp] theorem updFut_uid : (s.updFut n f).uid = s.uid := rfl
@[simp] theorem updFut_fresh : (s.updFut n f).fresh = s.fresh := rfl
@[simp] theorem updFut_cur : (s.updFut n f).cur = s.cur := rfl
@[simp] theorem updFut_agenda : (s.updFut n f).agenda = s.agenda := rfl
end updFut

section updChan
variable (s : State) (c : Nat) (f : Chan → Chan)
@[simp] theorem updChan_now : (s.updChan c f).now = s.now := rfl
@[simp] theorem updChan_mem : (s.updChan c f).mem = s.mem := rfl
@[simp] theorem updChan_poison : (s.updChan c f).poison = s.poison := rfl
@[simp] theorem updChan_hbmErr : (s.updChan c f).hbmErr = s.hbmErr := rfl
@[simp] theorem updChan_pinMarks : (s.updChan c f).pinMarks = s.pinMarks := rfl
@[simp] theorem updChan_pinHits : (s.updChan c f).pinHits = s.pinHits := rfl
@[simp] theorem updChan_warps : (s.updChan c f).warps = s.warps := rfl
@[simp] theorem updChan_blocks : (s.updChan c f).blocks = s.blocks := rfl
@[simp] theorem updChan_grids : (s.updChan c f).grids = s.grids := rfl
@[simp] theorem updChan_clusters : (s.updChan c f).clusters = s.clusters := rfl
@[simp] theorem updChan_cores : (s.updChan c f).cores = s.cores := rfl
@[simp] theorem updChan_groups : (s.updChan c f).groups = s.groups := rfl
@[simp] theorem updChan_dies : (s.updChan c f).dies = s.dies := rfl
@[simp] theorem updChan_vis : (s.updChan c f).vis = s.vis := rfl
@[simp] theorem updChan_futs : (s.updChan c f).futs = s.futs := rfl
@[simp] theorem updChan_copies : (s.updChan c f).copies = s.copies := rfl
@[simp] theorem updChan_absent : (s.updChan c f).absent = s.absent := rfl
@[simp] theorem updChan_resvs : (s.updChan c f).resvs = s.resvs := rfl
@[simp] theorem updChan_mwords : (s.updChan c f).mwords = s.mwords := rfl
@[simp] theorem updChan_bars : (s.updChan c f).bars = s.bars := rfl
@[simp] theorem updChan_rels : (s.updChan c f).rels = s.rels := rfl
@[simp] theorem updChan_buffers : (s.updChan c f).buffers = s.buffers := rfl
@[simp] theorem updChan_boot : (s.updChan c f).boot = s.boot := rfl
@[simp] theorem updChan_sent : (s.updChan c f).sent = s.sent := rfl
@[simp] theorem updChan_turn : (s.updChan c f).turn = s.turn := rfl
@[simp] theorem updChan_interval : (s.updChan c f).interval = s.interval := rfl
@[simp] theorem updChan_uid : (s.updChan c f).uid = s.uid := rfl
@[simp] theorem updChan_fresh : (s.updChan c f).fresh = s.fresh := rfl
@[simp] theorem updChan_cur : (s.updChan c f).cur = s.cur := rfl
@[simp] theorem updChan_agenda : (s.updChan c f).agenda = s.agenda := rfl
end updChan

section setBar
variable (s : State) (n : BarName) (b : Bar)
@[simp] theorem setBar_now : (s.setBar n b).now = s.now := rfl
@[simp] theorem setBar_mem : (s.setBar n b).mem = s.mem := rfl
@[simp] theorem setBar_poison : (s.setBar n b).poison = s.poison := rfl
@[simp] theorem setBar_hbmErr : (s.setBar n b).hbmErr = s.hbmErr := rfl
@[simp] theorem setBar_pinMarks : (s.setBar n b).pinMarks = s.pinMarks := rfl
@[simp] theorem setBar_pinHits : (s.setBar n b).pinHits = s.pinHits := rfl
@[simp] theorem setBar_warps : (s.setBar n b).warps = s.warps := rfl
@[simp] theorem setBar_blocks : (s.setBar n b).blocks = s.blocks := rfl
@[simp] theorem setBar_grids : (s.setBar n b).grids = s.grids := rfl
@[simp] theorem setBar_clusters : (s.setBar n b).clusters = s.clusters := rfl
@[simp] theorem setBar_cores : (s.setBar n b).cores = s.cores := rfl
@[simp] theorem setBar_groups : (s.setBar n b).groups = s.groups := rfl
@[simp] theorem setBar_dies : (s.setBar n b).dies = s.dies := rfl
@[simp] theorem setBar_vis : (s.setBar n b).vis = s.vis := rfl
@[simp] theorem setBar_futs : (s.setBar n b).futs = s.futs := rfl
@[simp] theorem setBar_copies : (s.setBar n b).copies = s.copies := rfl
@[simp] theorem setBar_absent : (s.setBar n b).absent = s.absent := rfl
@[simp] theorem setBar_chans : (s.setBar n b).chans = s.chans := rfl
@[simp] theorem setBar_resvs : (s.setBar n b).resvs = s.resvs := rfl
@[simp] theorem setBar_mwords : (s.setBar n b).mwords = s.mwords := rfl
@[simp] theorem setBar_rels : (s.setBar n b).rels = s.rels := rfl
@[simp] theorem setBar_buffers : (s.setBar n b).buffers = s.buffers := rfl
@[simp] theorem setBar_boot : (s.setBar n b).boot = s.boot := rfl
@[simp] theorem setBar_sent : (s.setBar n b).sent = s.sent := rfl
@[simp] theorem setBar_turn : (s.setBar n b).turn = s.turn := rfl
@[simp] theorem setBar_interval : (s.setBar n b).interval = s.interval := rfl
@[simp] theorem setBar_uid : (s.setBar n b).uid = s.uid := rfl
@[simp] theorem setBar_fresh : (s.setBar n b).fresh = s.fresh := rfl
@[simp] theorem setBar_cur : (s.setBar n b).cur = s.cur := rfl
@[simp] theorem setBar_agenda : (s.setBar n b).agenda = s.agenda := rfl
end setBar

theorem core_updCore (s : State) (i j : Nat) (f : Core → Core) :
    (s.updCore i f).core j = if j = i then f (s.core i) else s.core j := tgetD_tmod _ _ _ _ _
@[simp] theorem core_updCore_self (s : State) (i : Nat) (f : Core → Core) : (s.updCore i f).core i = f (s.core i) := by
  rw [core_updCore, if_pos rfl]

theorem die_updDie (s : State) (i j : Nat) (f : Die → Die) :
    (s.updDie i f).die j = if j = i then f (s.die i) else s.die j := tgetD_tmod _ _ _ _ _
@[simp] theorem die_updDie_self (s : State) (i : Nat) (f : Die → Die) : (s.updDie i f).die i = f (s.die i) := by
  rw [die_updDie, if_pos rfl]

theorem vi_updVi (s : State) (i j : Nat) (f : Vi → Vi) :
    (s.updVi i f).vi j = if j = i then f (s.vi i) else s.vi j := tgetD_tmod _ _ _ _ _
@[simp] theorem vi_updVi_self (s : State) (i : Nat) (f : Vi → Vi) : (s.updVi i f).vi i = f (s.vi i) := by
  rw [vi_updVi, if_pos rfl]

theorem group_updGroup (s : State) (i j : Nat) (f : Group → Group) :
    (s.updGroup i f).group j = if j = i then f (s.group i) else s.group j := tgetD_tmod _ _ _ _ _
@[simp] theorem group_updGroup_self (s : State) (i : Nat) (f : Group → Group) : (s.updGroup i f).group i = f (s.group i) := by
  rw [group_updGroup, if_pos rfl]

theorem cluster_updCluster (s : State) (i j : Nat) (f : Cluster → Cluster) :
    (s.updCluster i f).cluster j = if j = i then f (s.cluster i) else s.cluster j := tgetD_tmod _ _ _ _ _
@[simp] theorem cluster_updCluster_self (s : State) (i : Nat) (f : Cluster → Cluster) : (s.updCluster i f).cluster i = f (s.cluster i) := by
  rw [cluster_updCluster, if_pos rfl]

theorem fut_updFut (s : State) (i j : Nat) (f : Fut → Fut) :
    (s.updFut i f).fut j = if j = i then f (s.fut i) else s.fut j := tgetD_tmod _ _ _ _ _
@[simp] theorem fut_updFut_self (s : State) (i : Nat) (f : Fut → Fut) : (s.updFut i f).fut i = f (s.fut i) := by
  rw [fut_updFut, if_pos rfl]

theorem chan_updChan (s : State) (i j : Nat) (f : Chan → Chan) :
    (s.updChan i f).chan j = if j = i then f (s.chan i) else s.chan j := tgetD_tmod _ _ _ _ _
@[simp] theorem chan_updChan_self (s : State) (i : Nat) (f : Chan → Chan) : (s.updChan i f).chan i = f (s.chan i) := by
  rw [chan_updChan, if_pos rfl]

@[simp] theorem block_updWarp (s : State) (i j : Nat) (f : Warp → Warp) : (s.updWarp i f).block j = s.block j := rfl
@[simp] theorem grid_updWarp (s : State) (i j : Nat) (f : Warp → Warp) : (s.updWarp i f).grid j = s.grid j := rfl
@[simp] theorem core_updWarp (s : State) (i j : Nat) (f : Warp → Warp) : (s.updWarp i f).core j = s.core j := rfl
@[simp] theorem die_updWarp (s : State) (i j : Nat) (f : Warp → Warp) : (s.updWarp i f).die j = s.die j := rfl
@[simp] theorem vi_updWarp (s : State) (i j : Nat) (f : Warp → Warp) : (s.updWarp i f).vi j = s.vi j := rfl
@[simp] theorem group_updWarp (s : State) (i j : Nat) (f : Warp → Warp) : (s.updWarp i f).group j = s.group j := rfl
@[simp] theorem cluster_updWarp (s : State) (i j : Nat) (f : Warp → Warp) : (s.updWarp i f).cluster j = s.cluster j := rfl
@[simp] theorem fut_updWarp (s : State) (i j : Nat) (f : Warp → Warp) : (s.updWarp i f).fut j = s.fut j := rfl
@[simp] theorem chan_updWarp (s : State) (i j : Nat) (f : Warp → Warp) : (s.updWarp i f).chan j = s.chan j := rfl
@[simp] theorem warp_updBlock (s : State) (i j : Nat) (f : Block → Block) : (s.updBlock i f).warp j = s.warp j := rfl
@[simp] theorem grid_updBlock (s : State) (i j : Nat) (f : Block → Block) : (s.updBlock i f).grid j = s.grid j := rfl
@[simp] theorem core_updBlock (s : State) (i j : Nat) (f : Block → Block) : (s.updBlock i f).core j = s.core j := rfl
@[simp] theorem die_updBlock (s : State) (i j : Nat) (f : Block → Block) : (s.updBlock i f).die j = s.die j := rfl
@[simp] theorem vi_updBlock (s : State) (i j : Nat) (f : Block → Block) : (s.updBlock i f).vi j = s.vi j := rfl
@[simp] theorem group_updBlock (s : State) (i j : Nat) (f : Block → Block) : (s.updBlock i f).group j = s.group j := rfl
@[simp] theorem cluster_updBlock (s : State) (i j : Nat) (f : Block → Block) : (s.updBlock i f).cluster j = s.cluster j := rfl
@[simp] theorem fut_updBlock (s : State) (i j : Nat) (f : Block → Block) : (s.updBlock i f).fut j = s.fut j := rfl
@[simp] theorem chan_updBlock (s : State) (i j : Nat) (f : Block → Block) : (s.updBlock i f).chan j = s.chan j := rfl
@[simp] theorem warp_updGrid (s : State) (i j : Nat) (f : Grid → Grid) : (s.updGrid i f).warp j = s.warp j := rfl
@[simp] theorem block_updGrid (s : State) (i j : Nat) (f : Grid → Grid) : (s.updGrid i f).block j = s.block j := rfl
@[simp] theorem core_updGrid (s : State) (i j : Nat) (f : Grid → Grid) : (s.updGrid i f).core j = s.core j := rfl
@[simp] theorem die_updGrid (s : State) (i j : Nat) (f : Grid → Grid) : (s.updGrid i f).die j = s.die j := rfl
@[simp] theorem vi_updGrid (s : State) (i j : Nat) (f : Grid → Grid) : (s.updGrid i f).vi j = s.vi j := rfl
@[simp] theorem group_updGrid (s : State) (i j : Nat) (f : Grid → Grid) : (s.updGrid i f).group j = s.group j := rfl
@[simp] theorem cluster_updGrid (s : State) (i j : Nat) (f : Grid → Grid) : (s.updGrid i f).cluster j = s.cluster j := rfl
@[simp] theorem fut_updGrid (s : State) (i j : Nat) (f : Grid → Grid) : (s.updGrid i f).fut j = s.fut j := rfl
@[simp] theorem chan_updGrid (s : State) (i j : Nat) (f : Grid → Grid) : (s.updGrid i f).chan j = s.chan j := rfl
@[simp] theorem warp_updCore (s : State) (i j : Nat) (f : Core → Core) : (s.updCore i f).warp j = s.warp j := rfl
@[simp] theorem block_updCore (s : State) (i j : Nat) (f : Core → Core) : (s.updCore i f).block j = s.block j := rfl
@[simp] theorem grid_updCore (s : State) (i j : Nat) (f : Core → Core) : (s.updCore i f).grid j = s.grid j := rfl
@[simp] theorem die_updCore (s : State) (i j : Nat) (f : Core → Core) : (s.updCore i f).die j = s.die j := rfl
@[simp] theorem vi_updCore (s : State) (i j : Nat) (f : Core → Core) : (s.updCore i f).vi j = s.vi j := rfl
@[simp] theorem group_updCore (s : State) (i j : Nat) (f : Core → Core) : (s.updCore i f).group j = s.group j := rfl
@[simp] theorem cluster_updCore (s : State) (i j : Nat) (f : Core → Core) : (s.updCore i f).cluster j = s.cluster j := rfl
@[simp] theorem fut_updCore (s : State) (i j : Nat) (f : Core → Core) : (s.updCore i f).fut j = s.fut j := rfl
@[simp] theorem chan_updCore (s : State) (i j : Nat) (f : Core → Core) : (s.updCore i f).chan j = s.chan j := rfl
@[simp] theorem warp_updDie (s : State) (i j : Nat) (f : Die → Die) : (s.updDie i f).warp j = s.warp j := rfl
@[simp] theorem block_updDie (s : State) (i j : Nat) (f : Die → Die) : (s.updDie i f).block j = s.block j := rfl
@[simp] theorem grid_updDie (s : State) (i j : Nat) (f : Die → Die) : (s.updDie i f).grid j = s.grid j := rfl
@[simp] theorem core_updDie (s : State) (i j : Nat) (f : Die → Die) : (s.updDie i f).core j = s.core j := rfl
@[simp] theorem vi_updDie (s : State) (i j : Nat) (f : Die → Die) : (s.updDie i f).vi j = s.vi j := rfl
@[simp] theorem group_updDie (s : State) (i j : Nat) (f : Die → Die) : (s.updDie i f).group j = s.group j := rfl
@[simp] theorem cluster_updDie (s : State) (i j : Nat) (f : Die → Die) : (s.updDie i f).cluster j = s.cluster j := rfl
@[simp] theorem fut_updDie (s : State) (i j : Nat) (f : Die → Die) : (s.updDie i f).fut j = s.fut j := rfl
@[simp] theorem chan_updDie (s : State) (i j : Nat) (f : Die → Die) : (s.updDie i f).chan j = s.chan j := rfl
@[simp] theorem warp_updVi (s : State) (i j : Nat) (f : Vi → Vi) : (s.updVi i f).warp j = s.warp j := rfl
@[simp] theorem block_updVi (s : State) (i j : Nat) (f : Vi → Vi) : (s.updVi i f).block j = s.block j := rfl
@[simp] theorem grid_updVi (s : State) (i j : Nat) (f : Vi → Vi) : (s.updVi i f).grid j = s.grid j := rfl
@[simp] theorem core_updVi (s : State) (i j : Nat) (f : Vi → Vi) : (s.updVi i f).core j = s.core j := rfl
@[simp] theorem die_updVi (s : State) (i j : Nat) (f : Vi → Vi) : (s.updVi i f).die j = s.die j := rfl
@[simp] theorem group_updVi (s : State) (i j : Nat) (f : Vi → Vi) : (s.updVi i f).group j = s.group j := rfl
@[simp] theorem cluster_updVi (s : State) (i j : Nat) (f : Vi → Vi) : (s.updVi i f).cluster j = s.cluster j := rfl
@[simp] theorem fut_updVi (s : State) (i j : Nat) (f : Vi → Vi) : (s.updVi i f).fut j = s.fut j := rfl
@[simp] theorem chan_updVi (s : State) (i j : Nat) (f : Vi → Vi) : (s.updVi i f).chan j = s.chan j := rfl
@[simp] theorem warp_updGroup (s : State) (i j : Nat) (f : Group → Group) : (s.updGroup i f).warp j = s.warp j := rfl
@[simp] theorem block_updGroup (s : State) (i j : Nat) (f : Group → Group) : (s.updGroup i f).block j = s.block j := rfl
@[simp] theorem grid_updGroup (s : State) (i j : Nat) (f : Group → Group) : (s.updGroup i f).grid j = s.grid j := rfl
@[simp] theorem core_updGroup (s : State) (i j : Nat) (f : Group → Group) : (s.updGroup i f).core j = s.core j := rfl
@[simp] theorem die_updGroup (s : State) (i j : Nat) (f : Group → Group) : (s.updGroup i f).die j = s.die j := rfl
@[simp] theorem vi_updGroup (s : State) (i j : Nat) (f : Group → Group) : (s.updGroup i f).vi j = s.vi j := rfl
@[simp] theorem cluster_updGroup (s : State) (i j : Nat) (f : Group → Group) : (s.updGroup i f).cluster j = s.cluster j := rfl
@[simp] theorem fut_updGroup (s : State) (i j : Nat) (f : Group → Group) : (s.updGroup i f).fut j = s.fut j := rfl
@[simp] theorem chan_updGroup (s : State) (i j : Nat) (f : Group → Group) : (s.updGroup i f).chan j = s.chan j := rfl
@[simp] theorem warp_updCluster (s : State) (i j : Nat) (f : Cluster → Cluster) : (s.updCluster i f).warp j = s.warp j := rfl
@[simp] theorem block_updCluster (s : State) (i j : Nat) (f : Cluster → Cluster) : (s.updCluster i f).block j = s.block j := rfl
@[simp] theorem grid_updCluster (s : State) (i j : Nat) (f : Cluster → Cluster) : (s.updCluster i f).grid j = s.grid j := rfl
@[simp] theorem core_updCluster (s : State) (i j : Nat) (f : Cluster → Cluster) : (s.updCluster i f).core j = s.core j := rfl
@[simp] theorem die_updCluster (s : State) (i j : Nat) (f : Cluster → Cluster) : (s.updCluster i f).die j = s.die j := rfl
@[simp] theorem vi_updCluster (s : State) (i j : Nat) (f : Cluster → Cluster) : (s.updCluster i f).vi j = s.vi j := rfl
@[simp] theorem group_updCluster (s : State) (i j : Nat) (f : Cluster → Cluster) : (s.updCluster i f).group j = s.group j := rfl
@[simp] theorem fut_updCluster (s : State) (i j : Nat) (f : Cluster → Cluster) : (s.updCluster i f).fut j = s.fut j := rfl
@[simp] theorem chan_updCluster (s : State) (i j : Nat) (f : Cluster → Cluster) : (s.updCluster i f).chan j = s.chan j := rfl
@[simp] theorem warp_updFut (s : State) (i j : Nat) (f : Fut → Fut) : (s.updFut i f).warp j = s.warp j := rfl
@[simp] theorem block_updFut (s : State) (i j : Nat) (f : Fut → Fut) : (s.updFut i f).block j = s.block j := rfl
@[simp] theorem grid_updFut (s : State) (i j : Nat) (f : Fut → Fut) : (s.updFut i f).grid j = s.grid j := rfl
@[simp] theorem core_updFut (s : State) (i j : Nat) (f : Fut → Fut) : (s.updFut i f).core j = s.core j := rfl
@[simp] theorem die_updFut (s : State) (i j : Nat) (f : Fut → Fut) : (s.updFut i f).die j = s.die j := rfl
@[simp] theorem vi_updFut (s : State) (i j : Nat) (f : Fut → Fut) : (s.updFut i f).vi j = s.vi j := rfl
@[simp] theorem group_updFut (s : State) (i j : Nat) (f : Fut → Fut) : (s.updFut i f).group j = s.group j := rfl
@[simp] theorem cluster_updFut (s : State) (i j : Nat) (f : Fut → Fut) : (s.updFut i f).cluster j = s.cluster j := rfl
@[simp] theorem chan_updFut (s : State) (i j : Nat) (f : Fut → Fut) : (s.updFut i f).chan j = s.chan j := rfl
@[simp] theorem warp_updChan (s : State) (i j : Nat) (f : Chan → Chan) : (s.updChan i f).warp j = s.warp j := rfl
@[simp] theorem block_updChan (s : State) (i j : Nat) (f : Chan → Chan) : (s.updChan i f).block j = s.block j := rfl
@[simp] theorem grid_updChan (s : State) (i j : Nat) (f : Chan → Chan) : (s.updChan i f).grid j = s.grid j := rfl
@[simp] theorem core_updChan (s : State) (i j : Nat) (f : Chan → Chan) : (s.updChan i f).core j = s.core j := rfl
@[simp] theorem die_updChan (s : State) (i j : Nat) (f : Chan → Chan) : (s.updChan i f).die j = s.die j := rfl
@[simp] theorem vi_updChan (s : State) (i j : Nat) (f : Chan → Chan) : (s.updChan i f).vi j = s.vi j := rfl
@[simp] theorem group_updChan (s : State) (i j : Nat) (f : Chan → Chan) : (s.updChan i f).group j = s.group j := rfl
@[simp] theorem cluster_updChan (s : State) (i j : Nat) (f : Chan → Chan) : (s.updChan i f).cluster j = s.cluster j := rfl
@[simp] theorem fut_updChan (s : State) (i j : Nat) (f : Chan → Chan) : (s.updChan i f).fut j = s.fut j := rfl

/-- The warp of a number after one warp has changed: only a warp that the state lists changes. -/
theorem warp_updWarp (s : State) (i j : Nat) (f : Warp → Warp) :
    (s.updWarp i f).warp j = if j = i ∧ (tget s.warps i).isSome then f (s.warp i) else s.warp j := by
  unfold State.warp State.updWarp tgetD
  rw [tget_tupd]
  by_cases h : j = i
  · subst h
    cases e : tget s.warps j <;> simp
  · simp [h]

theorem warp_updWarp_ne (s : State) {i j : Nat} (f : Warp → Warp) (h : j ≠ i) : (s.updWarp i f).warp j = s.warp j := by
  rw [warp_updWarp, if_neg (fun e => h e.1)]

theorem warp_updWarp_self (s : State) {i : Nat} (f : Warp → Warp) (h : (tget s.warps i).isSome) :
    (s.updWarp i f).warp i = f (s.warp i) := by
  rw [warp_updWarp, if_pos ⟨rfl, h⟩]

@[simp] theorem isSome_updWarp (s : State) (i j : Nat) (f : Warp → Warp) :
    (tget (s.updWarp i f).warps j).isSome = (tget s.warps j).isSome := by
  unfold State.updWarp
  simp only [tget_tupd]
  split_ifs with h
  · subst h; simp
  · rfl

theorem block_updBlock (s : State) (i j : Nat) (f : Block → Block) :
    (s.updBlock i f).block j = if j = i ∧ (tget s.blocks i).isSome then f (s.block i) else s.block j := by
  unfold State.block State.updBlock tgetD
  rw [tget_tupd]
  by_cases h : j = i
  · subst h
    cases e : tget s.blocks j <;> simp
  · simp [h]

theorem grid_updGrid (s : State) (i j : Nat) (f : Grid → Grid) :
    (s.updGrid i f).grid j = if j = i ∧ (tget s.grids i).isSome then f (s.grid i) else s.grid j := by
  unfold State.grid State.updGrid tgetD
  rw [tget_tupd]
  by_cases h : j = i
  · subst h
    cases e : tget s.grids j <;> simp
  · simp [h]

theorem lane_updLane (W : Warp) (i j : Nat) (f : Lane → Lane) :
    (W.updLane i f).lane j = if j = i then f (W.lane i) else W.lane j := tgetD_tmod _ _ _ _ _

@[simp] theorem lane_updLane_self (W : Warp) (i : Nat) (f : Lane → Lane) : (W.updLane i f).lane i = f (W.lane i) := by
  rw [lane_updLane, if_pos rfl]

/-- Some lanes changed: a listed lane of the mask changes, any other stays. -/
theorem lane_updLanes (W : Warp) (m : BitVec 32) (f : Nat → Lane → Lane) (l : Nat) :
    (W.updLanes m f).lane l =
      if m.getLsbD l = true ∧ (tget W.lanes l).isSome then f l (W.lane l) else W.lane l := by
  unfold Warp.updLanes Warp.lane tgetD
  simp only [tget_tmap]
  cases e : tget W.lanes l with
  | none => simp
  | some L => by_cases h : m.getLsbD l <;> simp [h]

/-- A lane that stands ready is listed. -/
theorem isSome_of_ready {W : Warp} {l : Nat} (h : (W.lane l).ready = true) : (tget W.lanes l).isSome := by
  unfold Warp.lane tgetD at h
  cases e : tget W.lanes l with
  | none => rw [e] at h; simp [Lane.ready] at h
  | some L => rfl

theorem mem_of_tget {α : Type} {t : Table α} {i : Nat} {a : α} (h : tget t i = some a) : (i, a) ∈ t := by
  induction t with
  | nil => simp at h
  | cons p t ih =>
    obtain ⟨k, v⟩ := p
    unfold tget at h
    split_ifs at h with hk
    · subst hk
      rw [Option.some.inj h]
      exact List.mem_cons_self
    · exact List.mem_cons_of_mem _ (ih h)

/-- A lane with a property is in the mask of the property. -/
theorem getLsbD_mask {W : Warp} {p : Lane → Bool} {l : Nat} (hl : l < 32) (hs : (tget W.lanes l).isSome)
    (h : p (W.lane l) = true) : (W.mask p).getLsbD l = true := by
  obtain ⟨L, hL⟩ := Option.isSome_iff_exists.mp hs
  have hW : W.lane l = L := by simp [Warp.lane, tgetD, hL]
  unfold Warp.mask
  rw [getLsbD_maskOf]
  simp only [hl, decide_true, Bool.true_and, List.contains_iff_mem, List.mem_map, List.mem_filter]
  exact ⟨(l, L), ⟨mem_of_tget hL, by rw [← hW]; exact h⟩, rfl⟩

end Sys2Proof.Machine
end

