-- ==== Sys2Proof/Laws/Regs.lean ====
section
/-! SUPPORT. Laws/Regs.lean: what a register reads as after a register is written, in a warp without outstanding long
operations and without shared granules; and that writing a register changes nothing else. -/

namespace Sys2Proof.Machine

set_option Elab.async false

theorem tgetD_setCell (t : Table Cell) (r r' : Nat) (c : Cell) :
    tgetD (setCell t r c) r' {} = if r' = r then c else tgetD t r' {} := by
  unfold setCell
  by_cases hc : c = {}
  · rw [if_pos hc]
    by_cases h : r' = r
    · subst h; simp [tgetD, hc]
    · rw [if_neg h, tgetD, tget_tdel_ne t h, tgetD]
  · rw [if_neg hc]
    by_cases h : r' = r
    · subst h; simp
    · rw [if_neg h, tgetD_tset_ne t c _ h]

theorem resolve_ge (fs : List Frame) (i r : Nat) : i ≤ (resolve fs i r).1 := by
  induction fs generalizing i r with
  | nil => exact le_refl i
  | cons f fs ih =>
    cases fs with
    | nil => exact le_refl i
    | cons f' fs =>
      unfold resolve
      split_ifs
      · exact le_trans (Nat.le_succ i) (ih (i + 1) (f.win + r))
      · exact le_refl i

theorem resolve_lt {fs : List Frame} (i r : Nat) (h : fs ≠ []) : (resolve fs i r).1 < i + fs.length := by
  induction fs generalizing i r with
  | nil => exact absurd rfl h
  | cons f fs ih =>
    cases fs with
    | nil => simp [resolve]
    | cons f' fs =>
      unfold resolve
      split_ifs
      · have := ih (i + 1) (f.win + r) (by simp)
        simp only [List.length_cons] at this ⊢
        omega
      · simp

/-- Two registers of a frame lie at two places. -/
theorem resolve_injective {fs : List Frame} {i r r' : Nat} (h : resolve fs i r = resolve fs i r') : r = r' := by
  induction fs generalizing i r r' with
  | nil => simpa [resolve] using h
  | cons f fs ih =>
    cases fs with
    | nil => simpa [resolve] using h
    | cons f' fs =>
      unfold resolve at h
      split_ifs at h with h1 h2 h2
      · have := ih h; omega
      · have := resolve_ge (f' :: fs) (i + 1) (f.win + r)
        rw [h] at this
        simp at this
      · have := resolve_ge (f' :: fs) (i + 1) (f.win + r')
        rw [← h] at this
        simp at this
      · simpa using h

/-- Where a register lies depends on the windows alone. -/
theorem resolve_shape {fs gs : List Frame} (i r : Nat)
    (h : fs.map (fun f => { f with regs := [] }) = gs.map (fun f => { f with regs := [] })) :
    resolve fs i r = resolve gs i r := by
  induction fs generalizing gs i r with
  | nil =>
    cases gs with
    | nil => rfl
    | cons g gs => simp at h
  | cons f fs ih =>
    cases gs with
    | nil => simp at h
    | cons g gs =>
      simp only [List.map_cons, List.cons.injEq] at h
      have hw : f.win = g.win := by simpa using congrArg Frame.win h.1
      cases fs with
      | nil =>
        cases gs with
        | nil => rfl
        | cons g' gs => simp at h
      | cons f' fs =>
        cases gs with
        | nil => simp at h
        | cons g' gs =>
          unfold resolve
          rw [hw]
          split_ifs
          · exact ih _ _ h.2
          · rfl

theorem setFrameReg_shape (fs : List Frame) (i r : Nat) (c : Cell) :
    (setFrameReg fs i r c).map (fun f => { f with regs := [] }) = fs.map (fun f => { f with regs := [] }) := by
  induction fs generalizing i with
  | nil => rfl
  | cons f fs ih =>
    cases i with
    | zero => simp [setFrameReg]
    | succ i => simp [setFrameReg, ih]

theorem setFrameReg_read (fs : List Frame) (i r j r' : Nat) (c : Cell) :
    tgetD ((setFrameReg fs i r c).getD j {}).regs r' {} =
      if j = i ∧ r' = r ∧ i < fs.length then c else tgetD (fs.getD j {}).regs r' {} := by
  induction fs generalizing i j with
  | nil => simp [setFrameReg]
  | cons f fs ih =>
    cases i with
    | zero =>
      cases j with
      | zero =>
        simp only [setFrameReg, List.getD_cons_zero, tgetD_setCell]
        by_cases h : r' = r <;> simp [h]
      | succ j => simp [setFrameReg]
    | succ i =>
      cases j with
      | zero => simp [setFrameReg]
      | succ j =>
        simp only [setFrameReg, List.getD_cons_succ, ih, List.length_cons, Nat.add_right_cancel_iff, Nat.add_lt_add_iff_right]

theorem getLsbD_setBit {n : Nat} (m : BitVec n) (i j : Nat) (b : Bool) (hi : i < n) :
    (setBit m i b).getLsbD j = if j = i then b else m.getLsbD j := by
  unfold setBit
  by_cases h : j = i
  · subst h
    cases b <;> simp [hi]
  · by_cases hj : j < n
    · cases b <;> simp [h, hj]
    · simp [BitVec.getLsbD_of_ge _ j (by omega : n ≤ j), h]

theorem sharedAt_none {s : State} {w : Nat} (h : (s.block (s.warp w).block).shares = []) (l r : Nat) :
    s.sharedAt w l r = none := by
  unfold State.sharedAt
  simp only [h, shareCell, ite_self]

theorem vreg_eq {s : State} {w : Nat} (h : (s.block (s.warp w).block).shares = []) (l r : Nat) :
    s.vreg w l r = ((s.warp w).lane l).frameReg (resolve ((s.warp w).lane l).frames 0 r).1
      (resolve ((s.warp w).lane l).frames 0 r).2 := by
  unfold State.vreg
  rw [sharedAt_none h]

/-- A register that a word may write: one that its lane's frame holds, a predicate but p15, or a uniform register. -/
def State.Writable (s : State) (w : Nat) : Target → Prop
  | .vec l r => r < 8 * ((s.warp w).lane l).top.g
  | .pred _ p => p < 15
  | .uni _ => True

theorem State.OnlyRegs.refl (s : State) (w : Nat) : State.OnlyRegs s s w [] :=
  ⟨rfl, fun _ _ => rfl, rfl, fun _ => rfl, fun _ => rfl, fun _ _ => rfl⟩

theorem State.OnlyRegs.trans {s t u : State} {w : Nat} {xs ys : List Target} (h : State.OnlyRegs s t w xs)
    (k : State.OnlyRegs t u w ys) : State.OnlyRegs s u w (xs ++ ys) where
  rest := by rw [k.rest, h.rest]
  others v hv := (k.others v hv).trans (h.others v hv)
  warp := k.warp.trans h.warp
  lane l := (k.lane l).trans (h.lane l)
  shape l := (k.shape l).trans (h.shape l)
  regs x hx := by
    rw [List.mem_append, not_or] at hx
    exact (k.regs x hx.2).trans (h.regs x hx.1)

theorem State.OnlyRegs.mono {s t : State} {w : Nat} {xs ys : List Target} (h : State.OnlyRegs s t w xs)
    (hs : ∀ x ∈ xs, x ∈ ys) : State.OnlyRegs s t w ys :=
  { h with regs := fun x hx => h.regs x (fun e => hx (hs x e)) }

theorem State.OnlyRegs.longs {s t : State} {w : Nat} {xs : List Target} (h : State.OnlyRegs s t w xs) :
    (t.warp w).longs = (s.warp w).longs := by
  have e := congrArg Warp.longs h.warp
  exact e

theorem State.OnlyRegs.core {s t : State} {w : Nat} {xs : List Target} (h : State.OnlyRegs s t w xs) :
    (t.warp w).core = (s.warp w).core := by
  have e := congrArg Warp.core h.warp
  exact e

theorem State.OnlyRegs.blockOf {s t : State} {w : Nat} {xs : List Target} (h : State.OnlyRegs s t w xs) :
    (t.warp w).block = (s.warp w).block := by
  have e := congrArg Warp.block h.warp
  exact e

theorem State.OnlyRegs.block {s t : State} {w : Nat} {xs : List Target} (h : State.OnlyRegs s t w xs) (b : Nat) :
    t.block b = s.block b := by rw [h.rest]; rfl

theorem State.OnlyRegs.cur {s t : State} {w : Nat} {xs : List Target} (h : State.OnlyRegs s t w xs) : t.cur = s.cur := by
  rw [h.rest]

theorem State.OnlyRegs.cycle {s t : State} {w : Nat} {xs : List Target} (h : State.OnlyRegs s t w xs) (c : Nat) :
    t.cycle c = s.cycle c := by rw [h.rest]; rfl

theorem State.OnlyRegs.alone {s t : State} {w : Nat} {xs : List Target} (h : State.OnlyRegs s t w xs)
    (k : (s.block (s.warp w).block).shares = []) : (t.block (t.warp w).block).shares = [] := by
  rw [h.blockOf, h.block, k]

theorem top_of_shape {L K : Lane} (h : L.shape = K.shape) : L.top.g = K.top.g := by
  have := congrArg (fun fs => (fs.headD ({ g := 0 } : Frame)).g) h
  unfold Lane.shape at this
  unfold Lane.top
  cases hL : L.frames <;> cases hK : K.frames <;> simp_all

theorem State.OnlyRegs.writable {s t : State} {w : Nat} {xs : List Target} (h : State.OnlyRegs s t w xs) {x : Target}
    (k : s.Writable w x) : t.Writable w x := by
  cases x with
  | vec l r =>
    show r < 8 * ((t.warp w).lane l).top.g
    rw [top_of_shape (h.shape l)]
    exact k
  | pred l p => exact k
  | uni r => trivial

/-- A warp changed so that only a register may read otherwise. -/
theorem onlyRegs_updWarp {s : State} {w : Nat} {f : Warp → Warp} {xs : List Target} (hw : (tget s.warps w).isSome)
    (h1 : (f (s.warp w)).rest = (s.warp w).rest)
    (h2 : ∀ l, ((f (s.warp w)).lane l).rest = ((s.warp w).lane l).rest)
    (h3 : ∀ l, ((f (s.warp w)).lane l).shape = ((s.warp w).lane l).shape)
    (h4 : ∀ x, x ∉ xs → (s.updWarp w f).reads w x = s.reads w x) : State.OnlyRegs s (s.updWarp w f) w xs where
  rest := rfl
  others v hv := warp_updWarp_ne s f hv
  warp := by rw [warp_updWarp_self s f hw]; exact h1
  lane l := by rw [warp_updWarp_self s f hw]; exact h2 l
  shape l := by rw [warp_updWarp_self s f hw]; exact h3 l
  regs := h4

theorem setUni_onlyRegs {s : State} {w : Nat} (hw : (tget s.warps w).isSome) (r : Nat) (c : Cell)
    (ha : (s.block (s.warp w).block).shares = []) :
    State.OnlyRegs s (s.setUni w r c) w [.uni r] ∧ (s.setUni w r c).reads w (.uni r) = c := by
  have e := warp_updWarp_self s (fun W : Warp => { W with s := setCell W.s r c }) hw
  constructor
  · refine onlyRegs_updWarp hw rfl (fun _ => rfl) (fun _ => rfl) ?_
    intro x hx
    cases x with
    | vec l k =>
      show State.vreg _ w l k = s.vreg w l k
      rw [vreg_eq ha, vreg_eq (by rw [e]; exact ha), e]
      rfl
    | pred l p => show _ = _; simp only [State.reads, e]; rfl
    | uni k =>
      have : k ≠ r := by simpa using hx
      simp only [State.reads, e, tgetD_setCell, if_neg this]
  · simp only [State.setUni, State.reads, e, tgetD_setCell, if_pos]

theorem setPred_onlyRegs {s : State} {w : Nat} (hw : (tget s.warps w).isSome) (l p : Nat) (v bad : Bool)
    (hp : p < 15) (ha : (s.block (s.warp w).block).shares = []) :
    State.OnlyRegs s (s.setPred w l p v bad) w [.pred l p] ∧
      (s.setPred w l p v bad).reads w (.pred l p) = ⟨if v then 1 else 0, bad⟩ := by
  have e := warp_updWarp_self s (fun W : Warp => W.updLane l (fun L =>
    { L with preds := setBit L.preds p v, pbad := setBit L.pbad p bad })) hw
  unfold State.setPred
  rw [if_neg (by omega)]
  constructor
  · refine onlyRegs_updWarp hw rfl ?_ ?_ ?_
    · intro k
      rw [lane_updLane]
      split_ifs with h
      · subst h; rfl
      · rfl
    · intro k
      rw [lane_updLane]
      split_ifs with h
      · subst h; rfl
      · rfl
    · intro x hx
      cases x with
      | vec k r =>
        show State.vreg _ w k r = s.vreg w k r
        rw [vreg_eq ha, vreg_eq (by rw [e]; exact ha), e, lane_updLane]
        split_ifs with h
        · subst h; rfl
        · rfl
      | pred k q =>
        simp only [State.reads, e, lane_updLane]
        by_cases h : k = l
        · subst h
          have hq : q ≠ p := by
            intro e
            subst e
            simp at hx
          simp [getLsbD_setBit _ _ _ _ (show p < 16 by omega), hq]
        · simp only [if_neg h]
      | uni k => simp only [State.reads, e]; rfl
  · simp only [State.reads, e, lane_updLane_self, getLsbD_setBit _ _ _ _ (show p < 16 by omega), if_pos]

theorem setVreg_onlyRegs {s : State} {w : Nat} (hw : (tget s.warps w).isSome) (l r : Nat) (c : Cell)
    (hr : r < 8 * ((s.warp w).lane l).top.g) (ha : (s.block (s.warp w).block).shares = []) :
    State.OnlyRegs s (s.setVreg w l r c) w [.vec l r] ∧ (s.setVreg w l r c).reads w (.vec l r) = c := by
  unfold State.setVreg
  rw [sharedAt_none ha]
  have e := warp_updWarp_self s (fun W : Warp => W.updLane l (fun L =>
    { L with frames := setFrameReg L.frames (resolve L.frames 0 r).1 (resolve L.frames 0 r).2 c })) hw
  have hne : ((s.warp w).lane l).frames ≠ [] := by
    intro h
    simp [Lane.top, h] at hr
  have hlt := resolve_lt 0 r hne
  rw [Nat.zero_add] at hlt
  have hs := setFrameReg_shape ((s.warp w).lane l).frames (resolve ((s.warp w).lane l).frames 0 r).1
    (resolve ((s.warp w).lane l).frames 0 r).2 c
  constructor
  · refine onlyRegs_updWarp hw rfl ?_ ?_ ?_
    · intro k
      rw [lane_updLane]
      split_ifs with h
      · subst h; rfl
      · rfl
    · intro k
      rw [lane_updLane]
      split_ifs with h
      · subst h; exact hs
      · rfl
    · intro x hx
      cases x with
      | vec k q =>
        show State.vreg _ w k q = s.vreg w k q
        rw [vreg_eq ha, vreg_eq (by rw [e]; exact ha), e, lane_updLane]
        split_ifs with h
        · subst h
          simp only [Lane.frameReg, resolve_shape 0 q hs, setFrameReg_read]
          rw [if_neg]
          rintro ⟨h1, h2, -⟩
          have : q = r := resolve_injective (Prod.ext h1 h2)
          subst this
          simp at hx
        · rfl
      | pred k q =>
        simp only [State.reads, e, lane_updLane]
        by_cases h : k = l
        · subst h; simp only [if_pos]
        · simp only [if_neg h]
      | uni k => simp only [State.reads, e]; rfl
  · show State.vreg _ w l r = c
    rw [vreg_eq (by rw [e]; exact ha), e, lane_updLane_self]
    simp only [Lane.frameReg, resolve_shape 0 r hs, setFrameReg_read]
    exact if_pos ⟨trivial, trivial, hlt⟩

/-- In a warp with nothing outstanding, a word's result goes straight to its register. -/
theorem writeTarget_quiet {s : State} {w : Nat} (h : (s.warp w).Quiet) (x : Target) (c : Cell) :
    s.writeTarget w x c = s.putTarget w x c := by
  have hc : s.contest w x = s := by unfold State.contest; rw [h.longs]; rfl
  simp only [State.writeTarget, hc, h.late, List.isEmpty_nil, if_true]

theorem State.OnlyRegs.quiet {s t : State} {w : Nat} {xs : List Target} (h : State.OnlyRegs s t w xs)
    (hq : (s.warp w).Quiet) : (t.warp w).Quiet where
  longs := h.longs.trans hq.longs
  late := (congrArg Warp.late h.warp).trans hq.late

/-- Writing one register: it reads as written, and nothing else has changed. -/
theorem writeTarget_spec {s : State} {w : Nat} (hw : (tget s.warps w).isSome) (hq : (s.warp w).Quiet)
    (ha : (s.block (s.warp w).block).shares = []) {x : Target} (hx : s.Writable w x) (c : Cell) :
    State.OnlyRegs s (s.writeTarget w x c) w [x] ∧ (s.writeTarget w x c).reads w x = x.norm c := by
  rw [writeTarget_quiet hq]
  unfold State.putTarget
  cases x with
  | vec l r => exact setVreg_onlyRegs hw l r c hx ha
  | pred l p => exact setPred_onlyRegs hw l p _ c.bad hx ha
  | uni r => exact setUni_onlyRegs hw r c ha

/-- Writing some registers: each reads as written last, and nothing else has changed. -/
theorem writeTargets_spec {s : State} {w : Nat} (hw : (tget s.warps w).isSome) (hq : (s.warp w).Quiet)
    (ha : (s.block (s.warp w).block).shares = []) (rs : List (Target × Cell)) (hx : ∀ r ∈ rs, s.Writable w r.1) :
    State.OnlyRegs s (rs.foldl (fun s r => s.writeTarget w r.1 r.2) s) w (rs.map (·.1)) ∧
      ((rs.map (·.1)).Nodup → ∀ r ∈ rs, (rs.foldl (fun s r => s.writeTarget w r.1 r.2) s).reads w r.1 = r.1.norm r.2) := by
  induction rs generalizing s with
  | nil => exact ⟨State.OnlyRegs.refl s w, fun _ _ h => absurd h List.not_mem_nil⟩
  | cons r rs ih =>
    obtain ⟨h1, h2⟩ := writeTarget_spec hw hq ha (hx r List.mem_cons_self) r.2
    have hw' : (tget (s.writeTarget w r.1 r.2).warps w).isSome := by
      rw [writeTarget_quiet hq]
      unfold State.putTarget
      cases r.1 with
      | vec l k => simp only [State.setVreg, sharedAt_none ha]; simpa using hw
      | pred l p =>
        simp only [State.setPred]
        split_ifs
        · exact hw
        · simpa using hw
      | uni k => simpa [State.setUni] using hw
    obtain ⟨k1, k2⟩ := ih hw' (h1.quiet hq) (h1.alone ha)
      (fun x hx' => h1.writable (hx x (List.mem_cons_of_mem _ hx')))
    refine ⟨?_, fun hn x hx' => ?_⟩
    · simpa using h1.trans k1
    · simp only [List.map_cons, List.nodup_cons] at hn
      rcases List.mem_cons.mp hx' with e | e
      · subst e
        rw [List.foldl_cons, k1.regs _ hn.1, h2]
      · exact k2 hn.2 x e

end Sys2Proof.Machine
end

