-- ==== Sys2Proof/Laws/Words.lean ====
section
/-! SUPPORT. Laws/Words.lean: what the shared operations of a word do when nothing holds the word up: the checks of
R72 let it act, its results reach its registers, and its gang goes on at the next word. -/

namespace Sys2Proof.Machine

set_option Elab.async false

theorem hazard_quiet {s : State} {w : Nat} (h : (s.warp w).Quiet) (x : Target) (pos : Nat) (old : Cell) :
    s.hazard w x pos old = old := by
  unfold State.hazard
  rw [h.longs]
  rfl

/-- Without an outstanding long operation a word reads its sources as they stand (R61). -/
theorem readV_quiet {s : State} {w : Nat} (h : (s.warp w).Quiet) (l r pos : Nat) :
    s.readV w l r pos = s.vreg w l r := hazard_quiet h _ _ _

theorem readS_quiet {s : State} {w : Nat} (h : (s.warp w).Quiet) (r pos : Nat) :
    s.readS w r pos = tgetD (s.warp w).s r {} := hazard_quiet h _ _ _

theorem readP_quiet {s : State} {w : Nat} (h : (s.warp w).Quiet) (l p pos : Nat) :
    s.readP w l p pos = if p = 15 then (true, false)
      else (((s.warp w).lane l).preds.getLsbD p, ((s.warp w).lane l).pbad.getLsbD p) := by
  unfold State.readP
  by_cases hp : p = 15
  · simp [hp]
  · simp only [beq_iff_eq, hp, if_false, hazard_quiet h]
    cases ((s.warp w).lane l).preds.getLsbD p <;> simp

/-- The lanes for which the guard of a word holds (R55). -/
theorem guards_eq {s : State} {h : Hdr} {u : Uses} {m : BitVec 32} (a : s.Acts h u m) : s.guards h = (m, false) := by
  unfold State.guards
  by_cases hg : h.g = 15
  · simp only [hg, beq_self_eq_true, if_true]
    congr 1
    apply BitVec.eq_of_getLsbD_eq
    intro l hl
    rw [Bool.eq_iff_iff, a.acting l]
    cases e : h.gn <;> simp [Lane.guardHolds, hg, e]
  · have hg' : h.g.toNat ≠ 15 := fun e => hg (BitVec.eq_of_toNat_eq e)
    simp only [beq_iff_eq, hg, if_false]
    have q : ∀ l, s.readP s.w l h.g.toNat 60 =
        ((s.wp.lane l).preds.getLsbD h.g.toNat, (s.wp.lane l).pbad.getLsbD h.g.toNat) := by
      intro l
      have := readP_quiet (w := s.w) a.quiet l h.g.toNat 60
      rw [if_neg hg'] at this
      exact this
    congr 1
    · apply BitVec.eq_of_getLsbD_eq
      intro l hl
      rw [getLsbD_maskOf, Bool.eq_iff_iff, a.acting l]
      simp only [hl, decide_true, Bool.true_and, List.contains_iff_mem, List.mem_filter, mem_lanesOf, q,
        Lane.guardHolds, hg, if_false]
    · rw [List.any_eq_false]
      intro l hl
      rw [q]
      simpa using a.clean hg l (mem_lanesOf.mp hl)

theorem lanesWhere_zero {s : State} {m : BitVec 32} {p : Nat → Lane → Bool}
    (h : ∀ l, m.getLsbD l = true → p l (s.wp.lane l) = false) : s.lanesWhere m p = 0 := by
  unfold State.lanesWhere
  rw [List.filter_eq_nil_iff.mpr]
  · rfl
  · intro l hl
    simp [h l (mem_lanesOf.mp hl)]

/-- A word that nothing holds up passes every check and acts in its lanes (R72). -/
theorem admitAs_eq {s : State} {h : Hdr} {u : Uses} {m : BitVec 32} (a : s.Acts h u m)
    (ill : State → BitVec 32 → State) (sys : Bool) (hs : sys = true → s.wp.cur = true)
    (k : State → BitVec 32 → State) : s.admitAs ill h sys u k = k s m := by
  unfold State.admitAs
  rw [lanesWhere_zero (fun l hl => by simp [a.fits l hl, a.live l hl]), guards_eq a]
  have hc : (sys && !s.wp.cur) = false := by
    cases sys with
    | false => rfl
    | true => simp [hs rfl]
  simp only [bne_self_eq_false, Bool.false_eq_true, if_false, hc]
  unfold State.admitCells
  simp [State.sharing, a.alone]

theorem admit_eq {s : State} {h : Hdr} {u : Uses} {m : BitVec 32} (a : s.Acts h u m) (sys : Bool)
    (hs : sys = true → s.wp.cur = true) (k : State → BitVec 32 → State) : s.vet h sys u k = k s m :=
  admitAs_eq a _ sys hs k

theorem admitEngine_eq {s : State} {h : Hdr} {u : Uses} {m : BitVec 32} (a : s.Acts h u m)
    (k : State → BitVec 32 → State) : s.admitEngine h u k = k s m :=
  admitAs_eq a _ false (by simp) k

/-- The acting lanes are lanes of the gang. -/
theorem State.Acts.inGang {s : State} {h : Hdr} {u : Uses} {m : BitVec 32} (a : s.Acts h u m) {l : Nat}
    (hl : m.getLsbD l = true) : s.cur.lanes.getLsbD l = true := ((a.acting l).mp hl).1

/-- The flags of a word united into FPSTAT change no register. -/
theorem raise_onlyRegs {s : State} {w : Nat} (hw : (tget s.warps w).isSome)
    (ha : (s.block (s.warp w).block).shares = []) (f : Flags) :
    State.OnlyRegs s (s.raise w f) w [] ∧
      ((s.raise w f).warp w).fpstat = (if f = 0 then (s.warp w).fpstat else fpstatOr (s.warp w).fpstat f) ∧
      (∀ l, ((s.raise w f).warp w).lane l = (s.warp w).lane l) := by
  unfold State.raise
  by_cases hf : f = 0
  · subst hf
    exact ⟨State.OnlyRegs.refl s w, rfl, fun _ => rfl⟩
  · have e := warp_updWarp_self s (fun W : Warp => { W with fpstat := fpstatOr W.fpstat f }) hw
    simp only [beq_iff_eq, hf, if_false]
    refine ⟨onlyRegs_updWarp hw rfl (fun _ => rfl) (fun _ => rfl) ?_, by rw [e], fun l => by rw [e]; rfl⟩
    intro x _
    cases x with
    | vec l r =>
      show State.vreg _ w l r = s.vreg w l r
      rw [vreg_eq ha, vreg_eq (by rw [e]; exact ha), e]
      rfl
    | pred l p => simp only [State.reads, e]; rfl
    | uni r => simp only [State.reads, e]

theorem ready_rest (L : Lane) : L.rest.ready = L.ready := rfl

theorem State.OnlyRegs.ready {s t : State} {w : Nat} {xs : List Target} (h : State.OnlyRegs s t w xs) (l : Nat) :
    ((t.warp w).lane l).ready = ((s.warp w).lane l).ready := by
  rw [← ready_rest, h.lane, ready_rest]

theorem outstanding_quiet {W : Warp} (h : W.Quiet) : W.outstanding = false := by
  unfold Warp.outstanding
  rw [h.longs]
  rfl

theorem busyLong_quiet {W : Warp} (h : W.Quiet) : W.busyLong = false := by
  unfold Warp.busyLong
  rw [h.longs]
  rfl

/-- A word closes without a further effect when nothing is outstanding and no pre-emption is requested (R60, R342). -/
theorem close_quiet {s : State} {h : Hdr} (hq : s.wp.Quiet) (hu : s.Unheld h) : s.close h = s := by
  unfold State.close
  have e : (h.live.isSome && s.requested s.wp.core && !s.wp.cur) = false := by
    rcases hu with hu | hu | hu <;> simp [hu]
  have hl : s.showLate s.w s.cur.lanes = s := by
    have hl : (s.warp s.w).late = [] := hq.late
    simp only [State.showLate, hl, List.isEmpty_nil, if_true]
  simp [hq.longs, outstanding_quiet hq, hl, e]

/-- The lanes of a mask of a resident warp go on at an address. -/
theorem goto_onlyRegs {s : State} (hw : (tget s.warps s.w).isSome) (ha : (s.block s.wp.block).shares = [])
    (m : BitVec 32) (pc : DWord) :
    State.OnlyRegs s (s.goto m pc) s.w [] ∧ ((s.goto m pc).warp s.w).fpstat = s.wp.fpstat ∧
      (∀ l, m.getLsbD l = true → (s.wp.lane l).ready = true →
        (((s.goto m pc).warp s.w).lane l).pc = pc ∧ (((s.goto m pc).warp s.w).lane l).since = s.cyc + 1) ∧
      (∀ l, m.getLsbD l = false → ((s.goto m pc).warp s.w).lane l = s.wp.lane l) := by
  unfold State.goto
  have e := warp_updWarp_self s (fun W : Warp => W.updLanes m (fun _ L => { L with pc := pc, since := s.cyc + 1 })) hw
  refine ⟨onlyRegs_updWarp hw rfl ?_ ?_ ?_, by rw [e]; rfl, ?_, ?_⟩
  · intro l
    rw [lane_updLanes]
    split_ifs <;> rfl
  · intro l
    rw [lane_updLanes]
    split_ifs <;> rfl
  · intro x _
    cases x with
    | vec l r =>
      show State.vreg _ s.w l r = s.vreg s.w l r
      rw [vreg_eq (w := s.w) ha, vreg_eq (by rw [e]; exact ha), e, lane_updLanes]
      split_ifs <;> rfl
    | pred l p =>
      simp only [State.reads, e, lane_updLanes]
      by_cases h : m.getLsbD l = true ∧ (tget (s.warp s.w).lanes l).isSome = true
      · simp only [if_pos h]
      · simp only [if_neg h]
    | uni r => simp only [State.reads, e]; rfl
  · intro l hl hr
    rw [e, lane_updLanes, if_pos ⟨hl, isSome_of_ready hr⟩]
    exact ⟨rfl, rfl⟩
  · intro l hl
    rw [e, lane_updLanes, if_neg (by simp [hl])]
    rfl

theorem State.OnlyRegs.listed {s t : State} {w : Nat} {xs : List Target} (h : State.OnlyRegs s t w xs) {l : Nat}
    (hr : ((s.warp w).lane l).ready = true) : (tget t.warps w).isSome := by
  have := h.ready l
  rw [hr] at this
  unfold State.warp tgetD at this
  cases e : tget t.warps w with
  | some W => rfl
  | none => rw [e] at this; simp [Warp.lane, tgetD, Lane.ready] at this

/-- A word completes (R72): from a state in which only registers of `xs` and FPSTAT have changed since it was issued,
its gang goes on at the next word. -/
theorem finish_completed {s t : State} {h : Hdr} {xs : List Target} {f : Flags} (hi : s.Issues)
    (hw : (tget t.warps s.w).isSome) (hq : s.wp.Quiet) (ha : (s.block s.wp.block).shares = []) (hu : s.Unheld h)
    (ho : State.OnlyRegs s t s.w xs)
    (hp : ∀ l, ((t.warp s.w).lane l).pc = (s.wp.lane l).pc ∧ ((t.warp s.w).lane l).since = (s.wp.lane l).since)
    (hf : (t.warp s.w).fpstat = if f = 0 then s.wp.fpstat else fpstatOr s.wp.fpstat f) :
    s.Completed (t.finish h) h xs f ∧ ∀ x, (t.finish h).reads s.w x = t.reads s.w x := by
  have hc : t.cur = s.cur := ho.cur
  have hwt : t.w = s.w := congrArg Issue.warp hc
  have hwp : t.wp = t.warp s.w := by rw [← hwt]; rfl
  have hcyc : t.cyc = s.cyc := by
    show t.cycle t.wp.core = s.cycle s.wp.core
    rw [hwp, ho.core, ho.cycle]
    rfl
  unfold State.finish
  rw [hc]
  generalize hm : t.wp.mask Lane.ready &&& s.cur.lanes = m
  have hm' : ∀ l, m.getLsbD l = s.cur.lanes.getLsbD l := by
    intro l
    rw [← hm, BitVec.getLsbD_and]
    by_cases hl : s.cur.lanes.getLsbD l = true
    · have hr : ((t.warp s.w).lane l).ready = true := by rw [ho.ready]; exact hi.ready l hl
      rw [hwp, getLsbD_mask (BitVec.lt_of_getLsbD hl) (isSome_of_ready hr) hr, Bool.true_and]
    · simp [hl]
  obtain ⟨g1, g2, g3, g4⟩ := goto_onlyRegs (s := t) (by rw [hwt]; exact hw)
    (by rw [hwp]; exact ho.alone ha) m (afterWord h s.cur.pc)
  rw [hwt] at g1 g2 g3 g4
  have hcl : (t.goto m (afterWord h s.cur.pc)).close h = t.goto m (afterWord h s.cur.pc) := by
    apply close_quiet
    · show ((t.goto m (afterWord h s.cur.pc)).warp t.w).Quiet
      rw [hwt]
      exact g1.quiet (ho.quiet hq)
    · rcases hu with hu | hu | hu
      · exact .inl hu
      · refine .inr (.inl ?_)
        show (t.core ((t.goto m (afterWord h s.cur.pc)).warp t.w).core).preq.getLsbD 31 = false
        rw [hwt, g1.core, ho.core]
        have : t.core = s.core := by rw [ho.rest]; rfl
        rw [this]
        exact hu
      · refine .inr (.inr ?_)
        show ((t.goto m (afterWord h s.cur.pc)).warp t.w).cur = true
        have e1 := congrArg Warp.cur g1.warp
        have e2 := congrArg Warp.cur ho.warp
        rw [hwt]
        exact (e1.trans e2).trans hu
  rw [hcl]
  have g0 := ho.trans g1
  rw [List.append_nil] at g0
  refine ⟨{ toOnlyRegs := g0, next := ?_, stay := ?_, flags := ?_ }, fun x => g1.regs x List.not_mem_nil⟩
  · intro l hl
    rw [← hcyc]
    refine g3 l ((hm' l).trans hl) ?_
    rw [hwp, ho.ready]
    exact hi.ready l hl
  · intro l hl
    rw [g4 l ((hm' l).trans hl), hwp]
    exact hp l
  · rw [g2, hwp]
    exact hf

/-- Where a lane stands, and FPSTAT, as registers are written. -/
structure SamePlace (s t : State) (w : Nat) : Prop where
  listed : (tget t.warps w).isSome
  pc : ∀ l, ((t.warp w).lane l).pc = ((s.warp w).lane l).pc
  since : ∀ l, ((t.warp w).lane l).since = ((s.warp w).lane l).since
  flags : (t.warp w).fpstat = (s.warp w).fpstat

theorem samePlace_updWarp {s : State} {w : Nat} {f : Warp → Warp} (hw : (tget s.warps w).isSome)
    (h1 : ∀ l, ((f (s.warp w)).lane l).pc = ((s.warp w).lane l).pc)
    (h2 : ∀ l, ((f (s.warp w)).lane l).since = ((s.warp w).lane l).since)
    (h3 : (f (s.warp w)).fpstat = (s.warp w).fpstat) : SamePlace s (s.updWarp w f) w where
  listed := by simpa using hw
  pc l := by rw [warp_updWarp_self s f hw]; exact h1 l
  since l := by rw [warp_updWarp_self s f hw]; exact h2 l
  flags := by rw [warp_updWarp_self s f hw]; exact h3

theorem SamePlace.trans {s t u : State} {w : Nat} (h : SamePlace s t w) (k : SamePlace t u w) : SamePlace s u w where
  listed := k.listed
  pc l := (k.pc l).trans (h.pc l)
  since l := (k.since l).trans (h.since l)
  flags := k.flags.trans h.flags

theorem writeTarget_samePlace {s : State} {w : Nat} (hw : (tget s.warps w).isSome) (hq : (s.warp w).Quiet)
    (ha : (s.block (s.warp w).block).shares = []) (x : Target) (c : Cell) : SamePlace s (s.writeTarget w x c) w := by
  rw [writeTarget_quiet hq]
  unfold State.putTarget
  cases x with
  | vec l r =>
    simp only [State.setVreg, sharedAt_none ha]
    apply samePlace_updWarp hw
    · intro k; rw [lane_updLane]; split_ifs with h
      · subst h; rfl
      · rfl
    · intro k; rw [lane_updLane]; split_ifs with h
      · subst h; rfl
      · rfl
    · rfl
  | pred l p =>
    simp only [State.setPred]
    split_ifs
    · exact ⟨hw, fun _ => rfl, fun _ => rfl, rfl⟩
    · apply samePlace_updWarp hw
      · intro k; rw [lane_updLane]; split_ifs with h
        · subst h; rfl
        · rfl
      · intro k; rw [lane_updLane]; split_ifs with h
        · subst h; rfl
        · rfl
      · rfl
  | uni r => exact samePlace_updWarp hw (fun _ => rfl) (fun _ => rfl) rfl

theorem writeTargets_samePlace {s : State} {w : Nat} (hw : (tget s.warps w).isSome) (hq : (s.warp w).Quiet)
    (ha : (s.block (s.warp w).block).shares = []) (rs : List (Target × Cell)) (hx : ∀ r ∈ rs, s.Writable w r.1) :
    SamePlace s (rs.foldl (fun s r => s.writeTarget w r.1 r.2) s) w := by
  induction rs generalizing s with
  | nil => exact ⟨hw, fun _ => rfl, fun _ => rfl, rfl⟩
  | cons r rs ih =>
    have h1 := (writeTarget_spec hw hq ha (hx r List.mem_cons_self) r.2).1
    have h2 := writeTarget_samePlace hw hq ha r.1 r.2
    exact h2.trans (ih h2.listed (h1.quiet hq) (h1.alone ha)
      (fun x hx' => h1.writable (hx x (List.mem_cons_of_mem _ hx'))))

@[simp] theorem writeTarget_cur (s : State) (w : Nat) (x : Target) (c : Cell) : (s.writeTarget w x c).cur = s.cur := by
  have h (t : State) : (t.putTarget w x c).cur = t.cur := by
    unfold State.putTarget
    cases x <;> dsimp only [State.setVreg, State.setPred, State.setUni] <;> first | rfl | (split <;> rfl)
  unfold State.writeTarget State.contest
  rw [h]
  split_ifs <;> rfl

theorem writeTargets_w (s : State) (rs : List (Target × Cell)) :
    rs.foldl (fun s r => s.writeTarget s.w r.1 r.2) s = rs.foldl (fun t r => t.writeTarget s.w r.1 r.2) s := by
  induction rs generalizing s with
  | nil => rfl
  | cons r rs ih =>
    rw [List.foldl_cons, List.foldl_cons, ih]
    have : (s.writeTarget s.w r.1 r.2).w = s.w := congrArg Issue.warp (writeTarget_cur s s.w r.1 r.2)
    rw [this]

/-- A word of a block that shares no granules empties no cell (R159). -/
theorem emptyCells_alone {s : State} (h : (s.block s.wp.block).shares = []) (m : BitVec 32) (rs : List Nat) :
    s.emptyCells m rs = s := by
  simp only [State.emptyCells, State.emptyShared, show (s.block (s.warp s.w).block).shares = [] from h,
    List.isEmpty_nil, if_true]

/-- A word that writes its results at once and completes (R72): the results stand in their registers, its gang goes on
at the next word, its flags are united into FPSTAT, and nothing else has changed. -/
theorem settle_completed {s : State} {h : Hdr} {u : Uses} {m : BitVec 32} (a : s.Acts h u m) (hu : s.Unheld h)
    (rs : List (Target × Cell)) (f : Flags) (hx : ∀ r ∈ rs, s.Writable s.w r.1) :
    s.Completed (s.settle h m u false rs f) h (rs.map (·.1)) f ∧
      ((rs.map (·.1)).Nodup → ∀ r ∈ rs, (s.settle h m u false rs f).reads s.w r.1 = r.1.norm r.2) := by
  have hs : s.sharing = false := by simp [State.sharing, a.alone]
  have he : s.settle h m u false rs f =
      ((rs.foldl (fun t r => t.writeTarget s.w r.1 r.2) s).raise s.w f).finish h := by
    simp only [State.settle, State.readsCell, emptyCells_alone a.alone, State.results, hs, Bool.false_and, Bool.or_false,
      Bool.false_eq_true, if_false, writeTargets_w]
  obtain ⟨h1, h2⟩ := writeTargets_spec a.warp a.quiet a.alone rs hx
  have h3 := writeTargets_samePlace a.warp a.quiet a.alone rs hx
  generalize ht : rs.foldl (fun t r => t.writeTarget s.w r.1 r.2) s = t at h1 h2 h3 he
  obtain ⟨r1, r2, r3⟩ := raise_onlyRegs h3.listed (h1.alone a.alone) f
  have ho := h1.trans r1
  rw [List.append_nil] at ho
  have hw : (tget (t.raise s.w f).warps s.w).isSome := by
    unfold State.raise
    split_ifs
    · exact h3.listed
    · simpa using h3.listed
  obtain ⟨hc, hv⟩ := finish_completed (f := f) a.toIssues hw a.quiet a.alone hu ho
    (fun l => by rw [r3]; exact ⟨h3.pc l, h3.since l⟩) (by rw [r2, h3.flags]; rfl)
  rw [he]
  exact ⟨hc, fun hn r hr => by rw [hv, r1.regs r.1 List.not_mem_nil, h2 hn r hr]⟩

theorem writeTarget_discards {s : State} {w : Nat} (hq : (s.warp w).Quiet) {x : Target} (hx : x.kept = false)
    (c : Cell) : s.writeTarget w x c = s := by
  rw [writeTarget_quiet hq]
  unfold State.putTarget
  cases x with
  | pred l p =>
    have : p ≥ 15 := by simpa [Target.kept] using hx
    simp [State.setPred, this]
  | vec l r => cases hx
  | uni r => cases hx

theorem writeTarget_stays_quiet {s : State} {w : Nat} (hq : (s.warp w).Quiet) (x : Target) (c : Cell) :
    ((s.writeTarget w x c).warp w).Quiet := by
  rw [writeTarget_quiet hq]
  unfold State.putTarget
  by_cases hw : (tget s.warps w).isSome
  · cases x with
    | vec l r =>
      simp only [State.setVreg]
      split
      · exact hq
      · rw [warp_updWarp_self s _ hw]; exact ⟨hq.longs, hq.late⟩
    | pred l p =>
      simp only [State.setPred]
      split_ifs
      · exact hq
      · rw [warp_updWarp_self s _ hw]; exact ⟨hq.longs, hq.late⟩
    | uni r => simp only [State.setUni]; rw [warp_updWarp_self s _ hw]; exact ⟨hq.longs, hq.late⟩
  · have hn : ∀ f, s.updWarp w f = s := by
      intro f
      unfold State.updWarp tupd
      cases e : tget s.warps w with
      | none => rfl
      | some v => simp [e] at hw
    cases x with
    | vec l r =>
      simp only [State.setVreg]
      split
      · exact hq
      · rw [hn]; exact hq
    | pred l p =>
      simp only [State.setPred]
      split_ifs
      · exact hq
      · rw [hn]; exact hq
    | uni r => simp only [State.setUni]; rw [hn]; exact hq

/-- Writes to p15 are as if they were not there (R13). -/
theorem writeTargets_kept {s : State} {w : Nat} (hq : (s.warp w).Quiet) (rs : List (Target × Cell)) :
    rs.foldl (fun s r => s.writeTarget w r.1 r.2) s =
      (rs.filter (·.1.kept)).foldl (fun s r => s.writeTarget w r.1 r.2) s := by
  induction rs generalizing s with
  | nil => rfl
  | cons r rs ih =>
    rw [List.filter_cons]
    by_cases hr : r.1.kept = true
    · rw [if_pos hr, List.foldl_cons, List.foldl_cons]
      exact ih (writeTarget_stays_quiet hq r.1 r.2)
    · rw [if_neg hr, List.foldl_cons, writeTarget_discards hq (by simpa using hr)]
      exact ih hq

/-- `settle_completed` for results some of which may go to p15. -/
theorem settle_kept {s : State} {h : Hdr} {u : Uses} {m : BitVec 32} (a : s.Acts h u m) (hu : s.Unheld h)
    (rs : List (Target × Cell)) (f : Flags) (hx : ∀ r ∈ rs, r.1.kept = true → s.Writable s.w r.1) :
    s.Completed (s.settle h m u false rs f) h ((rs.filter (·.1.kept)).map (·.1)) f ∧
      (((rs.filter (·.1.kept)).map (·.1)).Nodup → ∀ r ∈ rs, r.1.kept = true →
        (s.settle h m u false rs f).reads s.w r.1 = r.1.norm r.2) := by
  have hs : s.sharing = false := by simp [State.sharing, a.alone]
  have he : s.settle h m u false rs f = s.settle h m u false (rs.filter (·.1.kept)) f := by
    simp only [State.settle, State.readsCell, emptyCells_alone a.alone, State.results, hs, Bool.false_and, Bool.or_false,
      Bool.false_eq_true, if_false, writeTargets_w]
    rw [writeTargets_kept (w := s.w) a.quiet]
  rw [he]
  obtain ⟨h1, h2⟩ := settle_completed a hu (rs.filter (·.1.kept)) f (fun r hr => by
    rw [List.mem_filter] at hr
    exact hx r hr.1 hr.2)
  exact ⟨h1, fun hn r hr hk => h2 hn r (List.mem_filter.mpr ⟨hr, hk⟩)⟩

/-- A word that acts lane by lane (R72): what `f` gives for each acting lane, from the state before the word, stands in
the registers that it names; nothing else has changed. -/
theorem byLane_completed {s : State} {h : Hdr} {u : Uses} {m : BitVec 32} (a : s.Acts h u m) (hu : s.Unheld h)
    (f : State → Nat → List (Target × Cell) × Flags)
    (hx : ∀ l, m.getLsbD l = true → ∀ r ∈ (f s l).1, r.1.kept = true → s.Writable s.w r.1) :
    s.Completed (s.byLane h u false f) h (((lanesOf m).flatMap (fun l => (f s l).1.map (·.1))).filter Target.kept)
        (flagUnion ((lanesOf m).map (fun l => (f s l).2))) ∧
      ((((lanesOf m).flatMap (fun l => (f s l).1.map (·.1))).filter Target.kept).Nodup →
        ∀ l, m.getLsbD l = true → ∀ r ∈ (f s l).1, r.1.kept = true →
          (s.byLane h u false f).reads s.w r.1 = r.1.norm r.2) := by
  have he : s.byLane h u false f = s.settle h m u false (((lanesOf m).map (f s)).flatMap (·.1))
      (flagUnion (((lanesOf m).map (f s)).map (·.2))) := admit_eq a false (by simp) _
  have hm : ((((lanesOf m).map (f s)).flatMap (·.1)).filter (fun r => r.1.kept)).map (·.1)
      = ((lanesOf m).flatMap (fun l => (f s l).1.map (·.1))).filter Target.kept := by
    rw [show (fun r : Target × Cell => r.1.kept) = Target.kept ∘ Prod.fst from rfl, ← List.filter_map]
    simp only [List.flatMap_map, List.map_flatMap]
  obtain ⟨h1, h2⟩ := settle_kept a hu (((lanesOf m).map (f s)).flatMap (·.1))
    (flagUnion (((lanesOf m).map (f s)).map (·.2))) (by
      intro r hr
      simp only [List.flatMap_map, List.mem_flatMap] at hr
      obtain ⟨l, hl, hr⟩ := hr
      exact hx l (mem_lanesOf.mp hl) r hr)
  rw [he]
  rw [hm] at h1 h2
  rw [List.map_map] at h1 h2
  refine ⟨by rw [List.map_map]; exact h1, fun hn l hl r hr hk => ?_⟩
  rw [List.map_map]
  refine h2 hn r ?_ hk
  simp only [List.flatMap_map, List.mem_flatMap]
  exact ⟨l, mem_lanesOf.mpr hl, hr⟩

end Sys2Proof.Machine
end

