-- ==== Sys2Proof/Machine/Ordering.lean ====
section
/-! DEFINITION. Machine/Ordering.lean: the ordering model (R189 to R205). An execution is a finite set of events with what
each read returned and the order of the writes of each byte; it is allowed when the axioms hold of it. The step performs
each access at its home in one order that the axioms allow; the executions here are those that the spec allows. -/

namespace Sys2Proof.Machine.Ordering

open Sys2Proof

/-- A memory with the bytes of one home each (R190, R196): block shared memory of a core, the scratchpad of a die, the
spill stack of a warp, a cluster-pool segment, HBM, the CXL tier, the memory of a peer module, the host's memory. -/
inductive Store where
  | blk (core : Nat)
  | die (die : Nat)
  | stack (warp : Nat)
  | pool (segment : Nat)
  | hbm
  | cxl
  | peer (module : Nat)
  | host
  deriving DecidableEq, Repr

/-- A memory is on chip. -/
def Store.onChip : Store → Bool
  | .blk _ | .die _ | .stack _ | .pool _ => true
  | _ => false

/-- HBM and the CXL tier share one row of R196. -/
def Store.main : Store → Bool
  | .hbm | .cxl => true
  | _ => false

/-- A range of bytes of one memory. -/
structure Bytes where
  store : Store
  addr : Nat
  size : Nat := 4
  deriving DecidableEq, Repr

/-- Two ranges have a byte in common. -/
def Bytes.meets (a b : Bytes) : Bool :=
  a.store == b.store && decide (a.addr < b.addr + b.size) && decide (b.addr < a.addr + a.size)

/-- The bytes that two ranges have in common, one by one. -/
def Bytes.shared (a b : Bytes) : List Bytes :=
  let lo := max a.addr b.addr
  if a.store == b.store then (List.range (min (a.addr + a.size) (b.addr + b.size) - lo)).map (fun i => ⟨a.store, lo + i, 1⟩)
  else []

/-- Two lists of ranges have a byte in common. -/
def common (a b : List Bytes) : Bool := a.any (fun x => b.any x.meets)

/-- The bytes that two lists of ranges have in common, one by one. -/
def sharedBytes (a b : List Bytes) : List Bytes := a.flatMap (fun x => b.flatMap x.shared)

/-- A range that a thread reads or writes in one event (R190): 1, 2, 4 or 8 bytes, aligned. -/
def Bytes.ofThread (b : Bytes) : Bool := [1, 2, 4, 8].contains b.size && b.addr % b.size == 0

/-- A range that a copy reads or writes in one event (R190): bytes of one aligned 8-byte unit. -/
def Bytes.ofCopy (b : Bytes) : Bool := b.size != 0 && b.addr / 8 == (b.addr + b.size - 1) / 8

/-- A thread and where it stood when the event was issued (R192); cores are numbered through the module. A thread of a peer
module and a processor of the host are of another module than 0. -/
structure Who where
  id : Nat
  warp : Nat := 0
  block : Nat := 0
  core : Nat := 0
  die : Nat := 0
  module : Nat := 0
  task : Option Nat := none
  deriving DecidableEq, Repr

/-- The kinds of a fence (R191). -/
inductive FenceKind where
  | acq
  | rel
  | ar
  | sc
  deriving DecidableEq, Repr

/-- What is handed from one gang to another (R198): a buffer, granules of a channel, a shared register cell. -/
inductive Handed where
  | buffer
  | granules
  | cell
  deriving DecidableEq, Repr

/-- The kinds of event (R189). An RMW is its read and its write. Futures, barrier generations and what is handed over
have numbers. -/
inductive Kind where
  | init (at_ : Bytes)
  | read (at_ : Bytes) (acq : Bool) (rmw : Bool)
  | write (at_ : Bytes) (rel : Bool) (rmw : Bool)
  | fence (kind : FenceKind)
  | arrive (gen : Nat)
  | release (gen : Nat)
  | issue (op : Nat)
  | complete (op : Nat)
  | spawn (op : Nat)
  | taskEnd (op : Nat)
  | observe (op : Nat)
  | hand (what : Handed) (n : Nat)
  | accept (what : Handed) (n : Nat)
  deriving DecidableEq, Repr

/-- Whose an event is: no one's, a thread's, or an engine operation's (a copy, or an atomic to off-chip memory). -/
inductive Maker where
  | initial
  | thread (who : Who)
  | engine (op : Nat)
  deriving DecidableEq, Repr

/-- An event: `seq` is the place of its word among the words that its warp issued, `scope` the scope of an ordered access
or a fence. -/
structure Event where
  kind : Kind
  maker : Maker
  seq : Nat := 0
  scope : Nat := 0
  /-- The member cores of the instance of a cluster scope: of the thread's cluster at issue, or of the cluster and generation
  of the handle that a fence names (R192). -/
  members : List Nat := []
  /-- The place in a copy queue of an atomic to off-chip memory, whose events are its thread's (R194). -/
  op : Option Nat := none
  /-- The event of an MX unit, and its ranges but for the first: a block's elements and its scale are one unit (R276). -/
  mx : Bool := false
  rest : List Bytes := []
  deriving DecidableEq, Repr

/-- The instance of an event's scope, the event being thread a's, holds thread b (R192). -/
def Event.reaches (e : Event) (a b : Who) : Bool :=
  match e.scope with
  | 0 => a.warp == b.warp && a.module == b.module
  | 1 => a.block == b.block && a.module == b.module
  | 2 => e.members.contains b.core && a.module == b.module
  | 3 => a.die == b.die && a.module == b.module
  | 4 => a.module == b.module
  | _ => true

/-- An engine operation: its copy queue and its place in it, and the barrier generation whose PEND its landings count. -/
structure Engine where
  op : Nat
  queue : Nat
  place : Nat
  gen : Option Nat := none
  deriving DecidableEq, Repr

/-- A regroup commit (R188, R205): the events issued before it began and those issued after it ended, and the cores that
were members of its two clusters before and after. -/
structure Regroup where
  before : List Nat
  after : List Nat
  coresBefore : List Nat
  coresAfter : List Nat
  deriving DecidableEq, Repr

/-- An execution (R189, R194). Events are numbered by their places. `rf` pairs a write with a read that takes bytes from
it: each byte of the read comes from the last of those in `co` that writes it, as the read is one event (R190). `co` lists
every write, in an order whose restriction to one byte is that byte's coherence order; `sc` is the order S of R199; `waits`
names the words with W = 1, and those that R62 makes wait, by warp and place. Log entry 51: DEDUCED. -/
structure Execution where
  events : List Event
  rf : List (Nat × Nat) := []
  co : List Nat := []
  sc : List Nat := []
  engines : List Engine := []
  waits : List (Nat × Nat) := []
  commits : List Regroup := []
  deriving DecidableEq, Repr

namespace Execution

variable (X : Execution)

/-- An event by its number. -/
def ev (n : Nat) : Event := X.events.getD n { kind := .init ⟨.hbm, 0, 0⟩, maker := .initial }

/-- The event numbers. -/
def ids : List Nat := List.range X.events.length

/-- The thread of an event. -/
def who (n : Nat) : Option Who :=
  match (X.ev n).maker with
  | .thread w => some w
  | _ => none

/-- The engine operation of an event: a copy's, or an off-chip atomic's place in its queue. -/
def engine (n : Nat) : Option Engine :=
  match (X.ev n).maker, (X.ev n).op with
  | .engine op, _ | .thread _, some op => X.engines.find? (·.op == op)
  | _, _ => none

/-- The bytes that an event reads. -/
def readsOf (n : Nat) : List Bytes :=
  match (X.ev n).kind with
  | .read b _ _ => b :: (X.ev n).rest
  | _ => []

/-- The bytes that an event writes. -/
def writesOf (n : Nat) : List Bytes :=
  match (X.ev n).kind with
  | .write b _ _ | .init b => b :: (X.ev n).rest
  | _ => []

/-- The bytes of an access. -/
def bytesOf (n : Nat) : List Bytes := if (X.ev n).maker == .initial then [] else X.readsOf n ++ X.writesOf n

/-- The event is half of an RMW. -/
def isRmw (n : Nat) : Bool :=
  match (X.ev n).kind with
  | .read _ _ r | .write _ _ r => r
  | _ => false

/-- Program order (R194): one thread, an earlier word; within one RMW, the read before the write. -/
def po (a b : Nat) : Bool :=
  match X.who a, X.who b with
  | some s, some t =>
    s.id == t.id && (decide ((X.ev a).seq < (X.ev b).seq) ||
      (X.ev a).seq == (X.ev b).seq && X.isRmw a && X.isRmw b && !(X.readsOf a).isEmpty && !(X.writesOf b).isEmpty)
  | _, _ => false

/-- A read returns bytes of a write (R194). -/
def reads (w r : Nat) : Bool := X.rf.contains (w, r)

/-- A write stands before another in `co`. -/
def before (a b : Nat) : Bool := decide (X.co.idxOf a < X.co.idxOf b) && X.co.contains b

/-- Coherence order (R194): two writes of a common byte. -/
def coBefore (a b : Nat) : Bool := common (X.writesOf a) (X.writesOf b) && X.before a b

/-- The write from which a read takes a byte (R190, R194). -/
def source (r : Nat) (k : Bytes) : Option Nat :=
  X.co.foldl (fun v w => if X.reads w r && common (X.writesOf w) [k] then some w else v) none

/-- From a read to a write that follows, in the coherence order of one of its bytes, the write that it takes it from
(R194). -/
def fr (r w : Nat) : Bool :=
  (sharedBytes (X.readsOf r) (X.writesOf w)).any (fun k => (X.source r k).any (fun v => X.before v w))

/-- Copies and off-chip atomics of one copy queue in their order of issue (R194). -/
def cpo (a b : Engine) : Bool := a.queue == b.queue && decide (a.place < b.place)

/-- From a completion to an observation of the future (R194). -/
def fco (a b : Nat) : Bool :=
  match (X.ev a).kind, (X.ev b).kind with
  | .complete c, .observe d => c == d
  | _, _ => false

/-- rf between events of different threads: a copy's events belong to its copy queue (R194). -/
def rfe (w r : Nat) : Bool :=
  X.reads w r &&
    match X.who w, X.who r, X.engine w, X.engine r with
    | some a, some b, _, _ => a.id != b.id
    | _, _, some c, some d => c.queue != d.queue
    | _, _, _, _ => true

/-- Two accesses of one warp's threads that one bank of block shared memory, or one line of the scratchpad, the spill
stack or a cluster-pool segment, keeps in order (R195 (c), (d)). -/
def sameUnit (a b : Bytes) : Bool :=
  a.store == b.store &&
    match a.store with
    | .blk _ => (units 4 a).any (fun x => (units 4 b).any (fun y => x % 32 == y % 32))
    | .die _ | .stack _ | .pool _ => (units 64 a).any (fun x => (units 64 b).contains x)
    | _ => false
where
  /-- The aligned units of some size that a range touches. -/
  units (n : Nat) (b : Bytes) : List Nat :=
    (List.range ((b.addr + b.size - 1) / n + 1 - b.addr / n)).map (b.addr / n + ·)

/-- A word that lets the earlier results of its warp arrive stands at or after a and before b (R195 (b)). -/
def waitBetween (warp a b : Nat) : Bool := X.waits.any (fun w => w.1 == warp && decide (a ≤ w.2) && decide (w.2 < b))

/-- A read or an observation. -/
def isResult (n : Nat) : Bool :=
  match (X.ev n).kind with
  | .read _ _ _ | .observe _ => true
  | _ => false

/-- Preserved program order (R195). Log entry 51: DEDUCED. -/
def ppo (a b : Nat) : Bool :=
  match X.who a, X.who b with
  | some s, some t =>
    s.warp == t.warp && decide ((X.ev a).seq < (X.ev b).seq) &&
      (s.id == t.id && common (X.bytesOf a) (X.bytesOf b) ||
        X.isResult a && X.waitBetween s.warp (X.ev a).seq (X.ev b).seq ||
        (X.bytesOf a).any (fun x => (X.bytesOf b).any (sameUnit x)))
  | some s, none =>
    match X.engine b with
    | some c => common (X.bytesOf a) ((X.bytesOf b).filter (fun y => y.store.onChip)) && X.ids.any (fun i =>
        (X.ev i).kind == .issue c.op &&
          match X.who i with
          | some u => u.warp == s.warp && decide ((X.ev a).seq < (X.ev i).seq)
          | none => false)
    | none => false
  | _, _ => false

/-- Whether the memory keeps two events of a queue's copies in order (R196): `ab` says which of the two write. -/
def queueRow (a b : Bytes) (aw bw : Bool) : Bool :=
  let same := a.store == b.store || a.store.main && b.store.main
  same &&
    match a.store, aw, bw with
    | _, false, true => false
    | .host, _, _ => true
    | s, true, true => !s.onChip || a.meets b
    | s, false, false => !s.onChip
    | _, true, false => a.meets b

/-- Queue order (R196), completions included. -/
def qpo (a b : Nat) : Bool :=
  match X.engine a, X.engine b, X.bytesOf a, X.bytesOf b with
  | some c, some d, x :: xs, y :: ys => cpo c d && (x :: xs).any (fun x => (y :: ys).any (fun y =>
      queueRow x y (!(X.writesOf a).isEmpty) (!(X.writesOf b).isEmpty)))
  | _, _, _, _ =>
    match (X.ev a).kind, (X.ev b).kind with
    | .complete c, .complete d =>
      (match X.engines.find? (·.op == c), X.engines.find? (·.op == d) with
        | some c, some d => cpo c d
        | _, _ => false)
    | _, _ => false

/-- The task of a thread's event. -/
def taskOf (n : Nat) : Option Nat := (X.who n).bind (·.task)

/-- Engine edges (R197). -/
def eng (a b : Nat) : Bool :=
  (match (X.ev a).kind, (X.ev b).kind with
    | .issue c, .complete d | .taskEnd c, .complete d => c == d
    | .issue c, _ => (X.ev b).maker == .engine c
    | .spawn c, _ => X.taskOf b == some c
    | _, _ => false) ||
  a != b && match (X.ev b).kind with
    | .complete d => (X.ev a).maker == .engine d
    | .taskEnd d => X.taskOf a == some d
    | _ => false

/-- A move took effect between two cluster-scope events of its clusters' cores (R205). -/
def acrossCommit (a b : Nat) : Bool :=
  (X.ev a).scope == 2 && (X.ev b).scope == 2 &&
    match X.who a, X.who b with
    | some s, some t => X.commits.any (fun c => c.before.contains a && c.after.contains b &&
        c.coresBefore.contains s.core && c.coresAfter.contains t.core && s.module == t.module)
    | _, _ => false

/-- Scope-inclusive (R193, R205). -/
def si (a b : Nat) : Bool :=
  (match X.who a, X.who b with
    | some s, some t => (X.ev a).reaches s t && (X.ev b).reaches t s
    | _, _ => false) || X.acrossCommit a b || X.acrossCommit b a

/-- The writes that a release makes (R198): a release write itself, or the writes after a release fence. -/
def released (a : Nat) : List Nat :=
  match (X.ev a).kind with
  | .write _ true _ => [a]
  | .fence .rel | .fence .ar | .fence .sc => X.ids.filter (fun w => !(X.writesOf w).isEmpty && X.po a w)
  | _ => []

/-- The reads that an acquire takes in (R198): an acquire read itself, or the reads before an acquire fence. -/
def acquired (b : Nat) : List Nat :=
  match (X.ev b).kind with
  | .read _ true _ => [b]
  | .fence .acq | .fence .ar | .fence .sc => X.ids.filter (fun e => !(X.readsOf e).isEmpty && X.po e b)
  | _ => []

/-- The release sequence of a write (R198). -/
def sequence (w : Nat) : List Nat :=
  w :: (X.co.filter (fun v => X.coBefore w v)).takeWhile (fun v => X.isRmw v && X.writesOf v == X.writesOf w)

/-- Synchronises-with (R198). -/
def sw (a b : Nat) : Bool :=
  (X.si a b && (X.released a).any (fun w => (X.acquired b).any (fun e => (X.sequence w).any (fun v => X.reads v e)))) ||
    match (X.ev a).kind, (X.ev b).kind with
    | .arrive g, .release h => g == h
    | .write _ _ _, .release h =>
      (match X.engine a with
        | some c => c.gen == some h
        | none => false)
    | .fence .sc, .fence .sc => X.si a b && decide (X.sc.idxOf a < X.sc.idxOf b) && X.sc.contains b
    | .hand x m, .accept y n => x == y && m == n
    | _, _ => false

/-- The successors of an event under a relation, as a set of bits. -/
def row (r : Nat → Nat → Bool) (a : Nat) : Nat :=
  X.ids.foldl (fun m b => if r a b then m ||| 1 <<< b else m) 0

/-- The transitive closure of a relation on the events: row by row, each event in turn as a way between. -/
def closure (r : Nat → Nat → Bool) : List Nat :=
  X.ids.foldl (fun rows k =>
    let via := rows.getD k 0
    rows.map (fun m => if m.testBit k then m ||| via else m)) (X.ids.map (X.row r))

/-- A closed relation. -/
def related (rows : List Nat) (a b : Nat) : Bool := (rows.getD a 0).testBit b

/-- Happens-before (R200). -/
def hb : List Nat := X.closure (fun a b => X.po a b || X.sw a b || X.fco a b || X.eng a b || X.qpo a b)

/-- The bytes that an event may read or write (R190, R276): a thread's aligned access, a part of one 8-byte unit that a copy
touches, which no other event of its kind of that copy touches, or an MX unit. -/
def unitsOk : Bool :=
  X.ids.all (fun a =>
    let e := X.ev a
    match e.maker with
    | .initial => true
    | .thread _ => (X.bytesOf a).all Bytes.ofThread && e.rest.isEmpty
    | .engine _ => e.mx || (X.bytesOf a).all (fun x => x.ofCopy && X.ids.all (fun b =>
        a == b || (X.ev b).maker != e.maker || (X.ev b).mx || (X.readsOf a).isEmpty != (X.readsOf b).isEmpty ||
          (X.bytesOf b).all (fun y => x.store != y.store || x.addr / 8 != y.addr / 8))))

/-- Every byte that a read takes has a write that it comes from, a read takes some byte of each write that `rf` gives it, and
every write has its place in `co`, an initial write before any other of its bytes (R190, R194). -/
def wellFormed : Bool :=
  X.unitsOk &&
  X.ids.all (fun r => (sharedBytes (X.readsOf r) (X.readsOf r)).all (fun k => (X.source r k).isSome)) &&
  X.rf.all (fun p => (sharedBytes (X.readsOf p.2) (X.writesOf p.1)).any (fun k => X.source p.2 k == some p.1)) &&
  X.ids.all (fun w => (X.writesOf w).isEmpty || X.co.contains w) && decide X.co.Nodup &&
  X.ids.all (fun i => (X.ev i).maker != .initial || X.ids.all (fun w => !X.coBefore w i))

/-- Coherence (R201), byte by byte. -/
def coherent (hb : List Nat) : Bool :=
  X.ids.all (fun a => X.ids.all (fun b => !related hb a b || (
    !X.coBefore b a &&
    (sharedBytes (X.writesOf a) (X.readsOf b)).all (fun k => (X.source b k).all (fun v => !X.before v a)) &&
    (sharedBytes (X.readsOf a) (X.writesOf b)).all (fun k => (X.source a k).all (fun v => v != b && !X.before b v)) &&
    (sharedBytes (X.readsOf a) (X.readsOf b)).all (fun k => (X.source a k).all (fun v => (X.source b k).all (fun u =>
      !X.before u v))))))

/-- Atomicity (R202): no write of a byte of an RMW between the one that its read takes it from and its own. -/
def atomic : Bool :=
  X.ids.all (fun r => X.ids.all (fun w => !(X.isRmw r && X.isRmw w && X.po r w && (X.ev r).seq == (X.ev w).seq) ||
    (sharedBytes (X.readsOf r) (X.readsOf r)).all (fun k => (X.source r k).all (fun v => X.ids.all (fun u =>
      !(common (X.writesOf u) [k] && X.before v u && X.before u w))))))

/-- Observation (R203). -/
def acyclic : Bool :=
  let rows := X.closure (fun a b => X.ppo a b || X.qpo a b || X.eng a b || X.fco a b || X.reads a b || X.coBefore a b ||
    X.fr a b)
  X.ids.all (fun a => !related rows a a)

/-- The order S holds every sc fence, and agrees with hb (R199). -/
def ordersFences (hb : List Nat) : Bool :=
  X.ids.all (fun a => (X.ev a).kind != .fence .sc || X.sc.contains a) && decide X.sc.Nodup &&
    X.sc.all (fun a => X.sc.all (fun b => !related hb a b || decide (X.sc.idxOf a < X.sc.idxOf b)))

/-- An execution that the axioms allow (R199, R201 to R203). -/
def allowed : Bool := X.wellFormed && X.coherent X.hb && X.atomic && X.acyclic && X.ordersFences X.hb

end Execution

end Sys2Proof.Machine.Ordering
end

