-- ==== Sys2Proof/Tests/Slice0.lean ====
section
/-! SUPPORT. Tests/Slice0.lean: tests against the spec's own words and examples, and for every obligation that has premises a
state and operands that meet them together. -/

namespace Sys2Proof.Tests

open Sys2Proof.Machine Sys2Proof.Claims

set_option maxRecDepth 100000
set_option Elab.async false

/-! ### Ill-formed terms: one for each check of WellFormed.lean. -/

/-- None of these is well formed. -/
abbrev Refused (is : List Instr) : Prop := ∀ i ∈ is, i.wf = false

/-- Guards and mask words (R43, R55). -/
theorem test_refuses_headers : Refused [
    .add { h := { gn := true } }, .add { h := { live := some 1 } }, .add { h := { live := some 2 } },
    .uadd { h := { g := 3 } }, .uaddImm { h := { g := 0 } }, .eret { h := { g := 2, gn := true } },
    .fence { h := { g := 1 } }, .ctxDrain { h := { live := some 3 } }] := by decide

/-- Type codes (R50, R76, R89, R95, R99). -/
theorem test_refuses_types : Refused [
    .add { ty := 4 }, .addc { ty := 0 }, .abs { ty := 1 }, .prmt { ty := 2 }, .cmp { ty := 5, c := 15 },
    .fadd { ty := 0 }, .fdiv { ty := 6 }, .frcp { ty := 5 }, .fdot2 { ty := 4 }, .cvt { ty := 4 }, .fcvt { ty := 0 },
    .pand { ty := 1 }, .shfl { ty := 6, sub := 0x20 }, .redux { ty := 6 }, .redux { ty := 4 }, .redux { ty := 0, sub := 8 }] := by
  decide

/-- Rounding modes and flags that an instruction does not use (R52). -/
theorem test_refuses_modes : Refused [
    .add { rm := 1 }, .mulhi { sf := true }, .fmin { ty := 4, rm := 1 }, .fadd { ty := 4, sf := true },
    .cvt { rm := 1 }, .cvt { sub := 4, sf := true }, .redux { rm := 1 }, .redux { sub := 1, sf := true },
    .ld { rm := 1 }, .ld { sf := true }, .atom { rm := 1 }, .rng { sf := true }, .rng { rm := 2 }, .accwr { sf := true, ty := 4 },
    .accrd { sf := true, ty := 4 }, .brx { rm := 1 }, .callx { d := 8, sub := 1, sf := true }] := by decide

/-- Sub-operations (R51, R84, R91, R98, R144, R153, R237, R364). -/
theorem test_refuses_variants : Refused [
    .add { sub := 1 }, .cmp { sub := 6 }, .fcmp { ty := 4, sub := 8 }, .lea { sub := 8 }, .cvt { sub := 8 },
    .fcopysign { ty := 4, sub := 4 }, .fcopysign { ty := 4, sub := 3, b := 1 }, .pand { sub := 4 }, .pnot { sub := 2 },
    .vote { sub := 8 }, .ballot { sub := 2 }, .shfl { sub := 0x38 }, .shfl { sub := 0x40 }, .bcast { sub := 3 },
    .redux { sub := 6 }, .redux { ty := 4, sub := 11 }, .barSync { sub := 5 }, .barSync { sub := 0x80 }, .btake { sub := 8 },
    .jmaskAdd { sub := 0 }, .haltEnd { sub := 0 }, .notify { sub := 64 }, .sysrd { sub := 2 }, .ctxVsave { sub := 11 },
    .rng { sub := 1 }, .rngU01 { sub := 2 }, .brxRel {}, .xferOut { sub := 0 }, .chClaimBind {}, .fref { sub := 2 },
    .accz { sub := 3 }, .accz { sub := 4 }, .accst { sub := 3 }, .accld { sub := 3 }, .accld { sub := 12 }, .accld { sub := 16 },
    .ldp { sub := 4 }, .prs { sub := 4 }, .fence { sub := 24 }, .fence { sub := 32 }, .scopeGet { sub := 6 }] := by decide

/-- Operands: their ranges, their pairs and groups, and unused fields (R12, R13, R51, R54, R74). -/
theorem test_refuses_operands : Refused [
    .add { c := 1 }, .add { ty := 2, d := 1 }, .add { ty := 3, a := 3 }, .add { b := 64, sub := 0x80 },
    .add { ty := 2, b := 63, sub := 0x80 }, .not { b := 1 }, .not { sub := 0x40 }, .cmp { d := 16 }, .sel { c := 16 },
    .sel { c := 1, sub := 0x40 }, .mov { a := 1 }, .uadd { d := 64 }, .uadd { a := 64 }, .uadd { ty := 2, a := 63 },
    .uadd { ty := 2, b := 3, sub := 0x80 }, .usub { b := 64, sub := 0x80 }, .umov { ty := 3, d := 1 }, .ucmp { d := 16 }, .addImm { a := 1, d := 1, h := { gn := true } },
    .movi { a := 1 }, .movh { d := 1 }, .uaddImm { d := 64 }, .umovi { a := 1 }, .pand { d := 16 }, .pnot { b := 1 },
    .vote { c := 1 }, .ballot { d := 64 }, .shfl { b := 32, sub := 0x20 }, .shfl { c := 16, sub := 0x20 },
    .shfl { b := 1, sub := 0xA0 }, .bcast { b := 1 }, .bcast { b := 32, sub := 2 }, .redux { b := 1 }] := by decide

/-- Shift counts (R79). -/
theorem test_refuses_shifts : Refused [
    .shl { b := 32, sub := 0x20 }, .shr { ty := 2, b := 64, sub := 0x20 }, .sar { sub := 0xA0 }, .rol { sub := 0x21 },
    .shl { sub := 0x20, rb := true }, .ushl { b := 32, sub := 0x20 }] := by decide

/-- Reuse hints (R52, R63). -/
theorem test_refuses_hints : Refused [
    .not { rb := true }, .mov { ra := true }, .pand { ra := true }, .vote { ra := true }, .shfl { ra := true, sub := 0x20 },
    .bcast { rb := true }, .redux { ra := true }, .ld { rb := true }, .exit { ra := true }, .join { rb := true },
    .sysrd { ra := true }, .fence { ra := true }, .xferIn { ra := true }, .brx { rb := true }, .accrd { ra := true, ty := 4 }] := by
  decide

/-- Memory words (R214, R220, R226). -/
theorem test_refuses_memory : Refused [
    .ld { sub := 0x0C }, .ld { ty := 4, sub := 4 }, .ld { sub := 0xD0 }, .ld { sub := 0x20 }, .ld { ty := 2, d := 1 },
    .ldp { d := 2 }, .ldp { ty := 1 }, .stp { d := 1 }, .prs { d := 16 }, .prs { ty := 1 }, .atom { c := 11 },
    .atom { c := 8 }, .atom { ty := 4 }, .atom { sub := 1 }, .atom { sub := 4 }, .atom { sub := 0xB0 }, .atom { sub := 8 },
    .atom { sf := true }, .atom { c := 7, b := 1 }, .atom { c := 7, ty := 2, b := 2 }, .atom { a := 1, sub := 3 },
    .atom { ty := 2, d := 1 }, .red { d := 1 }, .red { c := 7 }, .red { sub := 0x40 }, .fence { a := 1 },
    .fence { a := 64, sub := 8 }, .fence { d := 1 }, .st { rm := 1 }] := by decide

/-- Barriers, scopes, buffers and granules (R153, R156, R229, R232, R236, R237). -/
theorem test_refuses_scopes : Refused [
    .barArrive { d := 64 }, .barArrive { a := 1 }, .barWait { a := 64 }, .barWait { d := 1 }, .barSync { a := 1 },
    .barSync { b := 1 }, .barSync { b := 64, sub := 2 }, .barSync { sub := 0x42 }, .barSync { sub := 0x23 }, .barExpect { c := 1 },
    .scopeGet { a := 1 }, .scopeFreeze { a := 64 }, .scopeFreeze { sub := 1 }, .scopeThaw { d := 1 }, .scopeQuery { d := 62, a := 1 },
    .scopeQuery { d := 2 }, .bgive { b := 64 }, .bgive { sub := 1 }, .btake { a := 64 }, .rgive {}, .rgive { sub := 32 }, .rclaim { a := 1, sub := 1 },
    .rshare { a := 4, sub := 1 }, .rshare { b := 32, sub := 1 }, .rshare { sub := 0x40 }, .rshare { sub := 0x81 }, .rshare { sub := 0x20 },
    .runshare { b := 32 }, .runshare { a := 8 }] := by decide

/-- Engine and matrix words (R290, R296, R300 to R315). -/
theorem test_refuses_engines : Refused [
    .xferIn { a := 4 }, .xferIn { d := 64 }, .xferIn { b := 2 }, .xferGat { b := 1, sub := 3 }, .xferIn { c := 64 },
    .chClaim { c := 4 }, .chClaim { d := 64 }, .chAwait { d := 1 }, .chCommit { d := 1 }, .chCommit { b := 1 },
    .obres { d := 8 }, .obres { c := 1 }, .obres { sub := 9 }, .obres { sub := 0x10 }, .obres { sub := 0x74 }, .obres { sub := 0x24 },
    .obrel { a := 8 }, .bload { a := 8 }, .bload { c := 1 }, .bfree {}, .bfree { c := 65 }, .mma { a := 8 }, .mma { b := 64 },
    .mma { sub := 9 }, .mma { sub := 32 }, .mmaM { c := 4 }, .mmaM { sub := 16 }, .accz { d := 8 }, .accz { d := 1, sub := 2 },
    .accz { b := 1, sub := 2 }, .accrd { a := 8, ty := 4 }, .accrd { d := 2, ty := 5 }, .accwr { a := 2, ty := 2 }, .accst { b := 64 },
    .accld { a := 1 }, .fref { d := 16 }, .fref { a := 64, sub := 1 }, .fdrop { c := 1 }, .fget { d := 1 }, .fget { c := 16 },
    .rpoint { a := 1 }, .tret { a := 1 }] := by decide

/-- Control and system words (R101, R142, R149, R358, R364 to R372). -/
theorem test_refuses_control : Refused [
    .bra { d := 1 }, .brx { a := 1 }, .call { d := 8 }, .call { d := 4, a := 1 }, .call { d := 8, a := 33 },
    .callx { d := 8 }, .callx { d := 8, a := 1, sub := 1 }, .callx { d := 8, sub := 33 }, .ret { a := 1 }, .umark { d := 64 },
    .unwind { a := 64 }, .exit { d := 1 }, .nop { sub := 1 }, .trap { a := 1 }, .brk { d := 1 }, .join { a := 8 }, .jleave { a := 8 },
    .jmaskGang { d := 8 }, .jmaskU { b := 64, sub := 2 }, .wait { a := 63, sub := 1 }, .wait { b := 255, sub := 1 }, .wait { c := 1 },
    .wait { c := 64, sub := 8 }, .wait { sub := 16 }, .sysrd { b := 9 }, .sysrd { b := 6, d := 1 }, .sysrd { a := 1 },
    .sysrd { d := 64, sub := 1 }, .syswr { b := 0 }, .syswr { b := 0x12 }, .syswr { b := 0x15 }, .syswr { b := 0x11, a := 1 },
    .notify { a := 64 }, .haltSave { a := 1 }, .rng { d := 1 }, .rng { a := 1 }, .rng { ty := 1 }, .rng { c := 1 }, .ctxDrain { d := 64 },
    .ctxVsave { d := 1 }, .ctxVload { b := 64 }, .eret { a := 1 }] := by decide

/-- Pair words (R57, R59): reserved opcodes, fields that a half does not use, odd pairs, counts. -/
theorem test_refuses_pairs : Refused [
    .pairNop { d := 1 }, .pairNop { y := { po := 0x1A } }, .pairMovi { a := 1 }, .pairAddN32 { i := 1 }, .pairShlImm { i := 32 },
    .pairFaddF32 { i := 4 }, .pairFminF32 { i := 1 }, .pairFaddF64 { d := 1 }, .pairMovN64 { a := 1 }, .pairNop { live := some 1 },
    .pairNop { y := { po := 0x0F, i := 1 } }] := by decide

/-- A bank clash of R58 is no matter of form: such a word has a trap of its own. -/
theorem test_clash_is_well_formed : Instr.wf (.pairAddN32 { d := 4, a := 9, y := { po := 0x22, d := 8, a := 6 } }) = true ∧
    pairClash ⟨0x01, 4, 9, 0⟩ ⟨0x22, 8, 6, 0⟩ = true ∧ pairClash ⟨0x01, 4, 9, 0⟩ ⟨0x22, 1, 6, 0⟩ = false := by decide

/-! ### Words written out from R46 to R49, R53, R57 and the opcode maps, one for each form. -/

/-- Each number, as the bits of a word and of its mask word, decodes to the instruction beside it. -/
abbrev DecodesAs (xs : List (Nat × Instr)) : Prop :=
  ∀ x ∈ xs, decodeTableWord (if x.1 < 2 ^ 64 then 64 else 128) x.1 = some x.2

theorem test_words_arithmetic : DecodesAs [
    (0x0026010203000000, .add { h := { g := 3 }, d := 1, a := 2, b := 3 }),
    (0x005E01FFFFFFFFFE, .addImm { d := 1, a := 255, imm := 0xFFFFFFFE }),
    (0x007E040608004B00, .sub { d := 4, a := 6, b := 8, rb := true, sf := true, ty := 3 }),
    (0x0081070912345678, .subImm { h := { g := 0, gn := true }, d := 7, a := 9, imm := 0x12345678 }),
    (0x00BE02043E000280, .mul { d := 2, a := 4, b := 62, ty := 2, sub := 0x80 }),
    (0x20DE010203000100, .mulhi { h := { w := true }, d := 1, a := 2, b := 3, ty := 1 }),
    (0x00FE010203048800, .mad { d := 1, a := 2, b := 3, c := 4, ra := true, sf := true }),
    (0x011E0001020E0900, .addc { a := 1, b := 2, c := 14, sf := true, ty := 1 }),
    (0x013E0001020F0100, .subb { a := 1, b := 2, c := 15, ty := 1 }),
    (0x015E010200000900, .neg { d := 1, a := 2, sf := true, ty := 1 }),
    (0x017E020400000200, .abs { d := 2, a := 4, ty := 2 }),
    (0x019E010203000100, .min { d := 1, a := 2, b := 3, ty := 1 }),
    (0x01BE010203000000, .max { d := 1, a := 2, b := 3 })] := by decide +kernel

theorem test_words_bits_1 : DecodesAs [
    (0x01DE010203000000, .and { d := 1, a := 2, b := 3 }),
    (0x01FE0102000000FF, .andImm { d := 1, a := 2, imm := 0xFF }),
    (0x021E010203000000, .or { d := 1, a := 2, b := 3 }),
    (0x023E0102F0F0F0F0, .orImm { d := 1, a := 2, imm := 0xF0F0F0F0 }),
    (0x025E010203000100, .xor { d := 1, a := 2, b := 3, ty := 1 }),
    (0x027E010200000001, .xorImm { d := 1, a := 2, imm := 0x1 }),
    (0x029E010200000000, .not { d := 1, a := 2 }),
    (0x02BE020406000300, .andn { d := 2, a := 4, b := 6, ty := 3 }),
    (0x02DE02043F000320, .shl { d := 2, a := 4, b := 63, ty := 3, sub := 0x20 }),
    (0x02FE010203000000, .shr { d := 1, a := 2, b := 3 }),
    (0x031E01021F000020, .sar { d := 1, a := 2, b := 31, sub := 0x20 }),
    (0x033E020405000200, .rol { d := 2, a := 4, b := 5, ty := 2 }),
    (0x035E010200000200, .clz { d := 1, a := 2, ty := 2 }),
    (0x037E010200000000, .ctz { d := 1, a := 2 }),
    (0x039E010300000100, .popc { d := 1, a := 3, ty := 1 }),
    (0x03BE010200000000, .brev { d := 1, a := 2 })] := by decide +kernel

theorem test_words_bits_2 : DecodesAs [
    (0x03DE010203000000, .bfe { d := 1, a := 2, b := 3 }),
    (0x03FE010203050140, .bfi { d := 1, a := 2, b := 3, c := 5, ty := 1, sub := 0x40 }),
    (0x041E010203040000, .prmt { d := 1, a := 2, b := 3, c := 4 })] := by decide +kernel

theorem test_words_moves : DecodesAs [
    (0x043E020406010500, .sel { d := 2, a := 4, b := 6, c := 1, ty := 5 }),
    (0x045E0102030F0002, .cmp { d := 1, a := 2, b := 3, c := 15, sub := 0x2 }),
    (0x047E050009000080, .mov { d := 5, b := 9, sub := 0x80 }),
    (0x049E0300DEADBEEF, .movi { d := 3, imm := 0xDEADBEEF }),
    (0x04BE020000000007, .movh { d := 2, imm := 0x7 }),
    (0x04DE010200002004, .cvt { d := 1, a := 2, rm := 2, sub := 0x4 }),
    (0x04FE020407000203, .lea { d := 2, a := 4, b := 7, ty := 2, sub := 0x3 })] := by decide +kernel

theorem test_words_floats_1 : DecodesAs [
    (0x081E010203003400, .fadd { d := 1, a := 2, b := 3, rm := 3, ty := 4 }),
    (0x083E010203000600, .fsub { d := 1, a := 2, b := 3, ty := 6 }),
    (0x0000000300000008685E06080A001500, .fmul { h := { live := some 0x300000008, w := true }, d := 6, a := 8, b := 10, rm := 1, ty := 5 }),
    (0x087E010203040700, .ffma { d := 1, a := 2, b := 3, c := 4, ty := 7 }),
    (0x089E010203000400, .fmin { d := 1, a := 2, b := 3, ty := 4 }),
    (0x08BE010203000400, .fmax { d := 1, a := 2, b := 3, ty := 4 }),
    (0x08DE0102030F0407, .fcmp { d := 1, a := 2, b := 3, c := 15, ty := 4, sub := 0x7 }),
    (0x08FE010200000500, .fclass { d := 1, a := 2, ty := 5 }),
    (0x091E020300000504, .fcvt { d := 2, a := 3, ty := 5, sub := 0x4 }),
    (0x093E010200001C00, .frint { d := 1, a := 2, rm := 1, sf := true, ty := 4 }),
    (0x095E010203000400, .fdiv { d := 1, a := 2, b := 3, ty := 4 }),
    (0x097E020400000500, .fsqrt { d := 2, a := 4, ty := 5 }),
    (0x099E010200000400, .frcp { d := 1, a := 2, ty := 4 }),
    (0x09BE010200000600, .frsq { d := 1, a := 2, ty := 6 }),
    (0x09DE010200000700, .fexp2 { d := 1, a := 2, ty := 7 }),
    (0x09FE010200000400, .flog2 { d := 1, a := 2, ty := 4 })] := by decide +kernel

theorem test_words_floats_2 : DecodesAs [
    (0x0A1E010200000400, .fsin { d := 1, a := 2, ty := 4 }),
    (0x0A3E010200000400, .fcos { d := 1, a := 2, ty := 4 }),
    (0x0A5E010203000480, .fscale { d := 1, a := 2, b := 3, ty := 4, sub := 0x80 }),
    (0x0A7E010200000400, .fgetexp { d := 1, a := 2, ty := 4 }),
    (0x0A9E010200000403, .fcopysign { d := 1, a := 2, ty := 4, sub := 0x3 }),
    (0x0ABE010203042600, .fdot2 { d := 1, a := 2, b := 3, c := 4, rm := 2, ty := 6 })] := by decide +kernel

theorem test_words_uniform : DecodesAs [
    (0x101E010203000800, .uadd { d := 1, a := 2, b := 3, sf := true }),
    (0x103E3F3E00000008, .uaddImm { d := 63, a := 62, imm := 0x8 }),
    (0x105E01023F000080, .usub { d := 1, a := 2, b := 63, sub := 0x80 }),
    (0x107E020406000300, .umul { d := 2, a := 4, b := 6, ty := 3 }),
    (0x109E010203000000, .uand { d := 1, a := 2, b := 3 }),
    (0x10BE010203000000, .uor { d := 1, a := 2, b := 3 }),
    (0x10DE010203000000, .uxor { d := 1, a := 2, b := 3 }),
    (0x10FE01021F000020, .ushl { d := 1, a := 2, b := 31, sub := 0x20 }),
    (0x111E010203000000, .ushr { d := 1, a := 2, b := 3 }),
    (0x113E010203000000, .usar { d := 1, a := 2, b := 3 }),
    (0x115E020004000500, .umov { d := 2, b := 4, ty := 5 }),
    (0x117E0400FFFFFFFF, .umovi { d := 4, imm := 0xFFFFFFFF }),
    (0x119E0302030F0005, .ucmp { d := 3, a := 2, b := 3, c := 15, sub := 0x5 })] := by decide +kernel

theorem test_words_predicates : DecodesAs [
    (0x121E010203000003, .pand { d := 1, a := 2, b := 3, sub := 0x3 }),
    (0x123E01020F000000, .por { d := 1, a := 2, b := 15 }),
    (0x125E010203000001, .pxor { d := 1, a := 2, b := 3, sub := 0x1 }),
    (0x127E010200000000, .pnot { d := 1, a := 2 }),
    (0x129E0F0200000001, .pmov { d := 15, a := 2, sub := 0x1 }),
    (0x131E010200000007, .vote { d := 1, a := 2, sub := 0x7 }),
    (0x133E3F0200000001, .ballot { d := 63, a := 2, sub := 0x1 }),
    (0x135E02041F0F0535, .shfl { d := 2, a := 4, b := 31, c := 15, ty := 5, sub := 0x35 }),
    (0x137E01021F030002, .bcast { d := 1, a := 2, b := 31, c := 3, sub := 0x2 }),
    (0x139E040100000408, .redux { d := 4, a := 1, ty := 4, sub := 0x8 })] := by decide +kernel

theorem test_words_memory : DecodesAs [
    (0x141E030200400172, .ld { d := 3, a := 2, c := 64, ty := 1, sub := 0x72 }),
    (0x0000000000000008543E040201000300, .st { h := { live := some 0x8 }, d := 4, a := 2, b := 1, ty := 3 }),
    (0x145E0402FFF08001, .ldp { d := 4, a := 2, b := 255, c := 240, ra := true, sub := 0x1 }),
    (0x147E080200000003, .stp { d := 8, a := 2, sub := 0x3 }),
    (0x149E01020407C0D8, .atom { d := 1, a := 2, b := 4, c := 7, ra := true, rb := true, sub := 0xD8 }),
    (0x14BE000203081482, .red { a := 2, b := 3, c := 8, rm := 1, ty := 4, sub := 0x82 }),
    (0x14DE000600000009, .fence { a := 6, sub := 0x9 }),
    (0x14FE0F0200080000, .prs { d := 15, a := 2, c := 8 })] := by decide +kernel

theorem test_words_scopes : DecodesAs [
    (0x151E030000000079, .barArrive { d := 3, sub := 0x79 }),
    (0x153E00050000000B, .barWait { a := 5, sub := 0xB }),
    (0x155E000006000012, .barSync { b := 6, sub := 0x12 }),
    (0x157E00070000001C, .barExpect { a := 7, sub := 0x1C }),
    (0x159E3F0000000005, .scopeGet { d := 63, sub := 0x5 }),
    (0x15BE000600000000, .scopeFreeze { a := 6 }),
    (0x15DE000600000000, .scopeThaw { a := 6 }),
    (0x15FE040600000000, .scopeQuery { d := 4, a := 6 }),
    (0x161E020304000000, .bgive { d := 2, a := 3, b := 4 }),
    (0x163E000500000007, .btake { a := 5, sub := 0x7 }),
    (0x165E00000000001F, .rgive { sub := 0x1F }),
    (0x167E000000000001, .rclaim { sub := 0x1 }),
    (0x169E00081F000041, .rshare { a := 8, b := 31, sub := 0x41 }),
    (0x16BE000002000000, .runshare { b := 2 })] := by decide +kernel

theorem test_words_engines : DecodesAs [
    (0x181E081000000000, .xferIn { d := 8, a := 16 }),
    (0x181E081000030001, .xferOut { d := 8, a := 16, c := 3, sub := 0x1 }),
    (0x181E083800000002, .xfer2d { d := 8, a := 56, sub := 0x2 }),
    (0x181E0810FE000003, .xferGat { d := 8, a := 16, b := 254, sub := 0x3 }),
    (0x181E081002000004, .xferSct { d := 8, a := 16, b := 2, sub := 0x4 }),
    (0x181E081000000005, .xferDsp { d := 8, a := 16, sub := 0x5 }),
    (0x181E081000000006, .xferPeer { d := 8, a := 16, sub := 0x6 }),
    (0x183E090300020000, .chClaim { d := 9, a := 3, c := 2 }),
    (0x183E000300030001, .chClaimBind { a := 3, c := 3, sub := 0x1 }),
    (0x185E000300010000, .chCommit { a := 3, c := 1 }),
    (0x187E0A0300020000, .chAwait { d := 10, a := 3, c := 2 }),
    (0x187E000300000001, .chAwaitBind { a := 3, sub := 0x1 }),
    (0x189E000300030000, .chRetire { a := 3, c := 3 })] := by decide +kernel

theorem test_words_matrix : DecodesAs [
    (0x18BE010405000014, .obres { d := 1, a := 4, b := 5, sub := 0x14 }),
    (0x18DE000700000000, .obrel { a := 7 }),
    (0x18FE00013F000000, .bload { a := 1, b := 63 }),
    (0x191E0000043C0000, .bfree { b := 4, c := 60 }),
    (0x193E0A4104010000, .mma { d := 10, a := 65, b := 4, c := 1 }),
    (0x195E0AE73F380008, .mmaM { d := 10, a := 231, b := 63, c := 56, sub := 0x8 }),
    (0x197E02001E000002, .accz { d := 2, b := 30, sub := 0x2 }),
    (0x199E040206001400, .accrd { d := 4, a := 2, b := 6, rm := 1, ty := 4 }),
    (0x19BE020406000500, .accwr { d := 2, a := 4, b := 6, ty := 5 }),
    (0x19DE000206000002, .accst { a := 2, b := 6, sub := 0x2 }),
    (0x19FE0200061F0005, .accld { d := 2, b := 6, c := 31, sub := 0x5 })] := by decide +kernel

theorem test_words_tasks : DecodesAs [
    (0x1A1E0506FFFFFFF0, .spawn { d := 5, a := 6, imm := 0xFFFFFFF0 }),
    (0x1A3E010200000000, .fref { d := 1, a := 2 }),
    (0x1A5E003F00000001, .fdrop { a := 63, sub := 0x1 }),
    (0x1A7E0402000F0000, .fget { d := 4, a := 2, c := 15 }),
    (0x1A9E0E0200000000, .fpoll { d := 14, a := 2 }),
    (0x1ABE000000000000, .rpoint {}),
    (0x1ADE00FE00000000, .tret { a := 254 })] := by decide +kernel

theorem test_words_control_1 : DecodesAs [
    (0x1C03000000000005, .bra { h := { g := 1, gn := true }, imm := 0x5 }),
    (0x1C3E000200008000, .brx { a := 2, ra := true }),
    (0x1C3E000300000001, .brxRel { a := 3, sub := 0x1 }),
    (0x1C5E100300000008, .call { d := 16, a := 3, imm := 0x8 }),
    (0x1C7E100200000020, .callx { d := 16, a := 2, sub := 0x20 }),
    (0x1C84000000000000, .ret { h := { g := 2 } }),
    (0x1CBE040000000005, .umark { d := 4, imm := 0x5 }),
    (0x1CDE000400000000, .unwind { a := 4 }),
    (0x1CE0000000000000, .exit { h := { g := 0 } }),
    (0xFFFFFFFFFFFFFFFC7D1E000000000000, .nop { h := { live := some 0xFFFFFFFFFFFFFFFC, w := true } }),
    (0x1D3E00000000ABCD, .trap { imm := 0xABCD }),
    (0x1D5E000000000001, .brk { imm := 0x1 }),
    (0x1D7E000100000000, .join { a := 1 }),
    (0x1D9E000700000000, .jleave { a := 7 }),
    (0x1DBE020000000000, .jmaskGang { d := 2 }),
    (0x1DBE020000000001, .jmaskAdd { d := 2, sub := 0x1 })] := by decide +kernel

theorem test_words_control_2 : DecodesAs [
    (0x1DBE02003F000002, .jmaskU { d := 2, b := 63, sub := 0x2 }),
    (0x1DDE013CFC05000F, .wait { d := 1, a := 60, b := 252, c := 5, sub := 0xF })] := by decide +kernel

theorem test_words_system : DecodesAs [
    (0x3E1E010000000000, .sysrd { h := { w := true }, d := 1 }),
    (0x1E3E000211000000, .syswr { a := 2, b := 17 }),
    (0x1E5E000000000000, .eret {}),
    (0x1E7E00040000003F, .notify { a := 4, sub := 0x3F }),
    (0x1E9E000000000000, .haltSave {}),
    (0x1E9E000400000001, .haltEnd { a := 4, sub := 0x1 }),
    (0x1EBE0204060000C0, .rng { d := 2, a := 4, b := 6, sub := 0xC0 }),
    (0x1EBE030406004001, .rngU01 { d := 3, a := 4, b := 6, rb := true, sub := 0x1 }),
    (0x1EDE070000000000, .ctxDrain { d := 7 }),
    (0x1EFE00010200000A, .ctxVsave { a := 1, b := 2, sub := 0xA }),
    (0x1F1E000102000003, .ctxVload { a := 1, b := 2, sub := 0x3 })] := by decide +kernel

theorem test_words_pairs_1 : DecodesAs [
    (0xA00000001E060400, .pairNop { w := true, y := { po := 0xF, d := 3, a := 2 } }),
    (0x8082048044020C00, .pairAddN32 { d := 4, a := 9, y := { po := 0x22, d := 1, a := 6 } }),
    (0x8102048044020C02, .pairSubN32 { d := 4, a := 9, y := { po := 0x22, d := 1, a := 6, i := 1 } }),
    (0x8182048044020C04, .pairMulN32 { d := 4, a := 9, y := { po := 0x22, d := 1, a := 6, i := 2 } }),
    (0x8202048044020C06, .pairAnd { d := 4, a := 9, y := { po := 0x22, d := 1, a := 6, i := 3 } }),
    (0x8282048044020C00, .pairOr { d := 4, a := 9, y := { po := 0x22, d := 1, a := 6 } }),
    (0x8302048044020C02, .pairXor { d := 4, a := 9, y := { po := 0x22, d := 1, a := 6, i := 1 } }),
    (0x8382048044020C04, .pairAndn { d := 4, a := 9, y := { po := 0x22, d := 1, a := 6, i := 2 } }),
    (0x8402048044020C06, .pairMinI32 { d := 4, a := 9, y := { po := 0x22, d := 1, a := 6, i := 3 } }),
    (0x8482048066040D10, .pairMaxI32 { d := 4, a := 9, y := { po := 0x33, d := 2, a := 6, i := 136 } }),
    (0x8502048066040D12, .pairMinN32 { d := 4, a := 9, y := { po := 0x33, d := 2, a := 6, i := 137 } }),
    (0x8582048066040D14, .pairMaxN32 { d := 4, a := 9, y := { po := 0x33, d := 2, a := 6, i := 138 } }),
    (0x8602048066040D16, .pairShl { d := 4, a := 9, y := { po := 0x33, d := 2, a := 6, i := 139 } }),
    (0x8682048066040D18, .pairShr { d := 4, a := 9, y := { po := 0x33, d := 2, a := 6, i := 140 } }),
    (0x8702048066040D1A, .pairSar { d := 4, a := 9, y := { po := 0x33, d := 2, a := 6, i := 141 } }),
    (0x8782048066040D1C, .pairMov { d := 4, a := 9, y := { po := 0x33, d := 2, a := 6, i := 142 } })] := by decide +kernel

theorem test_words_pairs_2 : DecodesAs [
    (0x880204C0B0020C3E, .pairAddImm { d := 4, a := 9, i := 129, y := { po := 0x18, d := 1, a := 6, i := 31 } }),
    (0x888204C130020C3E, .pairSubImm { d := 4, a := 9, i := 130, y := { po := 0x18, d := 1, a := 6, i := 31 } }),
    (0x890204C1B0020C3E, .pairAndImm { d := 4, a := 9, i := 131, y := { po := 0x18, d := 1, a := 6, i := 31 } }),
    (0x898204C230020C3E, .pairOrImm { d := 4, a := 9, i := 132, y := { po := 0x18, d := 1, a := 6, i := 31 } }),
    (0x8A0204C2B0020C3E, .pairXorImm { d := 4, a := 9, i := 133, y := { po := 0x18, d := 1, a := 6, i := 31 } }),
    (0x0000000000000004CAFFFF0E00000000, .pairShlImm { live := some 0x4, d := 255, a := 254, i := 28 }),
    (0x0000000000000004CB7FFF0E80000000, .pairShrImm { live := some 0x4, d := 255, a := 254, i := 29 }),
    (0x0000000000000004CBFFFF0F00000000, .pairSarImm { live := some 0x4, d := 255, a := 254, i := 30 }),
    (0x0000000000000004CC7FFF0F80000000, .pairRolImm { live := some 0x4, d := 255, a := 254, i := 31 }),
    (0x8C82007FB2020002, .pairMovi { d := 4, i := 255, y := { po := 0x19, d := 1, i := 1 } }),
    (0x9002048182020C00, .pairFaddF32 { d := 4, a := 9, i := 3, y := { po := 0x1, d := 1, a := 6 } }),
    (0x9082048102020C00, .pairFsubF32 { d := 4, a := 9, i := 2, y := { po := 0x1, d := 1, a := 6 } }),
    (0x9102048082020C00, .pairFmulF32 { d := 4, a := 9, i := 1, y := { po := 0x1, d := 1, a := 6 } }),
    (0x9182048002020C00, .pairFminF32 { d := 4, a := 9, y := { po := 0x1, d := 1, a := 6 } }),
    (0x9202048002020C00, .pairFmaxF32 { d := 4, a := 9, y := { po := 0x1, d := 1, a := 6 } }),
    (0x940204019E040E00, .pairFaddF64 { d := 4, a := 8, i := 3, y := { po := 0xF, d := 2, a := 7 } })] := by decide +kernel

theorem test_words_pairs_3 : DecodesAs [
    (0x948204011E040E00, .pairFsubF64 { d := 4, a := 8, i := 2, y := { po := 0xF, d := 2, a := 7 } }),
    (0x950204009E040E00, .pairFmulF64 { d := 4, a := 8, i := 1, y := { po := 0xF, d := 2, a := 7 } }),
    (0x958204001E040E00, .pairFminF64 { d := 4, a := 8, y := { po := 0xF, d := 2, a := 7 } }),
    (0x960204001E040E00, .pairFmaxF64 { d := 4, a := 8, y := { po := 0xF, d := 2, a := 7 } }),
    (0x9802040004060C00, .pairAddN64 { d := 4, a := 8, y := { po := 0x2, d := 3, a := 6 } }),
    (0x9882040004060C00, .pairSubN64 { d := 4, a := 8, y := { po := 0x2, d := 3, a := 6 } }),
    (0x9902040064040C00, .pairMovN64 { d := 4, a := 8, y := { po := 0x32, d := 2, a := 6 } }),
    (0x9982043FE4040C00, .pairAddN64Imm { d := 4, a := 8, i := 127, y := { po := 0x32, d := 2, a := 6 } })] := by decide +kernel

/-! ### One step on a small state: the spec's own examples. -/

/-- The warp of `placed` with its lanes changed. -/
def eachLane (s : State) (f : Nat → Lane → Lane) : State := s.updWarp 3 (fun W => { W with lanes := tmap W.lanes f })

/-- One warp of 32 lanes, number 3, stands at a word, at user privilege; its vector registers hold `vs` in every lane and
its uniform registers `ss`. -/
def at' (w : Nat) (vs ss : List (Nat × Word)) : State :=
  (eachLane (State.reset.withFetchWord 128 w) (fun _ L => { L with
    frames := L.frames.map (fun f => { f with regs := vs.map (fun x => (x.1, ⟨x.2, false⟩)) }) })).updWarp 3 (fun W =>
    { W with s := ss.map (fun x => (x.1, ⟨x.2, false⟩)) })

/-- What holds after one step. -/
def after (s : State) (p : State → Prop) : Prop :=
  match step s with
  | .next t => p t
  | _ => False

/-- A register of warp 3 after a step. -/
abbrev sees (t : State) (x : Target) (v : Word) : Prop := t.reads 3 x = ⟨v, false⟩

/-- The lane of warp 3. -/
def ln (t : State) (l : Nat) : Lane := (t.warp 3).lane l

theorem holds_after {s : State} {p : State → Prop} [∀ t, Decidable (p t)]
    (h : (match step s with | .next t => decide (p t) | _ => false) = true) : after s p := by
  unfold after
  revert h
  cases step s <;> simp

/-- R77: `add.i32.sat` clamps; `mulhi.i32` takes the upper half. -/
theorem test_add_saturates : after (at' 0x003E010203000800 [(2, 0x7FFFFFFF), (3, 1)] []) (fun t =>
    sees t (.vec 31 1) 0x7FFFFFFF ∧ (ln t 31).pc = 8) := holds_after (by decide +kernel)

theorem test_mulhi_signed : after (at' 0x00DE010203000000 [(2, 0xFFFFFFFF), (3, 2)] []) (fun t =>
    sees t (.vec 0 1) 0xFFFFFFFF) := holds_after (by decide +kernel)

/-- R78: word 0 of the addition of 96 bits. -/
theorem test_addc_first : after (at' 0x011E000003020900 [(0, 0xFFFFFFFF), (3, 1)] []) (fun t =>
    sees t (.vec 7 0) 0 ∧ sees t (.pred 7 2) 1) := holds_after (by decide +kernel)

/-- R81, R82: a signed field, and a sign byte. -/
theorem test_bfe_signed : after (at' 0x03DE010203000000 [(2, 0xF0A5), (3, 0x0808)] []) (fun t =>
    sees t (.vec 0 1) 0xFFFFFFF0) := holds_after (by decide +kernel)

theorem test_prmt_sign : after (at' 0x041E010203040000 [(2, 0x44332211), (3, 0x88776655), (4, 0x04050617)] []) (fun t =>
    sees t (.vec 0 1) 0x556677FF) := holds_after (by decide +kernel)

/-- R86: `cvt.i32.f32.rdn` of −2.5 is −3, with NX. -/
theorem test_cvt_rounds_down : after (at' 0x04DE010200003004 [(2, 0xC0200000)] []) (fun t =>
    sees t (.vec 0 1) 0xFFFFFFFD ∧ (t.warp 3).fpstat = 16) := holds_after (by decide +kernel)

/-- R96: 1.5 × 2⁻¹⁴⁹ rounds to the second subnormal, with UF and NX. -/
theorem test_fscale_underflows : after (at' 0x0A5E010203000400 [(2, 0x3FC00000), (3, 0xFFFFFF6B)] []) (fun t =>
    sees t (.vec 0 1) 2 ∧ (t.warp 3).fpstat = 24) := holds_after (by decide +kernel)

/-- R97: ±0 gives 0x80000000, with NV. -/
theorem test_fgetexp_zero : after (at' 0x0A7E010200000400 [(2, 0x80000000)] []) (fun t =>
    sees t (.vec 0 1) 0x80000000 ∧ (t.warp 3).fpstat = 1) := holds_after (by decide +kernel)

/-- R58: the legal pair of the spec; both halves read before either writes. -/
theorem test_pair : after (at' 0x8082048044020C00 [(1, 0x40000000), (4, 5), (6, 0x40400000), (9, 7)] []) (fun t =>
    sees t (.vec 9 4) 12 ∧ sees t (.vec 9 1) 0x40C00000) := holds_after (by decide +kernel)

/-- R58: two destinations in one bank take the illegal-pairing trap, cause 0x02. -/
theorem test_pair_clash : after (at' 0x8082048044100C00 [] []) (fun t =>
    (t.warp 3).tcause = 2 ∧ (t.warp 3).tmask = 0xFFFFFFFF ∧ (ln t 0).tpc = 0 ∧ (t.warp 3).cur = true) := holds_after (by decide +kernel)

/-- R56: a word of zeros takes the illegal-instruction trap, cause 0x01. -/
theorem test_zero_word : after (at' 0 [] []) (fun t =>
    (t.warp 3).tcause = 1 ∧ (t.warp 3).tmask = 0xFFFFFFFF ∧ (t.warp 3).cur = true ∧ (t.warp 3).prev = false) := holds_after (by decide +kernel)

/-- R56, R365: `eret` at user privilege takes the privilege trap, cause 0x03. -/
theorem test_eret_user : after (at' 0x1E5E000000000000 [] []) (fun t => (t.warp 3).tcause = 3) := holds_after (by decide +kernel)

/-- R111: `trap` comes back to the next word, `brk` to itself. -/
theorem test_trap : after (at' 0x1D3E000000000007 [] []) (fun t =>
    (t.warp 3).tcause = 0x20 ∧ (t.warp 3).taddr = 7 ∧ (ln t 3).tpc = 8) := holds_after (by decide +kernel)

theorem test_brk : after (at' 0x1D5E000000000007 [] []) (fun t => (t.warp 3).tcause = 0x21 ∧ (ln t 3).tpc = 0) := holds_after (by decide +kernel)

/-- R107, R108: the first row of the trace: the token, and the mark 40 bytes on. -/
theorem test_umark : after (at' 0x1CBE040000000005 [] []) (fun t =>
    sees t (.uni 4) 0x00010000 ∧ (ln t 0).top.mark = some ⟨40, 1⟩) := holds_after (by decide +kernel)

/-- R104: a call of two granules at window v8: depth 2, and the callee's v0 is the caller's v8. -/
theorem test_call : after (at' 0x1C5E080200000001 [(8, 77)] []) (fun t =>
    (ln t 4).depth = 2 ∧ (ln t 4).pc = 8 ∧ (ln t 4).top.ret = 8 ∧ sees t (.vec 4 0) 77) := holds_after (by decide +kernel)

/-- R146: `shfl.rot.seg8` by 3 gives lane 5 the value of lane 0 and lane 13 that of lane 8. -/
theorem test_shfl_rot : after (eachLane (at' 0x135E04010303002D [] []) (fun l L => { L with
      frames := L.frames.map (fun f => { f with regs := [(1, ⟨BitVec.ofNat 32 (100 + l), false⟩)] }) })) (fun t =>
    sees t (.vec 5 4) 100 ∧ sees t (.vec 13 4) 108 ∧ sees t (.pred 5 3) 1) := holds_after (by decide +kernel)

/-- R148: the spec's `redux.fadd` over lanes 0, 2 and 5. -/
theorem test_redux_tree : after (eachLane (at' 0x1386040100000408 [] []) (fun l L => { L with
      preds := if l = 0 ∨ l = 2 ∨ l = 5 then 8 else 0
      frames := L.frames.map (fun f => { f with regs := [(1, ⟨if l = 0 then 0x3F800000 else 0x33800000, false⟩)] }) })) (fun t =>
    sees t (.vec 0 4) 0x3F800000 ∧ sees t (.vec 2 4) 0x3F800000 ∧ sees t (.vec 5 4) 0x3F800000 ∧ sees t (.vec 1 4) 0 ∧
      (t.warp 3).fpstat = 16) := holds_after (by decide +kernel)

/-- R365: at system privilege `eret` goes on at TPC with the privilege of PREV. -/
theorem test_eret : after ((eachLane (at' 0x1E5E000000000000 [] []) (fun _ L => { L with tpc := 0x20 })).updWarp 3 (fun W =>
    { W with cur := true })) (fun t => (ln t 31).pc = 0x20 ∧ (t.warp 3).cur = false) := holds_after (by decide +kernel)

/-- R79: `shl.n64 #63` on a pair. -/
theorem test_shl_wide : after (at' 0x02DE02043F000320 [(4, 3), (5, 0)] []) (fun t =>
    sees t (.vec 0 2) 0 ∧ sees t (.vec 0 3) 0x80000000) := holds_after (by decide +kernel)

/-- R66: a uniform word with BU reads the lowest acting lane. -/
theorem test_uadd_vector : after (at' 0x101E010203000080 [(3, 9)] [(2, 4)]) (fun t => sees t (.uni 1) 13) := holds_after (by decide +kernel)

/-! ### States that meet the premises of the obligations, clause by clause. -/

/-- The warp of `at'`, whose word at address 0 is being issued for all its lanes. -/
def ready (vs ss : List (Nat × Word)) : State := { at' 0 vs ss with cur := ⟨3, 0xFFFFFFFF, 0⟩ }

/-- The same with p3 true in lanes 0 and 31 alone. -/
def guarded (vs ss : List (Nat × Word)) : State :=
  eachLane (ready vs ss) (fun l L => { L with preds := if l = 0 ∨ l = 31 then 8 else 0 })

/-- The same at system privilege. -/
def readySys (vs ss : List (Nat × Word)) : State := (ready vs ss).updWarp 3 (fun W => { W with cur := true })

/-- Every lane. -/
abbrev all32 : BitVec 32 := 0xFFFFFFFF

/-- Lanes 0 and 31. -/
abbrev ends2 : BitVec 32 := 0x80000001

/-- A guard on p3. -/
abbrev g3 : Hdr := { g := 3 }

theorem lanes {P : Nat → Prop} (m : BitVec 32) (h : ∀ l, l < 32 → m.getLsbD l = true → P l) :
    ∀ l, m.getLsbD l = true → P l := fun l hl => h l (BitVec.lt_of_getLsbD hl) hl

/-- The premises of a word, as one computation. -/
def actsB (s : State) (h : Hdr) (u : Uses) (m : BitVec 32) : Bool :=
  (tget s.warps s.w).isSome && (decide (s.wp.longs = []) && decide (s.wp.late = [])) && decide ((s.block s.wp.block).shares = []) &&
    (List.range 32).all (fun l =>
      (m.getLsbD l == (s.cur.lanes.getLsbD l && (s.wp.lane l).guardHolds h)) &&
      (!s.cur.lanes.getLsbD l || ((s.wp.lane l).ready && (s.wp.lane l).fits (u.reads ++ u.writes) &&
        (s.wp.lane l).liveFits h.live && (h.g == 15 || !(s.wp.lane l).pbad.getLsbD h.g.toNat))))

theorem acts_of {s : State} {h : Hdr} {u : Uses} {m : BitVec 32} (c : actsB s h u m = true) : s.Acts h u m := by
  simp only [actsB, Bool.and_eq_true, decide_eq_true_eq, List.all_eq_true, List.mem_range] at c
  obtain ⟨⟨⟨c1, c2, c2'⟩, c3⟩, c4⟩ := c
  have key : ∀ l, s.cur.lanes.getLsbD l = true → (s.wp.lane l).ready = true ∧
      (s.wp.lane l).fits (u.reads ++ u.writes) = true ∧ (s.wp.lane l).liveFits h.live = true ∧
      (h.g = 15 ∨ (s.wp.lane l).pbad.getLsbD h.g.toNat = false) := by
    intro l hl
    have := (c4 l (BitVec.lt_of_getLsbD hl)).2
    simp only [hl, Bool.not_true, Bool.false_or, Bool.and_eq_true, Bool.or_eq_true, beq_iff_eq, Bool.not_eq_true'] at this
    tauto
  refine ⟨⟨c1, fun l hl => (key l hl).1⟩, ⟨c2, c2'⟩, c3, fun l hl => (key l hl).2.1, fun l hl => (key l hl).2.2.1,
    fun hg l hl => (key l hl).2.2.2.resolve_left hg, fun l => ?_⟩
  by_cases hl : l < 32
  · have := (c4 l hl).1
    rw [beq_iff_eq] at this
    rw [this, Bool.and_eq_true]
  · have h1 : m.getLsbD l = false := BitVec.getLsbD_of_ge _ _ (by omega)
    have h2 : s.cur.lanes.getLsbD l = false := BitVec.getLsbD_of_ge _ _ (by omega)
    simp [h1, h2]

/-- A word acts in some lanes with nothing to hold it up. -/
abbrev Meets (i : Instr) (h : Hdr) (u : Uses) (s : State) (m : BitVec 32) : Prop :=
  i.wf = true ∧ s.Acts h u m ∧ s.Unheld h ∧ m ≠ 0

theorem meets {i : Instr} {h : Hdr} {u : Uses} {s : State} {m : BitVec 32}
    (c : (i.wf && actsB s h u m && decide (h.live = none) && decide (m ≠ 0)) = true) : Meets i h u s m := by
  simp only [Bool.and_eq_true, decide_eq_true_eq] at c
  exact ⟨c.1.1.1, acts_of c.1.1.2, .inl c.1.2, c.2⟩

theorem storable {s : State} {key : Nat} (h : (!isVoid key && !s.boundLine key) = true) : Storable s key := by
  simpa [Storable] using h

theorem noNotice {s : State} {w : Nat}
    (h : (s.warp w).lanes.all (fun x => !x.2.alive || decide (x.2.park = .no) || !s.laneDoomed x.2) = true) : NoNotice s w := by
  intro x hx ha hp
  have := List.all_eq_true.mp h x hx
  simpa [ha, hp] using this

theorem sound {s : State} {key : Nat} (h : (decide (s.hbmErr = []) || decide (0xC000000000 ≤ key)) = true) : Sound s key := by
  simpa [Sound] using h

theorem quiet {W : Warp} (h : (decide (W.longs = []) && decide (W.late = [])) = true) : W.Quiet := by
  simp only [Bool.and_eq_true, decide_eq_true_eq] at h
  exact ⟨h.1, h.2⟩

theorem witness_IntegerWords : ∃ i t sh f s m, intWord i = some (t, sh, f) ∧ Meets i t.h (triUses t sh false) s m :=
  ⟨.add { h := g3, d := 255, a := 0, b := 254 }, _, _, _, guarded [] [], ends2, rfl, meets (by decide +kernel)⟩

theorem witness_CarryAndImmediateWords :
    (∃ t s m, Meets (.addc t) t.h (triUses t shCarry false) s m) ∧ (∃ t s m, Meets (.subb t) t.h (triUses t shCarry false) s m) ∧
    ∃ i t d rd f s m, immWord i = some (t, d, rd, f) ∧
      Meets i t.h ⟨if rd then [(t.a.toNat, 1)] else [], [(d.toNat, 1)], false⟩ s m :=
  ⟨⟨{ h := g3, d := 255, c := 15, ty := 1 }, guarded [] [], ends2, meets (by decide +kernel)⟩,
    ⟨{ h := g3, d := 255, c := 3, ty := 1, sf := true }, guarded [] [], ends2, meets (by decide +kernel)⟩,
    .movh { d := 254, imm := 7 }, _, _, _, _, ready [] [], all32, rfl, meets (by decide +kernel)⟩

theorem witness_ConvertWords :
    (∃ t s m, Meets (.cvt t) t.h (cvtUses t) s m) ∧ ∃ t s m, Meets (.fcvt t) t.h (cvtUses t) s m :=
  ⟨⟨{ h := g3, d := 255, a := 254, sub := 5 }, guarded [] [], ends2, meets (by decide +kernel)⟩,
    { d := 254, a := 255, ty := 5, sub := 4 }, ready [] [], all32, meets (by decide +kernel)⟩

theorem witness_FloatWords : ∃ i t sh f s m, fpWord i = some (t, sh, false, f) ∧ Meets i t.h (triUses t sh false) s m :=
  ⟨.fadd { h := g3, d := 255, ty := 4 }, _, _, _, guarded [] [], ends2, rfl, meets (by decide +kernel)⟩

theorem witness_LongFloatWords : ∃ i t sh f s m, fpWord i = some (t, sh, true, f) ∧ Meets i t.h (triUses t sh false) s m :=
  ⟨.fdiv { h := g3, d := 254, ty := 5 }, _, _, _, guarded [] [], ends2, rfl, meets (by decide +kernel)⟩

theorem witness_PairWords : ∃ i p po s m, pairWord i = some (p, po) ∧ pairClash (p.x po) p.y = false ∧
    Meets i (pairHdr p) (pairUses p po) s m :=
  ⟨.pairAddN64 { d := 4, a := 8, y := { po := 0x0F, d := 255, a := 254 } }, _, _, ready [] [], all32, rfl, by decide,
    meets (by decide +kernel)⟩

theorem witness_PredicateWords : ∃ i t two f s m, predWord i = some (t, two, f) ∧ Meets i t.h {} s m :=
  ⟨.pand { h := g3, d := 15, a := 3, b := 14 }, _, _, _, guarded [] [], ends2, rfl, meets (by decide +kernel)⟩

theorem witness_UniformWords :
    (∃ i t sh f s m, uniWord i = some (t, sh, f) ∧ Meets i t.h (triUses t sh true) s m) ∧
    (∃ t s m, Meets (.uaddImm t) t.h {} s m) ∧ (∃ t s m, Meets (.umovi t) t.h {} s m) ∧
    ∃ t s m, Meets (.ucmp t) t.h (triUses t shUCmp true) s m :=
  ⟨⟨.uadd { d := 63, a := 62, b := 63, sub := 0x80 }, _, _, _, ready [] [], all32, rfl, meets (by decide +kernel)⟩,
    ⟨{ d := 63, imm := 1 }, ready [] [], all32, meets (by decide +kernel)⟩,
    ⟨{ d := 63, imm := 1 }, ready [] [], all32, meets (by decide +kernel)⟩,
    { d := 15, a := 63, c := 3, sub := 5 }, ready [] [], all32, meets (by decide +kernel)⟩

theorem witness_LaneOperations :
    (∃ t s m, Meets (.vote t) t.h {} s m) ∧ (∃ t s m, Meets (.ballot t) t.h {} s m) ∧
    (∃ t s m, Meets (.shfl t) t.h (shflUses t) s m) ∧ (∃ t s m, Meets (.bcast t) t.h (moveUses t []) s m) ∧
    ∃ t s m, Meets (.redux t) t.h (moveUses t []) s m :=
  ⟨⟨{ h := g3, d := 15, a := 3, sub := 3 }, guarded [] [], ends2, meets (by decide +kernel)⟩,
    ⟨{ h := g3, d := 63, a := 3 }, guarded [] [], ends2, meets (by decide +kernel)⟩,
    ⟨{ h := g3, d := 255, b := 31, c := 15, sub := 0x37 }, guarded [] [], ends2, meets (by decide +kernel)⟩,
    ⟨{ h := g3, d := 255, b := 31, sub := 2 }, guarded [] [], ends2, meets (by decide +kernel)⟩,
    { h := g3, d := 254, ty := 5, sub := 10 }, guarded [] [], ends2, meets (by decide +kernel)⟩

/-- The first byte of the die scratchpad past the segment of the cluster. -/
abbrev dspAt : Nat := dspKey 0 0x40000

theorem witness_LoadWords :
    (∃ t s m key, Meets (.ld t) t.h ⟨[(t.a.toNat, 1)], [(t.d.toNat, Opd.count t.ty .vT)], false⟩ s m ∧
      Reaches s m t.a (eaOf s t) (memSpace t) (accessSize t) (accessSize t) false key ∧
      ∀ l, m.getLsbD l = true → s.accessible (key l) (accessSize t) = true) ∧
    (∃ t s m key, Meets (.ldp t) t.h ⟨[(t.a.toNat, 1)], [(t.d.toNat, 4)], false⟩ s m ∧
      Reaches s m t.a (eaOf s t) (memSpace t) 16 16 false key ∧
      ∀ l, m.getLsbD l = true → s.accessible (key l) 8 = true ∧ s.accessible (key l + 8) 8 = true) ∧
    (∃ t s m key, Meets (.prs t) t.h ⟨[(t.a.toNat, 1)], [], false⟩ s m ∧
      Reaches s m t.a (eaOf s t) (memSpace t) 1 1 false key) ∧
    ∃ t s m key, Meets (.ld t) t.h ⟨[(t.a.toNat, 1)], [(t.d.toNat, Opd.count t.ty .vT)], false⟩ s m ∧
      Reaches s m t.a (eaOf s t) (memSpace t) (accessSize t) (accessSize t) false key ∧
      ∀ l, m.getLsbD l = true → s.present (key l) (accessSize t) = false ∧ s.awake (key l) = true :=
  ⟨⟨{ h := g3, d := 254, a := 1, b := 0xFF, c := 0xF8, ty := 3, sub := 0x70 }, guarded [(1, 0x40008)] [], ends2, fun _ => dspAt,
      meets (by decide +kernel), lanes _ (by decide +kernel), lanes _ (by decide +kernel)⟩,
    ⟨{ d := 252, a := 1, c := 16 }, ready [(1, 0x3FFF0)] [], all32, fun _ => dspAt, meets (by decide +kernel),
      lanes _ (by decide +kernel), lanes _ (by decide +kernel)⟩,
    ⟨{ d := 15, a := 255, c := 64 }, ready [(255, 0x3FFC0)] [], all32, fun _ => dspAt, meets (by decide +kernel), lanes _ (by decide +kernel)⟩,
    { h := g3, d := 254, a := 1, ty := 3 }, { guarded [(1, 0x40000)] [] with absent := [dspAt / 64] }, ends2, fun _ => dspAt,
    meets (by decide +kernel), lanes _ (by decide +kernel), lanes _ (by decide +kernel)⟩

theorem plain_of {s : State} (h : (!s.prot && !s.determ && s.wp.lanes.all (fun x => !x.2.shadow)) = true) : Plain s := by
  simp only [Bool.and_eq_true, Bool.not_eq_true', List.all_eq_true] at h
  refine ⟨h.1.1, h.1.2, fun l => ?_⟩
  show (tgetD s.wp.lanes l {}).shadow = false
  unfold tgetD
  have : ∀ (t : Table Lane), (∀ x ∈ t, x.2.shadow = false) → ((tget t l).getD {}).shadow = false := by
    intro t ht
    induction t with
    | nil => rfl
    | cons x t ih =>
      obtain ⟨k, v⟩ := x
      unfold tget
      split
      · exact ht (k, v) (List.mem_cons_self ..)
      · exact ih (fun y hy => ht y (List.mem_cons_of_mem _ hy))
  exact this _ h.2

/-- Warp 3 with outstanding accesses and long operations. -/
def owing (s : State) (xs : Table Access) (ls : Table LongOp) : State :=
  s.updWarp 3 (fun W => { W with accs := xs, longs := ls })

/-- A store of one byte by lane 0. -/
def byteStore : Access :=
  { seq := 9, lane := 0, key := dspAt, space := .dsp, ea := 0x40000, size := 1, kind := .store 0xAB false, rel := true, scope := 3 }

theorem witness_StoreAndFenceWords :
    (∃ t s m key, Meets (.st t) t.h ⟨[(t.a.toNat, 1), (t.d.toNat, Opd.count t.ty .vT)], [], false⟩ s m ∧ Plain s ∧
      CleanData s m t.d.toNat (Opd.count t.ty .vT) ∧
      Reaches s m t.a (eaOf s t) (memSpace t) (accessSize t) (accessSize t) true key) ∧
    (∃ t s m key, Meets (.stp t) t.h ⟨[(t.a.toNat, 1), (t.d.toNat, 4)], [], false⟩ s m ∧ Plain s ∧
      CleanData s m t.d.toNat 4 ∧ Reaches s m t.a (eaOf s t) (memSpace t) 16 16 true key) ∧
    (∃ t s m, Meets (.fence t) t.h {} s m ∧ Plain s ∧ t.sub.toNat / 4 % 8 = 2 ∧
      (s.reads s.w (.uni t.a.toNat)).bad = false ∧ s.committing s.w = false ∧
        s.handleOk s.w (s.reads s.w (.uni t.a.toNat)).val = true ∧
      ∀ l, m.getLsbD l = true → ∀ n, s.pendingOf s.w l n = []) ∧
    ∃ t s m l, Meets (.fence t) t.h {} s m ∧ Plain s ∧ t.sub.toNat / 4 % 8 ≠ 2 ∧ t.sub.toNat % 4 ≠ 0 ∧ m.getLsbD l = true ∧
      s.pendingOf s.w l s.uid ≠ [] :=
  ⟨⟨{ h := g3, d := 255, a := 1, b := 0xFF, c := 0xFF, sub := 0x74 }, guarded [(1, 0x40001), (255, 9)] [], ends2, fun _ => dspAt,
      meets (by decide +kernel), plain_of (by decide +kernel), lanes _ (by decide +kernel), lanes _ (by decide +kernel)⟩,
    ⟨{ d := 252, a := 1 }, ready [(1, 0x40000)] [], all32, fun _ => dspAt, meets (by decide +kernel), plain_of (by decide +kernel),
      lanes _ (by decide +kernel), lanes _ (by decide +kernel)⟩,
    ⟨{ a := 63, sub := 8 }, ready [] [(63, 0x1000)], all32, meets (by decide +kernel), plain_of (by decide +kernel), by decide,
      by decide +kernel, by decide +kernel, by decide +kernel, lanes _ (fun _ _ _ _ => rfl)⟩,
    { sub := 0x17 }, owing (ready [] []) [(4, { byteStore with seq := 4 })] [], all32, 0, meets (by decide +kernel),
    plain_of (by decide +kernel), by decide, by decide, by decide, by decide +kernel⟩

/-- Entry 1 of the top table of interface 0 is valid and not present. -/
def holed (s : State) : State := s.writeNum (dpaKey (tableAt 3 + 8)) 8 1 false

/-- The premises of an atomic on chip, of one whose pages are present, and of one with an absent page. -/
abbrev ChipMeets (i : Instr) (t : Tri) (ret : Bool) : Prop := ∃ s m key, Meets i t.h (atomUses t ret) s m ∧ Plain s ∧ t.sub.toNat % 4 ≠ 3 ∧
  CleanData s m t.b.toNat (Opd.count t.ty .vT * if t.c = 7 then 2 else 1) ∧
  Reaches s m t.a (fun l => (s.reads s.w (.vec l t.a.toNat)).val) (spaceOf (t.sub.toNat % 4))
    (if wideTy t.ty then 8 else 4) (if wideTy t.ty then 8 else 4) true key ∧
  ∀ l, m.getLsbD l = true → s.accessible (key l) (if wideTy t.ty then 8 else 4) = true

@[inherit_doc ChipMeets] abbrev MemMeets (i : Instr) (t : Tri) (ret : Bool) (s : State) (m : BitVec 32) (va : Nat → Nat) (size : Nat) : Prop :=
  Meets i t.h (atomUses t ret) s m ∧ Plain s ∧
  t.sub.toNat % 4 = 3 ∧ size = (if wideTy t.ty then 8 else 4) ∧ CleanData s m t.a.toNat 2 ∧
  CleanData s m t.b.toNat (Opd.count t.ty .vT * if t.c = 7 then 2 else 1) ∧
  ∀ l, m.getLsbD l = true → (vecSrc s l 2 t.a.toNat).1.toNat = va l ∧ va l < 2 ^ 57 ∧ va l % size = 0 ∧
    (s.xlate s.wp.vi s.wp.core (va l) true false).1 ≠ .bad ∧ (s.xlate s.wp.vi s.wp.core (va l) true false).1 ≠ .busy

@[inherit_doc ChipMeets] abbrev MemThere (i : Instr) (t : Tri) (ret : Bool) : Prop := ∃ s m, ∃ va : Nat → Nat, ∃ size, ∃ a : Nat → Nat,
  MemMeets i t ret s m va size ∧
  (∀ l, m.getLsbD l = true → (s.xlate s.wp.vi s.wp.core (va l) true false).1 = .ok (a l)) ∧
  (∀ l, m.getLsbD l = true → a l / 2 ^ 56 % 2 = 1 → t.c = 0 ∨ t.c = 6 ∨ t.c = 7) ∧
  s.queueUsed s.wp.core (schedOf s.wp.slot) < 32

@[inherit_doc ChipMeets] abbrev MemAbsent (i : Instr) (t : Tri) (ret : Bool) : Prop := ∃ s m, ∃ va : Nat → Nat, ∃ size l,
  MemMeets i t ret s m va size ∧ m.getLsbD l = true ∧ (s.xlate s.wp.vi s.wp.core (va l) true false).1 = .replay

/-- Lane 31 names an absent page. -/
def absentAt31 : State := holed (eachLane (guarded [] []) (fun l L => { L with frames := L.frames.map (fun f =>
  { f with regs := [(3, ⟨if l = 31 then 0x2000 else 0, false⟩)] }) }))

theorem witness_AtomicWords :
    ((∃ t, ChipMeets (.atom t) t true) ∧ ∃ t, ChipMeets (.red t) t false) ∧
    ((∃ t, MemThere (.atom t) t true) ∧ (∃ t, MemThere (.red t) t false) ∧
      (∃ t, MemAbsent (.atom t) t true) ∧ ∃ t, MemAbsent (.red t) t false) ∧
    ∃ (t : Tri) (s : State), s.Unheld t.h ∧ Instr.wf (.atom t) = true ∧ s.Acts t.h (atomUses t true) 0 ∧
      Instr.wf (.red { t with d := 0 }) = true ∧ s.Acts t.h (atomUses { t with d := 0 } false) 0 :=
  ⟨⟨⟨{ h := g3, d := 254, a := 1, b := 252, c := 7, ty := 2, sub := 0xD8 }, guarded [(1, 0x40000)] [], ends2, fun _ => dspAt,
      meets (by decide +kernel), plain_of (by decide +kernel), by decide, lanes _ (by decide +kernel),
      lanes _ (by decide +kernel), lanes _ (by decide +kernel)⟩,
    { a := 1, b := 255, c := 8, ty := 4, sub := 0x90 }, ready [(1, 0x40000)] [], all32, fun _ => dspAt,
      meets (by decide +kernel), plain_of (by decide +kernel), by decide, lanes _ (by decide +kernel),
      lanes _ (by decide +kernel), lanes _ (by decide +kernel)⟩,
    ⟨⟨{ h := g3, d := 254, a := 2, b := 252, c := 7, ty := 2, sub := 0x43 }, guarded [(2, 0x1FFFF8)] [], ends2, fun _ => 0x1FFFF8, 8,
      fun _ => codeAt + 0x1FFFF8, ⟨meets (by decide +kernel), plain_of (by decide +kernel), by decide, by decide,
      lanes _ (by decide +kernel), lanes _ (by decide +kernel), lanes _ (by decide +kernel)⟩, lanes _ (by decide +kernel),
      lanes _ (by decide +kernel), by decide +kernel⟩,
    ⟨{ h := g3, a := 2, b := 254, ty := 3, sub := 0x83 }, guarded [(2, 0x1FFFF8)] [], ends2, fun _ => 0x1FFFF8, 8,
      fun _ => codeAt + 0x1FFFF8, ⟨meets (by decide +kernel), plain_of (by decide +kernel), by decide, by decide,
      lanes _ (by decide +kernel), lanes _ (by decide +kernel), lanes _ (by decide +kernel)⟩, lanes _ (by decide +kernel),
      lanes _ (by decide +kernel), by decide +kernel⟩,
    ⟨{ h := g3, d := 1, a := 2, b := 254, sub := 3 }, absentAt31, ends2, fun l => if l = 31 then 2 ^ 45 else 0, 4, 31,
      ⟨meets (by decide +kernel), plain_of (by decide +kernel), by decide, by decide, lanes _ (by decide +kernel),
      lanes _ (by decide +kernel), lanes _ (by decide +kernel)⟩, by decide, by decide +kernel⟩,
    { h := g3, a := 2, b := 254, sub := 3 }, absentAt31, ends2, fun l => if l = 31 then 2 ^ 45 else 0, 4, 31,
      ⟨meets (by decide +kernel), plain_of (by decide +kernel), by decide, by decide, lanes _ (by decide +kernel),
      lanes _ (by decide +kernel), lanes _ (by decide +kernel)⟩, by decide, by decide +kernel⟩,
    { h := { g := 4 }, d := 1, a := 2, b := 254 }, guarded [] [], .inl rfl, by decide, acts_of (by decide +kernel), by decide,
    acts_of (by decide +kernel)⟩

/-- A load of lane 31 to v254 and v255, at which the lane is parked. -/
def parkedLoad : Access :=
  { seq := 9, lane := 31, key := dspAt, space := .dsp, ea := 0x40000, size := 8, kind := .load false 254 7, word := 8
    parked := true }

/-- A reading of a presence bit by lane 0. -/
def presenceBit : Access :=
  { seq := 9, lane := 0, key := dspAt, space := .dsp, ea := 0x40000, size := 1, kind := .presence 3 7 }

/-- A fence of lane 0. -/
def fenceOf : Access := { seq := 9, lane := 0, key := 0, space := .dsp, ea := 0, size := 0, kind := .fence false, scope := 4 }

/-- An FP32 addition at the Gnomon by a lane. -/
def rmwOf (l : Nat) : Access :=
  { seq := 9 + l, lane := l, key := dspAt, space := .dsp, ea := 0x40000, size := 4, word := 8
    kind := .rmw ⟨8, 4, 0, 0x3F800000, 0, true⟩ 5 7 }

/-- The long operation that such a load or such additions deliver. -/
def owedTo (ts : List Target) : Table LongOp := [(7, ⟨ts.map (fun t => ⟨t, none, false⟩), 0, 0⟩)]

/-- Lane 31 is parked at its load. -/
def atLoad : State := owing (eachLane (ready [] []) (fun l L => if l = 31 then { L with park := .access 8, next := 8 } else L))
  [(9, parkedLoad)] (owedTo [.vec 31 254, .vec 31 255])

theorem witness_AccessesPerform :
    (∃ (w id : Nat) (a : Access) (s : State), tget (s.warp w).accs id = some a ∧ s.mayPerform w a = true ∧ a.parked = true ∧
      (∃ sg r op, a.kind = .load sg r op) ∧ NoNotice s w ∧
      (∀ x ∈ (s.warp w).accs, x.1 ≠ id → x.2.lane = a.lane → x.2.parked = false) ∧
      ((s.warp w).lane a.lane).shadow = false ∧ ((s.warp w).lane a.lane).park = .access a.word) ∧
    (∃ (w id : Nat) (a : Access) (s : State), tget (s.warp w).accs id = some a ∧ s.mayPerform w a = true ∧ a.parked = false ∧
      (∃ v b, a.kind = .store v b) ∧ Storable s a.key) ∧
    (∃ (w id : Nat) (a : Access) (s : State), tget (s.warp w).accs id = some a ∧ s.mayPerform w a = true ∧ a.parked = false ∧
      ∃ p op, a.kind = .presence p op) ∧
    ∃ (w id : Nat) (a : Access) (s : State), tget (s.warp w).accs id = some a ∧ s.mayPerform w a = true ∧ a.parked = false ∧
      ∃ sc, a.kind = .fence sc :=
  ⟨⟨3, 9, parkedLoad, atLoad, by decide +kernel, by decide +kernel, rfl, ⟨_, _, _, rfl⟩, noNotice (by decide +kernel),
      by decide +kernel, by decide +kernel, by decide +kernel⟩,
    ⟨3, 9, byteStore, owing (ready [] []) [(9, byteStore)] [], by decide +kernel, by decide +kernel, rfl, ⟨_, _, rfl⟩,
      storable (by decide +kernel)⟩,
    ⟨3, 9, presenceBit, owing (ready [] []) [(9, presenceBit)] (owedTo [.pred 0 3]), by decide +kernel, by decide +kernel, rfl,
      _, _, rfl⟩,
    3, 9, fenceOf, owing (ready [] []) [(9, fenceOf)] [], by decide +kernel, by decide +kernel, rfl, _, rfl⟩

/-- Two lanes add at one place. -/
def twoAdds : State := owing (ready [] []) [(9, rmwOf 0), (40, rmwOf 31)] (owedTo [.vec 0 5, .vec 31 5])

/-- An addition on `.mem` by lane 31, in queue 0 of core 0. -/
def memAdd : Copy :=
  { core := 0, queue := 0, seq := 20, vi := 0, grid := 1, block := 2, warp := 3, lanes := 0x80000000, src := .elems 8 [0x1FFFF8]
    dst := .elems 8 [], total := 0, atoms := [(31, dpaKey (codeAt + 0x1FFFF8), ⟨0, 3, 0, 5, 0, true⟩, 254, 7)] }

theorem witness_AtomicsPerform :
    (∃ (w id : Nat) (a : Access) (s : State), tget (s.warp w).accs id = some a ∧ (∃ o r p, a.kind = .rmw o r p) ∧
      (s.grid (s.warp w).grid).launch.determ = false ∧ Storable s a.key ∧ NoNotice s w ∧ Sound s a.key ∧
      ∀ x ∈ (s.warp w).together a, x.2.size = a.size ∧ s.mayPerform w x.2 = true) ∧
    (∃ (id l key reg op size : Nat) (x : AtomOp) (c : Copy) (s : State), tget s.copies id = some c ∧
      c.atoms = [(l, key, x, reg, op)] ∧ size = (if wideTy x.ty then 8 else 4) ∧
      (s.grid (s.warp c.warp).grid).launch.determ = false ∧ (s.grid (s.warp c.warp).grid).launch.prot = false ∧ Storable s key ∧
      Sound s key ∧ x.ret = true ∧ (∀ y ∈ s.copies, y.2.core = c.core → y.2.queue = c.queue → y.2.seq < c.seq → y.1 = id) ∧
      s.gangOrdered c.warp c.lanes c.seq = true ∧ s.acquireReady c.warp (c.access (l, key, x, reg, op)) = true) ∧
    ∃ (id l key reg op size : Nat) (x : AtomOp) (c : Copy) (s : State), tget s.copies id = some c ∧
      c.atoms = [(l, key, x, reg, op)] ∧ size = (if wideTy x.ty then 8 else 4) ∧
      (s.grid (s.warp c.warp).grid).launch.determ = false ∧ (s.grid (s.warp c.warp).grid).launch.prot = false ∧ Storable s key ∧
      Sound s key ∧ ∃ y ∈ s.copies, y.2.core = c.core ∧ y.2.queue = c.queue ∧ y.2.seq < c.seq ∧ y.1 ≠ id :=
  ⟨⟨3, 9, rmwOf 0, twoAdds, by decide +kernel, ⟨_, _, _, rfl⟩, by decide +kernel, storable (by decide +kernel),
      noNotice (by decide +kernel), sound (by decide +kernel), by decide +kernel⟩,
    ⟨20, _, _, _, _, _, _, memAdd, { owing (ready [] []) [] (owedTo [.vec 31 254, .vec 31 255]) with copies := [(20, memAdd)] },
      by decide +kernel, rfl, rfl, by decide +kernel, by decide +kernel, storable (by decide +kernel), sound (by decide +kernel),
      rfl, by decide +kernel, by decide +kernel, by decide +kernel⟩,
    20, _, _, _, _, _, _, memAdd, { ready [] [] with copies := [(19, { memAdd with seq := 19 }), (20, memAdd)] },
    by decide +kernel, rfl, rfl, by decide +kernel, by decide +kernel, storable (by decide +kernel), sound (by decide +kernel),
    by decide +kernel⟩

theorem witness_BranchWords :
    (∃ s m t, Meets (.bra t) t.h {} s m ∧ Lands s m (fun _ => s.cur.pc + t.imm.signExtend 64 * 8)) ∧
    (∃ s m t, Meets (.brx t) t.h ⟨[(t.a.toNat, 2)], [], false⟩ s m ∧ CleanData s m t.a.toNat 2 ∧
      Lands s m (fun l => (vecSrc s l 2 t.a.toNat).1)) ∧
    (∃ s m t, Meets (.brxRel t) t.h ⟨[(t.a.toNat, 1)], [], false⟩ s m ∧ CleanData s m t.a.toNat 1 ∧
      Lands s m (fun l => s.cur.pc + (s.reads s.w (.vec l t.a.toNat)).val.signExtend 64 * 8)) ∧
    ∃ s m t, Meets (.nop t) t.h {} s m :=
  ⟨⟨guarded [] [], ends2, { h := g3, imm := 5 }, meets (by decide +kernel),
      ⟨lanes _ (by decide +kernel), by decide +kernel⟩, lanes _ (by decide +kernel)⟩,
    ⟨guarded [(254, 0x1FFFF8)] [], ends2, { h := g3, a := 254 }, meets (by decide +kernel), lanes _ (by decide +kernel),
      ⟨lanes _ (by decide +kernel), by decide +kernel⟩, lanes _ (by decide +kernel)⟩,
    ⟨guarded [(255, 0x3FFFF)] [], ends2, { h := g3, a := 255, sub := 1 }, meets (by decide +kernel), lanes _ (by decide +kernel),
      ⟨lanes _ (by decide +kernel), by decide +kernel⟩, lanes _ (by decide +kernel)⟩,
    ready [] [], all32, {}, meets (by decide +kernel)⟩

/-- Each lane has called once: a frame of `g` granules at window v8, marked, above the launch frame. -/
def called (s : State) : State := eachLane s (fun _ L => { L with
  frames := [⟨2, 8, 0x20, none, [(9, ⟨5, false⟩)], 6⟩, ⟨32, 0, 0, some ⟨0x28, 1⟩, [], 4⟩] })

theorem witness_CallAndUnwindWords :
    (∃ s m t, Meets (.call t) t.h {} s m ∧ CanCall s m t.a.toNat t.d.toNat ∧
      Lands s m (fun _ => s.cur.pc + t.imm.signExtend 64 * 8)) ∧
    (∃ s m t, Meets (.callx t) t.h ⟨[(t.a.toNat, 2)], [], false⟩ s m ∧ CleanData s m t.a.toNat 2 ∧
      CanCall s m t.sub.toNat t.d.toNat ∧ Lands s m (fun l => (vecSrc s l 2 t.a.toNat).1)) ∧
    (∃ s m t, Meets (.ret t) t.h {} s m ∧ (∀ l, m.getLsbD l = true → 2 ≤ (s.wp.lane l).depth) ∧
      Resident s m (fun l => (s.wp.lane l).depth - 1) ∧ Together s m (fun l => [(s.wp.lane l).top.ret])) ∧
    (∃ s m t, ∃ d : Nat, Meets (.umark t) t.h {} s m ∧ ∀ l, m.getLsbD l = true → (s.wp.lane l).depth = d) ∧
    ∃ (s : State) (m : BitVec 32) (t : Tri) (d : Nat) (ser : BitVec 8) (target : Nat → DWord), Meets (.unwind t) t.h {} s m ∧ d < 1024 ∧
      s.reads s.w (.uni t.a.toNat) = ⟨BitVec.ofNat 32 (ser.toNat * 2 ^ 16 + d), false⟩ ∧
      (∀ l, m.getLsbD l = true → d + 1 ≤ (s.wp.lane l).depth ∧
        ∃ f, (s.wp.lane l).frames[(s.wp.lane l).depth - (d + 1)]? = some f ∧ f.mark = some ⟨target l, ser⟩) ∧
      Resident s m (fun _ => d + 1) ∧ Lands s m target :=
  ⟨⟨guarded [] [], ends2, { h := g3, d := 248, a := 32, imm := 5 }, meets (by decide +kernel),
      ⟨lanes _ (by decide +kernel), by decide +kernel⟩, ⟨lanes _ (by decide +kernel), by decide +kernel⟩,
      lanes _ (by decide +kernel)⟩,
    ⟨ready [(2, 0x40)] [], all32, { d := 0, a := 2, sub := 1 }, meets (by decide +kernel), lanes _ (by decide +kernel),
      ⟨lanes _ (by decide +kernel), by decide +kernel⟩, ⟨lanes _ (by decide +kernel), by decide +kernel⟩,
      lanes _ (by decide +kernel)⟩,
    ⟨called (ready [] []), all32, {}, meets (by decide +kernel), lanes _ (by decide +kernel), lanes _ (by decide +kernel),
      lanes _ (by decide +kernel), by decide +kernel⟩,
    ⟨called (ready [] []), all32, { d := 63, imm := 5 }, 2, meets (by decide +kernel), lanes _ (by decide +kernel)⟩,
    called (ready [] [(63, 0x10000)]), all32, { a := 63 }, 0, 1, fun _ => 0x28, meets (by decide +kernel), by decide,
    by decide +kernel, lanes _ (fun l _ h => ⟨lanes all32 (P := fun l => 0 + 1 ≤ ((called (ready [] [(63, 0x10000)])).wp.lane l).depth)
      (by decide +kernel) l h, ⟨32, 0, 0, some ⟨0x28, 1⟩, [], 4⟩,
      lanes all32 (P := fun l => ((called (ready [] [(63, 0x10000)])).wp.lane l).frames[
        ((called (ready [] [(63, 0x10000)])).wp.lane l).depth - 1]? = some ⟨32, 0, 0, some ⟨0x28, 1⟩, [], 4⟩)
        (by decide +kernel) l h, rfl⟩), lanes _ (by decide +kernel),
    ⟨lanes _ (by decide +kernel), by decide +kernel⟩, lanes _ (by decide +kernel)⟩

theorem witness_TrapWords :
    (∃ t, ∃ s : State, ∃ m : BitVec 32, Instr.wf (.trap t) = true ∧ m ≠ 0 ∧ s.Acts t.h {} m ∧ s.wp.cur = false) ∧
    (∃ t, ∃ s : State, ∃ m : BitVec 32, Instr.wf (.brk t) = true ∧ m ≠ 0 ∧ s.Acts t.h {} m ∧ s.wp.cur = false) ∧
    (∃ t, ∃ s : State, Instr.wf (.trap t) = true ∧ s.Acts t.h {} 0 ∧ s.Unheld t.h) ∧
    ∃ t, ∃ s : State, Instr.wf (.brk t) = true ∧ s.Acts t.h {} 0 ∧ s.Unheld t.h :=
  ⟨⟨{ h := g3, imm := 0xFFFFFFFF }, guarded [] [], ends2, by decide, by decide, acts_of (by decide +kernel), by decide +kernel⟩,
    ⟨{ imm := 1 }, ready [] [], all32, by decide, by decide, acts_of (by decide +kernel), by decide +kernel⟩,
    ⟨{ h := { g := 5 }, imm := 1 }, ready [] [], by decide, acts_of (by decide +kernel), .inl rfl⟩,
    { h := { g := 14 }, imm := 1 }, ready [] [], by decide, acts_of (by decide +kernel), .inl rfl⟩

theorem witness_PrivilegeAndFrameTraps :
    (∃ i h u, ∃ s : State, ∃ m : BitVec 32, systemWord i = some (h, u) ∧ i.wf = true ∧ s.Acts h u m ∧ s.wp.cur = false) ∧
    ∃ i t sh f, ∃ s : State, ∃ bad, intWord i = some (t, sh, f) ∧ i.wf = true ∧ s.Issues ∧ s.wp.Quiet ∧ s.wp.cur = false ∧ bad ≠ 0 ∧
      ∀ l, BitVec.getLsbD (w := 32) bad l = true ↔ s.cur.lanes.getLsbD l = true ∧
        ((s.wp.lane l).liveFits t.h.live &&
          (s.wp.lane l).fits ((triUses t sh false).reads ++ (triUses t sh false).writes)) = false := by
  refine ⟨⟨.sysrd { d := 255, b := 0x1F }, _, _, ready [] [], all32, rfl, by decide, acts_of (by decide +kernel),
      by decide +kernel⟩,
    .add { d := 16, a := 15 }, _, _, _, eachLane (called (ready [] [])) (fun l L => { L with
      frames := if l = 31 then L.frames else L.frames.drop 1 }), 0x80000000, rfl, by decide,
    ⟨by decide +kernel, lanes _ (by decide +kernel)⟩, quiet (by decide +kernel), by decide +kernel, by decide, fun l => ?_⟩
  by_cases hl : l < 32
  · revert l; decide +kernel
  · rw [BitVec.getLsbD_of_ge _ _ (by omega), BitVec.getLsbD_of_ge _ _ (by omega)]; simp

/-- A load of lane 0 is outstanding. -/
def busyWarp : State := owing (ready [] []) [(9, { parkedLoad with parked := false, lane := 0 })]
  (owedTo [.vec 0 254, .vec 0 255])

theorem witness_TrapEntryAndDoubleTraps :
    (∃ t, ∃ s : State, Instr.wf (.brk t) = true ∧ s.Issues ∧ s.cur.lanes ≠ 0 ∧ t.h.g = 15 ∧ t.h.gn = false ∧ t.h.live = none ∧
      (s.block s.wp.block).shares = [] ∧ s.wp.cur = false ∧ s.wp.busyLong = true) ∧
    (∃ w tr, ∃ s : State, (State.warp s w).trap = some tr ∧ (s.warp w).late = [] ∧ (s.warp w).busyLong = true) ∧
    (∃ w tr, ∃ s : State, (State.warp s w).trap = some tr ∧ (s.warp w).late = [] ∧ (s.warp w).busyLong = false) ∧
    ∃ t, ∃ s : State, ∃ m : BitVec 32, m ≠ 0 ∧ State.Acts s t.h {} m ∧ s.wp.cur = true ∧ Instr.wf (.trap t) = true :=
  ⟨⟨{ imm := 1 }, busyWarp, by decide, ⟨by decide +kernel, lanes _ (by decide +kernel)⟩, by decide +kernel, rfl, rfl, rfl,
      by decide +kernel, by decide +kernel, by decide +kernel⟩,
    ⟨3, ⟨1, 2, all32, some 0⟩, busyWarp.updWarp 3 (fun W => { W with trap := some ⟨1, 2, all32, some 0⟩ }), by decide +kernel,
      by decide +kernel, by decide +kernel⟩,
    ⟨3, ⟨1, 2, ends2, none⟩, (ready [] []).updWarp 3 (fun W => { W with trap := some ⟨1, 2, ends2, none⟩ }), by decide +kernel,
      by decide +kernel, by decide +kernel⟩,
    { h := g3, imm := 7 }, (guarded [] []).updWarp 3 (fun W => { W with cur := true }), ends2, by decide,
    acts_of (by decide +kernel), by decide +kernel, by decide⟩

theorem witness_EretReturns : ∃ t, ∃ s : State, ∃ m : BitVec 32, Instr.wf (.eret t) = true ∧ State.Acts s t.h {} m ∧ s.wp.cur = true ∧
    (s.requested s.wp.core = false ∨ s.wp.prev = true) ∧ s.awaitsRecord s.w = false ∧
    (∀ x ∈ s.wp.lanes, settledPark x.2.parkRec = false ∧ settledPark x.2.park = false) ∧
    ∀ l, s.wp.alive.getLsbD l = true → s.landing s.wp.vi s.wp.core (s.wp.lane l).tpc = .ok :=
  ⟨{}, eachLane (readySys [] []) (fun l L => { L with tpc := 0x20, parkRec := if l = 31 then .join 0 7 else .no }), all32, by decide,
    acts_of (by decide +kernel), by decide +kernel, by decide +kernel, by decide +kernel, by decide +kernel,
    lanes _ (by decide +kernel)⟩

theorem witness_EndWords :
    (∃ t, ∃ s : State, ∃ m : BitVec 32, Meets (.exit t) t.h {} s m ∧ s.prot = false ∧ s.determ = false) ∧
    (∃ t, ∃ s : State, ∃ m : BitVec 32, Meets (.tret t) t.h ⟨[(t.a.toNat, 2)], [], false⟩ s m ∧ s.prot = false ∧ s.determ = false ∧
      CleanData s m t.a.toNat 2) ∧
    ∃ t, ∃ s : State, ∃ m : BitVec 32, Meets (.haltEnd t) t.h {} s m ∧ s.prot = false ∧ s.determ = false ∧ s.wp.cur = true ∧
      ∀ l, s.wp.alive.getLsbD l = true → (s.wp.lane l).alive = true :=
  ⟨⟨{ h := g3 }, guarded [] [], ends2, meets (by decide +kernel), by decide +kernel, by decide +kernel⟩,
    ⟨{ h := g3, a := 254 }, guarded [] [], ends2, meets (by decide +kernel), by decide +kernel, by decide +kernel,
      lanes _ (by decide +kernel)⟩,
    { a := 63, sub := 1 }, readySys [] [(63, 0x80000000)], all32, meets (by decide +kernel), by decide +kernel, by decide +kernel,
    by decide +kernel, lanes _ (by decide +kernel)⟩

/-- Every lane that is not in `m` stands at a join on mask 7, lane 31 with the next word of a safe point. -/
def atJoin : State := (eachLane (ready [] []) (fun l L => if l = 0 then L else { L with
  park := .join 0x40 7, next := 0x48 })).updWarp 3 (fun W => { W with m := [(7, 0x80000002)] })

theorem witness_JoinWords :
    (∃ t, ∃ s : State, ∃ m : BitVec 32, Meets (.join t) t.h {} s m ∧ Wanted s m) ∧ (∃ t, ∃ s : State, ∃ m : BitVec 32, Meets (.jleave t) t.h {} s m) ∧
    (∃ t, ∃ s : State, ∃ m : BitVec 32, Meets (.jmaskGang t) t.h {} s m) ∧ (∃ t, ∃ s : State, ∃ m : BitVec 32, Meets (.jmaskAdd t) t.h {} s m) ∧
    (∃ t, ∃ s : State, ∃ m : BitVec 32, Meets (.jmaskU t) t.h {} s m) ∧
    (∃ w lane k word, ∃ s : State, (Warp.lane (State.warp s w) lane).park = .join word k ∧ NoNotice s w ∧
      ∀ l, l < 32 → ((s.warp w).rejoin k).getLsbD l = true → ((s.warp w).lane l).alive = false ∨ ((s.warp w).lane l).park ≠ .no) ∧
    ∃ w lane k word, ∃ s : State, (Warp.lane (State.warp s w) lane).park = .join word k ∧ NoNotice s w ∧
      ∃ l, l < 32 ∧ ((s.warp w).rejoin k).getLsbD l = true ∧ ((s.warp w).lane l).alive = true ∧ ((s.warp w).lane l).park = .no :=
  ⟨⟨{ h := g3, a := 7 }, guarded [] [], ends2, meets (by decide +kernel), lanes _ (by decide +kernel)⟩,
    ⟨{ h := g3, a := 7 }, guarded [] [], ends2, meets (by decide +kernel)⟩,
    ⟨{ h := g3, d := 7 }, guarded [] [], ends2, meets (by decide +kernel)⟩,
    ⟨{ h := g3, d := 7, sub := 1 }, guarded [] [], ends2, meets (by decide +kernel)⟩,
    ⟨{ h := g3, d := 7, b := 63, sub := 2 }, guarded [] [(63, 0x80000000)], ends2, meets (by decide +kernel)⟩,
    ⟨3, 31, 7, 0x40, atJoin, by decide +kernel, noNotice (by decide +kernel), by decide +kernel⟩,
    3, 31, 7, 0x40, atJoin.updWarp 3 (fun W => { W with m := [(7, 0x80000001)] }), by decide +kernel,
    noNotice (by decide +kernel), 0, by decide +kernel,
    by decide +kernel, by decide +kernel, by decide +kernel⟩

/-- The operands of a `wait` on four conditions with a limit of 1: a future, a barrier of the warp, a line, a cell. -/
def atWait : State := guarded [(252, 0x00010000), (253, 1), (254, 0x40000)]
  [(60, 0), (61, 0x21E00000), (62, 0x30000000), (63, 0x400000FF), (59, 1)]

/-- What lane 31 would wait for there. -/
def conds4 (s : State) (l : Nat) : List WaitCond :=
  (List.range 4).flatMap (fun k =>
    match s.waitCond s.w l (s.reads s.w (.uni (60 + k))).val (s.reads s.w (.vec l (252 + k))).val with
    | .ok c => [c]
    | .error _ => [])

/-- Lane 31 is parked at a `wait` for a barrier of its block, with deadline 5. -/
def waiting : State := eachLane (ready [] []) (fun l L => if l = 31 then
  { L with park := .wait [.barrier ⟨1, 2, 15⟩ 0] false (some 5) 255 false, next := 8 } else L)

theorem witness_WaitWords :
    (∃ (t : Tri) (s : State) (m : BitVec 32) (cs : Nat → List WaitCond), 4 = t.sub.toNat % 4 + 1 ∧
      Meets (.wait t) t.h ⟨[(t.b.toNat, 4)], [(t.d.toNat, 1)], false⟩ s m ∧ Wanted s m ∧ s.committing s.w = false ∧
      CleanData s m t.b.toNat 4 ∧ (∀ k, k < 4 → (s.reads s.w (.uni (t.a.toNat + k))).bad = false) ∧
      (t.sub.getLsbD 3 = true → (s.reads s.w (.uni t.c.toNat)).bad = false) ∧
      ∀ l, m.getLsbD l = true → (List.range 4).map (fun k =>
        s.waitCond s.w l (s.reads s.w (.uni (t.a.toNat + k))).val (s.reads s.w (.vec l (t.b.toNat + k))).val) =
          (cs l).map .ok) ∧
    (∃ w l dst conds, ∃ all bad : Bool, ∃ deadline : Option Nat, ∃ s : State,
      ((s.warp w).lane l).park = .wait conds all deadline dst bad ∧ ((s.warp w).lane l).fits [(dst, 1)] = true ∧
      (s.block (s.warp w).block).shares = [] ∧ NoNotice s w ∧ combine all (conds.map (s.condHolds w l)) = true) ∧
    ∃ w l dst conds, ∃ all bad : Bool, ∃ d : Nat, ∃ s : State,
      ((s.warp w).lane l).park = .wait conds all (some d) dst bad ∧ ((s.warp w).lane l).fits [(dst, 1)] = true ∧
      (s.block (s.warp w).block).shares = [] ∧ NoNotice s w ∧ d ≤ s.refTick :=
  ⟨⟨{ h := g3, d := 255, a := 60, b := 252, c := 59, sub := 15 }, atWait, ends2, conds4 atWait, rfl, meets (by decide +kernel),
      lanes _ (by decide +kernel), by decide +kernel, lanes _ (by decide +kernel), by decide +kernel, by decide +kernel,
      lanes _ (by decide +kernel)⟩,
    ⟨3, 31, 255, [.barrier ⟨1, 2, 15⟩ 0], false, false, some 5, waiting.setBar ⟨1, 2, 15⟩ { gen := 1 }, by decide +kernel, by decide +kernel, by decide +kernel,
      noNotice (by decide +kernel), by decide +kernel⟩,
    3, 31, 255, [.barrier ⟨1, 2, 15⟩ 0], false, false, 5, { waiting with now := 14850 }, by decide +kernel, by decide +kernel, by decide +kernel,
    noNotice (by decide +kernel), by decide +kernel⟩


/-- A gang of lanes 0 and 31. -/
def pairGang (vs ss : List (Nat × Word)) : State := { ready vs ss with cur := ⟨3, ends2, 0⟩ }

/-- Lane 31 is parked at barrier 15 of its block in generation 0. -/
def atBarrier : State := eachLane (ready [] []) (fun l L => if l = 31 then
  { L with park := .barrier ⟨1, 2, 15⟩ 0 true, next := 8 } else L)

/-- The handle of the placed cluster, in s63. -/
def withHandle : State := pairGang [] [(63, 0x1000)]

theorem barReady_block {s : State} {t : Tri} {m : BitVec 32} {j : Bool} (h : t.sub.toNat % 8 < 2)
    (l : s.late t m = false) : BarReady s t m j :=
  ⟨fun h2 => by omega, fun h2 => by omega, fun h3 => by omega, l⟩

theorem barReady_cluster {s : State} {t : Tri} {m : BitVec 32} {j : Bool} (h : t.sub.toNat % 8 = 2)
    (c : (!(s.reads s.w (.uni t.b.toNat)).bad && !s.committing s.w && s.handleOk s.w (s.reads s.w (.uni t.b.toNat)).val &&
      !s.wp.wave && !s.late t m) = true) : BarReady s t m j := by
  simp only [Bool.and_eq_true, Bool.not_eq_true'] at c
  exact ⟨fun _ => ⟨c.1.1.1.1, c.1.1.1.2, c.1.1.2⟩, fun _ => c.1.2, fun h3 => by omega, c.2⟩

theorem witness_BarrierWords :
    (∃ (t : Tri) (s : State) (m : BitVec 32), Meets (.barArrive t) t.h {} s m ∧ BarReady s t m true ∧
      ∀ l, m.getLsbD l = true → threadNo s.w l ∉ (s.bar (s.barOf t)).arrived) ∧
    (∃ (t : Tri) (s : State) (m : BitVec 32), Meets (.barSync t) t.h {} s m ∧ BarReady s t m true ∧ Wanted s m ∧
      ∀ l, m.getLsbD l = true → threadNo s.w l ∉ (s.bar (s.barOf t)).arrived) ∧
    (∃ (t : Tri) (s : State) (m : BitVec 32), Meets (.barWait t) t.h {} s m ∧ BarReady s t 0 false ∧ Wanted s m ∧
      (s.reads s.w (.uni t.a.toNat)).val.toNat < 2 ^ 16) ∧
    (∃ (t : Tri) (s : State) (m : BitVec 32), Meets (.barExpect t) t.h {} s m ∧ BarReady s t 0 true ∧
      ((s.barOpen (s.barOf t) s.wp.grid).bar (s.barOf t)).pend + (s.reads s.w (.uni t.a.toNat)).val.toNat < 2 ^ 40) ∧
    (∃ w l n tok sync, ∃ s : State, ((s.warp w).lane l).park = .barrier n tok sync ∧ NoNotice s w ∧ (s.bar n).gen = tok) ∧
    ∃ w l n tok sync, ∃ s : State, ((s.warp w).lane l).park = .barrier n tok sync ∧ NoNotice s w ∧ (s.bar n).gen ≠ tok :=
  ⟨⟨{ d := 63, b := 63, sub := 58 }, withHandle, ends2, meets (by decide +kernel),
      barReady_cluster rfl (by decide +kernel), lanes _ (by decide +kernel)⟩,
    ⟨{ b := 63, sub := 2 }, withHandle, ends2, meets (by decide +kernel), barReady_cluster rfl (by decide +kernel),
      lanes _ (by decide +kernel), lanes _ (by decide +kernel)⟩,
    ⟨{ a := 63, sub := 121 }, pairGang [] [(63, 0xFFFF)], ends2, meets (by decide +kernel),
      barReady_block (by decide) (by decide +kernel), lanes _ (by decide +kernel), by decide +kernel⟩,
    ⟨{ a := 63, sub := 0 }, ready [] [(63, 0xFFFFFFFF)], all32, meets (by decide +kernel), barReady_block (by decide)
      (by decide +kernel), by decide +kernel⟩,
    ⟨3, 31, ⟨1, 2, 15⟩, 0, true, atBarrier, by decide +kernel, noNotice (by decide +kernel), by decide +kernel⟩,
    3, 31, ⟨1, 2, 15⟩, 0, true, atBarrier.setBar ⟨1, 2, 15⟩ { gen := 0xFFFF }, by decide +kernel,
    noNotice (by decide +kernel), by decide +kernel⟩

theorem wholeWarp {s : State} {h : Hdr} (a : actsB s h {} s.cur.lanes = true)
    (c : (h.g = 15 ∧ h.gn = false ∧ h.live = none) ∧ s.wp.alive = s.cur.lanes ∧
      ∀ l, l < 32 → s.cur.lanes.getLsbD l = true → (s.wp.lane l).depth = 1) : WholeWarp s h :=
  have x := acts_of a
  { x.toIssues with
    quiet := x.quiet, live := x.live, guard := ⟨c.1.1, c.1.2.1⟩, all := c.2.1, depth := lanes _ c.2.2, unheld := .inl c.1.2.2 }

/-- The warp has launch frames of `g` granules, and its block an exchange of `e`. -/
def granules (g e : Nat) : State :=
  (eachLane (ready [] []) (fun _ L => L.setLaunch (fun f => { f with g := g }))).updBlock 2 (fun B => { B with exchange := e })

/-- Gang 9 of the whole warp is parked with a request. -/
def parkedGang (s : State) (r : Req) : State :=
  (eachLane s (fun _ L => { L with park := .gang 9, next := 8 })).updWarp 3 (fun W => { W with gangs := [(9, ⟨all32, r, 0, 0, []⟩)] })

theorem witness_GranuleMoves :
    (∃ (t : Tri) (s : State), Instr.wf (.rgive t) = true ∧ WholeWarp s t.h ∧ (s.block s.wp.block).shares = [] ∧
      HasGranules s s.w s.cur.lanes s.wp.launchG ∧ s.cur.lanes ≠ 0 ∧ (tget s.blocks s.wp.block).isSome ∧
      Wanted s s.cur.lanes ∧ t.sub.toNat % 64 < s.wp.launchG) ∧
    (∃ (t : Tri) (s : State), Instr.wf (.rclaim t) = true ∧ WholeWarp s t.h ∧ (s.block s.wp.block).shares = [] ∧
      HasGranules s s.w s.cur.lanes s.wp.launchG ∧ s.cur.lanes ≠ 0 ∧ (tget s.blocks s.wp.block).isSome ∧
      Wanted s s.cur.lanes ∧ s.wp.launchG + t.sub.toNat % 64 ≤ 32 ∧ s.claimsOf s.wp.block = [] ∧
      t.sub.toNat % 64 = (s.block s.wp.block).exchange) ∧
    (∃ (t : Tri) (s : State), Instr.wf (.rclaim t) = true ∧ WholeWarp s t.h ∧ (s.block s.wp.block).shares = [] ∧
      HasGranules s s.w s.cur.lanes s.wp.launchG ∧ s.cur.lanes ≠ 0 ∧ (tget s.blocks s.wp.block).isSome ∧
      Wanted s s.cur.lanes ∧ s.wp.launchG + t.sub.toNat % 64 ≤ 32 ∧ s.claimsOf s.wp.block = [] ∧
      t.sub.toNat % 64 = (s.block s.wp.block).exchange + 1) ∧
    ∃ (b id w n : Nat) (rest : List (Nat × Nat × Nat)) (s : State), s.claimsOf b = (id, w, n) :: rest ∧
      (s.warp w).block = b ∧ (tget s.blocks b).isSome ∧ (∀ g ∈ s.claimsOf b, NoNotice s g.2.1) ∧ n = (s.block b).exchange :=
  ⟨⟨{ sub := 31 }, granules 32 0, by decide, wholeWarp (by decide +kernel) (by decide +kernel), by decide +kernel,
      lanes _ (by decide +kernel), by decide +kernel, by decide +kernel, lanes _ (by decide +kernel), by decide +kernel⟩,
    ⟨{ sub := 31 }, granules 1 31, by decide, wholeWarp (by decide +kernel) (by decide +kernel), by decide +kernel,
      lanes _ (by decide +kernel), by decide +kernel, by decide +kernel, lanes _ (by decide +kernel), by decide +kernel,
      by decide +kernel, by decide +kernel⟩,
    ⟨{ sub := 31 }, granules 1 30, by decide, wholeWarp (by decide +kernel) (by decide +kernel), by decide +kernel,
      lanes _ (by decide +kernel), by decide +kernel, by decide +kernel, lanes _ (by decide +kernel), by decide +kernel,
      by decide +kernel, by decide +kernel⟩,
    2, 9, 3, 31, [], parkedGang (granules 1 31) (.rclaim 31), by decide +kernel, by decide +kernel, by decide +kernel,
    (fun g hg => by
      have : g ∈ [((9 : Nat), (3 : Nat), (31 : Nat))] := hg
      rw [List.mem_singleton.mp this]; exact noNotice (by decide +kernel)), by decide +kernel⟩

/-- A second warp in the block of the first, with launch frames of 24 granules. -/
def twoWarps : State :=
  { granules 32 0 with warps := [(3, (granules 32 0).warp 3), (4, { (granules 24 0).warp 3 with wib := 31, slot := 1 })] }

/-- Warp 3 shares its last 8 granules with warp 4. -/
def sharing : State := { twoWarps with blocks := tset twoWarps.blocks 2 { twoWarps.block 2 with
  shares := [(0, ⟨3, 4, 24, 8, 24, false, [], [], []⟩)] } }

theorem witness_GranuleShares :
    (∃ (t : Tri) (s : State) (n i : Nat), Instr.wf (.rshare t) = true ∧ WholeWarp s t.h ∧ s.cur.lanes ≠ 0 ∧
      (s.block s.wp.block).shares = [] ∧ (tget s.blocks s.wp.block).isSome ∧ n = t.sub.toNat % 64 ∧ s.wp.wave = false ∧
      s.warpIn s.wp.block t.b.toNat = some i ∧ i ≠ s.w ∧ (s.warp i).live = true ∧
      t.a.toNat / 8 + n ≤ s.wp.launchG ∧ (s.warp i).launchG + n ≤ 32 ∧ HasGranules s s.w s.cur.lanes s.wp.launchG) ∧
    (∃ (t : Tri) (s : State) (k : Nat) (h : Share), Instr.wf (.runshare t) = true ∧ WholeWarp s t.h ∧ s.cur.lanes ≠ 0 ∧
      (tget s.blocks s.wp.block).isSome ∧ Wanted s s.cur.lanes ∧
      (s.block s.wp.block).shares = [(k, h)] ∧ h.exporter = s.w ∧ h.importer ≠ s.w ∧
      (s.warp h.importer).wib = t.b.toNat ∧ HasGranules s s.w s.cur.lanes s.wp.launchG ∧ h.first + h.n ≤ s.wp.launchG) ∧
    (∃ (w id k : Nat) (s : State), s.reqOf w id = some (.runshare k) ∧ (tget s.blocks (s.warp w).block).isSome ∧ NoNotice s w) ∧
    ∃ (w l r key k : Nat) (read full ended : Bool) (s : State), ((s.warp w).lane l).park = .cell read r ∧
      s.cellAt w l r = some (k, key, full, ended) ∧ NoNotice s w ∧ full = read :=
  ⟨⟨{ a := 192, b := 31, sub := 0x48 }, twoWarps, 8, 4, by decide, wholeWarp (by decide +kernel) (by decide +kernel),
      by decide +kernel, by decide +kernel, by decide +kernel, by decide, by decide +kernel, by decide +kernel, by decide +kernel,
      by decide +kernel, by decide +kernel, by decide +kernel, lanes _ (by decide +kernel)⟩,
    ⟨{ b := 31 }, sharing, 0, ⟨3, 4, 24, 8, 24, false, [], [], []⟩, by decide,
      { warp := by decide +kernel, ready := lanes _ (by decide +kernel), quiet := quiet (by decide +kernel)
        live := lanes _ (by decide +kernel), guard := by decide, all := by decide +kernel, depth := lanes _ (by decide +kernel)
        unheld := .inl rfl }, by decide +kernel, by decide +kernel, lanes _ (by decide +kernel), by decide +kernel,
      by decide +kernel, by decide +kernel, by decide +kernel, lanes _ (by decide +kernel), by decide +kernel⟩,
    ⟨3, 9, 0, parkedGang sharing (.runshare 0), by decide +kernel, by decide +kernel, noNotice (by decide +kernel)⟩,
    3, 31, 255, 31 * 256 + 63, 0, false, false, false,
    eachLane sharing (fun l L => if l = 31 then { L with park := .cell false 255 } else L), by decide +kernel, by decide +kernel,
    noNotice (by decide +kernel), rfl⟩

theorem witness_ScopeWords :
    (∃ (t : Tri) (s : State) (m : BitVec 32), Meets (.scopeGet t) t.h {} s m ∧ t.sub.toNat % 8 = 2 ∧ s.committing s.w = false) ∧
    (∃ (t : Tri) (s : State) (m : BitVec 32) (v : Word), Meets (.scopeFreeze t) t.h {} s m ∧
      s.reads s.w (.uni t.a.toNat) = ⟨v, false⟩ ∧ s.committing s.w = false ∧ s.handleOk s.w v = true ∧
      s.wp.freeze = 254 ∧ s.wp.freezeCid = v.toNat % 1024) ∧
    (∃ (t : Tri) (s : State) (m : BitVec 32) (v : Word), Meets (.scopeThaw t) t.h {} s m ∧
      s.reads s.w (.uni t.a.toNat) = ⟨v, false⟩ ∧ s.committing s.w = false ∧ s.handleOk s.w v = true ∧
      s.wp.freeze = 1 ∧ s.wp.freezeCid = v.toNat % 1024) ∧
    ∃ (t : Tri) (s : State) (m : BitVec 32), Meets (.scopeQuery t) t.h {} s m :=
  ⟨⟨{ d := 63, sub := 2 }, withHandle, ends2, meets (by decide +kernel), rfl, by decide +kernel⟩,
    ⟨{ a := 63 }, withHandle.updWarp 3 (fun W => { W with freeze := 254 }), ends2, 0x1000, meets (by decide +kernel),
      by decide +kernel, by decide +kernel, by decide +kernel, by decide +kernel, by decide +kernel⟩,
    ⟨{ a := 63 }, withHandle.updWarp 3 (fun W => { W with freeze := 1 }), ends2, 0x1000, meets (by decide +kernel),
      by decide +kernel, by decide +kernel, by decide +kernel, by decide +kernel, by decide +kernel⟩,
    { a := 63, d := 60 }, withHandle, ends2, meets (by decide +kernel)⟩

/-- The block has 32 units of block shared memory from unit 32 on. -/
def withUnits (s : State) : State := s.updBlock 2 (fun B => { B with unit := 32, bshm := 128 })

/-- The last unit of the block, pending to core 0. -/
def pendingUnit : State := { withUnits (pairGang [] [(63, 0x1F80000)]) with buffers := [⟨0x1F80000, none, 0, 2, []⟩] }

theorem witness_BufferWords :
    (∃ (t : Tri) (s : State) (m : BitVec 32) (x h : Word) (a dest : Nat), Meets (.bgive t) t.h {} s m ∧
      s.reads s.w (.uni t.a.toNat) = ⟨x, false⟩ ∧ (s.reads s.w (.uni t.b.toNat)).val.toNat = dest ∧
      dest ∈ ((s.cluster (s.clusterOf s.w)).sets.headD (0, [])).2 ∧ s.giveOf x = some (h, a) ∧
      s.lockedByte s.wp.core (blkKey (dieOf s.wp.core * 96 + bufCore h) (s.bufFirst (dieOf s.wp.core) h * 4096)) (bufUnits h * 4096) = none) ∧
    (∃ (t : Tri) (s : State) (m : BitVec 32) (h : Word), Meets (.btake t) t.h {} s m ∧ Wanted s m ∧
      s.reads s.w (.uni t.a.toNat) = ⟨h, false⟩ ∧ h.toNat % 2 ^ 13 = 0 ∧
      (s.homeOf (dieOf s.wp.core) h).isSome ∧
      ((tget (s.block s.wp.block).windows (t.sub.toNat % 8)).isSome →
        s.homeOf (dieOf s.wp.core) h = some s.wp.block) ∧
      s.takeAhead s.wp.core h s.uid = false ∧ s.pendingBuf s.wp.core h = true) ∧
    (∃ (t : Tri) (s : State) (m : BitVec 32) (h : Word), Meets (.btake t) t.h {} s m ∧ Wanted s m ∧
      s.reads s.w (.uni t.a.toNat) = ⟨h, false⟩ ∧ h.toNat % 2 ^ 13 = 0 ∧
      (s.homeOf (dieOf s.wp.core) h).isSome ∧
      ((tget (s.block s.wp.block).windows (t.sub.toNat % 8)).isSome →
        s.homeOf (dieOf s.wp.core) h = some s.wp.block) ∧
      s.takeAhead s.wp.core h s.uid = false ∧ s.pendingBuf s.wp.core h = false) ∧
    ∃ (w id win : Nat) (h : Word) (s : State), s.reqOf w id = some (.btake win h) ∧
      s.takeAhead (s.warp w).core h id = false ∧ NoNotice s w ∧
      (∀ g, tget (s.warp w).gangs id = some g → g.reads = []) ∧ s.pendingBuf (s.warp w).core h = true :=
  ⟨⟨{ d := 63, a := 62, b := 61 }, withUnits (pairGang [] [(62, 0x1F000)]), ends2, 0x1F000, 0x1F80000, 0x1F000, 0,
      meets (by decide +kernel), by decide +kernel, by decide +kernel, by decide +kernel, by decide +kernel, by decide +kernel⟩,
    ⟨{ a := 63, sub := 7 }, pendingUnit, ends2, 0x1F80000, meets (by decide +kernel), lanes _ (by decide +kernel),
      by decide +kernel, by decide, by decide +kernel, by decide +kernel, by decide +kernel, by decide +kernel⟩,
    ⟨{ a := 63, sub := 7 }, { pendingUnit with buffers := [] }, ends2, 0x1F80000, meets (by decide +kernel),
      lanes _ (by decide +kernel), by decide +kernel, by decide, by decide +kernel, by decide +kernel, by decide +kernel,
      by decide +kernel⟩,
    3, 9, 7, 0x1F80000, parkedGang pendingUnit (.btake 7 0x1F80000), by decide +kernel, by decide +kernel,
    noNotice (by decide +kernel),
    (fun g hg => by rw [show g = ⟨all32, .btake 7 0x1F80000, 0, 0, []⟩ from (Option.some.inj hg).symm]), by decide +kernel⟩

theorem exists_all {s : State} {w id : Nat} {entry : DWord} {todo : List (Nat × Nat × Word)} {done : List (Nat × Word)}
    (h : (s.spawnTry w id entry todo done).2.1 = []) : ∃ o out, s.spawnTry w id entry todo done = (o, [], out) :=
  ⟨(s.spawnTry w id entry todo done).1, (s.spawnTry w id entry todo done).2.2, Prod.ext rfl (Prod.ext h rfl)⟩

theorem no_shadow {s : State} (h : ∀ l, l < 32 → (s.wp.lane l).shadow = false) (k : ∀ x ∈ s.wp.lanes, x.1 < 32) :
    ∀ l, (s.wp.lane l).shadow = false := fun l => by
  by_cases hl : l < 32
  · exact h l hl
  · have : tget s.wp.lanes l = none := by
      generalize s.wp.lanes = t at k
      induction t with
      | nil => rfl
      | cons x t ih => simp only [List.mem_cons, forall_eq_or_imp] at k; simp [tget, show x.1 ≠ l by omega, ih k.2]
    simp [Warp.lane, tgetD, this]

/-- The warp holds n references. -/
def withRefs (s : State) (n : Nat) : State := s.updWarp 3 (fun W => { W with refs := List.replicate n (9, false, 1) })

theorem witness_SpawnWord :
    (∃ (i : Imm) (s : State) (m : BitVec 32) (entry : DWord) (todo : List (Nat × Nat × Word)),
      Meets (.spawn i) i.h ⟨[(i.a.toNat, 1)], [(i.d.toNat, 1)], false⟩ s m ∧ s.determ = false ∧ s.prot = false ∧
      (∀ l, (s.wp.lane l).shadow = false) ∧ CleanData s m i.a.toNat 1 ∧
      entry = s.cur.pc + i.imm.signExtend 64 * 8 ∧ s.landing s.wp.vi s.wp.core entry = .ok ∧
      (∀ l, m.getLsbD l = true → (s.reads s.w (.vec l i.a.toNat)).val.toNat % 32 = 0 ∧
        ∃ k, s.locate s.w .dsp (s.reads s.w (.vec l i.a.toNat)).val 32 = .ok k) ∧
      s.wp.refs.length + (lanesOf m).length = 4096 ∧ s.spawnAhead s.wp.core s.uid = false ∧
      todo = (lanesOf m).map (fun l => (l, noFut, (s.reads s.w (.vec l i.a.toNat)).val)) ∧
      ∃ o done, s.spawnTry s.w s.uid entry todo [] = (o, [], done)) ∧
    ∃ (i : Imm) (s : State) (m : BitVec 32) (entry : DWord) (l f b : Nat),
      Meets (.spawn i) i.h ⟨[(i.a.toNat, 1)], [(i.d.toNat, 1)], false⟩ s m ∧ s.determ = false ∧ s.prot = false ∧
      (∀ l, (s.wp.lane l).shadow = false) ∧ CleanData s m i.a.toNat 1 ∧
      entry = s.cur.pc + i.imm.signExtend 64 * 8 ∧ s.landing s.wp.vi s.wp.core entry = .ok ∧
      (∀ l, m.getLsbD l = true → (s.reads s.w (.vec l i.a.toNat)).val.toNat % 32 = 0 ∧
        ∃ k, s.locate s.w .dsp (s.reads s.w (.vec l i.a.toNat)).val 32 = .ok k) ∧
      s.wp.refs.length + (lanesOf m).length ≤ 4096 ∧ s.spawnAhead s.wp.core s.uid = false ∧
      lanesOf m = [l] ∧ s.futFind (dieOf s.wp.core) = some f ∧ s.binFor s.wp.core s.wp.grid entry = some b := by
  exact ⟨⟨{ h := g3, d := 255, a := 254, imm := 5 }, withRefs (guarded [(254, 0x40000)] []) 4094, ends2, 40, _,
      meets (by decide +kernel), by decide +kernel, by decide +kernel, no_shadow (by decide +kernel) (by decide +kernel),
      lanes _ (by decide +kernel), by decide +kernel, by decide +kernel,
      lanes _ (fun l hl h => ⟨lanes ends2 (P := fun l => ((withRefs (guarded [(254, 0x40000)] []) 4094).reads 3 (.vec l 254)).val.toNat
        % 32 = 0) (by decide +kernel) l h, dspAt, by
          have := lanes ends2 (P := fun l => ((withRefs (guarded [(254, 0x40000)] []) 4094).reads 3 (.vec l 254)).val = 0x40000)
            (by decide +kernel) l h
          show (withRefs (guarded [(254, 0x40000)] []) 4094).locate 3 .dsp
            ((withRefs (guarded [(254, 0x40000)] []) 4094).reads 3 (.vec l 254)).val 32 = .ok dspAt
          rw [this]; rfl⟩),
      by decide +kernel, by decide +kernel, rfl, exists_all (by decide +kernel)⟩,
    { h := g3, d := 255, a := 254, imm := 5 }, eachLane (guarded [(254, 0x40000)] []) (fun l L => { L with
      preds := if l = 31 then 8 else 0 }), 0x80000000, 40, 31, 0, 0,
    meets (by decide +kernel), by decide +kernel, by decide +kernel, no_shadow (by decide +kernel) (by decide +kernel),
    lanes _ (by decide +kernel), by decide +kernel, by decide +kernel,
    lanes _ (fun l hl h => ⟨lanes 0x80000000 (P := fun l => ((eachLane (guarded [(254, 0x40000)] []) (fun l L => { L with
        preds := if l = 31 then 8 else 0 })).reads 3 (.vec l 254)).val.toNat % 32 = 0) (by decide +kernel) l h, dspAt, by
          have := lanes 0x80000000 (P := fun l => ((eachLane (guarded [(254, 0x40000)] []) (fun l L => { L with
            preds := if l = 31 then 8 else 0 })).reads 3 (.vec l 254)).val = 0x40000) (by decide +kernel) l h
          show (eachLane (guarded [(254, 0x40000)] []) (fun l L => { L with preds := if l = 31 then 8 else 0 })).locate 3 .dsp
            ((eachLane (guarded [(254, 0x40000)] []) (fun l L => { L with preds := if l = 31 then 8 else 0 })).reads 3
              (.vec l 254)).val 32 = .ok dspAt
          rw [this]; rfl⟩),
    by decide +kernel, by decide +kernel, by decide +kernel, by decide +kernel, by decide +kernel⟩

/-- Future 5 in a state, with a count and a value, held by handle 0x501. -/
def future (s : State) (st : FutState) (n : Nat) : State :=
  { s with futs := [(5, { st := st, count := n, value := 0x123456789ABCDEF0 })] }

theorem futActs {s : State} {t : Tri} {ws : List (Nat × Nat)} {m : BitVec 32}
    (c : (actsB s t.h ⟨futReads t, ws, false⟩ m && decide (t.h.live = none) && decide (m ≠ 0)) = true)
    (d : ∀ l, l < 32 → m.getLsbD l = true → (if t.sub.getLsbD 0 then s.reads s.w (.uni t.a.toNat)
      else s.reads s.w (.vec l t.a.toNat)).bad = false ∧ (s.wp.lane l).shadow = false) : FutActs s t ws m := by
  simp only [Bool.and_eq_true, decide_eq_true_eq] at c
  exact ⟨acts_of c.1.1, .inl c.1.2, c.2, lanes _ (fun l h g => (d l h g).1), lanes _ (fun l h g => (d l h g).2)⟩

theorem count_le {s : State} (h : ∀ x ∈ s.futs, x.2.count + 32 ≤ 1048575) (f : Nat) : (s.fut f).count + 32 ≤ 1048575 := by
  unfold State.fut tgetD
  generalize s.futs = t at h
  induction t with
  | nil => simp [tget]
  | cons x t ih =>
    simp only [List.mem_cons, forall_eq_or_imp] at h
    by_cases e : x.1 = f
    · simp [tget, e, h.1]
    · simpa [tget, e] using ih h.2

/-- Lanes 0 and 31 hold a reference to future 5, lane 31 one of the gang's. -/
def holding (n : Nat) : State :=
  (future (guarded [(255, 0x501)] [(63, 0x501)]) .run n).updWarp 3 (fun W => { W with refs := [(5, false, 1), (5, true, 0x80000000)] })

theorem witness_FutureWords :
    (∃ (t : Tri) (s : State) (m : BitVec 32), Instr.wf (.fref t) = true ∧ FutActs s t [] m ∧
      s.wp.refs.length + ((lanesOf m).filter (fun l => liveFor s (handleOf s t l))).length ≤ 4096 ∧
      ∀ f, (s.fut f).count + 32 ≤ 1048575) ∧
    (∃ (t : Tri) (s : State) (m : BitVec 32) (own : Nat → Nat × Bool × BitVec 32), Instr.wf (.fdrop t) = true ∧
      FutActs s t [] m ∧ ∀ l, m.getLsbD l = true → s.current (handleOf s t l) = true ∧
        refFind s.wp.refs (futNo (handleOf s t l)) l = some (own l)) ∧
    (∃ (t : Tri) (s : State) (m : BitVec 32) (own : Nat → Nat × Bool × BitVec 32) (l : Nat), Instr.wf (.fdrop t) = true ∧
      FutActs s t [] m ∧ (∀ l, m.getLsbD l = true → s.current (handleOf s t l) = true ∧
        refFind s.wp.refs (futNo (handleOf s t l)) l = some (own l)) ∧ lanesOf m = [l] ∧ (s.fut (own l).1).count = 2) ∧
    (∃ (t : Tri) (s : State) (m : BitVec 32), Instr.wf (.fpoll t) = true ∧ FutActs s t [] m) ∧
    ∃ (t : Tri) (s : State) (m : BitVec 32), Meets (.rpoint t) t.h {} s m ∧ Wanted s m :=
  ⟨⟨{ h := g3, d := 15, a := 255 }, future (guarded [(255, 0x501)] []) .done 1048543, ends2, by decide,
      futActs (by decide +kernel) (by decide +kernel), by decide +kernel, count_le (by decide +kernel)⟩,
    ⟨{ h := g3, a := 63, sub := 1 }, holding 2, ends2, fun l => if l = 0 then (5, false, 1) else (5, true, 0x80000000), by decide,
      futActs (by decide +kernel) (by decide +kernel), lanes _ (by decide +kernel)⟩,
    ⟨{ h := g3, a := 255 }, eachLane (holding 2) (fun l L => { L with preds := if l = 31 then 8 else 0 }), 0x80000000,
      fun _ => (5, true, 0x80000000), 31, by decide, futActs (by decide +kernel) (by decide +kernel), lanes _ (by decide +kernel),
      by decide +kernel, by decide +kernel⟩,
    ⟨{ h := g3, d := 14, a := 63, sub := 1 }, holding 2, ends2, by decide, futActs (by decide +kernel) (by decide +kernel)⟩,
    {}, ready [] [], all32, meets (by decide +kernel), lanes _ (by decide +kernel)⟩

/-- Lane 31 is parked at an `fget` of future 5. -/
def getting (st : FutState) : State := owing (future (eachLane (ready [] []) (fun l L => if l = 31 then
  { L with park := .fget 0x501 254 15 7, next := 8 } else L)) st 1) [] (owedTo [.vec 31 254, .vec 31 255])

theorem witness_FutureGets :
    (∃ (t : Tri) (s : State) (m : BitVec 32), Instr.wf (.fget t) = true ∧ FutActs s t [(t.d.toNat, 2)] m ∧ Wanted s m) ∧
    (∃ (w l d p op : Nat) (h : Word) (s : State), ((s.warp w).lane l).park = .fget h d p op ∧ NoNotice s w ∧ s.futPeek h = none) ∧
    ∃ (w l d p op : Nat) (h : Word) (s : State), ((s.warp w).lane l).park = .fget h d p op ∧ NoNotice s w ∧ (s.futPeek h).isSome :=
  ⟨⟨{ h := g3, d := 254, a := 255, c := 15 }, holding 2, ends2, by decide, futActs (by decide +kernel) (by decide +kernel),
      lanes _ (by decide +kernel)⟩,
    ⟨3, 31, 254, 15, 7, 0x501, getting .run, by decide +kernel, noNotice (by decide +kernel), by decide +kernel⟩,
    3, 31, 254, 15, 7, 0x501, getting .done, by decide +kernel, noNotice (by decide +kernel), by decide +kernel⟩

/-- Lane 31 runs the task of future 5 and is parked at a join. -/
def inTask (st : FutState) : State := future (eachLane (ready [] []) (fun l L => if l = 31 then
  { L with park := .join 0 7, next := 8, task := some 5 } else L)) st 0

/-- A bin with the task of future 5. -/
def aBin : Bin := ⟨1, 40, [⟨5, 0x40000, []⟩], 0, 0, 0, 0, 2, none⟩

/-- Future 5 is a task in the last bin of core 0. -/
def inBin (st : FutState) : State := (future (ready [] []) st 0).updCore 0 (fun c => { c with bins := [(15, aBin)] })

theorem witness_TaskEvents :
    (∃ (w f l : Nat) (v : DWord) (s : State), (s.warp w).ending.find? (fun x => x.1 == f) = some (f, l, v) ∧
      s.writing w l = true) ∧
    (∃ (w f l : Nat) (v : DWord) (s : State), (s.warp w).ending.find? (fun x => x.1 == f) = some (f, l, v) ∧
      s.writing w l = false ∧ (s.fut f).st = .run) ∧
    (∃ (f c b : Nat) (x : Bin) (s : State), s.noticed f = true ∧ (s.fut f).kind = .task ∧ s.taskLane f = none ∧
      (∀ x ∈ s.warps, ∀ e ∈ x.2.ending, e.1 ≠ f) ∧ s.taskBin f = some (c, b) ∧ tget (s.core c).bins b = some x) ∧
    (∃ (f w l : Nat) (s : State), s.noticed f = true ∧ (s.fut f).kind = .task ∧ s.taskLane f = some (w, l) ∧ l < 32 ∧
      ((s.warp w).lane l).task = some f ∧ ((s.warp w).lane l).park ≠ .no) ∧
    (∃ (core bin : Nat) (b : Bin) (s : State), tget (s.core core).bins bin = some b ∧ b.due.isSome = false ∧
      b.start + b.timer = s.refTick) ∧
    ∃ (w id : Nat) (entry : DWord) (todo : List (Nat × Nat × Word)) (dst : Nat) (done : List (Nat × Word)) (s : State),
      s.reqOf w id = some (.spawn entry todo dst done) ∧ NoNotice s w ∧ ∃ o out, s.spawnTry w id entry todo done = (o, [], out) := by
  refine ⟨⟨3, 5, 0, 7, (owing (future (ready [] []) .run 1) [(9, byteStore)] []).updWarp 3 (fun W => { W with
      ending := [(5, 0, 7)] }), by decide +kernel, by decide +kernel⟩,
    ⟨3, 5, 31, 7, (owing (future (ready [] []) .run 1) [(9, byteStore)] []).updWarp 3 (fun W => { W with
      ending := [(5, 31, 7)] }), by decide +kernel, by decide +kernel, by decide +kernel⟩,
    ⟨5, 0, 15, aBin, inBin .doom, by decide +kernel, by decide +kernel, by decide +kernel, by decide +kernel, by decide +kernel, by decide +kernel⟩,
    ⟨5, 3, 31, inTask .doom, by decide +kernel, by decide +kernel, by decide +kernel, by decide, by decide +kernel,
      by decide +kernel⟩,
    ⟨0, 15, aBin, inBin .run, by decide +kernel, by decide +kernel, by decide +kernel⟩,
    3, 9, 40, [(31, 5, 0x40000)], 255, [], parkedGang (future (ready [] []) .run 1) (.spawn 40 [(31, 5, 0x40000)] 255 []),
    by decide +kernel, noNotice (by decide +kernel), exists_all (by decide +kernel)⟩

/-- The descriptor of a copy in s48 to s55. -/
def withDesc (s : State) (w : List Word) : State :=
  s.updWarp 3 (fun W => { W with s := (w.zipIdx.map (fun x => (48 + x.2, (⟨x.1, false⟩ : Machine.Cell)))).filter (fun x => x.2.val != 0) })

/-- Eight bytes from the end of the code page to `.dsp`. -/
def copyIn : State := withDesc (pairGang [] []) [0x1FFFF8, 0, 0, 0x40000, 8, 0, 0, 0]

/-- Lanes 0 and 31 gather 8 bytes each. -/
def gatherIn : State := withDesc (pairGang [(254, 0x1FFFF8)] []) [0, 0, 0, 0x40000, 0, 0, 0, 0x30000]

/-- Queue 0 of core 0 is full. -/
def fullQueue (s : State) : State :=
  { s with copies := (List.range 32).map (fun k => (100 + k, { memAdd with seq := 100 + k })) }

/-- The premises of a copy word but those on its gang and its registers. -/
def copyB (s : State) (t : Tri) (form : Nat) (m : BitVec 32) : Bool :=
  let d := descOf s t form m
  !s.badDesc t d && !s.badFill d && (s.sides d).1.isEmpty && d.ctl 23 1 == 0 && (s.overlap (copyOf s d m)).isNone &&
    decide (s.wp.refs.length < 4096) && !s.prot &&
    (List.range 8).all (fun k => !(s.reads s.w (.uni (t.a.toNat + k))).bad) &&
    (List.range 32).all (fun l => !m.getLsbD l || !(s.wp.lane l).shadow)

/-- The premises of a copy word. -/
structure Copies (i : Instr) (t : Tri) (form : Nat) (s : State) (m : BitVec 32) : Prop where
  word : copyForm i = some (t, form)
  meets : Meets i t.h ⟨if lists form then [(t.b.toNat, 2)] else [], [], false⟩ s m
  prot : s.prot = false
  shown : ∀ l, m.getLsbD l = true → (s.wp.lane l).shadow = false
  known : ∀ k, k < 8 → (s.reads s.w (.uni (t.a.toNat + k))).bad = false
  pairs : lists form = true → CleanData s m t.b.toNat 2
  good : s.badDesc t (descOf s t form m) = false ∧ s.badFill (descOf s t form m) = false ∧
    (s.sides (descOf s t form m)).1 = []
  named : (descOf s t form m).ctl 23 1 = 1 → (descOf s t form m).ctl 24 3 = 2 →
    (s.reads s.w (.uni t.c.toNat)).bad = false ∧ s.committing s.w = false ∧
      s.handleOk s.w (s.reads s.w (.uni t.c.toNat)).val = true
  apart : s.overlap (copyOf s (descOf s t form m) m) = none
  refs : s.wp.refs.length < 4096

theorem copies {i : Instr} {t : Tri} {form : Nat} {s : State} {m : BitVec 32} (f : copyForm i = some (t, form))
    (g : Meets i t.h ⟨if lists form then [(t.b.toNat, 2)] else [], [], false⟩ s m) (c : copyB s t form m = true)
    (p : lists form = true → CleanData s m t.b.toNat 2) : Copies i t form s m := by
  simp only [copyB, Bool.and_eq_true, Bool.not_eq_true', decide_eq_true_eq, List.all_eq_true, List.mem_range,
    List.isEmpty_iff, beq_iff_eq, Option.isNone_iff_eq_none, Bool.or_eq_true] at c
  obtain ⟨⟨⟨⟨⟨⟨⟨⟨c1, c2⟩, c3⟩, c4⟩, c5⟩, c6⟩, c7⟩, c8⟩, c9⟩ := c
  exact ⟨f, g, c7, lanes _ (fun l h k => (c9 l h).resolve_left (by simp [k])), c8, p, ⟨c1, c2, c3⟩,
    fun h => (by rw [c4] at h; cases h), c5, c6⟩

theorem witness_CopyWords :
    (∃ (i : Instr) (t : Tri) (form f : Nat) (s : State) (m : BitVec 32), Copies i t form s m ∧
      s.queueUsed s.wp.core (copyOf s (descOf s t form m) m).queue < 32 ∧ s.futFind (dieOf s.wp.core) = some f ∧ form = 0) ∧
    (∃ (i : Instr) (t : Tri) (form f : Nat) (s : State) (m : BitVec 32), Copies i t form s m ∧
      s.queueUsed s.wp.core (copyOf s (descOf s t form m) m).queue < 32 ∧ s.futFind (dieOf s.wp.core) = some f ∧ form = 3) ∧
    ∃ (i : Instr) (t : Tri) (form : Nat) (s : State) (m : BitVec 32), Copies i t form s m ∧
      32 ≤ s.queueUsed s.wp.core (copyOf s (descOf s t form m) m).queue :=
  ⟨⟨.xferIn { d := 63, a := 48 }, _, _, 0, copyIn, ends2,
      copies rfl (meets (by decide +kernel)) (by decide +kernel) (fun h => by cases h), by decide +kernel, by decide +kernel, rfl⟩,
    ⟨.xferGat { d := 63, a := 48, b := 254, sub := 3 }, _, _, 0, gatherIn, ends2,
      copies rfl (meets (by decide +kernel)) (by decide +kernel) (fun _ => lanes _ (by decide +kernel)), by decide +kernel,
      by decide +kernel, rfl⟩,
    .xferIn { d := 63, a := 48 }, _, _, fullQueue copyIn, ends2,
    copies rfl (meets (by decide +kernel)) (by decide +kernel) (fun h => by cases h), by decide +kernel⟩

/-- A channel of 32 granules with its record at `.dsp` address 0x40000 and its counters. -/
def channel (s : State) (ns : List Nat) : State :=
  s.write dspAt (leBytes 4 0x80000 ++ leBytes 4 5 ++ leBytes 4 0x90000 ++ ns.flatMap (leBytes 4)) false

/-- Handle 3 of the warp is bound to it, with 32 in s62 and 0xFFFFFFF0, a first granule, in s63. -/
def bound (ns : List Nat) (cs ts : List Claim) : State :=
  { (channel (pairGang [] [(62, 32), (63, 0xFFFFFFF0)]) ns).updWarp 3 (fun W => { W with c := [(3, 0x40000)] }) with
    chans := [(0x40000, { bound := 1, claims := cs, takes := ts })] }

/-- The premises that all channel words share. -/
def ChanActs (t : Tri) (s : State) (m : BitVec 32) (v : Word) : Prop :=
  s.Acts t.h {} m ∧ s.Unheld t.h ∧ s.reads s.w (.uni t.a.toNat) = ⟨v, false⟩

theorem witness_ChannelWords :
    (∃ (t : Tri) (s : State) (m : BitVec 32) (c : Nat) (v : Word) (i : Instr), ChanActs t s m v ∧
      (i = .chClaimBind t ∨ i = .chAwaitBind t) ∧ i.wf = true ∧ c = dieOf s.wp.core * 2 ^ 27 + v.toNat ∧
      tget s.wp.c t.c.toNat = none ∧ v.toNat % 64 = 0 ∧ s.offLimits (dieOf s.wp.core) v.toNat 64 = false ∧
      s.chanOk c = true ∧ s.boundCount (dieOf s.wp.core) < 4096) ∧
    (∃ (t : Tri) (s : State) (m : BitVec 32) (c : Nat) (v : Word), ChanActs t s m v ∧ tget s.wp.c t.c.toNat = some c ∧
      Instr.wf (.chClaim t) = true ∧ Wanted s m ∧ v ≠ 0 ∧ v.toNat = s.chanSize c ∧
      s.firstParked (s.chan c).claimers = none ∧ chanDie c < 4 ∧ s.canClaim c v.toNat = true) ∧
    (∃ (t : Tri) (s : State) (m : BitVec 32) (c : Nat) (v : Word), ChanActs t s m v ∧ tget s.wp.c t.c.toNat = some c ∧
      Instr.wf (.chClaim t) = true ∧ Wanted s m ∧ v ≠ 0 ∧ v.toNat ≤ s.chanSize c ∧
      s.firstParked (s.chan c).claimers = none ∧ chanDie c < 4 ∧ s.canClaim c v.toNat = false) ∧
    (∃ (t : Tri) (s : State) (m : BitVec 32) (c : Nat) (v : Word), ChanActs t s m v ∧ tget s.wp.c t.c.toNat = some c ∧
      Instr.wf (.chAwait t) = true ∧ Wanted s m ∧ v ≠ 0 ∧ v.toNat = s.chanSize c ∧
      s.firstParked (s.chan c).takers = none ∧ chanDie c < 4 ∧ s.canAwait c v.toNat = true) ∧
    (∃ (t : Tri) (s : State) (m : BitVec 32) (c : Nat) (v : Word) (x : Claim), ChanActs t s m v ∧
      tget s.wp.c t.c.toNat = some c ∧ Instr.wf (.chCommit t) = true ∧
      ownedClaim (s.chan c).claims v (s.threads (lanesOf m)) = some x) ∧
    ∃ (t : Tri) (s : State) (m : BitVec 32) (c : Nat) (v : Word) (x : Claim), ChanActs t s m v ∧
      tget s.wp.c t.c.toNat = some c ∧ Instr.wf (.chRetire t) = true ∧
      ownedClaim (s.chan c).takes v (s.threads (lanesOf m)) = some x :=
  ⟨⟨{ a := 63, c := 3, sub := 1 }, channel (pairGang [] [(63, 0x40000)]) [], ends2, 0x40000, 0x40000, _,
      ⟨acts_of (by decide +kernel), .inl rfl, by decide +kernel⟩, .inl rfl, by decide, by decide +kernel, by decide +kernel, by decide,
      by decide +kernel, by decide +kernel, by decide +kernel⟩,
    ⟨{ d := 61, a := 62, c := 3 }, bound [16, 16, 16, 16] [] [], ends2, 0x40000, 32, ⟨acts_of (by decide +kernel), .inl rfl,
      by decide +kernel⟩, by decide +kernel, by decide, lanes _ (by decide +kernel), by decide, by decide +kernel, by decide +kernel,
      by decide, by decide +kernel⟩,
    ⟨{ d := 61, a := 62, c := 3 }, bound [17, 16, 16, 16] [] [], ends2, 0x40000, 32, ⟨acts_of (by decide +kernel), .inl rfl,
      by decide +kernel⟩, by decide +kernel, by decide, lanes _ (by decide +kernel), by decide, by decide +kernel, by decide +kernel,
      by decide, by decide +kernel⟩,
    ⟨{ d := 60, a := 62, c := 3 }, bound [48, 48, 16, 16] [] [], ends2, 0x40000, 32, ⟨acts_of (by decide +kernel), .inl rfl,
      by decide +kernel⟩, by decide +kernel, by decide, lanes _ (by decide +kernel), by decide, by decide +kernel, by decide +kernel,
      by decide, by decide +kernel⟩,
    ⟨{ a := 63, c := 3 }, bound [16, 0xFFFFFFF0, 0xFFFFFFF0, 0xFFFFFFF0] [⟨0xFFFFFFF0, 32, [96, 127]⟩] [], ends2, 0x40000, 0xFFFFFFF0,
      _, ⟨acts_of (by decide +kernel), .inl rfl, by decide +kernel⟩, by decide +kernel, by decide,
      by rw [show State.chan _ _ = (⟨1, [⟨0xFFFFFFF0, 32, [96, 127]⟩], [], [], [], [], []⟩ : Chan) from by decide +kernel]; rfl⟩,
    { a := 63, c := 3 }, bound [16, 16, 16, 0xFFFFFFF0] [] [⟨0xFFFFFFF0, 32, [96, 127]⟩], ends2, 0x40000, 0xFFFFFFF0,
    ⟨0xFFFFFFF0, 32, [96, 127]⟩, ⟨acts_of (by decide +kernel), .inl rfl, by decide +kernel⟩, by decide +kernel, by decide,
    by decide +kernel⟩

/-- The gang of the warp is parked at a claim or an await of 32 granules of the channel. -/
def atChannel (ns : List Nat) (r : Req) : State :=
  parkedGang (owing { bound ns [] [] with chans := [(0x40000, { bound := 1, claimers := [(3, 9)], takers := [(3, 9)] })] } []
    (owedTo [.uni 60, .uni 61])) r

theorem witness_ParkedEngineWords :
    (∃ (w id f dst : Nat) (c : Copy) (s : State), s.reqOf w id = some (.copyRoom c dst) ∧ c.warp = w ∧ NoNotice s w ∧ s.copyReady c = true ∧
      c.atoms = [] ∧ s.futFind (dieOf c.core) = some f) ∧
    (∃ (w id dst : Nat) (c : Copy) (s : State), s.reqOf w id = some (.copyRoom c dst) ∧ c.warp = w ∧ NoNotice s w ∧ s.copyReady c = false) ∧
    (∃ (w id c k dst op : Nat) (s : State), chanDie c < 4 ∧ s.reqOf w id = some (.chClaim c k dst op) ∧
      s.firstParked (s.chan c).claimers = some (w, id) ∧ (∀ g ∈ (s.chan c).claimers, NoNotice s g.1) ∧
      s.canClaim c k = true) ∧
    (∃ (w id c k dst op : Nat) (s : State), chanDie c < 4 ∧ s.reqOf w id = some (.chClaim c k dst op) ∧
      s.firstParked (s.chan c).claimers = some (w, id) ∧ (∀ g ∈ (s.chan c).claimers, NoNotice s g.1) ∧
      s.canClaim c k = false) ∧
    ∃ (w id c k dst op : Nat) (s : State), chanDie c < 4 ∧ s.reqOf w id = some (.chAwait c k dst op) ∧
      s.firstParked (s.chan c).takers = some (w, id) ∧ (∀ g ∈ (s.chan c).takers, NoNotice s g.1) ∧
      s.canAwait c k = true :=
  ⟨⟨3, 9, 0, 63, { memAdd with atoms := [] }, parkedGang (ready [] []) (.copyRoom { memAdd with atoms := [] } 63),
      by decide +kernel, rfl, noNotice (by decide +kernel), by decide +kernel, rfl, by decide +kernel⟩,
    ⟨3, 9, 63, { memAdd with atoms := [] }, fullQueue (parkedGang (ready [] []) (.copyRoom { memAdd with atoms := [] } 63)),
      by decide +kernel, rfl, noNotice (by decide +kernel), by decide +kernel⟩,
    ⟨3, 9, 0x40000, 32, 60, 7, atChannel [0, 0, 0, 0] (.chClaim 0x40000 32 60 7), by decide, by decide +kernel, by decide +kernel,
      (fun g hg => by
        have : g ∈ [((3 : Nat), (9 : Nat))] := hg
        rw [List.mem_singleton.mp this]; exact noNotice (by decide +kernel)), by decide +kernel⟩,
    ⟨3, 9, 0x40000, 32, 60, 7, atChannel [1, 0, 0, 0] (.chClaim 0x40000 32 60 7), by decide, by decide +kernel, by decide +kernel,
      (fun g hg => by
        have : g ∈ [((3 : Nat), (9 : Nat))] := hg
        rw [List.mem_singleton.mp this]; exact noNotice (by decide +kernel)), by decide +kernel⟩,
    3, 9, 0x40000, 32, 60, 7, atChannel [32, 32, 0, 0] (.chAwait 0x40000 32 60 7), by decide, by decide +kernel, by decide +kernel,
    (fun g hg => by
        have : g ∈ [((3 : Nat), (9 : Nat))] := hg
        rw [List.mem_singleton.mp this]; exact noNotice (by decide +kernel)), by decide +kernel⟩

/-- The block has 8 tiles, one of them bound as INT to handle 7; tile handle 7 names reservation 20 of format I8 and K 128, and
B slot 63 is loaded. -/
def matrix (vs ss : List (Nat × Word)) : State :=
  { (((ready vs ss).updWarp 3 (fun W => { W with t := [(7, 20)], a := [(7, ⟨5, 1⟩)] })).updBlock 2 (fun B => { B with
      tiles := List.range 8 })).updCore 0 (fun c => { c with slots := [(191, ⟨8, false, false, 128⟩)] }) with
    resvs := [(20, { block := 2, fmt := 8, mx := false, slay := 0, ord := false, soff := 0, len := 31, base := 0 })] }

/-- The reservation of such a warp. -/
def aResv : Resv := { block := 2, fmt := 8, mx := false, slay := 0, ord := false, soff := 0, len := 31, base := 0 }

theorem matrixActs {s : State} {h : Hdr} {u : Uses}
    (c : (actsB s h u (BitVec.allOnes 32) && decide (s.cur.lanes = BitVec.allOnes 32) && decide (h.live = none)) = true) :
    MatrixActs s h u := by
  simp only [Bool.and_eq_true, decide_eq_true_eq] at c
  exact ⟨acts_of c.1.1, c.1.2, .inl c.2⟩

theorem witness_MatrixReserve :
    (∃ (t : Tri) (s : State) (b o : Nat), Instr.wf (.obres t) = true ∧ MatrixActs s t.h {} ∧ Wanted s (BitVec.allOnes 32) ∧
      b ≠ 0 ∧ s.reads s.w (.uni t.a.toNat) = ⟨BitVec.ofNat 32 b, false⟩ ∧
      s.reads s.w (.uni t.b.toNat) = ⟨BitVec.ofNat 32 o, false⟩ ∧ tget s.wp.t t.d.toNat = none ∧
      b % 256 = 0 ∧ b ≤ 524288 ∧
      (if t.sub.getLsbD 4 then o % 16 = 0 ∧ o < b ∧ o * 8 / elemBits (t.sub.toNat % 16) % 64 = 0 ∧
          o * 8 / elemBits (t.sub.toNat % 16) / 32 ≤ b - o
        else o = 0 ∧ b * 8 / elemBits (t.sub.toNat % 16) % 64 = 0) ∧
      lowestFit (s.obHeld s.wp.core) 2048 (b / 256) = some 32 ∧ t.sub.getLsbD 4 = true) ∧
    ∃ (t : Tri) (s : State) (b o : Nat), Instr.wf (.obres t) = true ∧ MatrixActs s t.h {} ∧ Wanted s (BitVec.allOnes 32) ∧
      b ≠ 0 ∧ s.reads s.w (.uni t.a.toNat) = ⟨BitVec.ofNat 32 b, false⟩ ∧
      s.reads s.w (.uni t.b.toNat) = ⟨BitVec.ofNat 32 o, false⟩ ∧ tget s.wp.t t.d.toNat = none ∧
      b % 256 = 0 ∧ b = 524288 ∧
      (if t.sub.getLsbD 4 then o % 16 = 0 ∧ o < b ∧ o * 8 / elemBits (t.sub.toNat % 16) % 64 = 0 ∧
          o * 8 / elemBits (t.sub.toNat % 16) / 32 ≤ b - o
        else o = 0 ∧ b * 8 / elemBits (t.sub.toNat % 16) % 64 = 0) ∧
      lowestFit (s.obHeld s.wp.core) 2048 (b / 256) = none :=
  ⟨⟨{ d := 6, a := 62, b := 63, sub := 0x14 }, matrix [] [(62, 256), (63, 192)], 256, 192, by decide,
      matrixActs (by decide +kernel), lanes _ (by decide +kernel), by decide, by decide +kernel, by decide +kernel,
      by decide +kernel, by decide, by decide, by decide, by decide +kernel, by decide⟩,
    { d := 6, a := 62, b := 63, sub := 0x08 }, matrix [] [(62, 524288)], 524288, 0, by decide,
    matrixActs (by decide +kernel), lanes _ (by decide +kernel), by decide, by decide +kernel, by decide +kernel,
    by decide +kernel, by decide, by decide, by decide, by decide +kernel⟩

theorem witness_MatrixWords :
    (∃ (t : Tri) (s : State) (r : Nat) (x : Resv), s.prot = false ∧ MatrixRoom s ∧ Instr.wf (.obrel t) = true ∧
      MatrixActs s t.h {} ∧ s.resvOf t.a.toNat = some (r, x)) ∧
    (∃ (t : Tri) (s : State) (r : Nat) (x : Resv), s.prot = false ∧ MatrixRoom s ∧ Instr.wf (.bload t) = true ∧
      MatrixActs s t.h {} ∧ s.resvOf t.a.toNat = some (r, x) ∧ (x.mx && x.ord) = false ∧
      t.b.toNat % groupSlots x.fmt = 0 ∧ t.b.toNat + x.slotCount = 64) ∧
    (∃ (t : Tri) (s : State), s.prot = false ∧ MatrixRoom s ∧ Instr.wf (.bfree t) = true ∧ MatrixActs s t.h {} ∧
      t.b.toNat + t.c.toNat = 64 ∧ ∀ i, i < t.c.toNat → (s.slotView s.wp.block s.wp.core (t.b.toNat + i)).isSome) ∧
    (∃ (t : Tri) (s : State), s.prot = false ∧ MatrixRoom s ∧ Instr.wf (.accz t) = true ∧ MatrixActs s t.h {} ∧
      s.tileOk t.b.toNat (t.sub.toNat % 4) = true) ∧
    (∃ (t : Tri) (s : State) (tile tag : Nat), s.prot = false ∧ MatrixRoom s ∧ Instr.wf (.accrd t) = true ∧
      MatrixActs s t.h ⟨[], [(t.d.toNat, accRegs t.ty)], false⟩ ∧
      s.wp.accTile t.a.toNat (fun _ => true) = some (tile, tag) ∧
      s.reads s.w (.uni t.b.toNat) = ⟨BitVec.ofNat 32 63, false⟩ ∧ (accRead tag t.ty 0 false 0).isSome) ∧
    (∃ (t : Tri) (s : State) (tile tag : Nat), s.prot = false ∧ MatrixRoom s ∧ Instr.wf (.accwr t) = true ∧
      MatrixActs s t.h ⟨[(t.a.toNat, accRegs t.ty)], [], false⟩ ∧
      CleanData s (BitVec.allOnes 32) t.a.toNat (accRegs t.ty) ∧ (∀ l, (s.wp.lane l).shadow = false) ∧
      s.wp.accTile t.d.toNat (fun _ => true) = some (tile, tag) ∧
      s.reads s.w (.uni t.b.toNat) = ⟨BitVec.ofNat 32 63, false⟩ ∧ (accWrite tag t.ty 0 0).isSome) ∧
    (∃ (t : Tri) (s : State) (tile tag key : Nat) (ea : Word), s.prot = false ∧ MatrixRoom s ∧ Instr.wf (.accst t) = true ∧
      MatrixActs s t.h {} ∧ s.wp.accTile t.a.toNat (fun _ => true) = some (tile, tag) ∧
      s.reads s.w (.uni t.b.toNat) = ⟨ea, false⟩ ∧
      s.checkAccess s.w (spaceOf (t.sub.toNat % 4)) ea (accBytes tag) 64 true = .ok key) ∧
    (∃ (t : Tri) (s : State) (key : Nat) (ea : Word), s.prot = false ∧ MatrixRoom s ∧ Instr.wf (.accld t) = true ∧
      MatrixActs s t.h {} ∧ s.tileOk t.c.toNat (t.sub.toNat / 4 % 4) = true ∧ s.reads s.w (.uni t.b.toNat) = ⟨ea, false⟩ ∧
      s.checkAccess s.w (spaceOf (t.sub.toNat % 4)) ea (accBytes (t.sub.toNat / 4 % 4)) 64 false = .ok key) ∧
    ∃ (t : Tri) (s : State), s.prot = false ∧ MatrixRoom s ∧ Instr.wf (.accz t) = true ∧ s.Acts t.h {} s.cur.lanes ∧
      s.cur.lanes ≠ BitVec.allOnes 32 ∧ s.wp.cur = false := by
  exact ⟨⟨{ a := 7 }, matrix [] [], 20, aResv, by decide +kernel, by unfold MatrixRoom; decide +kernel, by decide,
      matrixActs (by decide +kernel), by decide +kernel⟩,
    ⟨{ a := 7, b := 63 }, matrix [] [], 20, aResv, by decide +kernel, by unfold MatrixRoom; decide +kernel, by decide,
      matrixActs (by decide +kernel), by decide +kernel, rfl, by decide, by decide +kernel⟩,
    ⟨{ b := 63, c := 1 }, matrix [] [], by decide +kernel, by unfold MatrixRoom; decide +kernel, by decide,
      matrixActs (by decide +kernel), by decide, by decide +kernel⟩,
    ⟨{ d := 7, b := 7, sub := 1 }, matrix [] [], by decide +kernel, by unfold MatrixRoom; decide +kernel, by decide,
      matrixActs (by decide +kernel), by decide +kernel⟩,
    ⟨{ d := 252, a := 7, b := 63, ty := 2 }, matrix [] [(63, 63)], 5, 1, by decide +kernel,
      by unfold MatrixRoom; decide +kernel, by decide, matrixActs (by decide +kernel), by decide +kernel, by decide +kernel,
      by decide +kernel⟩,
    ⟨{ d := 7, a := 254, b := 63, ty := 0 }, matrix [(254, 0x80000000)] [(63, 63)], 5, 1, by decide +kernel,
      by unfold MatrixRoom; decide +kernel, by decide, matrixActs (by decide +kernel), lanes _ (by decide +kernel),
      no_shadow (by decide +kernel) (by decide +kernel), by decide +kernel, by decide +kernel, by decide +kernel⟩,
    ⟨{ a := 7, b := 63 }, matrix [] [(63, 0x40000)], 5, 1, dspAt, 0x40000, by decide +kernel,
      by unfold MatrixRoom; decide +kernel, by decide, matrixActs (by decide +kernel), by decide +kernel, by decide +kernel, by decide +kernel⟩,
    ⟨{ d := 7, b := 63, c := 7, sub := 4 }, matrix [] [(63, 0x40000)], dspAt, 0x40000, by decide +kernel,
      by unfold MatrixRoom; decide +kernel, by decide, matrixActs (by decide +kernel), by decide +kernel, by decide +kernel, by decide +kernel⟩,
    { d := 7, b := 7, sub := 1 }, { matrix [] [] with cur := ⟨3, 0x7FFFFFFF, 0⟩ }, by decide +kernel,
    by unfold MatrixRoom; decide +kernel, by decide, acts_of (by decide +kernel), by decide +kernel, by decide +kernel⟩

/-- The fields of a multiplication that such a warp can issue, with the descriptor of an `mma.m` in s48 to s55. -/
def mmaWord : Tri := { d := 63, a := 231, b := 63, c := 3, sub := 8 }
@[inherit_doc mmaWord] def mmaStream : Tri := { d := 63, a := 231, b := 63, c := 48, sub := 8 }

theorem witness_MatrixMultiplies :
    (∃ (t : Tri) (s : State) (f k id tile : Nat) (r : Resv) (gs : List BSlot), MatrixActs s t.h {} ∧ MatrixRoom s ∧
      s.futFind (dieOf s.wp.core) = some f ∧ s.wp.refs.length < 4096 ∧ s.mmaParts t k = some (id, r, tile, gs) ∧
      Instr.wf (.mma t) = true ∧
      k = (t.c.toNat + t.sub.toNat / 16 % 2 * 256 + 1) * chunkK (t.sub.toNat % 16) ∧ k = r.kOf) ∧
    ∃ (t : Tri) (s : State) (f k id tile : Nat) (r : Resv) (gs : List BSlot) (w : Nat → Word), MatrixActs s t.h {} ∧
      MatrixRoom s ∧ s.futFind (dieOf s.wp.core) = some f ∧ s.wp.refs.length < 4096 ∧
      s.mmaParts t k = some (id, r, tile, gs) ∧ Instr.wf (.mmaM t) = true ∧
      (∀ i, i < 8 → s.reads s.w (.uni (t.c.toNat + i)) = ⟨w i, false⟩) ∧
      k = ((w 6).toNat % 512 + 1) * chunkK (t.sub.toNat % 16) ∧ r.ord = false ∧ r.slay ≠ 1 ∧ (w 6).toNat < 512 ∧
      w 7 = 0 ∧ 64 * passK r.fmt * elemBits r.fmt / 8 ≤ r.region ∧ r.fmt = t.sub.toNat % 16 ∧
      (if r.mx then 2 * passK r.fmt ≤ (r.len + 1) * 256 - r.soff * 16 ∧ (w 5).toNat % 8 = 0 ∧ (w 3).toNat % 8 = 0 ∧
          (w 3).toNat + (w 4).toNat * 2 ^ 32 + 63 * (w 5).toNat + k / 32 ≤ 2 ^ 57
        else w 3 = 0 ∧ w 4 = 0 ∧ w 5 = 0) ∧
      (w 0).toNat % 8 = 0 ∧ (w 2).toNat % 8 = 0 ∧ k * elemBits (t.sub.toNat % 16) / 8 % 8 = 0 ∧
      (w 0).toNat + (w 1).toNat * 2 ^ 32 + 63 * (w 2).toNat + k * elemBits (t.sub.toNat % 16) / 8 = 2 ^ 57 :=
  ⟨⟨mmaWord, matrix [] [], 0, 128, 20, 5, aResv, [⟨8, false, false, 128⟩], matrixActs (by decide +kernel),
      by unfold MatrixRoom; decide +kernel, by decide +kernel, by decide +kernel, by decide +kernel, by decide, by decide,
      by decide +kernel⟩,
    mmaStream, withDesc (matrix [] []) [0xFFFFFF80, 0x1FFFFFF, 0, 0, 0, 0, 3, 0], 0, 128, 20, 5, aResv, [⟨8, false, false, 128⟩],
    fun i => [0xFFFFFF80, 0x1FFFFFF, 0, 0, 0, 0, 3, 0].getD i 0, matrixActs (by decide +kernel),
    by unfold MatrixRoom; decide +kernel, by decide +kernel, by decide +kernel, by decide +kernel, by decide, by decide +kernel,
    by decide, rfl, by decide, by decide, by decide, by decide +kernel, by decide, by decide, by decide, by decide, by decide,
    by decide⟩

/-- Interface 0 has a completion queue of 16 entries in its HBM, and its messages are on. -/
def withCq (s : State) : State := s.updVi 0 (fun V => { V with cq := { base := 0x100004, head := 0, tail := 15 }, msixOn := true })

/-- A notification waits, with a store or a load before it. -/
def notifying (k : AccessKind) : State :=
  (withCq (owing (ready [] []) [(9, { byteStore with kind := k })] [])).updWarp 3 (fun W => { W with notes := [(20, 63, 5)] })

theorem witness_SystemWords :
    (∃ (t : Tri) (s : State) (m : BitVec 32), Meets (.sysrd t) t.h ⟨[], sysUses t t.d, false⟩ s m ∧
      (t.b.toNat ≤ 8 ∨ s.wp.cur = true) ∧ t.b = 5) ∧
    (∃ (t : Tri) (s : State) (m : BitVec 32), Meets (.sysrd t) t.h ⟨[], sysUses t t.d, false⟩ s m ∧
      (t.b.toNat ≤ 8 ∨ s.wp.cur = true) ∧ t.b = 0x1F) ∧
    (∃ (t : Tri) (s : State) (m : BitVec 32), Meets (.syswr t) t.h ⟨sysUses t t.a, [], false⟩ s m ∧
      (t.b = 5 ∨ s.wp.cur = true) ∧ (∀ l, m.getLsbD l = true → (sysSrc s t l).2 = false) ∧
      (tget s.blocks s.wp.block).isSome ∧ t.b = 0x17) ∧
    (∃ (t : Tri) (s : State) (m : BitVec 32), Instr.wf (.notify t) = true ∧ s.Acts t.h {} m ∧ s.wp.cur = true) ∧
    (∃ (t : Tri) (s : State) (m : BitVec 32), Instr.wf (.haltSave t) = true ∧ s.Acts t.h {} m ∧ s.wp.cur = true ∧
      s.requested s.wp.core = true) ∧
    (∃ w seq vec v rest, ∃ s : State, (s.warp w).notes = (seq, vec, v) :: rest ∧
      ∃ x ∈ (s.warp w).accs, (s.warp w).asleep x.2 = false ∧ ∃ d b, x.2.kind = .store d b) ∧
    (∃ w seq vec v rest, ∃ s : State, (s.warp w).notes = (seq, vec, v) :: rest ∧
      (∀ x ∈ (s.warp w).accs, (s.warp w).asleep x.2 = false → match x.2.kind with
        | .store _ _ => False
        | .rmw _ _ _ => False
        | _ => True) ∧
      (∀ x ∈ s.copies, x.2.warp = w → x.2.atoms = []) ∧ (s.warp w).live = true ∧
      (s.vi (s.warp w).vi).cq.used = 2 ^ (s.vi (s.warp w).vi).cq.log2n - 1 ∧
      s.ringOk (s.warp w).vi (s.vi (s.warp w).vi).cq 32 = true ∧ (s.vi (s.warp w).vi).cqWait = [] ∧
      (s.vi (s.warp w).vi).msixOn = true) ∧
    (∃ (t : Tri) (s : State) (m : BitVec 32), Meets (.rng t) t.h (rngUses t 2) s m) ∧
    ∃ (t : Tri) (s : State) (m : BitVec 32), Meets (.rngU01 t) t.h (rngUses t 1) s m :=
  ⟨⟨{ d := 255, b := 5 }, pairGang [] [], ends2, meets (by decide +kernel), by decide, rfl⟩,
    ⟨{ d := 63, b := 0x1F, sub := 1 }, readySys [] [], all32, meets (by decide +kernel), .inr (by decide +kernel), rfl⟩,
    ⟨{ a := 255, b := 0x17 }, readySys [(255, 0x80000000)] [], all32, meets (by decide +kernel), .inr (by decide +kernel),
      lanes _ (by decide +kernel), by decide +kernel, rfl⟩,
    ⟨{ a := 63, sub := 63 }, readySys [] [(63, 5)], all32, by decide, acts_of (by decide +kernel), by decide +kernel⟩,
    ⟨{}, (readySys [] []).updCore 0 (fun c => { c with preq := 0x80000000 }), all32, by decide, acts_of (by decide +kernel),
      by decide +kernel, by decide +kernel⟩,
    ⟨3, 20, 63, 5, [], notifying (.store 0xAB false), by decide +kernel, (9, byteStore), by decide +kernel,
      by decide +kernel, _, _, rfl⟩,
    ⟨3, 20, 63, 5, [], notifying (.load false 5 7), by decide +kernel, by
        rw [show ((notifying (.load false 5 7)).warp 3).accs = [(9, { byteStore with kind := .load false 5 7 })] by decide +kernel]
        simp [byteStore],
      by decide +kernel, by decide +kernel, by decide +kernel, by decide +kernel, by decide +kernel, by decide +kernel⟩,
    ⟨{ h := g3, d := 2, a := 254, b := 62, sub := 0x80 }, guarded [] [], ends2, meets (by decide +kernel)⟩,
    { h := g3, d := 3, a := 254, b := 0, sub := 1 }, guarded [] [], ends2, meets (by decide +kernel)⟩

/-- A save area that ends with the die scratchpad, its address in s63 and a mask in s62. -/
def saving (mask : Word) : State := readySys [] [(62, mask), (63, 0x7C00000)]

theorem areaClear {s : State} {base : Word} (w : s.wp.wib < 32 ∧ dieOf s.wp.core < 4)
    (d : (s.die (dieOf s.wp.core)).spill = []) (c : s.chans = []) : AreaClear s base := by
  refine ⟨w.1, fun i h => ⟨by simp [Die.holdsStack, d], ?_, by simp [State.boundLine, c]⟩⟩
  have hb := base.isLt
  simp only [isVoid, beq_eq_false_iff_ne, dspKey, memKey]
  omega

/-- A copy from the block's shared memory, perhaps in fault. -/
def engine (f : List (Nat × Nat)) : Copy :=
  { core := 0, queue := 0, seq := 20, vi := 0, grid := 1, block := 2, warp := 3, lanes := 1, src := .chip (blkKey 0 0x20000)
    dst := .chip dspAt, total := 8, faults := f }

/-- The block has shared memory, which such a copy reads. -/
def draining (f : List (Nat × Nat)) : State := { withUnits (readySys [] []) with copies := [(20, engine f)] }

theorem ctxPasses {s : State} {t : Tri} {load : Bool} {m : BitVec 32} {base mask : Word}
    (c : (actsB s t.h {} m && s.wp.cur && decide (s.reads s.w (.uni t.a.toNat) = ⟨base, false⟩) &&
      decide ((s.reads s.w (.uni t.b.toNat)).val = mask) && !s.badMask s.w (t.sub.toNat % 16) mask &&
      decide (base.toNat + 2 ^ 22 ≤ 2 ^ 27 ∧ base.toNat % 4096 = 0) &&
      (s.ctxLocked load (t.sub.toNat % 16) base.toNat mask).isNone && !s.areaStores base.toNat) = true) :
    CtxPasses s t load m base mask := by
  simp only [Bool.and_eq_true, decide_eq_true_eq, Bool.not_eq_true', Option.isNone_iff_eq_none] at c
  obtain ⟨⟨⟨⟨⟨⟨⟨c1, c2⟩, c3⟩, c4⟩, c5⟩, c6⟩, c7⟩, c8⟩ := c
  exact ⟨acts_of c1, c2, c3, c4, c5, c6, c7, c8⟩

theorem witness_ContextWords :
    (∃ (t : Tri) (s : State) (m : BitVec 32) (base mask : Word), Instr.wf (.ctxVsave t) = true ∧ CtxPasses s t false m base mask ∧
      s.ctxWaits s.w false (t.sub.toNat % 16) mask = true) ∧
    (∃ (t : Tri) (s o : State) (m : BitVec 32) (base mask : Word), Instr.wf (.ctxVsave t) = true ∧ CtxPasses s t false m base mask ∧
      s.ctxWaits s.w false (t.sub.toNat % 16) mask = false ∧
      (if t.sub.toNat % 16 = 0 then s.spillCallers s.w else some s) = some o ∧ AreaClear s base ∧ t.sub.toNat % 16 = 1 ∧
      mask = 0xFF) ∧
    (∃ (t : Tri) (s o : State) (m : BitVec 32) (base mask : Word), Instr.wf (.ctxVsave t) = true ∧ CtxPasses s t false m base mask ∧
      s.ctxWaits s.w false (t.sub.toNat % 16) mask = false ∧
      (if t.sub.toNat % 16 = 0 then s.spillCallers s.w else some s) = some o ∧ AreaClear s base ∧ t.sub.toNat % 16 = 3) ∧
    (∃ (t : Tri) (s : State) (m : BitVec 32) (base mask : Word), Instr.wf (.ctxVload t) = true ∧ CtxPasses s t true m base mask ∧
      s.ctxWaits s.w true (t.sub.toNat % 16) mask = true) ∧
    (∃ (t : Tri) (s : State) (m : BitVec 32) (base mask : Word), Instr.wf (.ctxVload t) = true ∧ CtxPasses s t true m base mask ∧
      s.ctxWaits s.w true (t.sub.toNat % 16) mask = false ∧ AreaClear s base ∧ t.sub.toNat % 16 = 1 ∧ mask = 0xFF) ∧
    (∃ (t : Tri) (s : State) (m : BitVec 32) (base mask : Word), Instr.wf (.ctxVload t) = true ∧ CtxPasses s t true m base mask ∧
      s.ctxWaits s.w true (t.sub.toNat % 16) mask = false ∧ AreaClear s base ∧ t.sub.toNat % 16 = 3 ∧
      s.ctlBad s.w ⟨dieOf s.wp.core, base.toNat + warpArea s.wp.wib⟩ = 0 ∧
      ∀ l, l < 32 → bitOf (s.areaNum ⟨dieOf s.wp.core, base.toNat + warpArea s.wp.wib⟩ (0x360 + 4 * l) 4) 16 = false) ∧
    (∃ (t : Tri) (s : State) (m : BitVec 32), Instr.wf (.ctxDrain t) = true ∧ s.Acts t.h {} m ∧ s.wp.cur = true ∧
      s.engineBusy s.wp.block = true) ∧
    (∃ (t : Tri) (s : State) (m : BitVec 32), Instr.wf (.ctxDrain t) = true ∧ s.Acts t.h {} m ∧ s.wp.cur = true ∧
      s.engineBusy s.wp.block = false ∧ (s.pinsOf s.wp.block).none = false) ∧
    (∃ w id dst, ∃ s : State, s.reqOf w id = some (.drain dst) ∧ NoNotice s w ∧ s.engineBusy (s.warp w).block = false) ∧
    ∃ w id cls base mask, ∃ s : State, s.reqOf w id = some (.ctx false cls base mask) ∧ NoNotice s w ∧ s.ctxWaits w false cls mask = false :=
  ⟨⟨{ a := 63, b := 62, sub := 7 }, { withUnits (saving 1) with copies := [(20, engine [])] }, all32, 0x7C00000, 1,
      by decide, ctxPasses (by decide +kernel), by decide +kernel⟩,
    ⟨{ a := 63, b := 62, sub := 1 }, saving 0xFF, _, all32, 0x7C00000, 0xFF, by decide, ctxPasses (by decide +kernel),
      by decide +kernel, rfl, areaClear (by decide +kernel) (by decide +kernel) (by decide +kernel), by decide, rfl⟩,
    ⟨{ a := 63, b := 62, sub := 3 }, saving 0, _, all32, 0x7C00000, 0, by decide, ctxPasses (by decide +kernel),
      by decide +kernel, rfl, areaClear (by decide +kernel) (by decide +kernel) (by decide +kernel), by decide⟩,
    ⟨{ a := 63, b := 62, sub := 7 }, { withUnits (saving 1) with copies := [(20, engine [])] }, all32, 0x7C00000, 1,
      by decide, ctxPasses (by decide +kernel), by decide +kernel⟩,
    ⟨{ a := 63, b := 62, sub := 1 }, saving 0xFF, all32, 0x7C00000, 0xFF, by decide, ctxPasses (by decide +kernel),
      by decide +kernel, areaClear (by decide +kernel) (by decide +kernel) (by decide +kernel), by decide, rfl⟩,
    ⟨{ a := 63, b := 62, sub := 3 }, saving 0, all32, 0x7C00000, 0, by decide, ctxPasses (by decide +kernel),
      by decide +kernel, areaClear (by decide +kernel) (by decide +kernel) (by decide +kernel), by decide, by decide +kernel,
      by decide +kernel⟩,
    ⟨{ d := 63 }, draining [], all32, by decide, acts_of (by decide +kernel), by decide +kernel, by decide +kernel⟩,
    ⟨{ d := 63 }, draining [(0, 1)], all32, by decide, acts_of (by decide +kernel), by decide +kernel, by decide +kernel,
      by decide +kernel⟩,
    ⟨3, 9, 63, parkedGang (draining [(0, 1)]) (.drain 63), by decide +kernel, noNotice (by decide +kernel), by decide +kernel⟩,
    3, 9, 8, 0x7C00000, 0, parkedGang (withUnits (readySys [] [])) (.ctx false 8 0x7C00000 0), by decide +kernel, noNotice (by decide +kernel),
    by decide +kernel⟩

/-- Pre-emption of core 0 is requested, with the bound run out. -/
def preempted (s : State) : State := s.updCore 0 (fun c => { c with preq := 0x80000000, bound := some 0 })

/-- Every lane is held at a safe point but lane 31, which is parked at a join. -/
def atSafe : State := preempted (eachLane (ready [] []) (fun l L => if l = 31 then { L with park := .join 0 7, next := 8 }
  else { L with held := true, heldMask := 0xFF }))

theorem witness_PreemptionEvents :
    (∃ w, ∃ s : State, s.requested (s.warp w).core = true ∧ (s.warp w).cur = false ∧ (s.warp w).saved = false ∧
      (s.warp w).trap = none ∧ (s.warp w).live = true ∧ (s.warp w).busyLong = false ∧ (s.warp w).late = [] ∧
      (∀ x ∈ (s.warp w).lanes, x.2.alive = true → x.2.held = true ∨ x.2.park ≠ .no) ∧
      ∃ x ∈ (s.warp w).lanes, x.2.alive = true ∧ x.2.park ≠ .no) ∧
    (∃ core t, ∃ s : State, (s.core core).bound = some t ∧ (s.requested core = false ∨ s.cycle core < t)) ∧
    (∃ core t w, ∃ s : State, (s.core core).bound = some t ∧ s.requested core = true ∧ t = s.cycle core ∧
      (s.warps.filter (fun x => x.2.core == core && s.forceable x.1)).map (·.1) = [w] ∧ (s.spillCallers w).isSome ∧
      (s.warp w).late = []) ∧
    (∃ b, ∃ s : State, (s.block b).live = true ∧ (s.block b).released = false ∧ (s.block b).warps.Nodup ∧
      (∃ w ∈ (s.block b).warps, (s.warp w).live = true) ∧
      ((∃ w ∈ (s.block b).warps, (s.warp w).live = true ∧ (s.warp w).saved = false) ∨ s.engineBusy b = true)) ∧
    ∃ b, ∃ s : State, (s.block b).live = true ∧ (s.block b).released = false ∧ (s.block b).warps.Nodup ∧
      (∃ w ∈ (s.block b).warps, (s.warp w).live = true) ∧
      (∀ w ∈ (s.block b).warps, (s.warp w).live = true → (s.warp w).saved = true) ∧ s.engineBusy b = false :=
  ⟨⟨3, atSafe, by decide +kernel, by decide +kernel, by decide +kernel, by decide +kernel, by decide +kernel, by decide +kernel, by decide +kernel,
      by decide +kernel, by decide +kernel⟩,
    ⟨0, 1, atSafe.updCore 0 (fun c => { c with bound := some 1 }), by decide +kernel, by decide +kernel⟩,
    ⟨0, 0, 3, atSafe, by decide +kernel, by decide +kernel, by decide +kernel, by decide +kernel, by decide +kernel, by decide +kernel⟩,
    ⟨2, ready [] [], by decide +kernel, by decide +kernel, by decide +kernel, by decide +kernel, by decide +kernel⟩,
    2, (ready [] []).updWarp 3 (fun W => { W with saved := true }), by decide +kernel, by decide +kernel, by decide +kernel,
    by decide +kernel, by decide +kernel, by decide +kernel⟩

/-- A long operation with a result for a vector register, one for a contested predicate, and one that is not known. -/
def aLong : LongOp := ⟨[⟨.vec 31 255, some ⟨7, false⟩, false⟩, ⟨.pred 0 14, some ⟨1, true⟩, true⟩, ⟨.uni 63, none, false⟩], 16, 0⟩

theorem witness_ResultDelivery : ∃ (w op : Nat) (o : LongOp) (s : State), tget (s.warp w).longs op = some o ∧ (s.warp w).late = [] ∧
    (s.block (s.warp w).block).shares = [] ∧ (o.dests.map (·.tgt)).Nodup ∧
    ∀ d ∈ o.dests, match d.tgt with
      | .vec l r => ((s.warp w).lane l).fits [(r, 1)] = true ∧ ((s.warp w).lane l).alive = true
      | .pred l _ => ((s.warp w).lane l).alive = true
      | .uni _ => True := by
  refine ⟨3, 7, aLong, owing (ready [] []) [] [(7, aLong)], by decide +kernel, by decide +kernel, by decide +kernel, by decide, ?_⟩
  intro d hd
  simp only [aLong, List.mem_cons, List.not_mem_nil, or_false] at hd
  obtain rfl | rfl | rfl := hd
  · exact ⟨by decide +kernel, by decide +kernel⟩
  · show ((owing (ready [] []) [] [(7, aLong)]).warp 3 |>.lane 0).alive = true
    decide +kernel
  · trivial

/-- Every lane of the warp has called once, its callers in slice-frame 4; core 0 has n granules free and no reserve left. -/
def blocked (s : State) (n : Nat) (spilled : Bool) (r : Req) : State :=
  let s := (parkedGang s r).updWarp 3 (fun W => { W with slices := [(4, ⟨1, 0, [0, 1, 2, 3], 32, spilled, 32⟩)] })
  (s.updCore 0 (fun c => { c with free := n, reserve := 0 })).updBlock 2 (fun B => { B with area := (2 ^ 26, 2 ^ 27) })

/-- The state once the engine has taken a core's round. -/
def roundOf (s : State) (core : Nat) : State :=
  s.noteSpills.updDie (dieOf core) (fun d => { d with spillQueue := d.spillQueue.tail })

theorem can_spill :
    ((roundOf (blocked (called (ready [] [])) 0 false (.call 2 0 [(0, 40), (31, 40)] 8)) 0).spillOne 3 4).isSome = true := by
  decide +kernel

theorem blocked_quiet {s : State} {core : Nat} (h : (s.frameReqs core).all (fun r => (s.warp r.warp).lanes.all (fun x =>
    !x.2.alive || decide (x.2.park = .no) || !s.laneDoomed x.2)) = true) : ∀ r ∈ s.frameReqs core, NoNotice s r.warp :=
  fun r hr => noNotice (List.all_eq_true.mp h r hr)

/-- Cores 0 and 1 are both due, core 1 for longer. -/
def twoBlocked : State :=
  let s := blocked (ready [] []) 0 false (.call 32 0 [(0, 40)] 8)
  { s with warps := tset s.warps 4 { s.warp 3 with core := 1 }, cores := tset s.cores 1 { s.core 0 with reserve := 0 }
           dies := tset s.dies 0 { s.die 0 with spillQueue := [1] } }

/-- Lane 30 launches a task, lane 31 as its shadow. -/
def launchingTask (pair : Bool) : State := eachLane (ready [] []) (fun l L => { L with
  park := if l < 30 then .no else .argument, shadow := pair && l = 31
  task := if l = 30 then some 5 else none, arg := if l = 30 then 0x40000 else 0 })

theorem witness_CoreEvents :
    (∃ w l, ∃ s : State, ((s.warp w).lane l).park = .argument ∧ ((s.warp w).lane l).shadow = false ∧
      s.taskDoomed ((s.warp w).lane l) = true) ∧
    (∃ w l, ∃ s : State, ((s.warp w).lane l).park = .argument ∧ ((s.warp w).lane l).shadow = false ∧
      s.laneOrdered w l 0 = false) ∧
    (∀ pair : Bool, ∃ w l key, ∃ s : State, ((s.warp w).lane l).park = .argument ∧ ((s.warp w).lane l).shadow = false ∧
      ((s.warp w).lane (l + 1)).shadow = pair ∧ s.taskDoomed ((s.warp w).lane l) = false ∧ s.laneOrdered w l 0 = true ∧
      key = dspKey (dieOf (s.warp w).core) ((s.warp w).lane l).arg.toNat ∧ (s.block (s.warp w).block).shares = [] ∧
      (∀ k, k = l ∨ k = l + 1 → ((s.warp w).lane k).fits [(0, 8)] = true) ∧ s.accessible key 32 = true) ∧
    (∃ core q g win ts ret, ∃ s : State, firstBy FrameReq.before (s.frameReqs core) = some q ∧
      (∀ r ∈ s.frameReqs core, NoNotice s r.warp) ∧
      ((s.core core).cover q.warp (s.reqNeed q)).isSome ∧ s.reqOf q.warp q.gang = some (.call g win ts ret) ∧
      (ts.map (·.1)).Nodup) ∧
    (∃ core q dest, ∃ s : State, firstBy FrameReq.before (s.frameReqs core) = some q ∧
      (∀ r ∈ s.frameReqs core, NoNotice s r.warp) ∧
      ((s.core core).cover q.warp (s.reqNeed q)).isSome ∧ s.reqOf q.warp q.gang = some (.refill dest) ∧
      (dest.map (·.1)).Nodup) ∧
    (∃ core q, ∃ s : State, firstBy FrameReq.before (s.frameReqs core) = some q ∧ s.roundDue core = false) ∧
    (∃ core q, ∃ s : State, firstBy FrameReq.before (s.frameReqs core) = some q ∧
      (s.noteSpills.die (dieOf core)).spillQueue.head? ≠ some core ∧ s.roundDue core = true) ∧
    (∃ core q, ∃ s : State, firstBy FrameReq.before (s.frameReqs core) = some q ∧
      (s.noteSpills.die (dieOf core)).spillQueue.head? = some core ∧
      ((s.core core).cover q.warp (s.reqNeed q)).isSome) ∧
    (∃ core q, ∃ s : State, firstBy FrameReq.before (s.frameReqs core) = some q ∧
      (s.noteSpills.die (dieOf core)).spillQueue.head? = some core ∧
      (s.core core).cover q.warp (s.reqNeed q) = none ∧ (∀ v ∈ s.frameReqs core, s.spillable v.warp = []) ∧
      (s.warp q.warp).cur = false ∧ (s.warp q.warp).Quiet) ∧
    ∃ core q v sf x, ∃ s o : State, firstBy FrameReq.before (s.frameReqs core) = some q ∧
      (s.noteSpills.die (dieOf core)).spillQueue.head? = some core ∧
      (s.core core).cover q.warp (s.reqNeed q) = none ∧
      ((sortBy FrameReq.victimBefore (s.frameReqs core)).map (·.warp)).eraseDups.flatMap
        (fun w => (s.spillable w).map (fun y => (w, y.1))) = [(v, sf)] ∧
      tget (s.warp v).slices sf = some x ∧ (roundOf s core).spillOne v sf = some o ∧
      ((o.core core).cover q.warp (o.reqNeed q)).isSome :=
  ⟨⟨3, 30, future (launchingTask false) .doom 0, by decide +kernel, by decide +kernel, by decide +kernel⟩,
    ⟨3, 30, { launchingTask false with warps := tset (launchingTask false).warps 4 { (launchingTask false).warp 3 with accs := [(9, byteStore)] } }.updWarp 3 (fun W => { W with
      syncs := [⟨30, 0, [(4, 9)]⟩] }), by decide +kernel, by decide +kernel, by decide +kernel⟩,
    fun pair => ⟨3, 30, dspAt, launchingTask pair, by cases pair <;> decide +kernel, by cases pair <;> decide +kernel,
      by cases pair <;> decide +kernel, by cases pair <;> decide +kernel, by cases pair <;> decide +kernel,
      by cases pair <;> decide +kernel, by cases pair <;> decide +kernel,
      (fun k h => by rcases h with rfl | rfl <;> cases pair <;> decide +kernel), by cases pair <;> decide +kernel⟩,
    ⟨0, ⟨3, 9, 0, 0, 0⟩, 32, 248, [(0, 40), (31, 40)], 8, blocked (ready [] []) 256 false (.call 32 248 [(0, 40), (31, 40)] 8),
      by decide +kernel, blocked_quiet (by decide +kernel), by decide +kernel, by decide +kernel, by decide⟩,
    ⟨0, ⟨3, 9, 0, 0, 0⟩, [(0, 1, 8), (31, 1, 16)], blocked (called (ready [] [])) 32 true (.refill [(0, 1, 8), (31, 1, 16)]),
      by decide +kernel, blocked_quiet (by decide +kernel), by decide +kernel, by decide +kernel, by decide⟩,
    ⟨0, ⟨3, 9, 0, 0, 0⟩, (blocked (ready [] []) 0 false (.call 32 0 [(0, 40)] 8)).updCore 0 (fun c => { c with reserve := 256 }),
      by decide +kernel, by decide +kernel⟩,
    ⟨0, ⟨3, 9, 0, 0, 0⟩, twoBlocked,
      by decide +kernel, by decide +kernel, by decide +kernel⟩,
    ⟨0, ⟨3, 9, 0, 0, 0⟩, blocked (ready [] []) 200 false (.call 2 0 [(0, 40)] 8), by decide +kernel, by decide +kernel,
      by decide +kernel⟩,
    ⟨0, ⟨3, 9, 0, 0, 0⟩, blocked (ready [] []) 0 false (.call 32 0 [(0, 40)] 8), by decide +kernel, by decide +kernel,
      by decide +kernel, by decide +kernel, by decide +kernel, quiet (by decide +kernel)⟩,
    0, ⟨3, 9, 0, 0, 0⟩, 3, 4, ⟨1, 0, [0, 1, 2, 3], 32, false, 32⟩,
    blocked (called (ready [] [])) 0 false (.call 2 0 [(0, 40), (31, 40)] 8), _, by decide +kernel, by decide +kernel,
    by decide +kernel, by decide +kernel, by decide +kernel, (Option.some_get can_spill).symm, by decide +kernel⟩

/-- The entry of 128 bytes `bs` stands at the head of launch queue 3 of interface 0, whose partition has every quad of die 0. -/
def queued (s : State) (bs : List Byte) : State :=
  ((withCq s).write (dpaKey 0x110000) bs false).updVi 0 (fun V => { V with
    lq := [(3, { base := 0x110004, head := 0, tail := 1 })], quads := [(0, 0xFFFFFF)] })

/-- The bytes of a launch record at the last address that an entry may have, of one block of one warp, and of a restore
record (R124, R396). -/
def aRecord (entry : Nat) : List Byte := leBytes 8 entry ++ leBytes 8 1 ++ leBytes 112 0
@[inherit_doc aRecord] def aRestore (area target : Nat) : List Byte :=
  leBytes 24 0 ++ leBytes 8 1 ++ leBytes 4 area ++ leBytes 4 target ++ leBytes 88 0

theorem witness_recordClause :
    (∃ vi q, ∃ v : Word, ∃ s : State, s.ringOk vi ((s.vi vi).queue q) 128 = true ∧
      (v.setWidth 17 - ((s.vi vi).queue q).head).toNat = 2 ^ ((s.vi vi).queue q).log2n) ∧
    (∃ vi q, ∃ v : Word, ∃ s : State, s.ringOk vi ((s.vi vi).queue q) 128 = true ∧
      (v.setWidth 17 - ((s.vi vi).queue q).head).toNat = 2 ^ ((s.vi vi).queue q).log2n + 1) ∧
    (∃ vi q bs, ∃ s : State, s.nextEntry = some (vi, q) ∧ bs = s.entryBytes vi q ∧ recNum bs 0x18 1 = 1) ∧
    (∃ vi q bs, ∃ s : State, s.nextEntry = some (vi, q) ∧ bs = s.entryBytes vi q ∧ recNum bs 0x18 1 = 0 ∧
      s.launchStatus vi bs = none) ∧
    (∃ vi q bs st, ∃ s : State, s.nextEntry = some (vi, q) ∧ bs = s.entryBytes vi q ∧
      (recNum bs 0x18 1 = 0 ∧ s.launchStatus vi bs = some st) ∧ CqRoom s vi) ∧
    ∃ vi q bs st, ∃ s : State, s.nextEntry = some (vi, q) ∧ bs = s.entryBytes vi q ∧
      (2 ≤ recNum bs 0x18 1 ∧ st = 1) ∧ CqRoom s vi :=
  ⟨⟨0, 3, 16, queued (ready [] []) [], by decide +kernel, by decide +kernel⟩,
    ⟨0, 3, 17, queued (ready [] []) [], by decide +kernel, by decide +kernel⟩,
    ⟨0, 3, _, queued (ready [] []) (aRestore 0 0), by decide +kernel, rfl, by decide +kernel⟩,
    ⟨0, 3, _, queued (ready [] []) (aRecord 0x1FFFFFFFFFFFFF8), by decide +kernel, rfl, by decide +kernel, by decide +kernel⟩,
    ⟨0, 3, _, 2, queued (ready [] []) (aRecord 4), by decide +kernel, rfl, by decide +kernel, by unfold CqRoom; decide +kernel⟩,
    0, 3, _, 1, queued (ready [] []) (leBytes 24 0 ++ leBytes 8 2), by decide +kernel, rfl, by decide +kernel,
    by unfold CqRoom; decide +kernel⟩

/-- Grid 9 has two blocks of two warps to place. -/
def placing (s : State) : State :=
  let s := (queued s []).updDie 0 (fun d => { d with clpArea := 0x4040, spillArea := 0x01200020 })
  { s with grids := s.grids ++ [(9, { vi := 0, q := 3, seq := 5, launch := {
    entry := 0x40, nblk := 2, warps := 1, demand := 31, clsize := 1, bshm := 256, acct := 32, prio := 63, uarg := [7, 8], roles := [1, 2] } })] }

theorem witness_placementClause :
    (∃ g, ∃ s : State, s.waitingRestore g = none ∧ s.queueBehind g = false ∧
      (∀ x ∈ s.grids, x.1 < g → s.queueBehind x.1 = true ∨ s.tryPlace x.1 = none) ∧ s.tryPlace g = none) ∧
    ∃ g, ∃ s : State, s.waitingRestore g = none ∧ s.queueBehind g = false ∧
      (∀ x ∈ s.grids, x.1 < g → s.queueBehind x.1 = true ∨ s.tryPlace x.1 = none) ∧ (s.tryPlace g).isSome ∧
      1 ∈ (s.grid g).nextBlocks :=
  ⟨⟨1, ready [] [], by decide +kernel, by decide +kernel, by decide +kernel, by decide +kernel⟩,
    9, placing (ready [] []), by decide +kernel, by decide +kernel, by decide +kernel, by decide +kernel, by decide +kernel⟩

/-- The one block of the grid has ended. -/
def ended (s : State) : State :=
  (withCq (s.updBlock 2 (fun B => { B with live := false, released := true }))).updGrid 1 (fun G => { G with failed := some 5 })

theorem witness_completionClause :
    (∃ g G, ∃ s : State, tget s.grids g = some G ∧ s.gridOver g = false) ∧
    ∃ g G, ∃ s : State, tget s.grids g = some G ∧ s.gridOver g = true ∧ G.leaves = [] ∧ CqRoom s G.vi :=
  ⟨⟨1, { vi := 0, q := 0, seq := 0, launch := placedRecord, next := 1 }, ready [] [], by decide +kernel, by decide +kernel⟩,
    1, { vi := 0, q := 0, seq := 0, launch := placedRecord, next := 1, failed := some 5 }, ended (ready [] []), by decide +kernel,
    by decide +kernel, rfl, by unfold CqRoom; decide +kernel⟩

/-- The block is saved at 0x07FFF000, the last area of the die; an entry of queue 3 is a restore record for it. -/
def savedAt (s : State) (target : Nat) : State :=
  queued ((s.updBlock 2 (fun B => { B with saved := true, released := true, saveptr := 0x07FFF000 })).updWarp 3 (fun W =>
    { W with saved := true })) (aRestore 0x07FFF000 target)

theorem witness_restoreClause :
    (∃ vi q bs, ∃ s : State, s.nextEntry = some (vi, q) ∧ bs = s.entryBytes vi q ∧ recNum bs 0x18 1 ≠ 1) ∧
    (∃ vi q bs, ∃ s : State, s.nextEntry = some (vi, q) ∧ bs = s.entryBytes vi q ∧ recNum bs 0x18 1 = 1 ∧
      restoreReserved bs = false ∧
      (∀ x ∈ s.blocks, s.allSaved x.1 = true → x.2.restore = none → x.2.vi = vi → dieOf x.2.core = recNum bs 0x20 4 / 2 ^ 27 % 4 →
        x.2.saveptr.toNat ≠ recNum bs 0x20 4 % 2 ^ 27) ∧ CqRoom s vi) ∧
    (∃ vi q bs b B t, ∃ s : State, s.nextEntry = some (vi, q) ∧ bs = s.entryBytes vi q ∧ recNum bs 0x18 1 = 1 ∧
      restoreReserved bs = false ∧
      s.blocks.find? (fun x => s.allSaved x.1 && x.2.restore.isNone && x.2.vi == vi
        && dieOf x.2.core == recNum bs 0x20 4 / 2 ^ 27 % 4 && x.2.saveptr.toNat == recNum bs 0x20 4 % 2 ^ 27) = some (b, B) ∧
      tget s.blocks b = some B ∧ B.warps.Nodup ∧ t = recNum bs 0x24 4 % 2 ^ 7 ∧ t = 0x7F) ∧
    ∃ vi q bs b B t, ∃ s : State, s.nextEntry = some (vi, q) ∧ bs = s.entryBytes vi q ∧ recNum bs 0x18 1 = 1 ∧
      restoreReserved bs = false ∧
      s.blocks.find? (fun x => s.allSaved x.1 && x.2.restore.isNone && x.2.vi == vi
        && dieOf x.2.core == recNum bs 0x20 4 / 2 ^ 27 % 4 && x.2.saveptr.toNat == recNum bs 0x20 4 % 2 ^ 27) = some (b, B) ∧
      tget s.blocks b = some B ∧ B.warps.Nodup ∧ t = recNum bs 0x24 4 % 2 ^ 7 ∧
      (t = 95 ∧ (s.mustReturn b = false ∨ dieOf B.core * 96 + t = B.core) ∧
        s.inPool vi (dieOf B.core * 96 + t) (s.grid B.grid).launch.opclass = true) := by
  refine ⟨⟨0, 3, _, queued (ready [] []) (aRecord 0), by decide +kernel, rfl, by decide +kernel⟩,
    ⟨0, 3, _, queued (ready [] []) (aRestore 0x1FFFF000 0x7F), by decide +kernel, rfl, by decide +kernel, by decide +kernel,
      by decide +kernel, by unfold CqRoom; decide +kernel⟩,
    ⟨0, 3, _, 2, (savedAt (ready [] []) 0x7F).block 2, _, savedAt (ready [] []) 0x7F, by decide +kernel, rfl, by decide +kernel,
      by decide +kernel, by decide +kernel, by decide +kernel, by decide +kernel, rfl, by decide +kernel⟩,
    0, 3, _, 2, (savedAt (ready [] []) 95).block 2, _, savedAt (ready [] []) 95, by decide +kernel, rfl, by decide +kernel,
    by decide +kernel, by decide +kernel, by decide +kernel, by decide +kernel, rfl, by decide +kernel⟩

/-- A bin of n tasks that is due. -/
def binOf (n : Nat) : Bin :=
  { grid := 1, entry := 0x20, tasks := List.replicate n ⟨0x3FFFFF, 0x40000, []⟩, start := 0, timer := 0, prio := 63, bix := 0
    block := 2, due := some 0 }

/-- It is due on core 0, which has some granules free. -/
def due (n free : Nat) : State := (ready [] []).updCore 0 (fun c => { c with free := free, bins := [(255, binOf n)] })

theorem witness_waveClause : ∃ core k slot b, ∃ s : State, (s.core core).dueBin = some (k, b) ∧ s.pickSlot core = some slot ∧
    (s.grid b.grid).launch.prot = false ∧ b.tasks.length ≤ 32 ∧
    (∀ x ∈ (s.core core).bins, ∀ t ∈ x.2.tasks, (s.fut t.fut).st ≠ .doom) ∧ b.tasks.length = 32 ∧ s.launching core = true ∧
    ((b.tasks.length + 3) / 4) * ((s.grid b.grid).launch.tdemand + 1) = (s.core core).free :=
  ⟨0, 255, 64, binOf 32, due 32 8, by decide +kernel, by decide +kernel, by decide +kernel, by decide,
    by decide +kernel, by decide, by decide +kernel, by decide +kernel⟩

/-- A move of the core that the cluster's blocks stand on, from the first cluster to the last. -/
def aMove : Regroup := { die := 0, core := 0, x := 0, y := 1023 }

/-- Clusters 0 and 1023 of die 0 are live; core 0 is to move from one to the other. -/
def moving (s : State) : State :=
  (s.updCluster 1023 (fun k => { k with grid := 1, live := true, base := 0x40000, size := 0x40000, sets := [(0, [95])] })).updDie 0
    (fun d => { d with moves := [(0, aMove)] })

/-- The move has begun to commit, at place 10 in the order of issue. -/
def committing (s : State) : State := (moving s).updDie 0 (fun d => { d with commit := [{ aMove with began := 10 }] })

theorem witness_commitClause :
    (∃ die k r, ∃ s : State, tget (s.die die).moves k = some r ∧ s.moveStands die r = true ∧
      s.commitFree (clusterNo die r.x) = true ∧ s.commitFree (clusterNo die r.y) = true) ∧
    (∃ die k r, ∃ s : State, tget (s.die die).moves k = some r ∧ s.moveStands die r = false) ∧
    (∃ die, ∃ s : State, (s.die die).commit.find? s.commitDrained = none ∧ (s.die die).commit ≠ []) ∧
    ∀ gone : Bool, ∃ die r, ∃ s : State, (s.die die).commit.find? s.commitDrained = some r ∧ r.x ≠ r.y ∧ r.x < 1024 ∧
      r.y < 1024 ∧
      (∀ w, s.clusterOf w = clusterNo die r.x ∨ s.clusterOf w = clusterNo die r.y → NoNotice s w) ∧
      (s.updDie die (fun d => { d with commit := d.commit.filter (· != r) })).moveStands die r = !gone ∧
      ∃ b B, tget s.blocks b = some B ∧ B.live = true ∧ B.wave = false ∧ B.core = r.core ∧ B.cid = r.x ∧ B.serial = r.xs := by
  have quietWarps : ∀ s : State, (s.warps.all (fun x => x.2.lanes.all (fun y => y.2.park = .no))) = true → ∀ w, NoNotice s w := by
    intro s h w x hx _ hp
    unfold State.warp tgetD at hx
    cases hw : tget s.warps w with
    | none => rw [hw] at hx; cases hx
    | some W =>
      rw [hw] at hx
      have : (w, W) ∈ s.warps := by
        generalize s.warps = t at hw
        induction t with
        | nil => cases hw
        | cons y t ih =>
          by_cases e : y.1 = w
          · simp only [tget, e, if_pos, Option.some.injEq] at hw; subst hw; subst e; exact List.mem_cons_self
          · simp only [tget, e, if_neg, not_false_eq_true] at hw; exact List.mem_cons_of_mem _ (ih hw)
      have hl := List.all_eq_true.mp (List.all_eq_true.mp h _ this) x hx
      exact absurd (of_decide_eq_true hl) hp
  refine ⟨⟨0, 0, aMove, moving (ready [] []), by decide +kernel, by decide +kernel, by decide +kernel, by decide +kernel⟩,
    ⟨0, 0, aMove, committing (ready [] []), by decide +kernel, by decide +kernel⟩,
    ⟨0, committing (owing (ready [] []) [(9, { byteStore with space := .clp })] []), by decide +kernel, by decide +kernel⟩,
    fun gone => ⟨0, { aMove with began := 10 }, (committing (ready [] [])).updCluster 1023 (fun k => { k with
      serial := if gone then 1 else 0 }), by cases gone <;> decide +kernel, by decide, by decide, by decide,
      fun w _ => quietWarps _ (by cases gone <;> decide +kernel) w, by cases gone <;> decide +kernel,
      2, (ready [] []).block 2, by cases gone <;> decide +kernel, by decide +kernel, by decide +kernel, by decide +kernel,
      by decide +kernel, by decide +kernel⟩⟩

theorem witness_bankClause :
    (∃ die base len, ∃ s : State, die < 4 ∧ 0 < len ∧ base + len = 2 ^ 27 ∧ base % 64 = 0 ∧ len % 64 = 0 ∧
      (s.die die).gated.any (fun g => Machine.meets g.1 g.2 base len) = false ∧
      (s.die die).waking.any (fun g => Machine.meets g.1 g.2.1 base len) = false ∧ s.bankUsed die base len = false) ∧
    ∃ die base len, ∃ s : State, die < 4 ∧ 0 < len ∧ base + len ≤ 2 ^ 27 ∧ base % 64 = 0 ∧ len % 64 = 0 ∧
      (s.die die).gated.any (fun g => Machine.meets g.1 g.2 base len) = false ∧
      (s.die die).waking.any (fun g => Machine.meets g.1 g.2.1 base len) = false ∧ s.bankUsed die base len = true :=
  ⟨⟨3, 2 ^ 27 - 64, 64, ready [] [], by decide, by decide, by decide, by decide, by decide, by decide +kernel, by decide +kernel,
      by decide +kernel⟩,
    0, 0, 64, ready [] [], by decide, by decide, by decide, by decide, by decide, by decide +kernel, by decide +kernel, by decide +kernel⟩

/-- A copy of 4,100 bytes from the code page to `.dsp`, its first chunk landed, with barrier 15 of its block; its last chunk
starts at byte 4,096. -/
def aCopy : Copy :=
  { core := 0, queue := 15, seq := 20, vi := 0, grid := 1, block := 2, warp := 3, lanes := ends2, src := .rows 0x1000 4100 0
    dst := .chip dspAt, total := 4100, next := 1, landed := [0], fut := 0, bar := some ⟨1, 2, 15⟩ }
@[inherit_doc aCopy] def aFlight : Flight :=
  { chunk := 1, bytes := [1, 2, 3, 4], bad := [false, false, false, false], dst := [(dspAt + 4096, 4)] }

/-- A copy stands in its queue, its future running; the TLB holds what `e` says. -/
def withCopy (c : Copy) (e : List TlbEntry) : State :=
  { ((ready [] []).updDie 0 (fun d => { d with tlb := [(0, e)] })) with
    copies := [(20, c)], futs := [(0, { st := .run, count := 1, kind := .copy, op := 20 })], absent := [dspAt / 64 + 64]
    bars := [(⟨1, 2, 15⟩, { pend := 4 })] }

/-- The translation of the code page. -/
def codeEntry : TlbEntry := { vi := 0, va := 0, size := 2 ^ 21, dpa := codeAt, x := true, wr := true }

theorem witness_chunkStartClause :
    (∃ id c, ∃ s : State, tget s.copies id = some c ∧ s.chunkMay id c = false) ∧
    (∃ id c, ∃ s : State, tget s.copies id = some c ∧ s.chunkMay id c = true ∧
      (∀ p ∈ s.sidePieces c c.src false (4096 * c.next) (min 4096 (c.total - 4096 * c.next)) ++
        s.sidePieces c c.dst true (4096 * c.next) (min 4096 (c.total - 4096 * c.next)) ++ s.streamPieces c c.next, p.look ≠ .bad) ∧
      ∃ p ∈ s.sidePieces c c.src false (4096 * c.next) (min 4096 (c.total - 4096 * c.next)) ++
        s.sidePieces c c.dst true (4096 * c.next) (min 4096 (c.total - 4096 * c.next)) ++ s.streamPieces c c.next, p.look = .miss) ∧
    ∃ id c src dst stream, ∃ s : State, tget s.copies id = some c ∧
      src = s.sidePieces c c.src false (4096 * c.next) (min 4096 (c.total - 4096 * c.next)) ∧
      dst = s.sidePieces c c.dst true (4096 * c.next) (min 4096 (c.total - 4096 * c.next)) ∧
      stream = s.streamPieces c c.next ∧ s.chunkMay id c = true ∧ (∀ p ∈ src ++ dst ++ stream, p.look ≠ .bad) ∧
      (∀ p ∈ src ++ dst ++ stream, p.look ≠ .miss ∧ s.pieceFree p = true) ∧
      (∀ p ∈ src ++ stream, s.sourcePresent id p = true) ∧
      (∀ d ∈ s.cxlPorts (src ++ dst ++ stream), (s.die d).cxlUp = true) ∧ s.hbmErr = [] ∧ src ≠ [] ∧ dst ≠ [] :=
  ⟨⟨20, { aCopy with doomed := true }, withCopy { aCopy with doomed := true } [], by decide +kernel, by decide +kernel⟩,
    ⟨20, aCopy, withCopy aCopy [], by decide +kernel, by decide +kernel, by decide +kernel, by decide +kernel⟩,
    20, aCopy, _, _, _, withCopy aCopy [codeEntry], by decide +kernel, rfl, rfl, rfl, by decide +kernel, by decide +kernel,
    by decide +kernel, by decide +kernel, by decide +kernel, by decide +kernel, by decide +kernel, by decide +kernel⟩

/-- The last chunk of the copy is in flight. -/
def lastChunk (code : Nat) : Copy := { aCopy with next := 2, flying := [aFlight], code := code }

theorem witness_chunkLandClause :
    (∀ failed : Bool, ∃ id c f k n, ∃ s : State, tget s.copies id = some c ∧
      c.flying.find? (fun g => g.chunk == f.chunk) = some f ∧
      c.dst.off = false ∧ c.fill = none ∧ f.dst = [(k, n)] ∧ f.bytes.length = n ∧ 2 ^ 100 ≤ k ∧
      (∀ i, i < n → Storable s (k + i) ∧ s.underStack (k + i) = false) ∧
      (∀ b, c.bar = some b → (c.chunkSpan f.chunk).2 = (s.bar b).pend) ∧
      s.mayWrite c f = true ∧ s.rehousing k = false ∧ s.awake k = true ∧ (c.code = 0 ↔ failed = false) ∧ c.cut = false ∧
      c.flying = [f]) ∧
    ∃ id c f k n, ∃ s : State, tget s.copies id = some c ∧ c.flying.find? (fun g => g.chunk == f.chunk) = some f ∧
      c.dst.off = false ∧ c.fill = none ∧ f.dst = [(k, n)] ∧ f.bytes.length = n ∧ 2 ^ 100 ≤ k ∧
      (∀ i, i < n → Storable s (k + i) ∧ s.underStack (k + i) = false) ∧
      (∀ b, c.bar = some b → (c.chunkSpan f.chunk).2 ≤ (s.bar b).pend) ∧
      s.awake k = false := by
  have st : ∀ s : State, (List.range 4).all (fun i => !isVoid (dspAt + 4096 + i) && !s.boundLine (dspAt + 4096 + i) &&
      !s.underStack (dspAt + 4096 + i)) = true →
      ∀ i, i < 4 → Storable s (dspAt + 4096 + i) ∧ s.underStack (dspAt + 4096 + i) = false := fun s h i hi => by
    have := List.all_eq_true.mp h i (List.mem_range.mpr hi)
    simp only [Bool.and_eq_true, Bool.not_eq_true'] at this
    exact ⟨storable (by simp [this.1.1, this.1.2]), this.2⟩
  refine ⟨fun failed => ⟨20, lastChunk (if failed then 2 else 0), aFlight, dspAt + 4096, 4,
      withCopy (lastChunk (if failed then 2 else 0)) [], rfl, rfl, rfl, rfl, rfl, rfl, by decide,
      st _ (by cases failed <;> decide +kernel), ?_, by cases failed <;> decide +kernel, by cases failed <;> decide +kernel,
      by cases failed <;> decide +kernel, by cases failed <;> decide, rfl, rfl⟩,
    20, lastChunk 0, aFlight, dspAt + 4096, 4,
    (withCopy (lastChunk 0) []).updDie 0 (fun d => { d with waking := [(0x41000, 64, 5)] }),
    by decide +kernel, by decide +kernel, rfl, rfl, rfl, rfl, by decide, st _ (by decide +kernel), ?_, by decide +kernel⟩
  · intro b hb
    obtain rfl : (⟨1, 2, 15⟩ : BarName) = b := Option.some.inj hb
    cases failed <;> decide +kernel
  · intro b hb
    obtain rfl : (⟨1, 2, 15⟩ : BarName) = b := Option.some.inj hb
    decide +kernel

theorem witness_copyEndClause :
    (∃ id c, ∃ s : State, tget s.copies id = some c ∧
      (c.doomed = true ∨ c.faults ≠ [] ∨ c.allLanded = false ∨ s.ahead c ≠ [] ∨ s.settled c.waits = false)) ∧
    (∃ id c, ∃ s : State, tget s.copies id = some c ∧ c.atoms = [] ∧ c.doomed = false ∧ c.faults = [] ∧ c.allLanded = true ∧
      s.ahead c = [] ∧ s.settled c.waits = true ∧ c.code = 0 ∧ c.bar ≠ none ∧ (s.fut c.fut).st = .run) ∧
    (∃ id c, ∃ s : State, tget s.copies id = some c ∧ c.atoms = [] ∧ c.doomed = false ∧ c.faults = [] ∧ c.allLanded = true ∧
      s.ahead c = [] ∧ s.settled c.waits = true ∧ c.bar = none ∧ c.code ≠ 0 ∧ (s.fut c.fut).st = .run) ∧
    (∃ id c, ∃ s : State, tget s.copies id = some c ∧ (c.doomed = false ∨ c.flying ≠ [])) ∧
    ∃ id c, ∃ s : State, tget s.copies id = some c ∧ c.atoms = [] ∧ c.doomed = true ∧ c.flying = [] ∧ c.cut = false :=
  ⟨⟨20, aCopy, withCopy aCopy [], by decide +kernel, by decide +kernel⟩,
    ⟨20, { aCopy with next := 2, landed := [0, 1] }, withCopy { aCopy with next := 2, landed := [0, 1] } [], by decide +kernel, rfl,
      rfl, rfl, by decide +kernel, by decide +kernel, by decide +kernel, rfl, by decide, by decide +kernel⟩,
    ⟨20, { aCopy with bar := none, code := 1 }, withCopy { aCopy with bar := none, code := 1 } [], by decide +kernel, rfl, rfl, rfl,
      by decide +kernel, by decide +kernel, by decide +kernel, rfl, by decide, by decide +kernel⟩,
    ⟨20, aCopy, withCopy aCopy [], by decide +kernel, .inl rfl⟩,
    20, { aCopy with doomed := true }, withCopy { aCopy with doomed := true } [], by decide +kernel, rfl, rfl, rfl, rfl⟩

/-- The first page of the code, mapped with 4 KiB pages: a table of level 0 at 0x40000, whose last entry is e. -/
def smallPages (e : Nat) : State :=
  ((ready [] []).writeNum (dpaKey (tableAt 1)) 8 0x40003 false).writeNum (dpaKey (0x40000 + 511 * 8)) 8 e false

/-- The addresses of the four entries that a walk of interface 0 reads where it goes on, with their values, from the root. -/
def walkOf (s : State) (va : Nat) : List (Nat × Nat) :=
  let a3 := (s.vi 0).ptbase.toNat / 2 ^ 12 % 2 ^ 45 * 2 ^ 12 + va / 2 ^ 45 % 4096 * 8
  let a2 := pteAddr (s.num (dpaByte 0 a3) 8) + va / 2 ^ 33 % 4096 * 8
  let a1 := pteAddr (s.num (dpaByte 0 a2) 8) + va / 2 ^ 21 % 4096 * 8
  let a0 := pteAddr (s.num (dpaByte 0 a1) 8) + va / 2 ^ 12 % 512 * 8
  [a3, a2, a1, a0].map (fun a => (a, s.num (dpaByte 0 a) 8))

/-- What the clauses of a walk assume of its state and its address. -/
abbrev Walks (s : State) (va : Nat) : Prop := va < 2 ^ 57 ∧ s.hbmErr = [] ∧ s.poison = []

/-- An entry leads on to a table. -/
abbrev onward (s : State) (x : Nat × Nat) (level : Nat) : Bool :=
  s.dpaOk 0 x.1 && pteValid x.2 level && pteBit x.2 1 && !pteBit x.2 4

/-- An entry is a leaf that allows a fetch and a write. -/
abbrev isLeaf (s : State) (x : Nat × Nat) (level : Nat) : Bool :=
  s.dpaOk 0 x.1 && pteValid x.2 level && pteBit x.2 4 && pteBit x.2 3 && pteBit x.2 2

theorem witness_walkClause :
    (∃ va x, ∃ s : State, Walks s va ∧ va = 2 ^ 57 - 1 ∧ (walkOf s va)[0]? = some x ∧ pteValid x.2 3 = false) ∧
    (∃ va x, ∃ s : State, Walks s va ∧ (walkOf s va)[0]? = some x ∧ s.dpaOk 0 x.1 = false) ∧
    (∃ va x, ∃ s : State, Walks s va ∧ (walkOf s va)[0]? = some x ∧ s.dpaOk 0 x.1 = true ∧ pteValid x.2 3 = true ∧
      pteBit x.2 1 = false) ∧
    (∃ va x3 x2, ∃ s : State, Walks s va ∧ (walkOf s va).take 2 = [x3, x2] ∧ onward s x3 3 = true ∧ s.dpaOk 0 x2.1 = false) ∧
    (∀ present inside : Bool, ∃ va x3 x2 x1, ∃ s : State, Walks s va ∧ (walkOf s va).take 3 = [x3, x2, x1] ∧ onward s x3 3 = true ∧
      onward s x2 2 = true ∧ isLeaf s x1 1 = true ∧ pteBit x1.2 1 = present ∧
      s.dpaOk 0 (pteAddr x1.2 + va % 2 ^ 21) = inside) ∧
    ∀ present inside : Bool, ∃ va x3 x2 x1 x0, ∃ s : State, Walks s va ∧ walkOf s va = [x3, x2, x1, x0] ∧ onward s x3 3 = true ∧
      onward s x2 2 = true ∧ onward s x1 1 = true ∧ isLeaf s x0 0 = true ∧ pteBit x0.2 1 = present ∧
      s.dpaOk 0 (pteAddr x0.2 + va % 2 ^ 12) = inside := by
  refine ⟨⟨2 ^ 57 - 1, (tableAt 3 + 4095 * 8, 0), ready [] [], by decide +kernel, rfl, by decide +kernel, by decide +kernel⟩,
    ⟨0, (0x8000000000, 0), (ready [] []).updVi 0 (fun V => { V with ptbase := 0x8000000000 }), by decide +kernel, by decide +kernel,
      by decide +kernel⟩,
    ⟨0, (tableAt 3, tableAt 2 + 1), (ready [] []).writeNum (dpaKey (tableAt 3)) 8 (tableAt 2 + 1) false, by decide +kernel,
      by decide +kernel, by decide +kernel, by decide +kernel, by decide +kernel⟩,
    ⟨0, (tableAt 3, 0x8000000003), (0x8000000000, 0), (ready [] []).writeNum (dpaKey (tableAt 3)) 8 0x8000000003 false,
      by decide +kernel, by decide +kernel, by decide +kernel, by decide +kernel⟩,
    fun present inside => ?_, fun present inside => ?_⟩
  · let e := (if inside then codeAt else 0x8000000000) + if present then 0xBF else 0xBD
    exact ⟨2 ^ 21 - 1, (tableAt 3, tableAt 2 + 3), (tableAt 2, tableAt 1 + 3), (tableAt 1, e),
      (ready [] []).writeNum (dpaKey (tableAt 1)) 8 e false, by cases present <;> cases inside <;> decide +kernel,
      by cases present <;> cases inside <;> decide +kernel, by cases present <;> cases inside <;> decide +kernel,
      by cases present <;> cases inside <;> decide +kernel, by cases present <;> cases inside <;> decide +kernel,
      by cases present <;> cases inside <;> decide +kernel, by cases present <;> cases inside <;> decide +kernel⟩
  · let e := (if inside then codeAt else 0x8000000000) + if present then 0x1F else 0x1D
    exact ⟨2 ^ 21 - 1, (tableAt 3, tableAt 2 + 3), (tableAt 2, tableAt 1 + 3), (tableAt 1, 0x40003), (0x40000 + 511 * 8, e),
      smallPages e, by cases present <;> cases inside <;> decide +kernel,
      by cases present <;> cases inside <;> decide +kernel, by cases present <;> cases inside <;> decide +kernel,
      by cases present <;> cases inside <;> decide +kernel, by cases present <;> cases inside <;> decide +kernel,
      by cases present <;> cases inside <;> decide +kernel, by cases present <;> cases inside <;> decide +kernel,
      by cases present <;> cases inside <;> decide +kernel⟩

/-- The last of 64 walks of die 0 is for chunk 1 of the copy, at an address. -/
def walking (c : Copy) (va : Nat) : State :=
  (withCopy c []).updDie 0 (fun d => { d with walks := (List.range 64).map (fun i =>
    (i, ⟨0, if i = 63 then va else 0, false, false, .copy (if i = 63 then 20 else 0) 1 false⟩)) })

/-- A walk for a copy that goes on. -/
def WalkEnds (s : State) (die n id chunk : Nat) (W : Walk) (wr : Bool) (c : Copy) : Prop :=
  ((s.die die).walks.take 64).find? (fun x => x.1 == n) = some (n, W) ∧ W.who = .copy id chunk wr ∧
    tget s.copies id = some c ∧ c.doomed = false ∧ c.code = 0 ∧ (∀ f ∈ c.faults, f.1 = chunk) ∧ s.hbmErr = []

theorem witness_walkEventClause :
    (∃ die n id chunk W wr c, ∃ s : State, WalkEnds s die n id chunk W wr c ∧ (s.walk c.vi W.va wr false).2.isSome = true) ∧
    (∃ die n id chunk W wr c, ∃ s : State, WalkEnds s die n id chunk W wr c ∧ (s.walk c.vi W.va wr false).1 = .replay) ∧
    ∃ die n id chunk W wr c, ∃ s : State, WalkEnds s die n id chunk W wr c ∧ (s.walk c.vi W.va wr false).1 = .bad :=
  ⟨⟨0, 63, 20, 1, ⟨0, 0x2000, false, false, .copy 20 1 false⟩, false, aCopy, walking aCopy 0x2000,
      ⟨by decide +kernel, rfl, by decide +kernel, rfl, rfl, by decide, by decide +kernel⟩, by decide +kernel⟩,
    ⟨0, 63, 20, 1, ⟨0, 0x2000, false, false, .copy 20 1 false⟩, false, aCopy,
      (walking aCopy 0x2000).writeNum (dpaKey (tableAt 3)) 8 (tableAt 2 + 1) false,
      ⟨by decide +kernel, rfl, by decide +kernel, rfl, rfl, by decide, by decide +kernel⟩, by decide +kernel⟩,
    0, 63, 20, 1, ⟨0, 2 ^ 57 - 1, false, false, .copy 20 1 false⟩, false, aCopy, walking aCopy (2 ^ 57 - 1),
    ⟨by decide +kernel, rfl, by decide +kernel, rfl, rfl, by decide, by decide +kernel⟩, by decide +kernel⟩

/-- Matrix word 30 of the warp stands in the queue of its scheduler. -/
def inQueue (op : MOp) : MWord := ⟨3, 2, 0, 0, all32, op, []⟩
@[inherit_doc inQueue] def withWord (op : MOp) : State := { matrix [] [] with mwords := [(30, inQueue op)] }

/-- A word that can perform. -/
abbrev MayPerform (s : State) (id : Nat) (m : MWord) : Prop :=
  tget s.mwords id = some m ∧ s.matrixHead id m = true ∧ s.matrixClear id m = true ∧
    s.imageReady id m = true ∧ s.matrixReach m = true

theorem may_perform {op : MOp} (h : ((withWord op).matrixHead 30 (inQueue op) && (withWord op).matrixClear 30 (inQueue op) &&
    (withWord op).imageReady 30 (inQueue op) && (withWord op).matrixReach (inQueue op)) = true) : MayPerform (withWord op) 30 (inQueue op) := by
  simp only [Bool.and_eq_true] at h
  exact ⟨rfl, h.1.1.1, h.1.1.2, h.1.2, h.2⟩

theorem witness_performClause :
    (∃ id m, ∃ s : State, tget s.mwords id = some m ∧ (s.matrixHead id m = false ∨ s.matrixClear id m = false ∨
      s.imageReady id m = false)) ∧
    (∃ id m, ∃ s : State, tget s.mwords id = some m ∧ s.imageReady id m = false) ∧
    (∃ id m r x, ∃ s : State, MayPerform s id m ∧ m.op = .obrel r ∧ tget s.resvs r = some x ∧ (s.block m.block).live = true) ∧
    (∃ id m r slot n x, ∃ s : State, MayPerform s id m ∧ m.op = .bload r slot n ∧ tget s.resvs r = some x ∧
      (s.block m.block).live = true ∧ slot + n = 64) ∧
    (∃ id m slot n, ∃ s : State, MayPerform s id m ∧ m.op = .bfree slot n ∧ slot + n = 64) ∧
    (∃ id m tile tag, ∃ s : State, MayPerform s id m ∧ m.op = .accz tile tag ∧ (s.block m.block).live = true) ∧
    (∃ id m tile tag row ty rm sf dst op, ∃ s : State, MayPerform s id m ∧ m.op = .accrd tile tag row ty rm sf dst op ∧
      (s.grid (s.warp m.warp).grid).launch.prot = false ∧ row = 63) ∧
    (∃ id m tile tag row cells fl, ∃ s : State, MayPerform s id m ∧ m.op = .accwr tile tag row cells fl ∧
      (s.block m.block).live = true ∧ (cells.map (·.1)).Nodup ∧ (∀ c ∈ cells, c.1 < 64) ∧
      (tag = 2 → s.cellKey m.block (tile + 1) 0 ≠ s.cellKey m.block tile 0) ∧ tag = 2 ∧ row = 63) ∧
    (∃ id m tile tag key op, ∃ s : State, MayPerform s id m ∧ m.op = .accst tile tag key op ∧
      (∀ i, i < accBytes tag → Storable s (key + i)) ∧ 2 ^ 100 ≤ key) ∧
    ∃ id m tile tag key op, ∃ s : State, MayPerform s id m ∧ m.op = .accld tile tag key op ∧ (s.block m.block).live = true ∧
      (tag = 2 → s.cellKey m.block (tile + 1) 0 ≠ s.cellKey m.block tile 0) ∧ tag = 2 := by
  refine ⟨⟨30, inQueue (.accz 7 0), { withWord (.accz 7 0) with mwords := [(29, inQueue (.accz 7 0)), (30, inQueue (.accz 7 0))] },
      by decide +kernel, by decide +kernel⟩,
    ⟨30, inQueue (.accld 6 2 dspAt 7), (withWord (.accld 6 2 dspAt 7)).updWarp 3 (fun W => { W with
      accs := [(9, { byteStore with key := dspAt })] }), by decide +kernel, by decide +kernel⟩,
    ⟨30, _, 20, aResv, withWord (.obrel 20), may_perform (by decide +kernel), rfl, by decide +kernel, by decide +kernel⟩,
    ⟨30, _, 20, 63, 1, aResv, withWord (.bload 20 63 1), may_perform (by decide +kernel), rfl, by decide +kernel, by decide +kernel, rfl⟩,
    ⟨30, _, 0, 64, withWord (.bfree 0 64), may_perform (by decide +kernel), rfl, rfl⟩,
    ⟨30, _, 7, 0, withWord (.accz 7 0), may_perform (by decide +kernel), rfl, by decide +kernel⟩,
    ⟨30, _, 5, 1, 63, 0, 0, true, 254, 7, withWord (.accrd 5 1 63 0 0 true 254 7), may_perform (by decide +kernel), rfl,
      by decide +kernel, rfl⟩,
    ⟨30, _, 6, 2, 63, [(0, 5), (63, BitVec.allOnes 64)], 31, withWord (.accwr 6 2 63 [(0, 5), (63, BitVec.allOnes 64)] 31),
      may_perform (by decide +kernel), rfl, by decide +kernel, by decide, by decide, by decide +kernel, rfl, rfl⟩,
    ⟨30, _, 7, 0, dspAt, 7, withWord (.accst 7 0 dspAt 7), may_perform (by decide +kernel), rfl, fun i hi => ?_, by decide⟩,
    30, _, 6, 2, dspAt, 7, withWord (.accld 6 2 dspAt 7), may_perform (by decide +kernel), rfl, by decide +kernel, by decide +kernel,
    rfl⟩
  have hi : i < 20480 := hi
  refine ⟨?_, rfl⟩
  simp only [isVoid, beq_eq_false_iff_ne, show dspAt = 2 ^ 100 + 0x40000 from by decide +kernel]
  omega

theorem witness_roomClause :
    (∃ w id dst m, ∃ s : State, s.reqOf w id = some (.matrixRoom m dst) ∧ NoNotice s w ∧ s.matrixReady m = true) ∧
    (∃ w id dst m, ∃ s : State, s.reqOf w id = some (.matrixRoom m dst) ∧ NoNotice s w ∧ s.matrixReady m = false) ∧
    (∃ w id dst r, ∃ s : State, s.reqOf w id = some (.obres dst r) ∧ NoNotice s w ∧
      (lowestFit (s.obHeld (s.warp w).core) 2048 (r.len + 1)).isSome = true) ∧
    ∃ w id dst r, ∃ s : State, s.reqOf w id = some (.obres dst r) ∧ NoNotice s w ∧
      lowestFit (s.obHeld (s.warp w).core) 2048 (r.len + 1) = none :=
  ⟨⟨3, 9, 7, inQueue (.obrel 20), parkedGang (withWord (.accz 7 0)) (.matrixRoom (inQueue (.obrel 20)) 7), by decide +kernel,
      noNotice (by decide +kernel), by decide +kernel⟩,
    ⟨3, 9, 7, inQueue (.obrel 20), { parkedGang (matrix [] []) (.matrixRoom (inQueue (.obrel 20)) 7) with
      mwords := (List.range 8).map (fun i => (i, inQueue (.accz 7 0))) }, by decide +kernel, noNotice (by decide +kernel), by decide +kernel⟩,
    ⟨3, 9, 6, { aResv with len := 2015 }, parkedGang (matrix [] []) (.obres 6 { aResv with len := 2015 }), by decide +kernel,
      noNotice (by decide +kernel), by decide +kernel⟩,
    3, 9, 6, { aResv with len := 2016 }, parkedGang (matrix [] []) (.obres 6 { aResv with len := 2016 }), by decide +kernel,
    noNotice (by decide +kernel), by decide +kernel⟩

/-- A multiplication of one chunk of F64, and the same of two passes. -/
def aMma : Mma := { fut := 0, tile := 5, resv := 20, slot := 60, k := 4, fmt := 3, groups := [⟨3, false, false, 64⟩] }

/-- It holds the array of core 0 until cycle 448, and it is cycle c. -/
def multiplying (o : Mma) (c : Nat) : State :=
  { (withWord (.mma o)).updCore 0 (fun k => { k with pass := some ⟨30, 2, 0, 448⟩ }) with
    now := 110 * c, futs := [(0, { st := .run, count := 1, kind := .matrix, op := 30 })], resvs := [(20, { aResv with fmt := 3 })] }

/-- A pass of it has the array. -/
abbrev HasArray (s : State) (core : Nat) (p : Pass) (m : MWord) (o : Mma) (r : Resv) : Prop :=
  (s.core core).pass = some p ∧ tget s.mwords p.word = some m ∧ m.op = .mma o ∧ m.core = core ∧ tget s.resvs o.resv = some r

/-- No other multiplication is to stop. -/
abbrev OthersGoOn (s : State) (p : Pass) : Prop :=
  ∀ x ∈ s.mwords, x.1 ≠ p.word → ∀ o', x.2.op = .mma o' → s.mmaStopped o' = false ∧ o'.code = 0 ∧ o'.passes < o'.total

theorem others_go_on (o : Mma) (c : Nat) : OthersGoOn (multiplying o c) ⟨30, 2, 0, 448⟩ := fun x hx h => by
  obtain rfl : x = (30, inQueue (.mma o)) := List.mem_singleton.mp hx
  exact absurd rfl h

theorem witness_passClause :
    (∃ core p m o r, ∃ s : State, HasArray s core p m o r ∧ OthersGoOn s p ∧ s.cycle core + 1 = p.stop) ∧
    (∃ core p m o r, ∃ s : State, HasArray s core p m o r ∧ OthersGoOn s p ∧ p.stop = s.cycle core ∧ s.noticed o.fut = false ∧
      o.code = 0 ∧ o.faults = [] ∧ o.dead = true ∧ (s.block m.block).live = true) ∧
    (∃ core p m o r, ∃ s : State, HasArray s core p m o r ∧ OthersGoOn s p ∧ p.stop = s.cycle core ∧ s.noticed o.fut = false ∧
      o.code = 0 ∧ o.faults = [] ∧ o.dead = false ∧ s.passPoison m o r o.passes = false ∧ (s.block m.block).live = true ∧
      s.cellKey m.block (o.tile + 1) 0 ≠ s.cellKey m.block o.tile 0 ∧ o.total = o.passes + 1 ∧ s.settled m.waits = true ∧ (s.fut o.fut).st = .run) ∧
    ∃ core p m o r, ∃ s : State, HasArray s core p m o r ∧ OthersGoOn s p ∧ p.stop = s.cycle core ∧ s.noticed o.fut = false ∧
      o.code = 0 ∧ o.faults = [] ∧ o.dead = false ∧ s.passPoison m o r o.passes = false ∧ (s.block m.block).live = true ∧
      o.passes + 1 < o.total :=
  ⟨⟨0, ⟨30, 2, 0, 448⟩, _, aMma, { aResv with fmt := 3 }, multiplying aMma 447,
      ⟨by decide +kernel, rfl, rfl, rfl, by decide +kernel⟩, others_go_on _ _, by decide +kernel⟩,
    ⟨0, ⟨30, 2, 0, 448⟩, _, { aMma with dead := true }, { aResv with fmt := 3 }, multiplying { aMma with dead := true } 448,
      ⟨by decide +kernel, rfl, rfl, rfl, by decide +kernel⟩, others_go_on _ _, by decide +kernel, by decide +kernel, rfl, rfl, rfl,
      by decide +kernel⟩,
    ⟨0, ⟨30, 2, 0, 448⟩, _, aMma, { aResv with fmt := 3 }, multiplying aMma 448,
      ⟨by decide +kernel, rfl, rfl, rfl, by decide +kernel⟩, others_go_on _ _, by decide +kernel, by decide +kernel, rfl, rfl, rfl,
      by decide +kernel, by decide +kernel, by decide +kernel, by decide +kernel, by decide +kernel, by decide +kernel⟩,
    0, ⟨30, 2, 0, 448⟩, _, { aMma with k := 68 }, { aResv with fmt := 3 }, multiplying { aMma with k := 68 } 448,
    ⟨by decide +kernel, rfl, rfl, rfl, by decide +kernel⟩, others_go_on _ _, by decide +kernel, by decide +kernel, rfl, rfl, rfl,
    by decide +kernel, by decide +kernel, by decide +kernel⟩

theorem witness_limiterClause :
    (∃ g, ∃ s : State, g < 48 ∧ (s.group g).cls < 3 ∧ (s.group g).count s.now % 4 ≠ 0) ∧
    ∃ g, ∃ s : State, g < 48 ∧ g = 47 ∧ (s.group g).cls < 3 ∧ (s.group g).count s.now % 4 = 0 ∧
      (s.group g).step ≠ some ((s.group g).count s.now / 4) :=
  ⟨⟨0, multiplying aMma 447, by decide, by decide +kernel, by decide +kernel⟩,
    47, multiplying aMma 448, by decide, rfl, by decide +kernel, by decide +kernel, by decide +kernel⟩

/-- A streamed multiplication of 32 columns of I8, its rows on the code page. -/
def aStream : Mma :=
  { fut := 0, tile := 5, resv := 20, slot := 63, k := 32, fmt := 8, groups := [⟨8, false, false, 32⟩], stream := some ⟨0x100, 0, 0, 0, none⟩ }

/-- Every piece of a streamed pass is translated to HBM. -/
def translated (s : State) (m : MWord) (o : Mma) (x : Stream) (mx : Bool) : Bool :=
  (List.range 64).all (fun row => ((s.rowPieces m o x mx row).1 ++ (s.rowPieces m o x mx row).2).all (fun p => match p.look with
    | .key k => decide (k < 0xC000000000)
    | _ => false))

theorem of_translated {s : State} {m : MWord} {o : Mma} {x : Stream} {mx : Bool} (h : translated s m o x mx = true) :
    ∀ row, row < 64 → ∀ p, p ∈ (s.rowPieces m o x mx row).1 ++ (s.rowPieces m o x mx row).2 →
      ∃ k, p.look = .key k ∧ ∀ d, dpaTarget s k = .cxl d → (s.die d).cxlUp = true := by
  intro row hr p hp
  have := List.all_eq_true.mp (List.all_eq_true.mp h row (List.mem_range.mpr hr)) p hp
  split at this
  · rename_i k hk
    refine ⟨k, hk, fun d hd => ?_⟩
    simp [dpaTarget, of_decide_eq_true this] at hd
  · cases this

theorem witness_fetchAndDroopClause :
    (∃ id m o x r, ∃ s : State, s.mmaOf id = some (m, o) ∧ o.stream = some x ∧ tget s.resvs o.resv = some r ∧ r.base < 2048 ∧
      r.soff < 2 ^ 15 ∧ (x.staged.isSome = true ∨ s.mmaReady id m o = false ∨
        s.gangOrdered m.warp m.lanes id = false)) ∧
    (∃ id m o x r, ∃ s : State, s.mmaOf id = some (m, o) ∧ o.stream = some x ∧ tget s.resvs o.resv = some r ∧ r.base < 2048 ∧
      r.soff < 2 ^ 15 ∧ x.staged = none ∧ s.mmaReady id m o = true ∧ s.gangOrdered m.warp m.lanes id = true ∧
      s.hbmErr = [] ∧ (s.core m.core).pass.any (fun p => p.word == id) = false ∧
      ∀ row, row < 64 → ∀ p, p ∈ (s.rowPieces m o x r.mx row).1 ++ (s.rowPieces m o x r.mx row).2 →
        ∃ k, p.look = .key k ∧ ∀ d, dpaTarget s k = .cxl d → (s.die d).cxlUp = true) ∧
    ∃ die quad i w p m, ∃ s : State, die < 4 ∧ quad < 24 ∧ i < 4 ∧ (s.core (die * 96 + quad * 4 + i)).pass = some p ∧
      tget s.mwords p.word = some m ∧ m.warp = w ∧ (s.grid (s.warp w).grid).done = false :=
  ⟨⟨30, inQueue (.mma { aStream with code := 1 }), { aStream with code := 1 }, ⟨0x100, 0, 0, 0, none⟩, aResv,
      withWord (.mma { aStream with code := 1 }), by decide +kernel, rfl, by decide +kernel, by decide, by decide, by decide +kernel⟩,
    ⟨30, inQueue (.mma aStream), aStream, ⟨0x100, 0, 0, 0, none⟩, aResv,
      (withWord (.mma aStream)).updDie 0 (fun d => { d with tlb := [(0, [codeEntry])] }), by decide +kernel, rfl, by decide +kernel,
      by decide, by decide, rfl, by decide +kernel, by decide +kernel, by decide +kernel, by decide +kernel, of_translated (by decide +kernel)⟩,
    0, 0, 0, 3, ⟨30, 2, 0, 448⟩, _, multiplying aMma 447, by decide, by decide, by decide, by decide +kernel, rfl, rfl,
    by decide +kernel⟩

/-- A fault of interface 0 by a requester, under token 0xFFFFFFFF; its entry is written, or waits for the fault queue, which has
n entries of 16. -/
def aFault (who : Requester) (entry : Option Nat) : FaultRec := ⟨0x1FFFF8, 0, 4, true, 0, 0, who, entry, false⟩
@[inherit_doc aFault] def faulted (s : State) (f : FaultRec) (n : Nat) : State :=
  s.updVi 0 (fun V => { V with fq := { base := 0x120004, head := 0, tail := BitVec.ofNat 17 n }, faults := [(0xFFFFFFFF, f)]
                               fqWait := if f.entry.isNone then [0xFFFFFFFF] else [], msixOn := true
                               el := { base := 0x130004, head := 0, tail := 15 } })

/-- Gang 9 of the warp waits for some pages: at an atomic of lane 31, or at the fetch of its word. -/
def atPages (r : Requester) (toks : List Nat) : State :=
  faulted (parkedGang (ready [] []) (.fetch toks)) (aFault r (some 0x120000)) 1
@[inherit_doc atPages] abbrev atPage (r : Requester) : State := atPages r [0xFFFFFFFF]

theorem witness_faultEntryClause :
    (∃ vi tok rest f, ∃ s : State, (s.vi vi).fqWait = tok :: rest ∧ tget (s.vi vi).faults tok = some f ∧
      2 ^ (s.vi vi).fq.log2n = (s.vi vi).fq.used) ∧
    (∃ vi tok rest f, ∃ s : State, (s.vi vi).fqWait = tok :: rest ∧ tget (s.vi vi).faults tok = some f ∧
      (s.vi vi).fq.used + 1 = 2 ^ (s.vi vi).fq.log2n ∧ s.ringOk vi (s.vi vi).fq 32 = true ∧ (s.vi vi).msixOn = true ∧
      (s.vi vi).msixMask = false ∧ (tgetD (s.vi vi).msix ((s.vi vi).vec 1) {}).masked = false) ∧
    (∃ vi tok f id k wr c, ∃ s : State, tget (s.vi vi).faults tok = some f ∧ f.entry.isSome ∧ f.cancelled = false ∧
      f.who = .copy id k wr ∧ tget s.copies id = some c ∧ (∃ x ∈ c.faults, x.2 = tok) ∧ (s.fut c.fut).st = .fault ∧ c.code = 0) ∧
    (∃ vi tok f word p sc m o, ∃ s : State, tget (s.vi vi).faults tok = some f ∧ f.entry.isSome ∧ f.cancelled = false ∧
      f.who = .matrix word p sc ∧ s.mmaOf word = some (m, o) ∧ tok ∈ o.faults) ∧
    (∀ more : Bool, ∃ vi tok f w g m x toks, ∃ s : State, tget (s.vi vi).faults tok = some f ∧ f.entry.isSome ∧ f.cancelled = false ∧
      f.who = .atom w g m ∧ tget (s.warp w).gangs g = some x ∧ x.req = .fetch toks ∧ NoNotice s w ∧ (s.warp w).cur = false ∧
      (s.warp w).Quiet ∧ m = 0x80000000 ∧ (s.warp w).gangLanes g &&& m ≠ 0 ∧ ((toks.filter (· != tok) = []) ↔ more = false)) ∧
    (∃ vi tok f w g x toks, ∃ s : State, tget (s.vi vi).faults tok = some f ∧ f.entry.isSome ∧ f.cancelled = false ∧
      f.who = .fetch w g ∧ tget (s.warp w).gangs g = some x ∧ x.req = .fetch toks ∧ NoNotice s w ∧ (s.warp w).cur = false ∧
      (s.warp w).Quiet ∧ (s.warp w).gangLanes g ≠ 0 ∧ toks.filter (· != tok) = []) ∧
    (∃ vi tok f w g x toks l, ∃ s : State, tget (s.vi vi).faults tok = some f ∧ f.entry.isSome ∧ f.cancelled = false ∧
      f.who = .fetch w g ∧ tget (s.warp w).gangs g = some x ∧ x.req = .fetch toks ∧ NoNotice s w ∧ (s.warp w).gangLanes g = 0 ∧
      ((s.warp w).lane l).alive = true ∧ ((s.warp w).lane l).parkRec = .gang g) ∧
    (∃ vi tok f, ∃ s : State, tget (s.vi vi).faults tok = some f ∧ f.entry.isSome ∧ f.cancelled = true) ∧
    (∃ vi tok, ∃ s : State, tget (s.vi vi).faults tok = none ∧ (s.vi vi).el.used + 1 = 2 ^ (s.vi vi).el.log2n) ∧
    ∃ vi tok f, ∃ s : State, tget (s.vi vi).faults tok = some f ∧ f.entry = none :=
  ⟨⟨0, 0xFFFFFFFF, [], _, faulted (ready [] []) (aFault (.copy 20 1 false) none) 16, by decide +kernel, rfl, by decide +kernel⟩,
    ⟨0, 0xFFFFFFFF, [], _, (faulted (ready [] []) (aFault (.copy 20 1 false) none) 15).updVi 0 (fun V => { V with
        vectors := 0x003F3F3F, msix := [(63, { masked := false })] }), by decide +kernel, rfl, by decide +kernel, by decide +kernel,
      by decide +kernel, by decide +kernel, by decide +kernel⟩,
    ⟨0, 0xFFFFFFFF, _, 20, 1, false, { aCopy with faults := [(1, 0xFFFFFFFF)] },
      { faulted (withCopy { aCopy with faults := [(1, 0xFFFFFFFF)] } []) (aFault (.copy 20 1 false) (some 0x120000)) 1 with
        futs := [(0, { st := .fault, count := 1, kind := .copy, op := 20 })] }, rfl, rfl, rfl, rfl, rfl, by decide, by decide +kernel, rfl⟩,
    ⟨0, 0xFFFFFFFF, _, 30, 0, false, inQueue (.mma { aStream with faults := [0xFFFFFFFF] }), { aStream with faults := [0xFFFFFFFF] },
      faulted (withWord (.mma { aStream with faults := [0xFFFFFFFF] })) (aFault (.matrix 30 0 false) (some 0x120000)) 1,
      rfl, rfl, rfl, rfl, by decide +kernel, by decide⟩,
    fun more => ⟨0, 0xFFFFFFFF, _, 3, 9, 0x80000000, ⟨all32, .fetch (if more then [7, 0xFFFFFFFF] else [0xFFFFFFFF]), 0, 0, []⟩, _,
      atPages (.atom 3 9 0x80000000) (if more then [7, 0xFFFFFFFF] else [0xFFFFFFFF]), rfl, rfl, rfl, rfl,
      by cases more <;> decide +kernel, rfl, noNotice (by cases more <;> decide +kernel), by cases more <;> decide +kernel,
      quiet (by cases more <;> decide +kernel), rfl, by cases more <;> decide +kernel, by cases more <;> decide⟩,
    ⟨0, 0xFFFFFFFF, _, 3, 9, ⟨all32, .fetch [0xFFFFFFFF], 0, 0, []⟩, _, atPage (.fetch 3 9), rfl, rfl, rfl, rfl, by decide +kernel,
      rfl, noNotice (by decide +kernel), by decide +kernel, quiet (by decide +kernel), by decide +kernel, by decide⟩,
    ⟨0, 0xFFFFFFFF, _, 3, 9, ⟨all32, .fetch [0xFFFFFFFF], 0, 0, []⟩, _, 31, eachLane (atPage (.fetch 3 9)) (fun _ L => { L with
      park := .no, parkRec := .gang 9 }), rfl, rfl, rfl, rfl, by decide +kernel,
      rfl, noNotice (by decide +kernel), by decide +kernel, by decide +kernel, by decide +kernel⟩,
    ⟨0, 0xFFFFFFFF, _, faulted (ready [] []) { aFault (.fetch 3 9) (some 0x120000) with cancelled := true } 1, rfl, rfl, rfl⟩,
    ⟨0, 1, atPage (.fetch 3 9), by decide +kernel, by decide +kernel⟩,
    0, 0xFFFFFFFF, _, faulted (ready [] []) (aFault (.fetch 3 9) none) 1, rfl, rfl⟩

theorem witness_queueHeadClause :
    (∃ vi, ∃ v : Word, ∃ s : State, ((s.vi vi).cq.tail - v.setWidth 17).toNat = ((s.vi vi).cq.tail - (s.vi vi).cq.head).toNat ∧
      (s.vi vi).cqWait = []) ∧
    ∃ vi bs c b, ∃ v : Word, ∃ s : State, ((s.vi vi).cq.tail - v.setWidth 17).toNat + 1 = ((s.vi vi).cq.tail - (s.vi vi).cq.head).toNat ∧
      (s.vi vi).cqWait = [⟨bs, 64, c, b⟩] ∧ bs.length = 24 ∧
      ({ (s.vi vi).cq with head := v.setWidth 17 } : Ring).used < 2 ^ ({ (s.vi vi).cq with head := v.setWidth 17 } : Ring).log2n ∧
      s.ringOk vi { (s.vi vi).cq with head := v.setWidth 17 } 32 = true :=
  ⟨⟨0, 0, withCq (ready [] []), by decide +kernel, by decide +kernel⟩,
    0, leBytes 24 5, 7, 9, 1, (withCq (ready [] [])).updVi 0 (fun V => { V with cq := { V.cq with tail := 16 }, cqWait := [⟨leBytes 24 5, 64, 7, 9⟩] }),
    by decide +kernel, by decide +kernel, by decide +kernel, by decide +kernel, by decide +kernel⟩

/-- Every offset of BAR0 without a register, or of one that only takes writes, reads as zero, with an entry in the log. -/
theorem witness_RegisterEvents :
    (∃ fn, ∃ s : State, fn = 63 ∧ fn < 64 ∧ s.boot.phase ≠ .recovery) ∧
    (∃ off, off % 4 = 0 ∧ (bar0Gap off ∨ off / 8 = 4 ∨ off / 8 = 8) ∧ off = 0x44) ∧ (∃ off, bar0Gap off ∧ off = 0x214) ∧ (∃ off, bar0Gap off ∧ off = 0x8408) ∧
    (∃ v : DWord, v &&& 0x00000FFF00000000 = 0 ∧ v ≠ 0) ∧ (∃ v : DWord, v &&& 0x0FFF0000 = 0 ∧ v ≠ 0) ∧
    (∃ v : DWord, v &&& 0x60000000 = 0 ∧ v.getLsbD 31 = true) ∧
    (∃ vi, ∃ s : State, vi < 64 ∧ vi = 63 ∧ s.boot.phase ≠ .recovery ∧ (s.vi vi).cqWait = []) ∧
    (∃ g c, ∃ s : State, (s.group g).pend = some c ∧ (s.group g).emptySince = none) ∧
    (∃ g c t, ∃ s : State, (s.group g).pend = some c ∧ (s.group g).emptySince = some t ∧ s.now = t + 200 * 2970) ∧
    ∃ fn, ∃ s : State, s.boot.phase = .ready ∧ fn < 64 ∧ fn = 63 :=
  ⟨⟨63, ready [] [], rfl, by decide, by decide +kernel⟩, ⟨0x44, rfl, .inr (.inr rfl), rfl⟩,
    ⟨0x214, .inr (.inr (.inr (.inl ⟨Nat.le_refl _, by decide⟩))), rfl⟩, ⟨0x8408, .inr (.inr (.inr (.inr (Nat.le_refl _)))), rfl⟩, ⟨1, by decide⟩, ⟨1, by decide⟩, ⟨0x80000000, by decide, by decide⟩,
    ⟨63, ready [] [], by decide, rfl, by decide +kernel, by decide +kernel⟩,
    ⟨47, 3, (ready [] []).updGroup 47 (fun k => { k with pend := some 3 }), by decide +kernel, by decide +kernel⟩,
    ⟨47, 3, 0, { (ready [] []).updGroup 47 (fun k => { k with pend := some 3, emptySince := some 0 }) with now := 594000 },
      by decide +kernel, by decide +kernel, by decide +kernel⟩,
    63, ready [] [], by decide +kernel, by decide, rfl⟩

/-- A packet of die 3 stands at stop 7 of the clockwise ring, bound for a stop. -/
def aPacket (dst : Nat) : Packet :=
  { cw := true, dst := dst, hops := 1, stop := 7, injecting := false, vc := 2, ready := 0, arrived := 0, far := (3, dst) }
@[inherit_doc aPacket] def onRing (p : Packet) (escape : Nat) : State :=
  { (ready [] []).updDie 3 (fun d => { d with packets := [(40, p)], ports := [(0, { shared := 3, escape := escape })] }) with now := 880 }

/-- A packet of die 3 is at a bridge, bound for stop 7 or 4 of die 0, by way of die 2. -/
def atBridge (k : Nat) : Packet := { aPacket 0 with stop := 0, far := (0, k) }

/-- An atomic on `.mem` of lane 31, its word at 0x40, behind a peer's link. -/
def peerAtom : Copy := { memAdd with atoms := [(31, peerKey 0 15 0, ⟨0, 3, 0, 5, 0, true⟩, 254, 7)], pc := 0x40 }

theorem witness_HostAndLinkEvents :
    (∃ addr n, ∃ s : State, 1 ≤ n ∧ n ≤ 8 ∧ addr + n = 768 * 2 ^ 30 ∧ (n = 4 ∨ n = 8) ∧ addr % n = 0 ∧ s.hbmErr = []) ∧
    (∃ addr n, addr + n = 768 * 2 ^ 30 + 1 ∧ 768 * 2 ^ 30 < addr + n) ∧
    (∃ vi addr n a, ∃ s : State, vi < 64 ∧ 1 ≤ n ∧ n ≤ 8 ∧ addr % n = 0 ∧ (s.walk vi addr false false).1 = .ok a ∧ s.hbmErr = [] ∧
      addr + n = 2 ^ 21) ∧
    (∃ vi addr n a, ∃ ty : BitVec 3, ∃ s : State, vi < 64 ∧ 1 ≤ n ∧ n ≤ 8 ∧ addr % n = 0 ∧
      (s.walk vi addr true false).1 = .ok a ∧ Storable s (dpaByte vi a) ∧ s.hbmErr = [] ∧ n = if wideTy ty then 8 else 4) ∧
    (∃ vi addr n op, ∃ s : State, vi < 64 ∧ 1 ≤ n ∧ n ≤ 8 ∧ addr % n = 0 ∧ (∀ a, (s.walk vi addr (op != 0) false).1 ≠ .ok a) ∧
      vi = 63) ∧
    (∃ src dst : Nat, src < 8 ∧ dst < 8 ∧ src ≠ dst ∧ dst = 7) ∧
    (∃ die pkt p, ∃ s : State, tget (s.die die).packets pkt = some p ∧ (p.injecting = true ∨ p.stop ≠ p.dst) ∧ p.ready ≤ s.fabric ∧
      (s.port die p.stop p.ring).busy ≤ s.fabric ∧ ¬ 4 ≤ (s.port die p.nextStop p.ring).shared ∧
      (4 ≤ (s.port die p.nextStop p.ring).escape ∧ (p.injecting = false ∧ p.vc = 2 ∨ 2 ≤ s.freeEscapes die p.ring)) ∧
      ∀ x ∈ (s.die die).packets, x.2.stop = p.stop → x.2.cw = p.cw → s.sendable die x.2 = true → servedBefore x (pkt, p) = false) ∧
    (∃ die pkt p, ∃ s : State, tget (s.die die).packets pkt = some p ∧ (p.injecting = true ∨ p.stop ≠ p.dst) ∧
      ¬ (4 ≤ (s.port die p.nextStop p.ring).shared ∨ 4 ≤ (s.port die p.nextStop p.ring).escape)) ∧
    (∃ die pkt p, ∃ s : State, tget (s.die die).packets pkt = some p ∧ p.injecting = false ∧ p.stop = p.dst ∧ p.ready ≤ s.fabric ∧
      (s.port die p.stop p.ring).sink ≤ s.fabric) ∧
    (∃ die src d k : Nat, die < 4 ∧ src < 8 ∧ d < 4 ∧ k < 8 ∧ d ≠ die ∧ src ≠ bridgeStop die d ∧ die % 2 ≠ d % 2 ∧ die / 2 ≠ d / 2) ∧
    (∃ die pkt p, ∃ s : State, tget (s.die die).packets pkt = some p ∧ p.injecting = false ∧ p.stop = p.dst ∧ p.ready ≤ s.fabric ∧
      (s.port die p.stop p.ring).sink ≤ s.fabric ∧ p.far = (die, p.dst)) ∧
    (∀ ends : Bool, ∃ die pkt p, ∃ s : State, tget (s.die die).packets pkt = some p ∧ p.injecting = false ∧ p.stop = p.dst ∧
      p.ready ≤ s.fabric ∧ (s.port die p.stop p.ring).sink ≤ s.fabric ∧ die < 4 ∧ p.far.1 < 4 ∧ p.far.1 ≠ die ∧
      p.dst = bridgeStop die p.far.1 ∧
      (((if (if p.dst = 0 then Nat.xor die 1 else Nat.xor die 2) = p.far.1 then p.far.2
        else bridgeStop (if p.dst = 0 then Nat.xor die 1 else Nat.xor die 2) p.far.1) = p.stop) ↔ ends = true)) ∧
    (∃ chan pin, ∃ s : State, tget s.pinMarks chan = none ∧
      (s.pinHits.filter (fun h => h.1 == chan && h.2.1 == pin && s.now - h.2.2 ≤ 2970000000)).length = 16) ∧
    (∃ line d, ∃ s : State, dpaTarget s (64 * line) = .cxl d ∧ d = 3) ∧
    (∃ id c, ∃ s : State, tget s.copies id = some c ∧ c.atoms = [] ∧ c.doomed = false ∧ c.allLanded = false ∧ c.src.isPeer = true ∧
      ∃ b, c.bar = some b ∧ c.total - c.landedBytes ≤ (s.bar b).pend) ∧
    (∃ id c l x n va, ∃ s : State, tget s.copies id = some c ∧ (∃ a ∈ c.atoms, a.2.1 / 2 ^ 100 = 8) ∧ c.atoms = [(l, x)] ∧
      c.src = .elems n [va] ∧ l < 32 ∧ (s.warp c.warp).alive.getLsbD l = true ∧ (tget s.warps c.warp).isSome ∧
      (s.warp c.warp).cur = false ∧ (s.warp c.warp).Quiet) ∧
    ∃ die x, ∃ s : State, (s.copies.map (·.1)).Nodup ∧ (∀ x ∈ s.copies, s.atomAtPort x.2 die = false) ∧ x ∈ s.copies ∧
      (∃ f ∈ x.2.flying, die ∈ f.ports) ∧ ∀ x ∈ s.copies, (∃ f ∈ x.2.flying, die ∈ f.ports) → x.2.bar = none :=
  ⟨⟨768 * 2 ^ 30 - 8, 8, ready [] [], by decide, by decide, rfl, by decide, by decide, by decide +kernel⟩,
    ⟨768 * 2 ^ 30, 1, rfl, by decide⟩,
    ⟨0, 2 ^ 21 - 8, 8, codeAt + 2 ^ 21 - 8, ready [] [], by decide, by decide, by decide, by decide, by decide +kernel,
      by decide +kernel, rfl⟩,
    ⟨0, 2 ^ 21 - 4, 4, codeAt + 2 ^ 21 - 4, 4, ready [] [], by decide, by decide, by decide, by decide, by decide +kernel,
      storable (by decide +kernel), by decide +kernel, by decide⟩,
    ⟨63, 0, 8, 1, ready [] [], by decide, by decide, by decide, by decide, (by
      rw [show ((ready [] []).walk 63 0 (1 != 0) false).1 = .bad from by decide +kernel]
      exact fun _ h => by cases h), rfl⟩,
    ⟨0, 7, by decide, by decide, by decide, rfl⟩,
    ⟨3, 40, aPacket 0, onRing (aPacket 0) 4, by decide +kernel, by decide, by decide +kernel, by decide +kernel, by decide +kernel,
      by decide +kernel, by decide +kernel⟩,
    ⟨3, 40, aPacket 0, onRing (aPacket 0) 3, by decide +kernel, by decide, by decide +kernel⟩,
    ⟨3, 40, aPacket 7, onRing (aPacket 7) 4, by decide +kernel, rfl, rfl, by decide +kernel, by decide +kernel⟩,
    ⟨0, 7, 3, 4, by decide, by decide, by decide, by decide, by decide, by decide, by decide, by decide⟩,
    ⟨3, 40, aPacket 7, onRing (aPacket 7) 4, by decide +kernel, rfl, rfl, by decide +kernel, by decide +kernel, rfl⟩,
    (fun ends => ⟨if ends then 1 else 3, 40, atBridge (if ends then 0 else 7), { (ready [] []) with
        dies := [(if ends then 1 else 3, { packets := [(40, atBridge (if ends then 0 else 7))] })], now := 880 },
      by cases ends <;> decide +kernel, by cases ends <;> rfl, by cases ends <;> rfl, by cases ends <;> decide +kernel,
      by cases ends <;> decide +kernel, by cases ends <;> decide, by cases ends <;> decide, by cases ends <;> decide,
      by cases ends <;> decide, by cases ends <;> decide⟩),
    ⟨47, 63, { ready [] [] with pinHits := List.replicate 16 (47, 63, 0), now := 2970000000 }, by decide +kernel, by decide +kernel⟩,
    ⟨(2 ^ 40 + 3 * 2 ^ 40) / 64, 3, (ready [] []).updDie 3 (fun d => { d with cxlwin := 1, cxlUp := true }), by decide +kernel, rfl⟩,
    ⟨20, { aCopy with src := .peer 15 0x1000 }, withCopy { aCopy with src := .peer 15 0x1000 } [], by decide +kernel, rfl, rfl,
      by decide +kernel, rfl, ⟨1, 2, 15⟩, rfl, by decide +kernel⟩,
    ⟨20, peerAtom, 31, _, 8, 0x1FFFF8, withCopy peerAtom [], by decide +kernel, by decide +kernel, rfl, rfl, by decide,
      by decide +kernel, by decide +kernel, by decide +kernel, quiet (by decide +kernel)⟩,
    3, (20, { aCopy with next := 2, bar := none, flying := [{ aFlight with ports := [3] }] }),
    withCopy { aCopy with next := 2, bar := none, flying := [{ aFlight with ports := [3] }] } [], by decide +kernel, by decide +kernel,
    by decide +kernel, by decide +kernel, by decide +kernel⟩

/-- A request of a code in version 1.3, with its third parameter. -/
def asks (code k : Byte) : List Byte := [0x13, code, 1, k] ++ List.replicate 41 0
/-- The module is ready, and version, capabilities and algorithms are agreed. -/
def responder : State := { ready [] [] with boot := { phase := .ready, version := true, caps := true, algs := true } }

theorem witness_BringUpEvents :
    (∃ s : State, (s.clusters.map (·.1)).Nodup ∧ s.clusters ≠ []) ∧
    (∃ req : List Byte, ∃ s : State, s.boot.phase = .ready ∧ req.length = 45 ∧ req.getD 1 0 = 0x84) ∧
    (∃ req : List Byte, ∃ s : State, s.boot.phase = .ready ∧ req.length = 45 ∧ req.getD 1 0 = 0xE1 ∧ s.boot.version = true ∧ req.headD 0 = 0x13) ∧
    (∃ req : List Byte, ∃ s : State, s.boot.phase = .ready ∧ req.length = 45 ∧ req.getD 1 0 = 0xE3 ∧ s.boot.caps = true ∧ req.headD 0 = 0x13) ∧
    (∃ req : List Byte, ∃ s : State, s.boot.phase = .ready ∧ req.length = 45 ∧ req.getD 1 0 = 0x81 ∧ s.boot.algs = true ∧ req.headD 0 = 0x13) ∧
    (∃ req : List Byte, ∃ s : State, s.boot.phase = .ready ∧ req.length = 45 ∧ req.getD 1 0 = 0x82 ∧ s.boot.algs = true ∧ req.headD 0 = 0x13 ∧
      (req.getD 2 0).toNat % 16 = 0) ∧
    (∃ req : List Byte, ∃ s : State, s.boot.phase = .ready ∧ req.length = 45 ∧ req.getD 1 0 = 0x83 ∧ s.boot.algs = true ∧ req.headD 0 = 0x13 ∧
      (req.getD 2 0).toNat % 16 = 0 ∧ req.getD 3 0 = 0xFF) ∧
    (∃ (req : List Byte) (i : Nat), ∃ s : State, s.boot.phase = .ready ∧ req.length = 45 ∧ req.getD 1 0 = 0xE0 ∧ s.boot.algs = true ∧ req.headD 0 = 0x13 ∧
      (req.getD 36 0).toNat % 16 = 0 ∧ req.getD 3 0 = BitVec.ofNat 8 i ∧ 1 ≤ i ∧ i ≤ 4 ∧ (req.getD 2 0).getLsbD 0 = true) ∧
    ∃ req : List Byte, ∃ s : State, s.boot.phase = .ready ∧ req.length = 45 ∧ req.getD 1 0 ∉ ([0x84, 0xE1, 0xE3, 0x81, 0x82, 0x83, 0xE0] : List Byte) :=
  ⟨⟨ready [] [], by decide +kernel, by decide +kernel⟩,
    ⟨asks 0x84 0, responder, rfl, rfl, rfl⟩, ⟨asks 0xE1 0, responder, rfl, rfl, rfl, rfl, rfl⟩,
    ⟨asks 0xE3 0, responder, rfl, rfl, rfl, rfl, rfl⟩, ⟨asks 0x81 0, responder, rfl, rfl, rfl, rfl, rfl⟩,
    ⟨[0x13, 0x82, 0, 0] ++ List.replicate 41 0, responder, rfl, rfl, rfl, rfl, rfl, rfl⟩,
    ⟨[0x13, 0x83, 0x10, 0xFF] ++ List.replicate 41 0, responder, rfl, rfl, rfl, rfl, rfl, rfl, rfl⟩,
    ⟨asks 0xE0 4, 4, responder, rfl, rfl, rfl, rfl, rfl, rfl, rfl, by decide, by decide, rfl⟩,
    asks 0xE5 0, responder, rfl, rfl, by decide⟩

theorem witness_ArithmeticRule :
    (∃ t s m, Meets (.add t) t.h (triUses t shBin false) s m) ∧ (∃ t s m, Meets (.sub t) t.h (triUses t shBin false) s m) ∧
    (∃ t s m, Meets (.mul t) t.h (triUses t shBin false) s m) ∧ (∃ t s m, Meets (.mad t) t.h (triUses t shTern false) s m) ∧
    (∃ t s m, Meets (.neg t) t.h (triUses t shUn false) s m) ∧ (∃ t s m, Meets (.abs t) t.h (triUses t shUn false) s m) ∧
    (∃ t s m, Meets (.min t) t.h (triUses t shBin false) s m) ∧ (∃ t s m, Meets (.max t) t.h (triUses t shBin false) s m) ∧
    (∃ t s m, Meets (.mulhi t) t.h (triUses t shBin false) s m) ∧
    (∃ t s m, Meets (.addImm t) t.h ⟨[(t.a.toNat, 1)], [(t.d.toNat, 1)], false⟩ s m) ∧
    ∃ t s m, Meets (.subImm t) t.h ⟨[(t.a.toNat, 1)], [(t.d.toNat, 1)], false⟩ s m :=
  ⟨⟨{ d := 254, a := 254, b := 254, ty := 3, sf := true }, ready [] [], all32, meets (by decide +kernel)⟩,
    ⟨{ h := g3, d := 255, a := 0, b := 63, sub := 0x80 }, guarded [] [], ends2, meets (by decide +kernel)⟩,
    ⟨{ d := 254, ty := 2 }, ready [] [], all32, meets (by decide +kernel)⟩,
    ⟨{ d := 255, c := 255, ty := 1 }, ready [] [], all32, meets (by decide +kernel)⟩,
    ⟨{ d := 255, a := 255, sf := true }, ready [] [], all32, meets (by decide +kernel)⟩,
    ⟨{ d := 255, a := 255 }, ready [] [], all32, meets (by decide +kernel)⟩,
    ⟨{ d := 255, ty := 1 }, ready [] [], all32, meets (by decide +kernel)⟩,
    ⟨{ d := 254, ty := 2 }, ready [] [], all32, meets (by decide +kernel)⟩,
    ⟨{ d := 254, ty := 3 }, ready [] [], all32, meets (by decide +kernel)⟩,
    ⟨{ h := g3, d := 255, a := 255, imm := 0x80000000 }, guarded [] [], ends2, meets (by decide +kernel)⟩,
    { d := 255, a := 255, imm := 0xFFFFFFFF }, ready [] [], all32, meets (by decide +kernel)⟩

theorem witness_CarryRule :
    (∃ t s m, Meets (.addc t) t.h (triUses t shCarry false) s m ∧ t.sf = true) ∧
    (∃ t s m, Meets (.addc t) t.h (triUses t shCarry false) s m ∧ t.sf = false ∧ t.c = 15) ∧
    ∃ t s m, Meets (.subb t) t.h (triUses t shCarry false) s m :=
  ⟨⟨{ d := 255, c := 14, ty := 1, sf := true }, ready [] [], all32, meets (by decide +kernel), rfl⟩,
    ⟨{ d := 255, c := 15, ty := 1 }, ready [] [], all32, meets (by decide +kernel), rfl, rfl⟩,
    { d := 255, c := 3, ty := 1 }, ready [] [], all32, meets (by decide +kernel)⟩

theorem witness_RoundTrip :
    (∃ i : Instr, i.isWord = true ∧ i.wf = true ∧ (encode i).length = 8) ∧
    ∃ i : Instr, i.isWord = true ∧ i.wf = true ∧ (encode i).length = 16 :=
  ⟨⟨.subImm { d := 255, a := 255, imm := 0xFFFFFFFF }, rfl, by decide, by decide⟩,
    .fmul { h := { live := some 0x0000000300000008, w := true }, d := 6, a := 8, b := 10, rm := 1, ty := 5 }, rfl, by decide, by decide⟩

theorem witness_DecodeSound : ∃ bs rest i, decode bs = .ok (i, rest) ∧ rest = [7] :=
  ⟨leBytes 8 0x0026010203000000 ++ [7], [7], .add { h := { g := 3 }, d := 1, a := 2, b := 3 }, by decide +kernel, rfl⟩

/-- A word stands at address 0 of a warp's 32 lanes, and its scheduler moves next. -/
def issuing (w : Nat) : State := { at' w [] [] with agenda := [.issue 0 0] }

/-- What `StepRunsDecoded` asks of a state whose scheduler 0 moves next, of the word's address and of its mask word's. -/
def Issues (s X : State) (w l a b vi : Nat) (W : Warp) (L : Lane) (g : BitVec 32) : Prop :=
  s.agenda = [.issue 0 0] ∧ ({ s with agenda := [] }).mayIssue 0 0 = true ∧
    (risen { s with agenda := [] } 0 0).choose 0 0 = some (w, W) ∧ W.leader (s.cycle 0) = some (l, L) ∧
    g = W.gangAt (s.cycle 0) L.pc ∧ X = (risen { s with agenda := [] } 0 0).account 0 0 w ∧ vi = (X.warp w).vi ∧
    s.hbmErr = [] ∧ X.tainted (dpaByte vi a) 8 = false ∧ X.tainted (dpaByte vi b) 8 = false ∧
    L.pc.toNat % 8 = 0 ∧ (X.xlate vi (X.warp w).core L.pc.toNat false true).1 = .ok a ∧
    (flag (leNat (bytesAt X.mem (dpaByte vi a) 8)) 62 = true →
      (X.xlate vi (X.warp w).core (L.pc.toNat + 8) false true).1 = .ok b)

/-- The warp that issues. -/
def issuer (w : Nat) : Warp := (risen { issuing w with agenda := [] } 0 0).warp 3

theorem issues (w : Nat) (h : (decide ((issuing w).hbmErr = []) &&
      !((risen { issuing w with agenda := [] } 0 0).account 0 0 3).tainted (dpaByte
        (((risen { issuing w with agenda := [] } 0 0).account 0 0 3).warp 3).vi codeAt) 8 &&
      !((risen { issuing w with agenda := [] } 0 0).account 0 0 3).tainted (dpaByte
        (((risen { issuing w with agenda := [] } 0 0).account 0 0 3).warp 3).vi (codeAt + 8)) 8 &&
      ({ issuing w with agenda := [] }).mayIssue 0 0 &&
      decide (((risen { issuing w with agenda := [] } 0 0).choose 0 0) = some (3, issuer w)) &&
      decide ((issuer w).leader ((issuing w).cycle 0) = some (0, (issuer w).lane 0)) &&
      decide (((issuer w).lane 0).pc = 0) &&
      decide ((((risen { issuing w with agenda := [] } 0 0).account 0 0 3).xlate
        (((risen { issuing w with agenda := [] } 0 0).account 0 0 3).warp 3).vi
        (((risen { issuing w with agenda := [] } 0 0).account 0 0 3).warp 3).core 0 false true).1 = .ok codeAt) &&
      decide ((((risen { issuing w with agenda := [] } 0 0).account 0 0 3).xlate
        (((risen { issuing w with agenda := [] } 0 0).account 0 0 3).warp 3).vi
        (((risen { issuing w with agenda := [] } 0 0).account 0 0 3).warp 3).core 8 false true).1 = .ok (codeAt + 8))) = true) :
    ∃ X vi L g, Issues (issuing w) X 3 0 codeAt (codeAt + 8) vi (issuer w) L g := by
  simp only [Bool.and_eq_true, decide_eq_true_eq, Bool.not_eq_true'] at h
  obtain ⟨⟨⟨⟨⟨⟨⟨⟨e1, e2⟩, e3⟩, h1⟩, h2⟩, h3⟩, h4⟩, h5⟩, h6⟩ := h
  exact ⟨_, _, _, _, rfl, h1, h2, h3, rfl, rfl, rfl, e1, e2, e3, by rw [h4]; rfl, by rw [h4]; exact h5, fun _ => by rw [h4]; exact h6⟩

theorem witness_StepRunsDecoded :
    (∃ s X w l a b vi W L g, Issues s X w l a b vi W L g) ∧
    (∃ s X w l a b vi W L g i rest, Issues s X w l a b vi W L g ∧ decode (wordBytes X vi a b) = .ok (i, rest)) ∧
    ∃ (s : State) (ms : List Move) (i : Instr), s.agenda = .event i :: ms ∧ i.isWord = false := by
  refine ⟨?_, ?_, { ready [] [] with agenda := [.event .packageReset] }, [], .packageReset, rfl, rfl⟩
  · obtain ⟨X, vi, L, g, h⟩ := issues 0 (by decide +kernel)
    exact ⟨_, _, _, _, _, _, _, _, _, _, h⟩
  · obtain ⟨X, vi, L, g, h⟩ := issues 0x0000000300000008685E06080A001500 (by decide +kernel)
    refine ⟨_, _, _, _, _, _, _, _, _, _, .fmul
      { h := { live := some 0x0000000300000008, w := true }, d := 6, a := 8, b := 10, rm := 1, ty := 5 }, [], h, ?_⟩
    obtain ⟨-, -, -, -, -, rfl, rfl, -⟩ := h
    decide +kernel

theorem witness_StepKeepsCanonical : ∃ s : State, s.Canonical ∧ s.mem ≠ [] := ⟨ready [] [], by unfold State.Canonical; decide +kernel, by decide +kernel⟩

/-! ### The litmus tests of the ordering model (R206 to R213). -/

namespace Litmus

open Ordering

/-- What a thread of a test does. A location is named by its number and a write by a tag; the tag of a location's initial
write is its number. -/
inductive Op where
  | st (loc tag : Nat) (rel : Option Nat)
  | ld (loc tag : Nat) (acq : Option Nat)
  | sc (scope : Nat)
  | wait
  | copy (q : Nat) (src dst : Option (Nat × Nat))
  | see
  deriving DecidableEq, Repr

/-- A plain store and load, and a copy that writes or reads one location. -/
def st (loc tag : Nat) : Op := .st loc tag none
def ld (loc tag : Nat) : Op := .ld loc tag none
def put (q loc tag : Nat) : Op := .copy q none (some (loc, tag))
def get (q loc tag : Nat) : Op := .copy q (some (loc, tag)) none

/-- An execution being built: its writes by tag, its reads with the tags that they return, and its sc fences. -/
structure Build where
  x : Execution
  tags : List (Nat × Nat)
  want : List (Nat × Nat) := []
  fences : List Nat := []
  ops : Nat := 0

/-- One more event. -/
def Build.add (b : Build) (e : Event) : Build := { b with x := { b.x with events := b.x.events ++ [e] } }
/-- The number of the next event. -/
def Build.n (b : Build) : Nat := b.x.events.length
/-- The next event writes, or reads, under a tag. -/
def Build.tag (b : Build) (t : Nat) : Build := { b with tags := (t, b.n) :: b.tags }
def Build.from' (b : Build) (t : Nat) : Build := { b with want := (t, b.n) :: b.want }

/-- A thread and the member cores of its cluster. -/
abbrev Stood := Who × List Nat

/-- An event of a thread at its place, with a scope. -/
def mine (w : Stood) (k : Kind) (seq : Nat) (scope : Option Nat) : Event :=
  { kind := k, maker := .thread w.1, seq := seq, scope := scope.getD 0, members := w.2 }

/-- One operation of a thread at its place. -/
def Build.op (loc : Nat → Bytes) (w : Stood) (b : Build) (o : Op × Nat) : Build :=
  match o.1 with
  | .st l t r => (b.tag t).add (mine w (.write (loc l) r.isSome false) o.2 r)
  | .ld l t a => (b.from' t).add (mine w (.read (loc l) a.isSome false) o.2 a)
  | .sc s => { b with fences := b.fences ++ [b.n] }.add (mine w (.fence .sc) o.2 (some s))
  | .wait => { b with x := { b.x with waits := (w.1.warp, o.2) :: b.x.waits } }
  | .see => { b with x := { b.x with waits := (w.1.warp, o.2) :: b.x.waits } }.add (mine w (.observe (b.ops - 1)) o.2 none)
  | .copy q src dst =>
    let c := b.ops
    let b := { b with ops := c + 1, x := { b.x with engines := ⟨c, q, c, none⟩ :: b.x.engines } }.add (mine w (.issue c) o.2 none)
    let b := match src with
      | some (l, t) => (b.from' t).add { kind := .read (loc l) false false, maker := .engine c }
      | none => b
    let b := match dst with
      | some (l, t) => (b.tag t).add { kind := .write (loc l) false false, maker := .engine c }
      | none => b
    b.add { kind := .complete c, maker := .engine c }

/-- The execution of some threads: the writes in an order of their tags, the sc fences in an order of their numbers. -/
def execution (locs : List Bytes) (ts : List (Stood × List Op)) (co : List Nat) (sc : List Nat) (commits : List Ordering.Regroup) : Execution :=
  let start : Build := ⟨{ events := locs.map (fun l => { kind := .init l, maker := .initial }) }, (List.range locs.length).map (fun i => (i, i)), [], [], 0⟩
  let b := ts.foldl (fun b t => t.2.zipIdx.foldl (Build.op (fun l => locs.getD l ⟨.hbm, 0, 0⟩) t.1) b) start
  let id (t : Nat) := (b.tags.lookup t).getD 0
  { b.x with
    rf := b.want.map (fun w => (id w.1, w.2)), co := ((List.range locs.length) ++ co).map id
    sc := sc.map (fun i => b.fences.getD i 0), commits := commits }

/-- Threads in warps of one block, or on cores of their own in one cluster. -/
def inBlock (k : Nat) : Stood := ({ id := k, warp := k }, [0])
def apart (k : Nat) : Stood := ({ id := k, warp := k, block := k, core := k }, [0, 1, 2, 3])

/-- Whether the axioms allow the outcome of a test, under some order of its sc fences. -/
def may (who : Nat → Stood) (locs : List Bytes) (ts : List (List Op)) (co : List Nat) : Bool :=
  [[0, 1], [1, 0], []].any (fun sc => (execution locs (ts.zipIdx.map (fun t => (who t.2, t.1))) co sc []).allowed)

/-- One thread writes 8 bytes, then the upper 4, and reads 8 or the lower 4; `rf` names the writes that the read takes. -/
def sizes (size : Nat) (rf : List Nat) : Bool :=
  let e (k : Kind) (seq : Nat) : Event := { kind := k, maker := .thread { id := 0 }, seq := seq }
  let x : Execution :=
    { events := [{ kind := .init ⟨.die 0, 0, 8⟩, maker := .initial }, e (.write ⟨.die 0, 0, 8⟩ false false) 0,
        e (.write ⟨.die 0, 4, 4⟩ false false) 1, e (.read ⟨.die 0, 0, size⟩ false false) 2]
      rf := rf.map (fun w => (w, 3)), co := [0, 1, 2] }
  x.allowed

/-- R190, R201: a read takes each byte from the last write of that byte. -/
theorem test_litmus_sizes : sizes 8 [1, 2] = true ∧ sizes 8 [1] = false ∧ sizes 4 [1] = true ∧ sizes 4 [0] = false := by
  decide +kernel

/-- Two atomics to main memory, of threads on two cores: what the second takes its old value from. -/
def offChip (from' : Nat) : Bool :=
  let e (k : Kind) (c : Nat) : Event := { kind := k, maker := .thread { id := c, warp := c, core := c }, op := some c }
  let b : Bytes := ⟨.hbm, 0, 4⟩
  let x : Execution :=
    { events := [{ kind := .init b, maker := .initial }, e (.read b false true) 0, e (.write b false true) 0,
        e (.read b false true) 1, e (.write b false true) 1]
      rf := [(0, 1), (from', 3)], co := [0, 2, 4], engines := [⟨0, 0, 0, none⟩, ⟨1, 1, 0, none⟩] }
  x.allowed

/-- R202: no write stands between what an atomic reads and what it writes. -/
theorem test_litmus_offChip : offChip 2 = true ∧ offChip 0 = false := by decide +kernel

/-- The tests of R206. Locations 0 and 1 are x and y; `m` stands between the two accesses of a thread, `r` and `a` are
the scopes of its release and acquire. -/
def mp (m : List Op) (r a : Option Nat) : List (List Op) := [[st 0 2] ++ m ++ [.st 1 3 r], [.ld 1 3 a] ++ m ++ [ld 0 0]]
def sb (m : List Op) : List (List Op) := [[st 0 2] ++ m ++ [ld 1 1], [st 1 3] ++ m ++ [ld 0 0]]
def lb (m : List Op) : List (List Op) := [[ld 0 3] ++ m ++ [st 1 2], [ld 1 2] ++ m ++ [st 0 3]]
def iriw (m : List Op) : List (List Op) := [[st 0 2], [st 1 3], [ld 0 2] ++ m ++ [ld 1 1], [ld 1 3] ++ m ++ [ld 0 0]]
def ww (m : List Op) : List (List Op) := [[st 0 2] ++ m ++ [st 1 3], [st 1 4] ++ m ++ [st 0 5]]
def corr : List (List Op) := [[st 0 2], [ld 0 2, ld 0 0]]
def wrc (m : List Op) (r a : Option Nat) : List (List Op) := [[st 0 2], [ld 0 2] ++ m ++ [.st 1 3 r], [.ld 1 3 a] ++ m ++ [ld 0 0]]

/-- x and y in different banks and lines, in one bank, in one line. -/
def split (s : Store) : List Bytes := [⟨s, 0, 4⟩, ⟨s, 68, 4⟩]
def bank (s : Store) : List Bytes := [⟨s, 0, 4⟩, ⟨s, 128, 4⟩]
def line (s : Store) : List Bytes := [⟨s, 0, 4⟩, ⟨s, 4, 4⟩]

/-- R207: block shared memory. -/
theorem test_litmus_block :
    ([(split, mp [] none none, [2, 3]), (bank, mp [] none none, [2, 3]), (split, mp [] (some 1) (some 1), [2, 3]),
      (split, mp [] (some 0) (some 0), [2, 3]), (split, sb [], [2, 3]), (split, sb [.sc 1], [2, 3]), (split, lb [], [2, 3]),
      (split, lb [.wait], [2, 3]), (split, iriw [], [2, 3]), (split, iriw [.wait], [2, 3]), (split, ww [], [5, 2, 3, 4]),
      (bank, ww [], [5, 2, 3, 4]), (split, ww [.sc 1], [5, 2, 3, 4]), (split, corr, [2]), (split, wrc [] none none, [2, 3]),
      (split, wrc [.wait] none none, [2, 3]), (split, wrc [] (some 1) (some 1), [2, 3])] :
      List ((Store → List Bytes) × List (List Op) × List Nat)).map (fun c => may inBlock (c.1 (.blk 0)) c.2.1 c.2.2) =
    [true, false, false, true, true, false, true, false, true, false, true, false, false, false, true, false, false] := by
  decide +kernel

/-- R208: the die scratchpad at scope die, and a cluster-pool segment at scope cluster. -/
theorem test_litmus_die :
    ([(split, mp [] none none, [2, 3]), (line, mp [] none none, [2, 3]), (split, mp [] (some 3) (some 3), [2, 3]),
      (split, mp [] (some 1) (some 1), [2, 3]), (split, sb [], [2, 3]), (split, sb [.sc 3], [2, 3]), (split, lb [], [2, 3]),
      (split, lb [.wait], [2, 3]), (split, iriw [], [2, 3]), (split, iriw [.wait], [2, 3]), (split, ww [], [5, 2, 3, 4]),
      (line, ww [], [5, 2, 3, 4]), (split, corr, [2]), (split, wrc [.wait] none none, [2, 3])] :
      List ((Store → List Bytes) × List (List Op) × List Nat)).map (fun c => may apart (c.1 (.die 0)) c.2.1 c.2.2) =
    [true, false, false, true, true, false, true, false, true, false, true, false, false, false] := by
  decide +kernel

/-- R208: a cluster-pool segment at scope cluster. -/
theorem test_litmus_pool : may apart (split (.pool 0)) (mp [] (some 2) (some 2)) [2, 3] = false := by decide +kernel

/-- The copies of R209 to R211: thread k uses queue k, and queue k + 10 for its second copy where it uses two. -/
def copies (q : Nat) (m : List Op) : List (List (List Op) × List Nat) :=
  [([[put 0 0 2] ++ m ++ [put q 1 3], [get 1 1 3, get 1 0 0]], [2, 3]),
   ([[put 0 0 2, put 0 1 3], [get 1 1 3] ++ m ++ [get (q + 1) 0 0]], [2, 3]),
   ([[put 0 0 2, get 0 1 1], [put 1 1 3, get 1 0 0]], [2, 3]),
   ([[get 0 0 3] ++ m ++ [put q 1 2], [get 1 1 2] ++ m ++ [put (q + 1) 0 3]], [2, 3]),
   ([[put 0 0 2], [put 1 1 3], [get 2 0 2, get (q + 2) 1 1], [get 3 1 3, get (q + 3) 0 0]], [2, 3]),
   ([[put 0 0 2, put q 1 3], [put 1 1 4, put (q + 1) 0 5]], [5, 2, 3, 4]),
   ([[put 0 0 2], [get 1 0 2, get (q + 1) 0 0]], [2]),
   ([[put 0 0 2], [get 1 0 2] ++ m ++ [put 1 1 3], [get 2 1 3, get 2 0 0]], [2, 3])]

/-- R209: main memory, in one queue a thread; in two; and with `fget` between. -/
theorem test_litmus_main :
    (copies 0 []).map (fun c => may apart (split .hbm) c.1 c.2) = [false, false, true, true, false, false, false, true] ∧
    (copies 10 []).map (fun c => may apart (split .hbm) c.1 c.2) = [true, true, true, true, true, true, true, true] ∧
    ([0, 3, 7].map (fun i => (copies 10 [.see]).getD i ([], []))).map (fun c => may apart (split .cxl) c.1 c.2) =
      [false, false, false] := by
  decide +kernel

/-- R210, R211: one peer module, two, and the host's memory. -/
theorem test_litmus_outside :
    (copies 0 []).map (fun c => may apart (split (.peer 1)) c.1 c.2) = [false, false, true, true, false, false, false, true] ∧
    may apart [⟨.peer 1, 0, 4⟩, ⟨.peer 2, 0, 4⟩] ((copies 0 []).getD 0 ([], [])).1 [2, 3] = true ∧
    may apart (split (.peer 1)) ((copies 0 [.see]).getD 7 ([], [])).1 [2, 3] = false ∧
    (copies 0 []).map (fun c => may apart (split .host) c.1 c.2) = [false, false, false, true, false, false, false, true] ∧
    may apart (split .host) ((copies 0 [.see]).getD 7 ([], [])).1 [2, 3] = false := by
  decide +kernel

/-- R212: what c1 reads of A, what c2 reads of M, what T2 reads of F and of B; `acq` the acquire of F. -/
def handOff (a m f b : Nat) (acq : Option Nat) (co : List Nat) : Bool :=
  (execution [⟨.die 0, 0, 4⟩, ⟨.die 0, 64, 4⟩, ⟨.hbm, 0, 4⟩, ⟨.die 0, 128, 4⟩]
    [(({ id := 0, warp := 0 }, [0]), [st 0 4, .copy 0 (some (0, a)) (some (2, 6)), .see, .st 1 7 (some 3)]),
     (({ id := 1, warp := 1 }, [0]), [st 0 5]),
     (({ id := 2, warp := 2, block := 2, core := 8 }, [8]), [.ld 1 f acq] ++
       (if f = 7 then [.copy 1 (some (2, m)) (some (3, 8)), .see] else []) ++ [ld 3 b])]
    co [] []).allowed

/-- R212. -/
theorem test_litmus_copy :
    handOff 0 6 7 8 (some 3) [4, 5, 6, 7, 8] = false ∧ handOff 5 6 7 8 (some 3) [4, 5, 6, 7, 8] = true ∧
    handOff 4 6 7 8 (some 3) [5, 4, 6, 7, 8] = true ∧ handOff 4 6 7 3 (some 3) [5, 4, 6, 7, 8] = false ∧
    handOff 4 2 7 8 (some 3) [5, 4, 6, 7, 8] = false ∧ handOff 4 2 1 3 (some 3) [5, 4, 6, 7] = true ∧
    handOff 4 2 7 8 none [5, 4, 6, 7, 8] = true := by
  decide +kernel

/-- R213: T0 on core 4 in cluster Y, T1 on core 0 in X; which events stand before and after the commit. -/
def regrouped (scope : Nat) (commits : List Ordering.Regroup) : Bool :=
  (execution (split (.die 0)) [(({ id := 0, core := 4 }, [3, 4]), [st 0 2, .st 1 3 (some scope)]),
    (({ id := 1, warp := 1, block := 1 }, [0, 1, 2]), [.ld 1 3 (some scope), ld 0 0])] [2, 3] [] commits).allowed

/-- R213. -/
theorem test_litmus_regroup :
    regrouped 2 [⟨[2, 3], [4, 5], [0, 1, 2, 3, 4], [0, 1, 2, 3, 4]⟩] = false ∧ regrouped 2 [] = true ∧
    regrouped 2 [⟨[2, 3, 4], [5], [0, 1, 2, 3, 4], [0, 1, 2, 3, 4]⟩] = true ∧ regrouped 3 [] = false := by
  decide +kernel

end Litmus

end Sys2Proof.Tests
end

section
/-! PROOFS. What traps, control words and frames do to the issuing warp when nothing holds a word up. -/

namespace Sys2Proof.Machine

/-! ### Registers under changes that no read of them sees -/

/-- A frame without its mark, which reading and writing registers does not look at (R106). -/
def Frame.unmarked (f : Frame) : Frame := { f with mark := none }

/-- The part of a lane that its register reads see. -/
def Lane.file (L : Lane) : List Frame × BitVec 16 × BitVec 16 := (L.frames.map Frame.unmarked, L.preds, L.pbad)

theorem resolve_unmarked (fs : List Frame) (i r : Nat) : resolve (fs.map Frame.unmarked) i r = resolve fs i r := by
  induction fs generalizing i r with
  | nil => rfl
  | cons f fs ih =>
    cases fs with
    | nil => rfl
    | cons f' fs =>
      simp only [List.map_cons, resolve] at ih ⊢
      split_ifs
      · exact ih _ _
      · rfl

theorem regs_unmarked (fs : List Frame) (i : Nat) : ((fs.map Frame.unmarked).getD i {}).regs = (fs.getD i {}).regs := by
  rw [show ({} : Frame) = Frame.unmarked {} from rfl, List.getD_map]
  rfl

theorem frames_of_file {L K : Lane} (h : L.file = K.file) :
    L.frames.map Frame.unmarked = K.frames.map Frame.unmarked := congrArg Prod.fst h

/-- Lanes of one register file find their registers at the same places. -/
theorem resolve_of_file {L K : Lane} (h : L.file = K.file) (r : Nat) : resolve L.frames 0 r = resolve K.frames 0 r := by
  rw [← resolve_unmarked L.frames, ← resolve_unmarked K.frames, frames_of_file h]

theorem length_of_file {L K : Lane} (h : L.file = K.file) : L.frames.length = K.frames.length := by
  simpa [Lane.file] using congrArg (fun x => x.1.length) h

theorem frameReg_of_file {L K : Lane} (h : L.file = K.file) (i r : Nat) : L.frameReg i r = K.frameReg i r := by
  unfold Lane.frameReg
  rw [← regs_unmarked L.frames, ← regs_unmarked K.frames, frames_of_file h]

/-- A register reads alike in two states in which its warp has the same block, uniform registers and register files. -/
theorem reads_congr {s t : State} {v : Nat} (hb : t.blocks = s.blocks) (hw : (t.warp v).block = (s.warp v).block)
    (hs : (t.warp v).s = (s.warp v).s) (hl : ∀ l, ((t.warp v).lane l).file = ((s.warp v).lane l).file) (x : Target) :
    t.reads v x = s.reads v x := by
  have hblock : t.block (t.warp v).block = s.block (s.warp v).block := by rw [hw]; unfold State.block; rw [hb]
  cases x with
  | vec l r =>
    have hsh : t.sharedAt v l r = s.sharedAt v l r := by
      simp only [State.sharedAt, hblock, resolve_of_file (hl l), length_of_file (hl l)]
    simp only [State.reads, State.vreg, hsh, hblock, resolve_of_file (hl l), frameReg_of_file (hl l)]
  | pred l p =>
    have hp : ((t.warp v).lane l).preds = ((s.warp v).lane l).preds := congrArg (fun x => x.2.1) (hl l)
    have hq : ((t.warp v).lane l).pbad = ((s.warp v).lane l).pbad := congrArg (fun x => x.2.2) (hl l)
    simp only [State.reads, hp, hq]
  | uni r => simp only [State.reads, hs]

/-! ### Trap entry -/

theorem isSome_of_mem {α : Type} {t : Table α} {i : Nat} {a : α} (h : (i, a) ∈ t) : (tget t i).isSome := by
  induction t with
  | nil => simp at h
  | cons p t ih =>
    obtain ⟨k, v⟩ := p
    unfold tget
    split_ifs with hk
    · rfl
    · rcases List.mem_cons.mp h with e | e
      · exact absurd (congrArg Prod.fst e).symm hk
      · exact ih e

/-- A lane in the mask of a property is listed. -/
theorem isSome_of_mask {W : Warp} {p : Lane → Bool} {l : Nat} (h : (W.mask p).getLsbD l = true) :
    (tget W.lanes l).isSome := by
  unfold Warp.mask at h
  rw [getLsbD_maskOf] at h
  simp only [Bool.and_eq_true, List.contains_iff_mem, List.mem_map, List.mem_filter] at h
  obtain ⟨-, ⟨k, L⟩, ⟨hL, -⟩, rfl⟩ := h
  exact isSome_of_mem hL

theorem showLate_quiet {s : State} {w : Nat} (h : (s.warp w).Quiet) (m : BitVec 32) : s.showLate w m = s := by
  simp only [State.showLate, h.late, List.isEmpty_nil, if_true]

/-- What trap entry makes of an unended lane (R333). -/
def Lane.trapEntry (L : Lane) (t : Trap) (mine : Bool) (vec : DWord) (cyc : Nat) : Lane :=
  { L with
    tpc := if mine then t.tpc.getD L.pc else L.pc
    parkRec := if mine then .no else L.park
    nextRec := L.next
    heldRec := L.heldMask
    wasHeld := L.held
    park := .no
    held := false
    pc := vec
    since := cyc + 1 }

/-- What trap entry makes of a warp (R333, R358). -/
def Warp.trapEntry (W : Warp) (t : Trap) (live vec : DWord) (cyc : Nat) : Warp :=
  { W.updLanes W.alive (fun l L => L.trapEntry t (t.mask.getLsbD l) vec cyc) with
    tcause := t.cause.setWidth 32, taddr := t.addr, tmask := t.mask, tlive := live
    prev := W.cur, cur := true, trap := none, stall := false, waitLong := false, waitAll := false }

theorem enterTrap_quiet {s : State} {w : Nat} (hq : (s.warp w).Quiet) (t : Trap) (live : DWord) :
    s.enterTrap w t live =
      s.updWarp w (·.trapEntry t live (s.vi (s.warp w).vi).trapvec (s.cycle (s.warp w).core)) := by
  unfold State.enterTrap
  rw [showLate_quiet hq]
  rfl

theorem trapEntry_lane (W : Warp) (t : Trap) (live vec : DWord) (cyc l : Nat) :
    (W.trapEntry t live vec cyc).lane l = if W.alive.getLsbD l = true then
      (W.lane l).trapEntry t (t.mask.getLsbD l) vec cyc else W.lane l := by
  have h : W.alive.getLsbD l = true ∧ (tget W.lanes l).isSome ↔ W.alive.getLsbD l = true :=
    ⟨And.left, fun h => ⟨h, isSome_of_mask h⟩⟩
  exact (lane_updLanes W W.alive (fun l L => L.trapEntry t (t.mask.getLsbD l) vec cyc) l).trans (if_congr h rfl rfl)

/-- No register read sees trap entry. -/
theorem trapEntry_file (W : Warp) (t : Trap) (live vec : DWord) (cyc l : Nat) :
    ((W.trapEntry t live vec cyc).lane l).file = (W.lane l).file := by
  rw [trapEntry_lane]
  split_ifs <;> rfl

/-- A state in which only one warp has changed, as trap entry changes it, is what R333 and R358 say. -/
theorem entered_of_trapEntry {s t : State} {w : Nat} {tr : Trap} {live : DWord}
    (e : t.warp w = (s.warp w).trapEntry tr live (s.vi (s.warp w).vi).trapvec (s.cycle (s.warp w).core))
    (hne : ∀ v, v ≠ w → t.warp v = s.warp v) (hb : t.blocks = s.blocks) (hm : t.mem = s.mem) :
    Claims.Entered s t w tr.cause tr.mask
      (fun l => if tr.mask.getLsbD l then tr.tpc.getD ((s.warp w).lane l).pc else ((s.warp w).lane l).pc) live := by
  refine ⟨by rw [e]; rfl, by rw [e]; rfl, by rw [e]; rfl, by rw [e]; exact ⟨rfl, rfl, rfl⟩, fun l hl => ?_,
    fun v x => ?_, hne, hm⟩
  · rw [e, trapEntry_lane, if_pos hl]
    exact ⟨rfl, rfl, rfl, rfl, rfl, rfl⟩
  · by_cases hv : v = w
    · subst hv
      refine reads_congr hb ?_ ?_ (fun l => ?_) x <;> rw [e]
      · rfl
      · rfl
      · exact trapEntry_file _ _ _ _ _ l
    · refine reads_congr hb ?_ ?_ (fun l => ?_) x <;> rw [hne v hv]

/-- A trap in a quiet user warp is entered at once (R333). -/
theorem trapWarp_quiet {s : State} {w : Nat} (hq : (s.warp w).Quiet) (hc : (s.warp w).cur = false) (t : Trap) :
    s.trapWarp w t =
      s.updWarp w (·.trapEntry t allLive (s.vi (s.warp w).vi).trapvec (s.cycle (s.warp w).core)) := by
  unfold State.trapWarp
  simp only [hc, busyLong_quiet hq, Bool.false_eq_true, if_false]
  exact enterTrap_quiet hq t allLive

/-- A trap of the word being issued, in a quiet user warp: trap entry, with the word as the TPC of its lanes (R332). -/
theorem trapOpen_entered {s : State} (hw : (tget s.warps s.w).isSome) (hq : s.wp.Quiet) (hu : s.wp.cur = false)
    (cause : BitVec 8) (mask : BitVec 32) :
    Claims.Entered s (s.trapOpen cause mask) s.w cause mask (Claims.tpcAt s mask) allLive := by
  have he := trapWarp_quiet (s := { s with fresh := s.fresh + 1 }) (w := s.w) hq hu
    ⟨cause, Config.freeWord s.fresh, mask, some s.cur.pc⟩
  rw [show s.trapOpen cause mask = _ from he]
  exact entered_of_trapEntry (s := s) (tr := ⟨cause, Config.freeWord s.fresh, mask, some s.cur.pc⟩)
    (warp_updWarp_self { s with fresh := s.fresh + 1 } _ hw) (fun v hv => warp_updWarp_ne _ _ hv) rfl rfl

/-! ### The checks that stop a word -/

theorem lanesOf_nodup (m : BitVec 32) : (lanesOf m).Nodup := List.nodup_range.filter _

theorem getLsbD_lanesWhere (s : State) (m : BitVec 32) (p : Nat → Lane → Bool) (l : Nat) :
    (s.lanesWhere m p).getLsbD l = (m.getLsbD l && p l (s.wp.lane l)) := by
  unfold State.lanesWhere
  rw [getLsbD_maskOf, Bool.eq_iff_iff]
  simp only [Bool.and_eq_true, decide_eq_true_eq, List.contains_iff_mem, List.mem_filter, mem_lanesOf]
  exact ⟨fun h => h.2, fun h => ⟨BitVec.lt_of_getLsbD h.1, h⟩⟩

/-- A word that names registers outside the frame of some lanes of its gang is stopped in those (R15, R54, R65). -/
theorem vet_outside {s : State} {h : Hdr} {u : Uses} {bad : BitVec 32} (hne : bad ≠ 0)
    (hbad : ∀ l, bad.getLsbD l = true ↔ s.cur.lanes.getLsbD l = true ∧
      ((s.wp.lane l).liveFits h.live && (s.wp.lane l).fits (u.reads ++ u.writes)) = false)
    (sys : Bool) (k : State → BitVec 32 → State) : s.vet h sys u k = s.trapOpen cIllegal bad := by
  have hb : s.lanesWhere s.cur.lanes (fun _ L => !(L.liveFits h.live && L.fits (u.reads ++ u.writes))) = bad := by
    apply BitVec.eq_of_getLsbD_eq
    intro l _
    rw [getLsbD_lanesWhere, Bool.eq_iff_iff, hbad l]
    simp only [Bool.and_eq_true, Bool.not_eq_true']
  unfold State.vet State.admitAs
  rw [hb]
  exact if_pos (by simpa using hne)

/-- A word for system code is stopped in a user warp, once its guard has fixed its lanes (R56, R72). -/
theorem vet_privilege {s : State} {h : Hdr} {u : Uses} {m : BitVec 32} (a : s.Acts h u m) (hc : s.wp.cur = false)
    (k : State → BitVec 32 → State) : s.vet h true u k = s.trapOpen cPrivilege m := by
  unfold State.vet State.admitAs
  rw [lanesWhere_zero (fun l hl => by simp [a.fits l hl, a.live l hl]), guards_eq a]
  simp [hc]

theorem sysWord_privilege {s : State} {t : Tri} {u : Uses} {m : BitVec 32} (a : s.Acts t.h u m) (hc : s.wp.cur = false)
    (k : State → BitVec 32 → State) : s.sysWord t false u k = s.trapOpen cPrivilege m := by
  unfold State.sysWord
  rw [admit_eq a false (by simp)]
  simp [hc]

end Sys2Proof.Machine
end

section
/-! PROOFS. Words of system privilege in user warps, and words whose registers lie outside a frame (R15, R54, R56, R359). -/

namespace Sys2Proof.Proofs

open Sys2Proof.Machine Sys2Proof.Claims

/-- Every word that is for system code alone is stopped by its privilege in a user warp. -/
theorem exec_systemWord {i : Instr} {h : Hdr} {u : Uses} {s : State} {m : BitVec 32} (hi : systemWord i = some (h, u))
    (a : s.Acts h u m) (hc : s.wp.cur = false) : exec i s = .next (s.trapOpen cPrivilege m) := by
  unfold systemWord at hi
  split at hi
  case h_1 t =>
    split_ifs at hi with hb
    cases hi
    have hu : sysUser t.b.toNat = false := by simpa [sysUser] using hb
    show execSysrd t s = _
    rw [execSysrd, hu, sysWord_privilege a hc]
  case h_2 t =>
    split_ifs at hi with hb
    cases hi
    show execSyswr t s = _
    rw [execSyswr, beq_eq_false_iff_ne.mpr hb, sysWord_privilege a hc]
  case h_10 => cases hi
  all_goals
    cases hi
    exact congrArg Host.Outcome.next (vet_privilege a hc _)

/-- What a shift or a rotation computes is what its operands say (R79). -/
theorem shiftWord_eq {t t' : Tri} {sh : Shape} {f : BitVec 64 → BitVec 64 → BitVec 64 → BitVec 64} {op : Bits}
    (h : intWord.shift t op = (t', sh, f)) (s : State) :
    s.shiftWord t op = s.triWord t' sh false (fun a b c => (f a b c, 0)) := by
  unfold intWord.shift at h
  unfold State.shiftWord
  split_ifs at h ⊢ <;> cases h <;> rfl

/-- Every integer word of one destination is a TRI word of its operands (R76). -/
theorem exec_intWord {i : Instr} {t : Tri} {sh : Shape} {f : BitVec 64 → BitVec 64 → BitVec 64 → BitVec 64}
    (h : intWord i = some (t, sh, f)) (s : State) :
    exec i s = .next (s.triWord t sh false (fun a b c => (f a b c, 0))) := by
  unfold intWord at h
  split at h
  case h_15 | h_16 | h_17 | h_18 => exact congrArg Host.Outcome.next (shiftWord_eq (Option.some.inj h) s)
  case h_30 => cases h
  all_goals
    cases h
    rfl

theorem privilege_traps : privilegeClause := by
  intro i h u s m hi _ a hc
  exact ⟨_, exec_systemWord hi a hc, trapOpen_entered a.warp a.quiet hc _ _⟩

theorem frame_traps : frameClause := by
  intro i t sh f s bad hi _ his hq hc hne hbad
  refine ⟨_, (exec_intWord hi s).trans (congrArg Host.Outcome.next ?_), trapOpen_entered his.warp hq hc cIllegal bad⟩
  exact vet_outside hne hbad false _

/-- Settles O18: a word for system code is stopped with its acting lanes by the privilege check, an integer word by the
check of its registers against the frames, and both traps are entered at once, as nothing is outstanding. -/
theorem privilegeAndFrameTraps : Obligations.PrivilegeAndFrameTraps := ⟨privilege_traps, frame_traps⟩

end Sys2Proof.Proofs
end

section
/-! PROOFS. Words that act lane by lane, and the conversions (R72, R86, R93). -/

namespace Sys2Proof.Machine

/-- Without an outstanding long operation an operand is what the registers hold (R61). -/
theorem operand_quiet {s : State} (h : s.wp.Quiet) (l : Nat) (ty : BitVec 3) (o : Opd) (swap : Bool) (r : BitVec 8)
    (pos : Nat) : s.operand l ty o swap r pos = Claims.src s l ty o swap r := by
  have hv : ∀ k p, s.readV s.w l k p = s.reads s.w (.vec l k) := fun k p => readV_quiet h l k p
  have hs : ∀ k p, s.readS s.w k p = s.reads s.w (.uni k) := fun k p => readS_quiet h k p
  cases o with
  | none => rfl
  | pred =>
    simp only [State.operand, Claims.src, readP_quiet (w := s.w) h, State.reads]
    by_cases hr : r = 15
    · subst hr; rfl
    · have hr' : r.toNat ≠ 15 := fun e => hr (BitVec.eq_of_toNat_eq e)
      simp only [hr, hr', if_false]
      split_ifs <;> rfl
  | _ =>
    simp only [State.operand, Claims.src, hv, hs]
    congr 1
    funext i
    split_ifs <;> rfl

/-- The registers of a result in vector registers. -/
theorem vecResult_targets (l r n : Nat) (v : BitVec 64) (bad : Bool) :
    (vecResult l r n v bad).map (·.1) = if n = 2 then [.vec l r, .vec l (r + 1)] else [.vec l r] := by
  unfold vecResult wideCells
  by_cases h : n = 2 <;> simp [h]

/-- A result in vector registers can be written when the lane's frame holds them (R15). -/
theorem vecResult_writable {s : State} {w l r n : Nat} {v : BitVec 64} {bad : Bool} (hn : 0 < n)
    (hf : r + n ≤ 8 * ((s.warp w).lane l).top.g) : ∀ x ∈ vecResult l r n v bad, s.Writable w x.1 := by
  intro x hx
  have hx' := List.mem_map_of_mem (f := (·.1)) hx
  rw [vecResult_targets] at hx'
  generalize x.1 = y at hx'
  split_ifs at hx' with h
  · simp only [List.mem_cons, List.not_mem_nil, or_false] at hx'
    rcases hx' with rfl | rfl <;> show _ < _ <;> omega
  · simp only [List.mem_cons, List.not_mem_nil, or_false] at hx'
    subst hx'; show _ < _; omega

/-- Registers that each belong to one lane, and are two in no lane, are two in no mask. -/
theorem flatMap_lanes_nodup {ts : Nat → List Target} (m : BitVec 32) (h1 : ∀ l, (ts l).Nodup)
    (h2 : ∀ l, ∀ x ∈ ts l, x.of l = true) : ((lanesOf m).flatMap ts).Nodup := by
  rw [List.nodup_flatMap]
  refine ⟨fun l _ => h1 l, (lanesOf_nodup m).imp ?_⟩
  intro a b hab x hxa hxb
  have ha := h2 a x hxa
  have hb := h2 b x hxb
  cases x with
  | vec k r => simp only [Target.of, beq_iff_eq] at ha hb; exact hab (ha.symm.trans hb)
  | pred k p => simp only [Target.of, beq_iff_eq] at ha hb; exact hab (ha.symm.trans hb)
  | uni r => cases ha

/-- A register group of a word lies in the frame of an acting lane (R15). -/
theorem State.Acts.fits_of_mem {s : State} {h : Hdr} {u : Uses} {m : BitVec 32} (a : s.Acts h u m) {l : Nat}
    (hl : m.getLsbD l = true) {r : Nat × Nat} (hr : r ∈ u.reads ++ u.writes) :
    r.1 + r.2 ≤ 8 * (s.wp.lane l).top.g := by
  have := List.all_eq_true.mp (a.fits l (a.inGang hl)) r hr
  simpa using this

end Sys2Proof.Machine

namespace Sys2Proof.Proofs

open Sys2Proof.Machine Sys2Proof.Claims

/-- A word whose meaning goes lane by lane is a short word of what each lane leaves, when the results can be written
and are no two for one register. -/
theorem shortWord_of_byLane {i : Instr} {h : Hdr} {u : Uses} {f g : LaneFn}
    (he : ∀ s, exec i s = .next (s.byLane h u false g)) (hfg : ∀ (s : State) (l : Nat), s.wp.Quiet → g s l = f s l)
    (hx : i.wf = true → ∀ (s : State) (m : BitVec 32), s.Acts h u m → ∀ l, m.getLsbD l = true →
      ∀ r ∈ (f s l).1, r.1.kept = true → s.Writable s.w r.1)
    (hn : ∀ (s : State) (m : BitVec 32), (targetsOf s m f).Nodup) : ShortWord i h u f := by
  intro hwf s m a hu
  have hg : g s = f s := funext fun l => hfg s l a.quiet
  obtain ⟨h1, h2⟩ := byLane_completed a hu g (by rw [hg]; exact hx hwf s m a)
  rw [hg] at h1 h2
  exact ⟨_, he s, h1, h2 (hn s m)⟩

theorem cvtLane_quiet {s : State} (h : s.wp.Quiet) (t : Tri) (f : BitVec 64 → BitVec 64 × Flags) (l : Nat) :
    State.cvtLane t f s l = cvtFn t f s l := by
  unfold State.cvtLane cvtFn
  rw [operand_quiet h]

theorem cvtFn_targets (t : Tri) (f : BitVec 64 → BitVec 64 × Flags) (s : State) (l : Nat) :
    ((cvtFn t f s l).1).map (·.1) =
      if Opd.count t.ty .vT = 2 then [.vec l t.d.toNat, .vec l (t.d.toNat + 1)] else [.vec l t.d.toNat] :=
  vecResult_targets _ _ _ _ _

theorem count_pos (ty : BitVec 3) : 0 < Opd.count ty .vT := by
  unfold Opd.count
  cases wideTy ty <;> decide

/-- A conversion is a short word, whatever it computes: its destination lies in the frame of every acting lane. -/
theorem shortWord_cvt {i : Instr} {t : Tri} {f : BitVec 64 → BitVec 64 × Flags}
    (he : ∀ s, exec i s = .next (s.byLane t.h (cvtUses t) false (State.cvtLane t f))) :
    ShortWord i t.h (cvtUses t) (cvtFn t f) := by
  refine shortWord_of_byLane he (fun s l hq => cvtLane_quiet hq t f l) ?_ ?_
  · intro _ s m a l hl r hr _
    have hfit := a.fits_of_mem (r := (t.d.toNat, Opd.count t.ty .vT)) hl (by simp [cvtUses])
    exact vecResult_writable (count_pos t.ty) hfit r hr
  · intro s m
    refine List.Nodup.filter _ (flatMap_lanes_nodup m (fun l => ?_) (fun l x hx => ?_))
    · rw [cvtFn_targets]; split_ifs <;> simp
    · rw [cvtFn_targets] at hx
      split_ifs at hx <;> simp only [List.mem_cons, List.not_mem_nil, or_false] at hx
      · rcases hx with rfl | rfl <;> exact beq_self_eq_true l
      · subst hx; exact beq_self_eq_true l

/-- Settles O3: both words go lane by lane over the source as the registers hold it, and write the destination alone. -/
theorem convertWords : Obligations.ConvertWords :=
  fun _ => ⟨shortWord_cvt fun _ => rfl, shortWord_cvt fun _ => rfl⟩

end Sys2Proof.Proofs
end

section
/-! PROOFS. The shared steps of control words: reclamation, landing and comparison let a word go on, lanes move, and
frames come and go (R45, R102, R104, R105, R108). -/

namespace Sys2Proof.Machine

/-! ### Checks that let a control word go on -/

theorem lanesOf_ne_nil {m : BitVec 32} (h : m ≠ 0) : lanesOf m ≠ [] := by
  intro e
  apply h
  rw [← maskOf_lanesOf m, e]
  rfl

theorem reclaimFirst_undoomed {s : State} {m : BitVec 32}
    (h : ∀ l, m.getLsbD l = true → s.laneDoomed (s.wp.lane l) = false) (k : State → BitVec 32 → State) :
    s.reclaimFirst m k = k s m := by
  unfold State.reclaimFirst
  rw [lanesWhere_zero h]
  rfl

/-- When every target is a landing, the check lets the word go on (R45). -/
theorem checkLanding_ok {s : State} {ts : List (Nat × DWord)}
    (h : ∀ t ∈ ts, s.landing s.wp.vi s.wp.core t.2 = .ok) (k : State → State) : s.checkLanding ts k = k s := by
  have hr : ∀ r ∈ ts.map (fun t => (t.1, s.landing s.wp.vi s.wp.core t.2, t.2)), r.2.1 = .ok := by
    intro r hr
    obtain ⟨t, ht, rfl⟩ := List.mem_map.mp hr
    exact h t ht
  unfold State.checkLanding
  dsimp only
  generalize ts.map (fun t => (t.1, s.landing s.wp.vi s.wp.core t.2, t.2)) = rs at hr ⊢
  have hb : rs.filter (fun r => r.2.1.isBad) = [] :=
    List.filter_eq_nil_iff.mpr fun r hm => by simp [hr r hm, Landing.isBad]
  have hf : ∀ g : Nat × Landing × DWord → Option Nat, (∀ r, r.2.1 = .ok → g r = none) → rs.findSome? g = none :=
    fun g hg => List.findSome?_eq_none_iff.mpr fun r hm => hg r (hr r hm)
  have ha : rs.any (fun r => decide (r.2.1 = .busy)) = false :=
    List.any_eq_false.mpr fun r hm => by simp [hr r hm]
  rw [hb, hf _ (fun r e => by rw [e]), ha]
  rfl

/-- The landing check of lanes whose targets are all landings. -/
theorem checkLanding_lanes {s : State} {m : BitVec 32} {f : Nat → DWord}
    (h : ∀ l, m.getLsbD l = true → s.landing s.wp.vi s.wp.core (f l) = .ok) (k : State → State) :
    s.checkLanding ((lanesOf m).map (fun l => (l, f l))) k = k s := by
  refine checkLanding_ok (fun t ht => ?_) k
  obtain ⟨l, hl, rfl⟩ := List.mem_map.mp ht
  exact h l (mem_lanesOf.mp hl)

theorem not_mem_lanesOf {m : BitVec 32} {l : Nat} (h : m.getLsbD l = false) : l ∉ lanesOf m := fun e => by
  simp [mem_lanesOf.mp e] at h

/-- Whether lanes agree depends on the acting lanes' values alone (R351). -/
theorem mismatch_congr {s : State} {m : BitVec 32} {f g : Nat → List DWord} (h : ∀ l, m.getLsbD l = true → f l = g l) :
    s.mismatch m f = s.mismatch m g := by
  unfold State.mismatch
  congr 2
  funext j
  cases h0 : m.getLsbD (2 * j) <;> cases h1 : m.getLsbD (2 * j + 1) <;> simp [h, h0, h1]

theorem compare_agree {s : State} {m : BitVec 32} {f : Nat → List DWord} (h : s.mismatch m f = false)
    (k : State → State) : s.compare m f k = k s := by
  unfold State.compare
  rw [h]
  rfl

theorem awaitLong_quiet {s : State} (h : s.wp.Quiet) (k : State → State) : s.awaitLong k = k s := by
  unfold State.awaitLong
  rw [busyLong_quiet h, showLate_quiet (w := s.w) h]
  rfl

theorem valOf_map {ls : List Nat} {l : Nat} (hl : l ∈ ls) (f : Nat → BitVec 64) :
    valOf (ls.map (fun l => (l, f l))) l = f l := by
  unfold valOf
  induction ls with
  | nil => exact absurd hl List.not_mem_nil
  | cons a ls ih =>
    rw [List.map_cons, List.find?_cons]
    by_cases h : a = l
    · subst h; simp
    · rw [beq_eq_false_iff_ne.mpr h]
      exact ih ((List.mem_cons.mp hl).resolve_left (Ne.symm h))

/-- The values that a word takes from clean vector registers (R12, R61, R348). -/
theorem laneVals_clean {s : State} {m : BitVec 32} {n r : Nat} (hq : s.wp.Quiet) (hn : 0 < n)
    (hc : Claims.CleanData s m r n) (pos : Nat) :
    s.laneVals m n r pos = ((lanesOf m).map (fun l => (l, (Claims.vecSrc s l n r).1)), false) := by
  have hv : ∀ l i, s.readV s.w l (r + i) (pos + i) = s.reads s.w (.vec l (r + i)) := fun l i => readV_quiet hq l _ _
  have hb : ∀ l ∈ lanesOf m, (Claims.vecSrc s l n r).2 = false := by
    intro l hl
    have h := hc l (mem_lanesOf.mp hl)
    unfold Claims.vecSrc readWide
    by_cases h2 : n = 2
    · subst h2
      simpa [pairVal] using ⟨h 0 (by omega), h 1 (by omega)⟩
    · rw [if_neg (by simpa using h2)]
      exact h 0 hn
  unfold State.laneVals
  simp only [hv, List.map_map, List.any_map]
  exact Prod.ext rfl (List.any_eq_false.mpr fun l hl => by simpa [Claims.vecSrc] using hb l hl)

/-! ### Lanes move -/

/-- A lane at an address, ready since a cycle. -/
def Lane.standAt (L : Lane) (pc : DWord) (since : Nat) : Lane := { L with pc := pc, since := since }

/-- From s to t, nothing but lanes of the issuing warp has changed. -/
structure State.OnlyLanes (s t : State) : Prop where
  rest : t = { s with warps := t.warps }
  others : ∀ v, v ≠ s.w → t.warp v = s.warp v
  warp : t.warp s.w = { s.wp with lanes := (t.warp s.w).lanes }
  listed : (tget t.warps s.w).isSome

theorem onlyLanes_updWarp {s : State} (hw : (tget s.warps s.w).isSome) {f : Warp → Warp}
    (hf : ∀ W, f W = { W with lanes := (f W).lanes }) : State.OnlyLanes s (s.updWarp s.w f) where
  rest := rfl
  others v hv := warp_updWarp_ne s f hv
  warp := by rw [warp_updWarp_self s f hw]; exact hf _
  listed := by simpa using hw

theorem State.OnlyLanes.w {s t : State} (h : State.OnlyLanes s t) : t.w = s.w := by
  rw [h.rest]; rfl

theorem State.OnlyLanes.refl {s : State} (hw : (tget s.warps s.w).isSome) : State.OnlyLanes s s :=
  ⟨rfl, fun _ _ => rfl, rfl, hw⟩

theorem State.OnlyLanes.trans {s t u : State} (h : State.OnlyLanes s t) (k : State.OnlyLanes t u) :
    State.OnlyLanes s u where
  rest := by rw [k.rest, h.rest]
  others v hv := (k.others v (h.w ▸ hv)).trans (h.others v hv)
  warp := by
    have kw := k.warp
    rw [State.wp, ← State.w, h.w, h.warp] at kw
    exact kw
  listed := h.w ▸ k.listed

theorem State.OnlyLanes.wp {s t : State} (h : State.OnlyLanes s t) : t.wp = { s.wp with lanes := t.wp.lanes } := by
  have : t.wp = t.warp s.w := by rw [← h.w]; rfl
  rw [this]; exact h.warp

theorem State.OnlyLanes.quiet {s t : State} (h : State.OnlyLanes s t) (hq : s.wp.Quiet) : t.wp.Quiet := by
  rw [h.wp]; exact ⟨hq.longs, hq.late⟩

theorem State.OnlyLanes.unheld {s t : State} {x : Hdr} (h : State.OnlyLanes s t) (hu : s.Unheld x) : t.Unheld x := by
  have hr : ∀ c, t.requested c = s.requested c := by intro c; rw [h.rest]; rfl
  unfold State.Unheld
  rw [h.wp, hr]
  exact hu

/-- Some lanes of the issuing warp at addresses of their own, as a control word leaves them. -/
def State.aim (s : State) (ts : List (Nat × DWord)) : State :=
  ts.foldl (fun s t => s.updWarp s.w (fun W => W.updLane t.1 (fun L => { L with pc := t.2 }))) s

theorem aim_onlyLanes {s : State} (hw : (tget s.warps s.w).isSome) (ts : List (Nat × DWord)) :
    State.OnlyLanes s (s.aim ts) := by
  induction ts generalizing s with
  | nil => exact .refl hw
  | cons t ts ih =>
    have h := onlyLanes_updWarp hw (f := fun W => W.updLane t.1 (fun L => { L with pc := t.2 })) (fun _ => rfl)
    exact h.trans (ih (h.w ▸ h.listed))

theorem aim_lane {s : State} (hw : (tget s.warps s.w).isSome) (ls : List Nat) (target : Nat → DWord) (l : Nat) :
    ((s.aim (ls.map (fun l => (l, target l)))).warp s.w).lane l =
      if l ∈ ls then (s.wp.lane l).standAt (target l) (s.wp.lane l).since else s.wp.lane l := by
  induction ls generalizing s with
  | nil => simp [State.aim]; rfl
  | cons a ls ih =>
    have e := warp_updWarp_self s (fun W => W.updLane a (fun L => { L with pc := target a })) hw
    have h := ih (s := s.updWarp s.w (fun W => W.updLane a (fun L => { L with pc := target a })))
      ((isSome_updWarp _ _ _ _).trans hw)
    have hwp : State.wp (s.updWarp s.w (fun W => W.updLane a (fun L => { L with pc := target a }))) =
      s.wp.updLane a (fun L => { L with pc := target a }) := e
    rw [hwp, lane_updLane] at h
    refine Eq.trans h ?_
    by_cases hl : l = a
    · subst hl
      simp only [if_true, List.mem_cons, true_or]
      split_ifs <;> rfl
    · simp [hl]

theorem goto_onlyLanes {s : State} (hw : (tget s.warps s.w).isSome) (m : BitVec 32) (pc : DWord) :
    State.OnlyLanes s (s.goto m pc) := onlyLanes_updWarp hw fun _ => rfl

theorem goto_lane {s : State} (hw : (tget s.warps s.w).isSome) (m : BitVec 32) (pc : DWord) (l : Nat) :
    ((s.goto m pc).warp s.w).lane l = if m.getLsbD l = true ∧ (tget s.wp.lanes l).isSome then
      (s.wp.lane l).standAt pc (s.cyc + 1) else s.wp.lane l := by
  unfold State.goto
  rw [warp_updWarp_self s _ hw, lane_updLanes]
  rfl

/-- The lanes of a gang that all stand ready are the ready lanes of its mask. -/
theorem ready_mask {W : Warp} {m : BitVec 32} (h : ∀ l, m.getLsbD l = true → (W.lane l).ready = true) :
    W.mask Lane.ready &&& m = m := by
  apply BitVec.eq_of_getLsbD_eq
  intro l hl
  rw [BitVec.getLsbD_and]
  cases e : m.getLsbD l with
  | false => rw [Bool.and_false]
  | true => rw [getLsbD_mask hl (isSome_of_ready (h l e)) (h l e)]; rfl

/-- A control word moves the lanes of its gang (R102): those of `ls` to their targets, the others to the next word. -/
theorem jump_spec {s : State} {h : Hdr} (hw : (tget s.warps s.w).isSome) (hq : s.wp.Quiet) (hu : s.Unheld h)
    (hr : ∀ l, s.cur.lanes.getLsbD l = true → (s.wp.lane l).ready = true) {m : BitVec 32}
    (hm : ∀ l, m.getLsbD l = true → s.cur.lanes.getLsbD l = true) (target : Nat → DWord) :
    let t := s.jump h ((lanesOf m).map (fun l => (l, target l)))
    State.OnlyLanes s t ∧ ∀ l, (t.warp s.w).lane l =
      if m.getLsbD l = true then (s.wp.lane l).standAt (target l) (s.cyc + 1)
      else if s.cur.lanes.getLsbD l = true then (s.wp.lane l).standAt (afterWord h s.cur.pc) (s.cyc + 1)
      else s.wp.lane l := by
  intro t
  have hg := goto_onlyLanes hw s.cur.lanes (afterWord h s.cur.pc)
  have ha := aim_onlyLanes (s := s.goto s.cur.lanes (afterWord h s.cur.pc)) (hg.w ▸ hg.listed)
    ((lanesOf m).map (fun l => (l, target l)))
  have ht : t = (s.goto s.cur.lanes (afterWord h s.cur.pc)).aim ((lanesOf m).map (fun l => (l, target l))) := by
    show s.jump h _ = _
    unfold State.jump
    rw [ready_mask hr]
    exact close_quiet ((hg.trans ha).quiet hq) ((hg.trans ha).unheld hu)
  rw [ht]
  refine ⟨hg.trans ha, fun l => ?_⟩
  have hl := aim_lane (s := s.goto s.cur.lanes (afterWord h s.cur.pc)) (hg.w ▸ hg.listed) (lanesOf m) target l
  rw [show State.wp (s.goto s.cur.lanes (afterWord h s.cur.pc)) = State.warp _ s.w from rfl, goto_lane hw] at hl
  refine Eq.trans hl ?_
  simp only [mem_lanesOf]
  cases hc : s.cur.lanes.getLsbD l with
  | true =>
    simp only [isSome_of_ready (hr l hc), and_self, if_true]
    rfl
  | false =>
    have hml : m.getLsbD l = false := Bool.eq_false_iff.mpr fun e => by simp [hm l e] at hc
    simp only [hml, Bool.false_eq_true, false_and, if_false]

/-! ### Frames come and go -/

/-- What a warp holds besides its lanes and its slice-frames. -/
def Warp.sliceless (W : Warp) : Warp := { W with lanes := [], slices := [] }

/-- From s to t, frames of the lanes of warp w have changed, with the slice-frames and the register pool behind them: no
byte of storage, no other warp, and nothing else of the warp has. -/
structure State.Reframed (s t : State) (w : Nat) : Prop where
  cur : t.cur = s.cur
  mem : t.mem = s.mem
  blocks : t.blocks = s.blocks
  cycle : ∀ c, t.cycle c = s.cycle c
  preq : ∀ c, (t.core c).preq = (s.core c).preq
  others : ∀ v, v ≠ w → t.warp v = s.warp v
  listed : (tget t.warps w).isSome = (tget s.warps w).isSome
  warp : (t.warp w).sliceless = (s.warp w).sliceless
  lane : ∀ l, (t.warp w).lane l = { (s.warp w).lane l with frames := ((t.warp w).lane l).frames }

theorem State.Reframed.refl (s : State) (w : Nat) : State.Reframed s s w :=
  ⟨rfl, rfl, rfl, fun _ => rfl, fun _ => rfl, fun _ _ => rfl, rfl, rfl, fun _ => rfl⟩

theorem State.Reframed.trans {s t u : State} {w : Nat} (h : State.Reframed s t w) (k : State.Reframed t u w) :
    State.Reframed s u w where
  cur := k.cur.trans h.cur
  mem := k.mem.trans h.mem
  blocks := k.blocks.trans h.blocks
  cycle c := (k.cycle c).trans (h.cycle c)
  preq c := (k.preq c).trans (h.preq c)
  others v hv := (k.others v hv).trans (h.others v hv)
  listed := k.listed.trans h.listed
  warp := k.warp.trans h.warp
  lane l := by rw [k.lane l, h.lane l]

theorem State.Reframed.w {s t : State} {w : Nat} (h : State.Reframed s t w) : t.w = s.w := congrArg Issue.warp h.cur

theorem State.Reframed.wp {s t : State} {w : Nat} (h : State.Reframed s t w) : t.wp = t.warp s.w := congrArg t.warp h.w

theorem reframed_updWarp (s : State) (w : Nat) {f : Warp → Warp} (h1 : ∀ W, (f W).sliceless = W.sliceless)
    (h2 : ∀ W l, (f W).lane l = { W.lane l with frames := ((f W).lane l).frames }) :
    State.Reframed s (s.updWarp w f) w where
  cur := rfl
  mem := rfl
  blocks := rfl
  cycle _ := rfl
  preq _ := rfl
  others v hv := warp_updWarp_ne s f hv
  listed := isSome_updWarp s w w f
  warp := by rw [warp_updWarp]; split_ifs; exacts [h1 _, rfl]
  lane l := by rw [warp_updWarp]; split_ifs; exacts [h2 _ l, rfl]

/-- The pool of a core changed, its pre-emption register as it was. -/
theorem reframed_updCore (s : State) (w c : Nat) {f : Core → Core} (h : ∀ x, (f x).preq = x.preq) :
    State.Reframed s (s.updCore c f) w :=
  { State.Reframed.refl s w with
    preq := fun d => by rw [core_updCore]; split_ifs with e; exacts [e ▸ h _, rfl] }

theorem reframed_setCore (s : State) (w c : Nat) {x : Core} (h : x.preq = (s.core c).preq) :
    State.Reframed s { s with cores := tset s.cores c x } w :=
  { State.Reframed.refl s w with
    preq := fun d => by
      by_cases e : d = c
      · subst e
        exact (congrArg Core.preq (tgetD_tset_self s.cores d x {})).trans h
      · exact congrArg Core.preq (tgetD_tset_ne s.cores x {} e) }

theorem reframed_freeSpill (s : State) (w die owner : Nat) : State.Reframed s (s.freeSpill die owner) w :=
  { State.Reframed.refl s w with }

/-- A lane that leaves a slice-frame keeps its frames (R171). -/
theorem leaveSlice_spec (s : State) (w l sf : Nat) : State.Reframed s (s.leaveSlice w l sf) w ∧
    ∀ k, ((s.leaveSlice w l sf).warp w).lane k = (s.warp w).lane k := by
  have hs : ∀ (s : State) (f : Table SliceFrame → Table SliceFrame),
      State.Reframed s (s.updWarp w (fun W => { W with slices := f W.slices })) w ∧
        ∀ k, ((s.updWarp w (fun W => { W with slices := f W.slices })).warp w).lane k = (s.warp w).lane k := fun s f =>
    ⟨reframed_updWarp s w (fun _ => rfl) (fun _ _ => rfl), fun k => by rw [warp_updWarp]; split_ifs <;> rfl⟩
  unfold State.leaveSlice
  dsimp only
  split
  · exact ⟨.refl s w, fun _ => rfl⟩
  · split_ifs
    · have h := hs (s.freeSpill (dieOf (s.warp w).core) sf) (tdel · sf)
      exact ⟨((reframed_freeSpill s w _ sf).trans h.1).trans (reframed_updCore _ w _ fun _ => rfl), h.2⟩
    · have h := hs s (tdel · sf)
      exact ⟨h.1.trans (reframed_updCore _ w _ fun _ => rfl), h.2⟩
    · exact hs s (tset · sf _)

/-- A lane's top frame is popped, and no other lane's (R17). -/
theorem popFrame_spec {s : State} {w : Nat} (hw : (tget s.warps w).isSome) (l : Nat) :
    State.Reframed s (s.popFrame w l) w ∧ ∀ k, (((s.popFrame w l).warp w).lane k).frames =
      if k = l then ((s.warp w).lane k).frames.drop 1 else ((s.warp w).lane k).frames := by
  unfold State.popFrame
  have h1 : State.Reframed s (s.updWarp w (fun W => W.updLane l (fun L => { L with frames := L.frames.drop 1 }))) w :=
    reframed_updWarp s w (fun _ => rfl) fun W k => by rw [lane_updLane]; split_ifs with e; exacts [e ▸ rfl, rfl]
  obtain ⟨h2, h3⟩ := leaveSlice_spec (s.updWarp w (fun W => W.updLane l (fun L => { L with frames := L.frames.drop 1 })))
    w l ((s.warp w).lane l).top.sf
  refine ⟨h1.trans h2, fun k => ?_⟩
  rw [h3, warp_updWarp_self s _ hw, lane_updLane]
  split_ifs with e
  · rw [e]
  · rfl

/-- As many frames popped as there are numbers below n. -/
theorem popFrames_spec {s : State} {w : Nat} (hw : (tget s.warps w).isSome) (l n : Nat) :
    let t := (List.range n).foldl (fun s _ => s.popFrame w l) s
    State.Reframed s t w ∧ ∀ k, ((t.warp w).lane k).frames =
      if k = l then ((s.warp w).lane k).frames.drop n else ((s.warp w).lane k).frames := by
  induction n with
  | zero => exact ⟨.refl s w, fun k => by simp⟩
  | succ n ih =>
    obtain ⟨h1, h2⟩ := ih
    rw [List.range_succ, List.foldl_append, List.foldl_cons, List.foldl_nil]
    obtain ⟨h3, h4⟩ := popFrame_spec (h1.listed.trans hw) l
    refine ⟨h1.trans h3, fun k => ?_⟩
    rw [h4, h2]
    split_ifs
    · rw [List.drop_drop]
    · rfl

/-- Frames popped until a depth is reached (R108). -/
theorem popTo_spec {s : State} {w : Nat} (hw : (tget s.warps w).isSome) (l d : Nat) :
    State.Reframed s (s.popTo w l d) w ∧ ∀ k, (((s.popTo w l d).warp w).lane k).frames =
      if k = l then ((s.warp w).lane k).frames.drop (((s.warp w).lane k).depth - d) else ((s.warp w).lane k).frames := by
  obtain ⟨h1, h2⟩ := popFrames_spec hw l (((s.warp w).lane l).depth - d)
  refine ⟨h1, fun k => (h2 k).trans ?_⟩
  split_ifs with e
  · rw [e]
  · rfl

/-- Frames popped in some lanes, in each down to a depth of its own. -/
theorem popLanes_spec {s : State} (hw : (tget s.warps s.w).isSome) (depth : Nat → Nat) {ls : List Nat} (hn : ls.Nodup) :
    let t := ls.foldl (fun s l => s.popTo s.w l (depth l)) s
    State.Reframed s t s.w ∧ ∀ k, ((t.warp s.w).lane k).frames = if k ∈ ls then
      (s.wp.lane k).frames.drop ((s.wp.lane k).depth - depth k) else (s.wp.lane k).frames := by
  induction ls generalizing s with
  | nil => exact ⟨.refl s s.w, fun k => by simp; rfl⟩
  | cons a ls ih =>
    rw [List.nodup_cons] at hn
    obtain ⟨h1, h2⟩ := popTo_spec hw a (depth a)
    obtain ⟨h3, h4⟩ := ih (s := s.popTo s.w a (depth a)) (by rw [h1.w, h1.listed]; exact hw) hn.2
    have hp := h1.wp
    rw [h1.w] at h3 h4
    refine ⟨h1.trans h3, fun k => (h4 k).trans ?_⟩
    by_cases hk : k = a
    · subst hk
      rw [if_neg hn.1, if_pos List.mem_cons_self, hp, h2, if_pos rfl]
      rfl
    · have hf : ((State.wp (s.popTo s.w a (depth a))).lane k).frames = (s.wp.lane k).frames := by
        rw [hp, h2, if_neg hk]; rfl
      simp only [Lane.depth, hf, List.mem_cons, hk, false_or]

end Sys2Proof.Machine
end

section
/-! PROOFS. Calls, the return, marks and unwinding (R16, R17, R104 to R108). -/

namespace Sys2Proof.Machine

/-! ### New frames -/

theorem nodup_eraseDups (l : List Nat) : l.eraseDups.Nodup := by
  match l with
  | [] => exact List.nodup_nil
  | a :: as =>
    rw [List.eraseDups_cons, List.nodup_cons]
    exact ⟨by simp [List.mem_eraseDups], nodup_eraseDups _⟩
  termination_by l.length
  decreasing_by exact Nat.lt_succ_of_le (List.length_filter_le _ _)

/-- The frames of a lane that has been called: a new one on top of the others (R16, R104). -/
def CalledFrames (g win : Nat) (ret : DWord) (old new : List Frame) : Prop :=
  ∃ sf, new = ⟨g, win, ret, none, [], sf⟩ :: old

/-- New frames in some lanes of a warp, in one slice-frame. -/
def Warp.pushAll (W : Warp) (g win : Nat) (ret : DWord) (sf : Nat) (ls : List Nat) : Warp :=
  ls.foldl (fun W l => W.updLane l (·.push g win ret sf)) W

theorem pushAll_lane (W : Warp) (g win : Nat) (ret : DWord) (sf : Nat) {ls : List Nat} (hn : ls.Nodup) (l : Nat) :
    (W.pushAll g win ret sf ls).lane l = if l ∈ ls then (W.lane l).push g win ret sf else W.lane l := by
  unfold Warp.pushAll
  induction ls generalizing W with
  | nil => simp
  | cons a ls ih =>
    rw [List.nodup_cons] at hn
    rw [List.foldl_cons, ih _ hn.2, lane_updLane]
    by_cases h : l = a
    · subst h; simp [hn.1]
    · simp [h]

theorem pushAll_sliceless (W : Warp) (g win : Nat) (ret : DWord) (sf : Nat) (ls : List Nat) :
    (W.pushAll g win ret sf ls).sliceless = W.sliceless := by
  unfold Warp.pushAll
  induction ls generalizing W with
  | nil => rfl
  | cons a ls ih => rw [List.foldl_cons, ih]; rfl

/-- What a call makes of a warp in one slice (R104, R171): the new frames, and their slice-frame when they have granules
of their own. -/
def Warp.pushSlice (W : Warp) (g win : Nat) (ret : DWord) (id depth k : Nat) (ls : List Nat) : Warp :=
  let V := W.pushAll g win ret (if g == 1 then 0 else id) ls
  if g == 1 then V else { V with slices := tset V.slices id ⟨depth, k, ls, g - 1, false, 0⟩ }

/-- A call in one slice. -/
def State.pushSlice (s : State) (w g win : Nat) (ret : DWord) (ls : List Nat) (k : Nat) : State :=
  let mine := ls.filter (fun l => l / 4 == k)
  State.updWarp { s with uid := s.uid + 1 } w
    (·.pushSlice g win ret s.uid (((s.warp w).lane (mine.headD 0)).depth + 1) k mine)

theorem pushFrames_eq (s : State) (w g win : Nat) (ret : DWord) (ls : List Nat) :
    s.pushFrames w g win ret ls = (slicesOf ls).foldl (fun s k => s.pushSlice w g win ret ls k) s := rfl

theorem pushSlice_lane (W : Warp) (g win : Nat) (ret : DWord) (id depth k : Nat) {ls : List Nat} (hn : ls.Nodup) (l : Nat) :
    (W.pushSlice g win ret id depth k ls).lane l =
      if l ∈ ls then (W.lane l).push g win ret (if g == 1 then 0 else id) else W.lane l := by
  rw [← pushAll_lane W g win ret _ hn l]
  unfold Warp.pushSlice
  dsimp only
  split_ifs <;> rfl

theorem pushSlice_sliceless (W : Warp) (g win : Nat) (ret : DWord) (id depth k : Nat) (ls : List Nat) :
    (W.pushSlice g win ret id depth k ls).sliceless = W.sliceless := by
  rw [← pushAll_sliceless W g win ret (if g == 1 then 0 else id) ls]
  unfold Warp.pushSlice
  dsimp only
  split_ifs <;> rfl

/-- A call in one slice gives new frames to the lanes of that slice, and takes nothing from the pool. -/
theorem pushSlice_spec {s : State} {w : Nat} (hw : (tget s.warps w).isSome) (g win : Nat) (ret : DWord) {ls : List Nat}
    (hn : ls.Nodup) (k : Nat) :
    State.Reframed s (s.pushSlice w g win ret ls k) w ∧ (s.pushSlice w g win ret ls k).cores = s.cores ∧
      ∀ l, if l ∈ ls ∧ l / 4 = k then
          CalledFrames g win ret ((s.warp w).lane l).frames (((s.pushSlice w g win ret ls k).warp w).lane l).frames
        else (((s.pushSlice w g win ret ls k).warp w).lane l).frames = ((s.warp w).lane l).frames := by
  have hm : (ls.filter (fun l => l / 4 == k)).Nodup := hn.filter _
  refine ⟨?_, rfl, fun l => ?_⟩
  · refine State.Reframed.trans (t := { s with uid := s.uid + 1 }) { State.Reframed.refl s w with }
      (reframed_updWarp _ w (fun W => pushSlice_sliceless _ _ _ _ _ _ _ _) fun W l => ?_)
    rw [pushSlice_lane _ _ _ _ _ _ _ hm]
    split_ifs <;> rfl
  · have e : ((s.pushSlice w g win ret ls k).warp w).lane l = _ :=
      (congrArg (fun W : Warp => W.lane l) (warp_updWarp_self { s with uid := s.uid + 1 } _ hw)).trans
        (pushSlice_lane _ g win ret _ _ _ hm l)
    rw [e]
    simp only [List.mem_filter, beq_iff_eq]
    by_cases h : l ∈ ls ∧ l / 4 = k
    · rw [if_pos h, if_pos h]; exact ⟨_, rfl⟩
    · rw [if_neg h, if_neg h]; rfl

/-- A call in some slices. -/
theorem pushSlices_spec {s : State} {w : Nat} (hw : (tget s.warps w).isSome) (g win : Nat) (ret : DWord) {ls ks : List Nat}
    (hn : ls.Nodup) (hk : ks.Nodup) :
    let t := ks.foldl (fun s k => s.pushSlice w g win ret ls k) s
    State.Reframed s t w ∧ t.cores = s.cores ∧ ∀ l, if l ∈ ls ∧ l / 4 ∈ ks then
        CalledFrames g win ret ((s.warp w).lane l).frames ((t.warp w).lane l).frames
      else ((t.warp w).lane l).frames = ((s.warp w).lane l).frames := by
  induction ks generalizing s with
  | nil => exact ⟨.refl s w, rfl, fun l => by simp⟩
  | cons k ks ih =>
    rw [List.nodup_cons] at hk
    obtain ⟨h1, h2, h3⟩ := pushSlice_spec hw g win ret hn k
    obtain ⟨k1, k2, k3⟩ := ih (s := s.pushSlice w g win ret ls k) (h1.listed.trans hw) hk.2
    refine ⟨h1.trans k1, k2.trans h2, fun l => ?_⟩
    have a1 := h3 l
    have a2 := k3 l
    rw [List.foldl_cons]
    by_cases hl : l ∈ ls ∧ l / 4 = k
    · obtain ⟨hm, rfl⟩ := hl
      rw [if_pos ⟨hm, rfl⟩] at a1
      rw [if_neg (fun e => hk.1 e.2)] at a2
      rw [if_pos ⟨hm, List.mem_cons_self⟩, a2]
      exact a1
    · rw [if_neg hl] at a1
      rw [a1] at a2
      have : (l ∈ ls ∧ l / 4 ∈ k :: ks) ↔ (l ∈ ls ∧ l / 4 ∈ ks) := by
        rw [List.mem_cons]; tauto
      rw [if_congr this rfl rfl]
      exact a2

/-- A call gives every one of its lanes a new frame, and takes nothing from the pool itself (R16, R104). -/
theorem pushFrames_spec {s : State} {w : Nat} (hw : (tget s.warps w).isSome) (g win : Nat) (ret : DWord) {ls : List Nat}
    (hn : ls.Nodup) :
    State.Reframed s (s.pushFrames w g win ret ls) w ∧ (s.pushFrames w g win ret ls).cores = s.cores ∧
      (∀ l ∈ ls,
        CalledFrames g win ret ((s.warp w).lane l).frames (((s.pushFrames w g win ret ls).warp w).lane l).frames) ∧
      ∀ l, l ∉ ls → (((s.pushFrames w g win ret ls).warp w).lane l).frames = ((s.warp w).lane l).frames := by
  rw [pushFrames_eq]
  obtain ⟨h1, h2, h3⟩ := pushSlices_spec hw g win ret hn (nodup_eraseDups (ls.map (· / 4)))
  refine ⟨h1, h2, fun l hl => ?_, fun l hl => ?_⟩
  · have h := h3 l
    rwa [if_pos ⟨hl, List.mem_eraseDups.mpr (List.mem_map_of_mem hl)⟩] at h
  · have h := h3 l
    rwa [if_neg fun e => hl e.1] at h

theorem resolve_succ (fs : List Frame) (i r : Nat) :
    resolve fs (i + 1) r = ((resolve fs i r).1 + 1, (resolve fs i r).2) := by
  induction fs generalizing i r with
  | nil => rfl
  | cons f fs ih =>
    cases fs with
    | nil => rfl
    | cons f' fs =>
      unfold resolve
      split_ifs
      · exact ih _ _
      · rfl

/-- The first eight registers of a called frame are the caller's window (R16). -/
theorem vreg_window {s t : State} {w l : Nat} (hs : (s.block (s.warp w).block).shares = [])
    (ht : (t.block (t.warp w).block).shares = []) {f : Frame}
    (hf : ((t.warp w).lane l).frames = f :: ((s.warp w).lane l).frames) (hne : ((s.warp w).lane l).frames ≠ []) {r : Nat}
    (hr : r < 8) : t.vreg w l r = s.vreg w l (f.win + r) := by
  rw [vreg_eq hs, vreg_eq ht]
  unfold Lane.frameReg
  rw [hf]
  obtain ⟨f', fs, e⟩ := List.exists_cons_of_ne_nil hne
  have h : resolve (f :: ((s.warp w).lane l).frames) 0 r = resolve ((s.warp w).lane l).frames 1 (f.win + r) := by
    rw [e, resolve, if_pos hr]
  rw [h, resolve_succ, List.getD_cons_succ]

/-! ### What a control word leaves -/

theorem State.Reframed.quiet {s t : State} {w : Nat} (h : State.Reframed s t w) (hq : (s.warp w).Quiet) :
    (t.warp w).Quiet :=
  ⟨(congrArg Warp.longs h.warp).trans hq.longs, (congrArg Warp.late h.warp).trans hq.late⟩

/-- The rest of the warp, field by field where a control word looks at it. -/
theorem State.Reframed.fields {s t : State} {w : Nat} (h : State.Reframed s t w) :
    (t.warp w).core = (s.warp w).core ∧ (t.warp w).block = (s.warp w).block ∧ (t.warp w).cur = (s.warp w).cur ∧
      (t.warp w).s = (s.warp w).s ∧ (t.warp w).fpstat = (s.warp w).fpstat := by
  have e {α : Type} (f : Warp → α) := congrArg f h.warp
  exact ⟨e (·.core), e (·.block), e (·.cur), e (·.s), e (·.fpstat)⟩

theorem State.Reframed.core {s t : State} {w : Nat} (h : State.Reframed s t w) : (t.warp w).core = (s.warp w).core :=
  h.fields.1

theorem State.Reframed.unheld {s t : State} {x : Hdr} (h : State.Reframed s t s.w) (hu : s.Unheld x) : t.Unheld x := by
  have hc : t.wp.cur = s.wp.cur := by
    obtain ⟨-, -, hc, -⟩ := h.fields
    rw [h.wp]; exact hc
  have hr : t.requested t.wp.core = s.requested s.wp.core := by
    rw [h.wp, h.core]; exact congrArg (·.getLsbD 31) (h.preq _)
  unfold State.Unheld
  rw [hc, hr]
  exact hu

theorem State.Reframed.cyc {s t : State} (h : State.Reframed s t s.w) : t.cyc = s.cyc := by
  unfold State.cyc
  rw [h.wp, h.core, h.cycle]
  rfl

theorem State.Reframed.ready {s t : State} {w : Nat} (h : State.Reframed s t w) (l : Nat) :
    ((t.warp w).lane l).ready = ((s.warp w).lane l).ready := by
  rw [h.lane l]; rfl

/-- Once frames have changed in lanes of a control word, its lanes move, and no more than that (R102). -/
theorem jump_reframed {s t : State} {h : Hdr} {u : Uses} {m : BitVec 32} (a : s.Acts h u m) (hu : s.Unheld h)
    (hf : State.Reframed s t s.w) (target : Nat → DWord) :
    let v := t.jump h ((lanesOf m).map (fun l => (l, target l)))
    v = { t with warps := v.warps } ∧ (∀ x, x ≠ s.w → v.warp x = t.warp x) ∧
      v.warp s.w = { t.warp s.w with lanes := (v.warp s.w).lanes } ∧
      ∀ l, (v.warp s.w).lane l = if m.getLsbD l = true then ((t.warp s.w).lane l).standAt (target l) (s.cyc + 1)
        else if s.cur.lanes.getLsbD l = true then ((t.warp s.w).lane l).standAt (afterWord h s.cur.pc) (s.cyc + 1)
        else (t.warp s.w).lane l := by
  obtain ⟨ho, hl⟩ := jump_spec (s := t) (h := h) (m := m) (by rw [hf.w, hf.listed]; exact a.warp)
    (by rw [hf.wp]; exact hf.quiet a.quiet) (hf.unheld hu)
    (fun l hc => by rw [hf.wp, hf.ready]; exact a.ready l (hf.cur ▸ hc)) (fun l hm => by rw [hf.cur]; exact a.inGang hm)
    target
  have hw := ho.warp
  rw [hf.w, hf.wp] at hw
  rw [hf.w, hf.wp, hf.cur, hf.cyc] at hl
  exact ⟨ho.rest, fun x hx => ho.others x (by rw [hf.w]; exact hx), hw, hl⟩

/-- What a control word leaves when frames have changed in its acting lanes. -/
theorem jump_shifts {s t : State} {h : Hdr} {u : Uses} {m : BitVec 32} (a : s.Acts h u m) (hu : s.Unheld h)
    (hf : State.Reframed s t s.w) {fs : Nat → List Frame → Prop}
    (hfs : ∀ l, m.getLsbD l = true → fs l ((t.warp s.w).lane l).frames)
    (hst : ∀ l, m.getLsbD l = false → ((t.warp s.w).lane l).frames = (s.wp.lane l).frames) (target : Nat → DWord) :
    Claims.Shifts s (t.jump h ((lanesOf m).map (fun l => (l, target l)))) h m target fs := by
  obtain ⟨hrest, hothers, hw, hl⟩ := jump_reframed a hu hf target
  generalize t.jump h ((lanesOf m).map (fun l => (l, target l))) = v at hrest hothers hw hl ⊢
  have hkeep : ∀ l, ((v.warp s.w).lane l).frames = ((t.warp s.w).lane l).frames ∧
      ((v.warp s.w).lane l).preds = (s.wp.lane l).preds ∧ ((v.warp s.w).lane l).pbad = (s.wp.lane l).pbad := by
    intro l
    have hp : ((t.warp s.w).lane l).preds = (s.wp.lane l).preds ∧ ((t.warp s.w).lane l).pbad = (s.wp.lane l).pbad := by
      rw [hf.lane l]; exact ⟨rfl, rfl⟩
    rw [hl l]
    split_ifs <;> exact ⟨rfl, hp⟩
  refine ⟨?_, fun x hx => (hothers x hx).trans (hf.others x hx), fun l hm => ?_, fun l hc hm => ?_,
    fun l hm => (hkeep l).1.trans (hst l hm), fun l => (hkeep l).2, ?_⟩
  · rw [hrest]; exact hf.mem
  · rw [(hkeep l).1, hl l, if_pos hm]
    exact ⟨hfs l hm, rfl, rfl⟩
  · rw [hl l, if_neg (by simp [hm]), if_pos hc]
    exact ⟨rfl, rfl⟩
  · obtain ⟨-, -, -, hs, hp⟩ := hf.fields
    rw [hw]
    exact ⟨hs, hp⟩

end Sys2Proof.Machine
end

section
/-! PROOFS. Calls, the return, marks and unwinding, from the issue of the word to what it leaves (R16, R17, R104 to
R108). -/

namespace Sys2Proof.Proofs

open Sys2Proof.Machine Sys2Proof.Claims

/-! ### Calls -/

/-- What the pool gives a call that can be performed: the granules of its new frames (R172). -/
theorem pool_serves {s : State} {m : BitVec 32} {g win : Nat} (h : CanCall s m g win) :
    ∃ c : Core, (if callNeed g (lanesOf m) == 0 then some (s.core s.wp.core)
        else if s.frameBlocked s.wp.core then none else (s.core s.wp.core).cover s.w (callNeed g (lanesOf m))) = some c ∧
      c.preq = (s.core s.wp.core).preq ∧ c.free = (s.core s.wp.core).free - callNeed g (lanesOf m) := by
  by_cases hn : callNeed g (lanesOf m) = 0
  · exact ⟨s.core s.wp.core, by rw [hn]; rfl, rfl, by rw [hn, Nat.sub_zero]⟩
  · obtain ⟨hb, hc⟩ := h.2.resolve_left hn
    refine ⟨{ s.core s.wp.core with free := (s.core s.wp.core).free - callNeed g (lanesOf m) }, ?_, rfl, rfl⟩
    rw [if_neg (by simpa using hn), hb, if_neg (by simp), Core.cover, if_pos hc]

/-- A call that can be performed takes its granules from the pool, pushes its frames and moves its lanes (R104). -/
theorem callWord_served {s : State} {h : Hdr} {u : Uses} {m : BitVec 32} {g win : Nat} {target f : Nat → DWord}
    (a : s.Acts h u m) (hm : m ≠ 0) (hc : CanCall s m g win) (hl : Lands s m target)
    (hf : ∀ l, m.getLsbD l = true → f l = target l) (rd : List Nat) :
    ∃ c : Core, c.preq = (s.core s.wp.core).preq ∧
      c.free = (s.core s.wp.core).free - callNeed g (lanesOf m) ∧
      s.callWord h g win m rd f =
        (State.pushFrames { s with cores := tset s.cores s.wp.core c } s.w g win (afterWord h s.cur.pc) (lanesOf m)).jump h
          ((lanesOf m).map (fun l => (l, target l))) := by
  obtain ⟨⟨hdoom, hmis⟩, hland⟩ := hl
  obtain ⟨c, hpool, hpreq, hfree⟩ := pool_serves hc
  obtain ⟨hwin, -⟩ := hc
  refine ⟨c, hpreq, hfree, ?_⟩
  have hts : (lanesOf m).map (fun l => (l, f l)) = (lanesOf m).map (fun l => (l, target l)) :=
    List.map_congr_left fun l hl => by rw [hf l (mem_lanesOf.mp hl)]
  unfold State.callWord
  rw [reclaimFirst_undoomed hdoom, if_neg (by simpa using hm)]
  dsimp only
  rw [lanesWhere_zero (p := fun _ L => L.noWindow win) (fun l hl => by simpa [Lane.noWindow] using (hwin l hl).1),
    lanesWhere_zero (p := fun _ L => decide (L.depth ≥ 1024)) (fun l hl => by simpa using (hwin l hl).2),
    hts, if_neg (by simp), if_neg (by simp), checkLanding_lanes hland,
    lanesWhere_zero (p := fun l _ => (s.sharedAt s.w l win).isSome)
      (fun l _ => by rw [sharedAt_none (w := s.w) a.alone]; rfl),
    if_neg (by simp), compare_agree ((mismatch_congr fun l hl => by rw [hf l hl]).trans hmis), awaitLong_quiet a.quiet,
    emptyCells_alone a.alone, hpool]
  dsimp only
  rw [State.enterCall, List.map_map]
  congr 2
  exact List.map_id _

/-- A call leaves what R104 says. -/
theorem callWord_called {s : State} {h : Hdr} {u : Uses} {m : BitVec 32} {g win : Nat} {target f : Nat → DWord}
    (a : s.Acts h u m) (hu : s.Unheld h) (hm : m ≠ 0) (hc : CanCall s m g win) (hl : Lands s m target)
    (hf : ∀ l, m.getLsbD l = true → f l = target l) (rd : List Nat) :
    Called s (s.callWord h g win m rd f) h m g win target := by
  obtain ⟨c, hpreq, hfree, he⟩ := callWord_served a hm hc hl hf rd
  have h0 := reframed_setCore s s.w s.wp.core hpreq
  obtain ⟨h1, hcores, hin, hout⟩ := pushFrames_spec (s := { s with cores := tset s.cores s.wp.core c }) (w := s.w) a.warp
    g win (afterWord h s.cur.pc) (lanesOf_nodup m)
  rw [he]
  generalize State.pushFrames { s with cores := tset s.cores s.wp.core c } s.w g win (afterWord h s.cur.pc) (lanesOf m) = t
    at h1 hcores hin hout
  have hr := h0.trans h1
  have hs : Shifts s _ h m target (fun l => CalledFrames g win (afterWord h s.cur.pc) (s.wp.lane l).frames) :=
    jump_shifts a hu hr (fun l hl => hin l (mem_lanesOf.mpr hl)) (fun l hl => hout l (not_mem_lanesOf hl)) target
  obtain ⟨hrest, -, hw, -⟩ := jump_reframed a hu hr target
  generalize t.jump h ((lanesOf m).map (fun l => (l, target l))) = v at hs hrest hw ⊢
  refine ⟨hs, fun l hl r hr8 => ?_, ?_⟩
  · obtain ⟨⟨sf, hsf⟩, -⟩ := hs.arrive l hl
    have hb : (v.block (v.warp s.w).block).shares = [] := by
      have hblocks : v.blocks = s.blocks := by rw [hrest]; exact hr.blocks
      have hblock : (v.warp s.w).block = s.wp.block := by rw [hw]; exact hr.fields.2.1
      rw [hblock, State.block, hblocks]
      exact a.alone
    have hne : (s.wp.lane l).frames ≠ [] := fun e => by
      obtain ⟨hwin, -⟩ := hc.1 l hl
      rw [Lane.top, e] at hwin
      exact absurd hwin (Nat.not_lt_zero _)
    exact vreg_window (w := s.w) a.alone hb hsf hne hr8
  · rw [hrest, State.core, hcores]
    exact (congrArg Core.free (tgetD_tset_self s.cores s.wp.core c {})).trans hfree

/-! ### Back to older frames -/

/-- Lanes whose destination frames are resident pop to them and move (R105, R108, R174). -/
theorem intoFrame_resident {s : State} {h : Hdr} {u : Uses} {m : BitVec 32} {depth : Nat → Nat} (a : s.Acts h u m)
    (hr : Resident s m depth) {target f : Nat → DWord} (hf : ∀ l, m.getLsbD l = true → f l = target l) :
    s.intoFrame h m depth f =
      ((lanesOf m).foldl (fun s l => s.popTo s.w l (depth l)) s).jump h ((lanesOf m).map (fun l => (l, target l))) := by
  have hfar : (lanesOf m).filter (fun l => !(s.wp.spilledAt [l] depth).isEmpty) = [] :=
    List.filter_eq_nil_iff.mpr fun l hl => by simp [hr l (mem_lanesOf.mp hl)]
  have hnear : (lanesOf m).filter (fun l => !(s.wp.lane l).park.on) = lanesOf m :=
    List.filter_eq_self.mpr fun l hl => by
      have := a.ready l (a.inGang (mem_lanesOf.mp hl))
      simp only [Lane.ready, Bool.and_eq_true] at this
      exact this.1.2
  unfold State.intoFrame
  dsimp only
  rw [hfar, show s.wp.refills depth 4 [] = [] from rfl, List.foldl_nil, hnear]
  congr 1
  exact List.map_congr_left fun l hl => by rw [hf l (mem_lanesOf.mp hl)]

/-- What a return to older frames leaves. -/
theorem intoFrame_shifts {s : State} {h : Hdr} {u : Uses} {m : BitVec 32} {depth : Nat → Nat} (a : s.Acts h u m)
    (hu : s.Unheld h) (hr : Resident s m depth) {fs : Nat → List Frame → Prop}
    (hfs : ∀ l, m.getLsbD l = true → fs l ((s.wp.lane l).frames.drop ((s.wp.lane l).depth - depth l)))
    {target f : Nat → DWord} (hf : ∀ l, m.getLsbD l = true → f l = target l) :
    Shifts s (s.intoFrame h m depth f) h m target fs := by
  obtain ⟨h1, h2⟩ := popLanes_spec a.warp depth (lanesOf_nodup m)
  rw [intoFrame_resident a hr hf]
  refine jump_shifts a hu h1 (fun l hl => ?_) (fun l hl => ?_) target
  · rw [h2, if_pos (mem_lanesOf.mpr hl)]
    exact hfs l hl
  · rw [h2, if_neg (not_mem_lanesOf hl)]

/-- A return that nothing stops leaves what R105 says. -/
theorem ret_returns {s : State} {t : Tri} {m : BitVec 32} (a : s.Acts t.h {} m) (hu : s.Unheld t.h)
    (hdepth : ∀ l, m.getLsbD l = true → 2 ≤ (s.wp.lane l).depth) (hr : Resident s m (fun l => (s.wp.lane l).depth - 1))
    (htog : Together s m (fun l => [(s.wp.lane l).top.ret])) :
    ∃ u, exec (.ret t) s = .next u ∧
      Shifts s u t.h m (fun l => (s.wp.lane l).top.ret) (fun l fs => fs = (s.wp.lane l).frames.tail) := by
  obtain ⟨hdoom, hmis⟩ := htog
  have htail : ∀ l, m.getLsbD l = true →
      (s.wp.lane l).frames.drop ((s.wp.lane l).depth - ((s.wp.lane l).depth - 1)) = (s.wp.lane l).frames.tail := by
    intro l hl
    have hd := hdepth l hl
    rw [show (s.wp.lane l).depth - ((s.wp.lane l).depth - 1) = 1 by omega, List.drop_one]
  have htop : s.lanesWhere m (fun _ L => decide (L.depth ≤ 1)) = 0 := lanesWhere_zero fun l hl => by
    have hd := hdepth l hl
    exact decide_eq_false (by omega)
  refine ⟨_, congrArg Host.Outcome.next ((admit_eq a false (by simp) _).trans ?_),
    intoFrame_shifts (fs := fun l fs => fs = (s.wp.lane l).frames.tail) a hu hr htail
      (f := fun l => (s.wp.lane l).top.ret) (fun _ _ => rfl)⟩
  rw [reclaimFirst_undoomed hdoom]
  dsimp only
  rw [htop, if_neg (by simp), compare_agree hmis, awaitLong_quiet a.quiet]

/-- The calls and the return do what R104 and R105 say: `callx` takes its targets from clean registers. -/
theorem calls_settle : callClause := by
  intro s m hm
  refine ⟨fun t _ a hu hc hl => ?_, fun t _ a hu hd hc hl => ?_, fun _ _ a hu hdepth hr htog =>
    ret_returns a hu hdepth hr htog⟩
  · exact ⟨_, congrArg Host.Outcome.next (admit_eq a false (by simp) _),
      callWord_called a hu hm hc hl (fun _ _ => rfl) []⟩
  · refine ⟨_, congrArg Host.Outcome.next ((admit_eq a false (by simp) _).trans ?_), callWord_called a hu hm hc hl
      (fun l hl => valOf_map (mem_lanesOf.mpr hl) (fun l => (vecSrc s l 2 t.a.toNat).1)) (regsOf [(t.a.toNat, 2)])⟩
    rw [reclaimFirst_undoomed hl.1.1, laneVals_clean a.quiet (by omega) hd]
    rfl

/-! ### Marks -/

/-- Marking the current frame of a lane changes its mark and nothing that its registers see (R106). -/
theorem setMark_spec {L : Lane} {d : Nat} (h : L.depth = d) (k : Mark) :
    (L.setMark d k).file = L.file ∧ (L.setMark d k).ready = L.ready ∧
      (L.setMark d k).top.mark = if d = 0 then none else some k := by
  subst h
  refine ⟨?_, rfl, ?_⟩
  · refine Prod.ext (List.ext_getElem (by simp [Lane.file, Lane.setMark]) fun i _ _ => ?_) rfl
    simp only [Lane.file, Lane.setMark, List.getElem_map, List.getElem_mapIdx]
    split_ifs <;> rfl
  · unfold Lane.setMark Lane.top Lane.depth
    cases L.frames with
    | nil => rfl
    | cons f fs => simp

theorem mark_of_shape {L K : Lane} (h : L.shape = K.shape) : L.top.mark = K.top.mark := by
  have e := congrArg (fun fs => (fs.headD ({ g := 0 } : Frame)).mark) h
  unfold Lane.shape at e
  unfold Lane.top
  cases hL : L.frames <;> cases hK : K.frames <;> simp_all

/-- A warp in which `umark` has marked the lanes of a mask, with the serial of the mark (R106, R107). -/
def markLanes (W : Warp) (m : BitVec 32) (d : Nat) (k : Mark) : Warp :=
  { W.updLanes m (fun _ L => L.setMark d k) with markSer := k.ser }

theorem markLanes_lane (W : Warp) (m : BitVec 32) (d : Nat) (k : Mark) (l : Nat) :
    (markLanes W m d k).lane l =
      if m.getLsbD l = true ∧ (tget W.lanes l).isSome then (W.lane l).setMark d k else W.lane l :=
  lane_updLanes W m (fun _ L => L.setMark d k) l

theorem markLanes_file {W : Warp} {m : BitVec 32} {d : Nat}
    (hd : ∀ l, m.getLsbD l = true → (W.lane l).depth = d) (k : Mark) (l : Nat) :
    ((markLanes W m d k).lane l).file = (W.lane l).file ∧
      ((markLanes W m d k).lane l).ready = (W.lane l).ready := by
  rw [markLanes_lane]
  split_ifs with h
  · obtain ⟨h1, h2, -⟩ := setMark_spec (hd l h.1) k
    exact ⟨h1, h2⟩
  · exact ⟨rfl, rfl⟩

/-- The state in which `umark` has marked its lanes and has yet to write its token. -/
def marked (s : State) (m : BitVec 32) (d : Nat) (k : Mark) : State := s.updWarp s.w (markLanes · m d k)

theorem marked_wp {s : State} (hw : (tget s.warps s.w).isSome) (m : BitVec 32) (d : Nat) (k : Mark) :
    (marked s m d k).wp = markLanes s.wp m d k := warp_updWarp_self s (markLanes · m d k) hw

/-- The token of a mark: its serial, and the depth of its frame (R106). -/
def tokenOf (ser : BitVec 8) (d : Nat) : Cell := ⟨BitVec.ofNat 32 (ser.toNat * 2 ^ 16 + (d - 1)), false⟩

/-- `umark` in lanes of one depth (R107): marks, the token, and the next word. -/
theorem exec_umark {s : State} {t : Imm} {m : BitVec 32} {d : Nat} (a : s.Acts t.h {} m) (hm : m ≠ 0)
    (hd : ∀ l, m.getLsbD l = true → (s.wp.lane l).depth = d) :
    exec (.umark t) s = .next (((marked s m d ⟨branchTo s.cur.pc t.imm, s.wp.markSer + 1⟩).writeTarget s.w
      (.uni t.d.toNat) (tokenOf (s.wp.markSer + 1) d)).finish t.h) := by
  refine congrArg Host.Outcome.next ((admit_eq a false (by simp) _).trans ?_)
  obtain ⟨x, xs, e⟩ := List.exists_cons_of_ne_nil (lanesOf_ne_nil hm)
  have hx : ∀ l ∈ x :: xs, (s.wp.lane l).depth = d := fun l hl => hd l (mem_lanesOf.mp (e ▸ hl))
  have hxs : (xs.map (fun l => (s.wp.lane l).depth)).any (· != d) = false :=
    List.any_eq_false.mpr fun y hy => by
      obtain ⟨l, hl, rfl⟩ := List.mem_map.mp hy
      simp [hx l (List.mem_cons_of_mem _ hl)]
  rw [e, List.map_cons, hx x List.mem_cons_self]
  dsimp only
  rw [hxs]
  rfl

/-- A word that writes one uniform register at once, and completes (R72). -/
theorem writeUni_completed {s : State} {h : Hdr} (hi : s.Issues) (hq : s.wp.Quiet)
    (ha : (s.block s.wp.block).shares = []) (hu : s.Unheld h) (r : Nat) (c : Cell) :
    s.Completed ((s.writeTarget s.w (.uni r) c).finish h) h [.uni r] 0 ∧
      ((s.writeTarget s.w (.uni r) c).finish h).reads s.w (.uni r) = c := by
  obtain ⟨ho, hv⟩ := writeTarget_spec (s := s) (w := s.w) (x := .uni r) hi.warp hq ha trivial c
  have hp := writeTarget_samePlace (s := s) (w := s.w) hi.warp hq ha (.uni r) c
  obtain ⟨hc, hr⟩ := finish_completed (f := 0) hi hp.listed hq ha hu ho (fun l => ⟨hp.pc l, hp.since l⟩) hp.flags
  exact ⟨hc, (hr _).trans hv⟩

/-- From the marked state, `umark` completes with its token (R106). -/
theorem marked_completes {s : State} {h : Hdr} {m : BitVec 32} {d : Nat} (a : s.Acts h {} m) (hu : s.Unheld h)
    (hd : ∀ l, m.getLsbD l = true → (s.wp.lane l).depth = d) (k : Mark) (r : Nat) (c : Cell) :
    (marked s m d k).Completed (((marked s m d k).writeTarget s.w (.uni r) c).finish h) h [.uni r] 0 ∧
      (((marked s m d k).writeTarget s.w (.uni r) c).finish h).reads s.w (.uni r) = c := by
  have e := marked_wp a.warp m d k
  refine writeUni_completed (s := marked s m d k) ⟨?_, fun l hl => ?_⟩ ?_ ?_ ?_ r c
  · exact (isSome_updWarp s s.w s.w _).trans a.warp
  · rw [e, (markLanes_file hd k l).2]
    exact a.ready l hl
  · rw [e]
    exact ⟨a.quiet.longs, a.quiet.late⟩
  · rw [e]
    exact a.alone
  · unfold State.Unheld
    rw [e]
    exact hu

/-- Marking changes what no register read sees. -/
theorem marked_reads {s : State} {m : BitVec 32} {d : Nat} (hw : (tget s.warps s.w).isSome)
    (hd : ∀ l, m.getLsbD l = true → (s.wp.lane l).depth = d) (k : Mark) (x : Target) :
    (marked s m d k).reads s.w x = s.reads s.w x := by
  have e : (marked s m d k).warp s.w = markLanes s.wp m d k := marked_wp hw m d k
  refine reads_congr (t := marked s m d k) (updWarp_blocks s s.w _) ?_ ?_ (fun l => ?_) x <;> rw [e]
  · rfl
  · rfl
  · exact (markLanes_file hd k l).1

/-- The current frame of a marked lane carries the mark, unless the lane has no frame (R106). -/
theorem marked_mark {s : State} {m : BitVec 32} {d : Nat} (hw : (tget s.warps s.w).isSome)
    (hd : ∀ l, m.getLsbD l = true → (s.wp.lane l).depth = d) (k : Mark) {l : Nat} (hl : m.getLsbD l = true)
    (hr : (s.wp.lane l).ready = true) :
    (((marked s m d k).warp s.w).lane l).top.mark = if d = 0 then none else some k := by
  have e : (marked s m d k).warp s.w = markLanes s.wp m d k := marked_wp hw m d k
  rw [e, markLanes_lane, if_pos ⟨hl, isSome_of_ready hr⟩]
  exact (setMark_spec (hd l hl) k).2.2

/-- The fields of the token of a mark (R106): serial and depth, and nothing else. -/
theorem token_fields (ser : BitVec 8) {d : Nat} (hd : d < 1024) {v : BitVec 32}
    (hv : v = BitVec.ofNat 32 (ser.toNat * 2 ^ 16 + d)) :
    v.toNat % 2 ^ 10 = d ∧ v.extractLsb' 16 8 = ser ∧ v.extractLsb' 24 8 = 0 ∧ v.extractLsb' 10 6 = 0 := by
  have hs := ser.isLt
  have hn : v.toNat = ser.toNat * 65536 + d := by
    rw [hv, BitVec.toNat_ofNat]; omega
  refine ⟨by omega, ?_, ?_, ?_⟩ <;> apply BitVec.eq_of_toNat_eq <;>
    simp only [BitVec.extractLsb'_toNat, Nat.shiftRight_eq_div_pow, hn, BitVec.ofNat_eq_ofNat, BitVec.toNat_ofNat] <;> omega

/-- The mark of a lane that a token names, if there is one (R108). -/
def markOf (tok : Word) (L : Lane) : Option Mark :=
  ((L.frameAt (tok.toNat % 2 ^ 10 + 1)).bind (·.mark)).filter (fun k =>
    (tok.extractLsb' 24 8 == 0 && tok.extractLsb' 10 6 == 0) && k.ser == tok.extractLsb' 16 8)

/-- Where the mark that a token names resumes a lane. -/
def resumeOf (tok : Word) (L : Lane) : DWord := ((markOf tok L).map (·.resume)).getD 0

theorem markOf_token {L : Lane} {ser : BitVec 8} {d : Nat} {k : Mark} {tok : Word} (hd : d < 1024)
    (ht : tok = BitVec.ofNat 32 (ser.toNat * 2 ^ 16 + d)) (hl : d + 1 ≤ L.depth) {f : Frame}
    (hf : L.frames[L.depth - (d + 1)]? = some f) (hk : f.mark = some k) (hs : k.ser = ser) : markOf tok L = some k := by
  obtain ⟨h1, h2, h3, h4⟩ := token_fields ser hd ht
  have hat : L.frameAt (d + 1) = some f := by
    unfold Lane.frameAt
    rw [if_neg (by simpa [Lane.depth] using hl)]
    exact hf
  unfold markOf
  rw [h1, h2, h3, h4, hat]
  simp [hk, hs]

/-- `unwind` goes on when every acting lane has the mark that its clean token names (R108). -/
theorem unwind_goes {s : State} {t : Tri} {m : BitVec 32} {tok : Word} {target : Nat → DWord} (a : s.Acts t.h {} m)
    (htok : s.reads s.w (.uni t.a.toNat) = ⟨tok, false⟩)
    (hmark : ∀ l, m.getLsbD l = true → (markOf tok (s.wp.lane l)).isSome)
    (hres : ∀ l, m.getLsbD l = true → resumeOf tok (s.wp.lane l) = target l) (hl : Lands s m target) :
    exec (.unwind t) s =
      .next (s.intoFrame t.h m (fun _ => tok.toNat % 2 ^ 10 + 1) (fun l => resumeOf tok (s.wp.lane l))) := by
  obtain ⟨⟨hdoom, hmis⟩, hland⟩ := hl
  have hread : s.readS s.w t.a.toNat 0 = _ := (readS_quiet a.quiet _ _).trans htok
  refine congrArg Host.Outcome.next ((admit_eq a false (by simp) _).trans ?_)
  rw [reclaimFirst_undoomed hdoom, hread]
  show (if s.lanesWhere m (fun _ L => (markOf tok L).isNone) != 0 then _ else
    s.checkLanding ((lanesOf m).map (fun l => (l, resumeOf tok (s.wp.lane l)))) _) = _
  rw [lanesWhere_zero (p := fun _ L => (markOf tok L).isNone) (fun l hl => by simpa using hmark l hl), if_neg (by simp),
    checkLanding_lanes (fun l hl => by rw [hres l hl]; exact hland l hl)]
  refine (compare_agree ?_ _).trans (awaitLong_quiet a.quiet _)
  exact (mismatch_congr fun l hl => congrArg (fun x => [x]) (hres l hl)).trans hmis

/-- `unwind` to a mark that its lanes have (R108). -/
theorem unwind_pops {s : State} {t : Tri} {m : BitVec 32} {d : Nat} {ser : BitVec 8} {target : Nat → DWord}
    (a : s.Acts t.h {} m) (hu : s.Unheld t.h) (hd : d < 1024)
    (htok : s.reads s.w (.uni t.a.toNat) = ⟨BitVec.ofNat 32 (ser.toNat * 2 ^ 16 + d), false⟩)
    (hmark : ∀ l, m.getLsbD l = true → d + 1 ≤ (s.wp.lane l).depth ∧
      ∃ f, (s.wp.lane l).frames[(s.wp.lane l).depth - (d + 1)]? = some f ∧ f.mark = some ⟨target l, ser⟩)
    (hr : Resident s m (fun _ => d + 1)) (hl : Lands s m target) :
    ∃ u, exec (.unwind t) s = .next u ∧
      Shifts s u t.h m target (fun l fs => fs = (s.wp.lane l).frames.drop ((s.wp.lane l).depth - (d + 1))) := by
  have hfind : ∀ l, m.getLsbD l = true →
      markOf (BitVec.ofNat 32 (ser.toNat * 2 ^ 16 + d)) (s.wp.lane l) = some ⟨target l, ser⟩ := by
    intro l hl
    obtain ⟨hdep, f, hf, hk⟩ := hmark l hl
    exact markOf_token hd rfl hdep hf hk rfl
  have hres : ∀ l, m.getLsbD l = true →
      resumeOf (BitVec.ofNat 32 (ser.toNat * 2 ^ 16 + d)) (s.wp.lane l) = target l := fun l hl => by
    rw [resumeOf, hfind l hl]; rfl
  have hexec := unwind_goes a htok (fun l hl => by rw [hfind l hl]; rfl) hres hl
  rw [(token_fields ser hd rfl).1] at hexec
  exact ⟨_, hexec, intoFrame_shifts (depth := fun _ => d + 1)
    (fs := fun l fs => fs = (s.wp.lane l).frames.drop ((s.wp.lane l).depth - (d + 1))) a hu hr (fun _ _ => rfl) hres⟩

/-- `umark` marks and completes, `unwind` pops and resumes (R106 to R108). -/
theorem marks_settle : unwindClause := by
  intro s m hm
  refine ⟨fun t d _ a hu hd => ?_, fun _ _ _ _ _ a hu hlt htok hmark hr hl =>
    unwind_pops a hu hlt htok hmark hr hl⟩
  have hwp := marked_wp a.warp m d ⟨branchTo s.cur.pc t.imm, s.wp.markSer + 1⟩
  have hcyc : (marked s m d ⟨branchTo s.cur.pc t.imm, s.wp.markSer + 1⟩).cyc = s.cyc := by
    unfold State.cyc
    rw [hwp]
    rfl
  obtain ⟨hc, hv⟩ := marked_completes a hu hd ⟨branchTo s.cur.pc t.imm, s.wp.markSer + 1⟩ t.d.toNat
    (tokenOf (s.wp.markSer + 1) d)
  refine ⟨_, exec_umark a hm hd, hc.rest, fun v hne => (hc.others v hne).trans (warp_updWarp_ne s _ hne), ?_,
    fun l hl => ?_, hv, fun x hx => ?_, fun l hl => hcyc ▸ hc.next l hl⟩
  · have hser := congrArg Warp.markSer hc.warp
    exact hser.trans (congrArg Warp.markSer hwp)
  · exact (mark_of_shape (hc.shape l)).trans (marked_mark a.warp hd _ hl (a.ready l (a.inGang hl)))
  · exact (hc.regs x (by simpa using hx)).trans (marked_reads a.warp hd _ x)

/-- Settles O16: nothing stops the word, frames are pushed or popped lane by lane and the lanes then move; `umark` marks
before the token is written. -/
theorem callAndUnwindWords : Obligations.CallAndUnwindWords := ⟨calls_settle, marks_settle⟩

end Sys2Proof.Proofs
end

section
/-! PROOFS. The instruction word: the fields of a layout cover the word, each form is the word of its opcode, and a word that decodes
is its own encoding (R42 to R49, R57, R66). -/

namespace Sys2Proof.Laws

/-- Bytes are the lowest bytes of the number that they make (R4). -/
theorem leBytes_leNat (bs : List Byte) : leBytes bs.length (leNat bs) = bs := by
  induction bs with
  | nil => rfl
  | cons b bs ih =>
    have hb := b.isLt
    have h1 : (b.toNat + 256 * leNat bs) / 256 = leNat bs := by omega
    have h2 : BitVec.ofNat 8 (b.toNat + 256 * leNat bs) = b := by
      apply BitVec.eq_of_toNat_eq
      simp only [BitVec.toNat_ofNat]
      omega
    simp only [List.length_cons, leNat, leBytes, h1, h2, ih]

theorem leNat_lt (bs : List Byte) : leNat bs < 256 ^ bs.length := by
  induction bs with
  | nil => simp [leNat]
  | cons b bs ih =>
    have hb := b.isLt
    simp only [leNat, List.length_cons, Nat.pow_succ]
    omega

/-- The w bits of a word from bit lo on, at their place. -/
def bits (n lo w : Nat) : Nat := n / 2 ^ lo % 2 ^ w * 2 ^ lo

theorem bitNat_flag (n lo : Nat) : bitNat (flag n lo) lo = bits n lo 1 := by
  unfold bitNat flag bits
  obtain h | h := Nat.mod_two_eq_zero_or_one (n / 2 ^ lo) <;> simp [h]

theorem field_bits (n lo w : Nat) : (field n lo w).toNat * 2 ^ lo = bits n lo w :=
  congrArg (· * 2 ^ lo) (BitVec.toNat_ofNat _ _)

theorem field_low (n w : Nat) : (field n 0 w).toNat = bits n 0 w := by
  rw [← field_bits, Nat.pow_zero, Nat.mul_one]

/-- The bits below a field, and the field, are the bits below what follows it. -/
theorem bits_append (n lo w : Nat) : bits n 0 lo + bits n lo w = bits n 0 (lo + w) := by
  simp only [bits, Nat.pow_zero, Nat.div_one, Nat.mul_one]
  rw [Nat.pow_add, Nat.mod_mul, Nat.mul_comm (2 ^ lo)]

theorem bits_all {n w : Nat} (h : n < 2 ^ w) : bits n 0 w = n := by
  simp [bits, Nat.mod_eq_of_lt h]

/-- The fields of a TRI word cover it: no bit is dropped (R46, R47). -/
theorem triOf_word {n : Nat} {live : Option DWord} (hn : n < 2 ^ 63) (hs : live.isSome = flag n 62) :
    (triOf n live).word (field n 53 8).toNat = n := by
  simp only [Tri.word, Hdr.bits, triOf, hdrOf, hs, bitNat_flag, field_bits, field_low]
  calc
    _ = bits n 0 8 + bits n 8 3 + bits n 11 1 + bits n 12 2 + bits n 14 1 + bits n 15 1 + bits n 16 8 + bits n 24 8
        + bits n 32 8 + bits n 40 8 + bits n 48 1 + bits n 49 4 + bits n 53 8 + bits n 61 1 + bits n 62 1 := by omega
    _ = n := by simp only [bits_append, Nat.reduceAdd, bits_all hn]

/-- The fields of an I32 or BR word cover it (R46, R48, R49). -/
theorem immOf_word {n : Nat} {live : Option DWord} (hn : n < 2 ^ 63) (hs : live.isSome = flag n 62) :
    (immOf n live).word (field n 53 8).toNat = n := by
  simp only [Imm.word, Hdr.bits, immOf, hdrOf, hs, bitNat_flag, field_bits, field_low]
  calc
    _ = bits n 0 32 + bits n 32 8 + bits n 40 8 + bits n 48 1 + bits n 49 4 + bits n 53 8 + bits n 61 1
        + bits n 62 1 := by omega
    _ = n := by simp only [bits_append, Nat.reduceAdd, bits_all hn]

/-- The fields of a pair word cover it but for bit 0, which is 0, and bit 63, which is 1 (R57). -/
theorem pairOf_word {n : Nat} {live : Option DWord} (h63 : flag n 63 = true) (hn : n < 2 ^ 64) (h0 : flag n 0 = false)
    (hs : live.isSome = flag n 62) : (pairOf n live).word (field n 55 6).toNat = n := by
  have e0 : bits n 0 1 = 0 := by rw [← bitNat_flag, h0]; rfl
  have e63 : bits n 63 1 = 2 ^ 63 := by rw [← bitNat_flag, h63]; rfl
  have e1 : (field n 1 8).toNat * 2 = bits n 1 8 := field_bits n 1 8
  simp only [Pair.word, pairOf, hs, bitNat_flag, field_bits, e1, ← e63]
  calc
    _ = bits n 0 1 + bits n 1 8 + bits n 9 8 + bits n 17 8 + bits n 25 6 + bits n 31 8 + bits n 39 8 + bits n 47 8
        + bits n 55 6 + bits n 61 1 + bits n 62 1 + bits n 63 1 := by omega
    _ = n := by simp only [bits_append, Nat.reduceAdd, bits_all hn]

/-- What a word and its mask word stand for: an instruction whose encoding they are. -/
def EncodedAs (n : Nat) (live : Option DWord) (i : Instr) : Prop := i.isWord = true ∧ encodeWord i = some (n, live)

theorem xferForm_encodes {t : Tri} {i : Instr} (h : xferForm t = some i) : EncodedAs (t.word 0xC0) t.h.live i := by
  unfold xferForm at h
  split at h
  case h_8 => cases h
  all_goals
    cases h
    exact ⟨rfl, rfl⟩

theorem jmaskForm_encodes {t : Tri} {i : Instr} (h : jmaskForm t = some i) : EncodedAs (t.word 0xED) t.h.live i := by
  unfold jmaskForm at h
  split at h
  case h_4 => cases h
  all_goals
    cases h
    exact ⟨rfl, rfl⟩

theorem pick2_encodes {n k : Nat} {live : Option DWord} {x y i : Instr} (hx : EncodedAs n live x) (hy : EncodedAs n live y)
    (h : pick2 k x y = some i) : EncodedAs n live i := by
  unfold pick2 at h
  split at h
  · cases h; exact hx
  · cases h; exact hy
  · cases h

end Sys2Proof.Laws

namespace Sys2Proof.Laws
/-- The form of an opcode encodes as the TRI word or as the I32 or BR word of that opcode (R66). -/
theorem fullForm_encodes {op : Nat} {t : Tri} {m : Imm} {i : Instr} (h : fullForm op t m = some i) :
    EncodedAs (t.word op) t.h.live i ∨ EncodedAs (m.word op) m.h.live i := by
  unfold fullForm at h
  split at h
  case h_107 => exact .inl (xferForm_encodes h)
  case h_108 | h_110 | h_131 | h_149 | h_150 => exact .inl (pick2_encodes ⟨rfl, rfl⟩ ⟨rfl, rfl⟩ h)
  case h_143 => exact .inl (jmaskForm_encodes h)
  case h_2 | h_4 | h_15 | h_17 | h_19 | h_36 | h_37 | h_63 | h_73 | h_123 | h_130 | h_132 | h_135 | h_139 | h_140 =>
    cases h
    exact .inr ⟨rfl, rfl⟩
  case h_154 => cases h
  all_goals
    cases h
    exact .inl ⟨rfl, rfl⟩

/-- The pair word of an opcode of half X encodes as itself (R59). -/
theorem pairForm_encodes {po : Nat} {p : Pair} {i : Instr} (h : pairForm po p = some i) :
    EncodedAs (p.word po) p.live i := by
  unfold pairForm at h
  split at h
  case h_41 => cases h
  all_goals
    cases h
    exact ⟨rfl, rfl⟩

/-- A form passes its check exactly when it is found and well formed. -/
theorem checkForm_ok {e : Reject} {o : Option Instr} {i : Instr} :
    checkForm e o = .ok i ↔ o = some i ∧ i.wf = true := by
  unfold checkForm
  cases o with
  | none => simp
  | some j =>
    cases hj : j.wf <;> simp only [hj, if_true, if_false, Bool.false_eq_true, reduceCtorEq, Except.ok.injEq, Option.some.injEq,
      false_iff, not_and]
    · rintro rfl; simp [hj]
    · constructor
      · rintro rfl; exact ⟨rfl, hj⟩
      · exact And.left

/-- A word that decodes is well formed, and is its own encoding (R42, R46, R57). -/
theorem decodeWord_sound {n : Nat} {live : Option DWord} {i : Instr} (hn : n < 2 ^ 64) (hs : live.isSome = flag n 62)
    (h : decodeWord n live = .ok i) : EncodedAs n live i ∧ i.wf = true := by
  unfold decodeWord at h
  split_ifs at h with h63 h0
  · obtain ⟨hi, hwf⟩ := checkForm_ok.mp h
    have he := pairForm_encodes hi
    rw [pairOf_word h63 hn (by simpa using h0) hs] at he
    exact ⟨he, hwf⟩
  · obtain ⟨hi, hwf⟩ := checkForm_ok.mp h
    have hn' : n < 2 ^ 63 := by
      simp only [flag, beq_iff_eq] at h63
      omega
    have he := fullForm_encodes hi
    rw [triOf_word hn' hs, immOf_word hn' hs] at he
    exact ⟨he.elim id id, hwf⟩

/-- The first bytes of a list are those of the number that they make. -/
theorem leBytes_take {bs : List Byte} {k : Nat} (h : k ≤ bs.length) : leBytes k (leNat (bs.take k)) = bs.take k := by
  have e := leBytes_leNat (bs.take k)
  rwa [List.length_take_of_le h] at e

theorem leNat_take_lt (bs : List Byte) (k : Nat) : leNat (bs.take k) < 256 ^ k :=
  lt_of_lt_of_le (leNat_lt _) (Nat.pow_le_pow_right (by decide) (by simp))

/-- What decodes to an instruction: a word without S, or with S a word and its mask word (R43). -/
theorem decode_ok {bs rest : List Byte} {i : Instr} (h : decode bs = .ok (i, rest)) :
    8 ≤ bs.length ∧ ((flag (leNat (bs.take 8)) 62 = false ∧ decodeWord (leNat (bs.take 8)) none = .ok i ∧ rest = bs.drop 8) ∨
      (flag (leNat (bs.take 8)) 62 = true ∧ 8 ≤ (bs.drop 8).length ∧ rest = (bs.drop 8).drop 8 ∧
        decodeWord (leNat (bs.take 8)) (some (BitVec.ofNat 64 (leNat ((bs.drop 8).take 8)))) = .ok i)) := by
  have hmap {e : Except Reject Instr} {r : List Byte} (h : e.map (·, r) = .ok (i, rest)) : e = .ok i ∧ rest = r := by
    cases e with
    | error e => cases h
    | ok j => cases h; exact ⟨rfl, rfl⟩
  unfold decode at h
  dsimp only at h
  split_ifs at h with h8 hs hs8
  · obtain ⟨hd, hr⟩ := hmap h
    exact ⟨by omega, .inr ⟨hs, by omega, hr, hd⟩⟩
  · obtain ⟨hd, hr⟩ := hmap h
    exact ⟨by omega, .inl ⟨by simpa using hs, hd, hr⟩⟩
end Sys2Proof.Laws

namespace Sys2Proof.Proofs

open Sys2Proof.Laws

/-- Settles O57: the fields of a layout cover the word, each form encodes as the word of its opcode, and the bytes of a
word are those of its number. -/
theorem decodeSound : Obligations.DecodeSound := by
  intro bs rest i h
  obtain ⟨h8, ⟨hs, hd, rfl⟩ | ⟨hs, hs8, rfl, hd⟩⟩ := decode_ok h
  · obtain ⟨⟨hw, he⟩, hwf⟩ := decodeWord_sound (leNat_take_lt bs 8) (by rw [hs]; rfl) hd
    refine ⟨hw, hwf, ?_⟩
    simp only [encode, he, leBytes_take h8, List.take_append_drop]
  · obtain ⟨⟨hw, he⟩, hwf⟩ := decodeWord_sound (leNat_take_lt bs 8) (by rw [hs]; rfl) hd
    refine ⟨hw, hwf, ?_⟩
    have hm : leNat ((bs.drop 8).take 8) % 2 ^ 64 = leNat ((bs.drop 8).take 8) :=
      Nat.mod_eq_of_lt (leNat_take_lt (bs.drop 8) 8)
    simp only [encode, he, BitVec.toNat_ofNat, hm, leBytes_take h8, leBytes_take hs8, List.append_assoc,
      List.take_append_drop]
end Sys2Proof.Proofs

namespace Sys2Proof.Laws.RoundTrip

/-- Every instruction makes the round trip, each by the lemma of its constructor. -/
theorem statement (i : Instr) : Statement i :=
  i.rec (motive := Statement)
    add addImm sub subImm mul mulhi mad addc subb neg abs min max and andImm or orImm xor xorImm not andn shl shr
    sar rol clz ctz popc brev bfe bfi prmt sel cmp mov movi movh cvt lea fadd fsub fmul ffma fmin fmax fcmp fclass
    fcvt frint fdiv fsqrt frcp frsq fexp2 flog2 fsin fcos fscale fgetexp fcopysign fdot2 uadd uaddImm usub umul uand
    uor uxor ushl ushr usar umov umovi ucmp pand por pxor pnot pmov vote ballot shfl bcast redux ld st ldp stp atom
    red fence prs barArrive barWait barSync barExpect scopeGet scopeFreeze scopeThaw scopeQuery bgive btake
    btakeResume rgive rclaim rclaimGrant rshare runshare runshareResume sharedCellWake xferIn xferOut xfer2d xferGat
    xferSct xferDsp xferPeer chClaimBind chClaim chCommit chAwaitBind chAwait chRetire channelClaimResume
    channelAwaitResume obres obrel bload bfree mma mmaM accz accrd accwr accst accld matrixWordPerform spawn fref
    fdrop fget fgetResume fpoll rpoint tret taskFutureComplete bra brx brxRel call callx ret umark unwind exit nop
    trap brk join joinRelease jleave jmaskGang jmaskAdd jmaskU wait waitRelease waitTimeout barrierWaiterRelease
    sysrd syswr eret notify notifyEntryWrite haltSave haltEnd rng rngU01 ctxDrain ctxDrainComplete ctxVsave ctxVload
    pairNop pairAddN32 pairSubN32 pairMulN32 pairAnd pairOr pairXor pairAndn pairMinI32 pairMaxI32 pairMinN32
    pairMaxN32 pairShl pairShr pairSar pairMov pairAddImm pairSubImm pairAndImm pairOrImm pairXorImm pairShlImm
    pairShrImm pairSarImm pairRolImm pairMovi pairFaddF32 pairFsubF32 pairFmulF32 pairFminF32 pairFmaxF32
    pairFaddF64 pairFsubF64 pairFmulF64 pairFminF64 pairFmaxF64 pairAddN64 pairSubN64 pairMovN64 pairAddN64Imm
    longResultDelivery effectiveLevelRise trapEntry safePointTrap forcedSave storageRelease frameRequestServe
    umbraSpillRound scratchpadBankWake loadPresenceResume memoryAccessPerform gnomonRmwPerform launchQueueDoorbell
    launchRecord restoreRecord blockPlacement gridCompletion binTimerExpiry binSpaceResume waveLaunch
    taskArgumentRead parallaxIntervalEnd regroupCommit futureRecordWaitResume copyQueueRoomResume
    matrixQueueRoomResume pageTableWalk copyChunkStart copyChunkLanding copyCompletion doomedCopyStop
    taskReclamation faultQueueEntryWrite fqresumeRetry fqresumeAccessError fqresumeUnserviceable fqresumeIgnored
    fqheadWrite cqheadWrite elheadWrite ellostRead tlbinvRange tlbinvAll tlbInvalidationDone futareaWrite
    preqRequest preqWithdraw qclassWrite classChangeEffect energyAccumulate energyReadLatch thermalTripChange
    registerWrite hostBar4Access hostAtomicop msixPendingSend limiterStep mmaPassEnd mmaMPassFetch droopDetected
    hbmPinGroupMark ringPacketInject ringHop ringDelivery cxlViralOrLinkLoss cxlErrorResponse pcieErrorCompletion
    peerLinkError packageReset bootRomVerify hbmTraining linkTraining cxlEnumeration bringUpReady bootstatRetry
    flashWindowWrite getVersion getCapabilities negotiateAlgorithms getDigests getCertificate challenge
    getMeasurements spdmUnsupportedRequest regroupCommitEnd peerAccessReceived scratchpadBankGate
    configurationRequest registerRead

end Sys2Proof.Laws.RoundTrip

namespace Sys2Proof.Proofs

/-- Settles O56, by the layout of each form: the fields of a word are read back from where its encoding puts them. -/
theorem roundTrip : Obligations.RoundTrip := fun i bs => Laws.RoundTrip.statement i bs

end Sys2Proof.Proofs

namespace Sys2Proof.Proofs
/-- Settles O55, by decoding each word. -/
theorem decodeWords : Obligations.DecodeWords := by
  unfold Obligations.DecodeWords
  decide
end Sys2Proof.Proofs
end

section
/-! PROOFS. Fetch and issue of a word (R42, R43, R56, R118, R133, R134). -/

namespace Sys2Proof.Machine

theorem bytesAt_length (m : List Host.Cell) (key n : Nat) : (bytesAt m key n).length = n := by
  induction n generalizing key with
  | zero => rfl
  | succ n ih => simp [bytesAt, ih]

/-- Without HBM errors a clean word reads as its bytes stand (R347, R348). -/
theorem lineWord_clean {s : State} {key : Nat} (he : s.hbmErr = []) (h : s.tainted key 8 = false) :
    s.lineWord key = leNat (bytesAt s.mem key 8) := by
  simp [State.lineWord, State.readNum, he, h, State.num, numAt]

/-- Without HBM errors a fetch leaves nothing at the lines that it reads (R347). -/
theorem fetched_noErr {s : State} (h : s.hbmErr = []) (vi core va : Nat) : s.fetched vi core va = s := by
  simp [State.fetched, h]

/-- A clean word whose address translates is fetched as its bytes stand (R42, R336). -/
theorem fetchAt_ok {s : State} {vi core va a : Nat} (he : s.hbmErr = []) (hm : va % 8 = 0) (hx : (s.xlate vi core va false true).1 = .ok a)
    (ht : s.tainted (dpaByte vi a) 8 = false) :
    s.fetchAt vi core va = (.ok a, (s.xlate vi core va false true).2, leNat (bytesAt s.mem (dpaByte vi a) 8)) := by
  unfold State.fetchAt
  rw [if_neg (by simp [hm])]
  generalize s.xlate vi core va false true = x at hx ⊢
  obtain ⟨y, e⟩ := x
  obtain rfl : y = .ok a := hx
  simp only [lineWord_clean he ht]

theorem tlbFill_dies (s : State) (core : Nat) (e : Option TlbEntry) :
    s.tlbFill core e = { s with dies := (s.tlbFill core e).dies } := by
  unfold State.tlbFill
  cases e <;> rfl

/-- A word and its mask word as numbers, when both are clean and their addresses translate (R42, R43). -/
theorem fetch_word {s : State} {w a b : Nat} {pc : DWord} (he : s.hbmErr = []) (hpc : pc.toNat % 8 = 0)
    (hta : s.tainted (dpaByte (s.warp w).vi a) 8 = false) (htb : s.tainted (dpaByte (s.warp w).vi b) 8 = false)
    (hxa : (s.xlate (s.warp w).vi (s.warp w).core pc.toNat false true).1 = .ok a)
    (hxb : flag (leNat (bytesAt s.mem (dpaByte (s.warp w).vi a) 8)) 62 = true →
      (s.xlate (s.warp w).vi (s.warp w).core (pc.toNat + 8) false true).1 = .ok b) :
    ∃ d, s.fetch w pc = (.word (leNat (bytesAt s.mem (dpaByte (s.warp w).vi a) 8))
      (if flag (leNat (bytesAt s.mem (dpaByte (s.warp w).vi a) 8)) 62 then
        some (BitVec.ofNat 64 (leNat (bytesAt s.mem (dpaByte (s.warp w).vi b) 8))) else none), { s with dies := d }) := by
  unfold State.fetch
  simp only [fetched_noErr he, fetchAt_ok he hpc hxa hta]
  cases hf : flag (leNat (bytesAt s.mem (dpaByte (s.warp w).vi a) 8)) 62 with
  | false =>
    simp only [Bool.not_false, if_true, Bool.false_eq_true, if_false]
    exact ⟨_, congrArg _ (tlbFill_dies _ _ _)⟩
  | true =>
    simp only [Bool.not_true, Bool.false_eq_true, if_false, if_true, fetchAt_ok he (by omega) (hxb hf) htb]
    rw [tlbFill_dies (s.tlbFill _ _), tlbFill_dies s]
    exact ⟨_, rfl⟩

end Sys2Proof.Machine

namespace Sys2Proof.Laws

/-- The bytes of a word, with those of its mask word when S is set, decode as the word (R43). -/
theorem decode_bytes {xs ys : List Byte} (hx : xs.length = 8) (hy : ys.length = 8) :
    decode (xs ++ if flag (leNat xs) 62 then ys else []) =
      (decodeWord (leNat xs) (if flag (leNat xs) 62 then some (BitVec.ofNat 64 (leNat ys)) else none)).map (·, []) := by
  cases hf : flag (leNat xs) 62 <;> simp [decode, hx, hy, hf, List.take_of_length_le, List.drop_of_length_le]

end Sys2Proof.Laws

namespace Sys2Proof.Proofs

open Sys2Proof.Machine Sys2Proof.Claims Sys2Proof.Laws

/-- What an issue comes to once the word is fetched and decoded (R42, R43, R56). -/
theorem perform_issueWord {s : State} {w a b : Nat} {g : BitVec 32} {pc : DWord} (he : s.hbmErr = []) (hpc : pc.toNat % 8 = 0)
    (hta : s.tainted (dpaByte (s.warp w).vi a) 8 = false) (htb : s.tainted (dpaByte (s.warp w).vi b) 8 = false)
    (hxa : (s.xlate (s.warp w).vi (s.warp w).core pc.toNat false true).1 = .ok a)
    (hxb : flag (leNat (bytesAt s.mem (dpaByte (s.warp w).vi a) 8)) 62 = true →
      (s.xlate (s.warp w).vi (s.warp w).core (pc.toNat + 8) false true).1 = .ok b) :
    ∃ t, t = { s with dies := t.dies, cur := ⟨w, g, pc⟩ } ∧
      (∀ i rest, decode (wordBytes s (s.warp w).vi a b) = .ok (i, rest) → perform (s.issueWord w g pc) = exec i t) ∧
      ∀ e, decode (wordBytes s (s.warp w).vi a b) = .error e →
        perform (s.issueWord w g pc) = .next (t.rejectWord (leNat (bytesAt s.mem (dpaByte (s.warp w).vi a) 8))) := by
  obtain ⟨d, hd⟩ := fetch_word he hpc hta htb hxa hxb
  have hdec := decode_bytes (bytesAt_length s.mem (dpaByte (s.warp w).vi a) 8) (bytesAt_length s.mem (dpaByte (s.warp w).vi b) 8)
  refine ⟨{ s with dies := d, cur := ⟨w, g, pc⟩ }, rfl, fun i rest h => ?_, fun e h => ?_⟩
  all_goals
    unfold wordBytes at h
    rw [hdec] at h
    unfold State.issueWord
    rw [hd]
    dsimp only
    cases hw : decodeWord (leNat (bytesAt s.mem (dpaByte (s.warp w).vi a) 8))
      (if flag (leNat (bytesAt s.mem (dpaByte (s.warp w).vi a) 8)) 62 then
        some (BitVec.ofNat 64 (leNat (bytesAt s.mem (dpaByte (s.warp w).vi b) 8))) else none)
    all_goals
      rw [hw] at h
      cases h
    rfl

/-- Settles O58: a scheduler's choice is its warp and its leading gang; the word there is fetched as its bytes stand, and
performed as they decode. -/
theorem stepRunsDecoded : Obligations.StepRunsDecoded := by
  refine ⟨fun s X core sched w l a b vi ms W L g hag hmay hch hl hg hX hvi he hta htb hpc hxa hxb => ?_,
    fun s ms i hag hi => by simp [step, hag, stepEvent, hi]⟩
  subst hg hvi
  have hstep : step s = perform (X.issueWord w (W.gangAt (s.cycle core) L.pc) L.pc) := by
    have hl' : W.leader ((risen { s with agenda := ms } core sched).cycle core) = some (l, L) := hl
    subst hX
    unfold step
    rw [hag]
    show perform (State.issue { s with agenda := ms } core sched) = _
    unfold State.issue
    rw [hmay]
    show perform (match (risen { s with agenda := ms } core sched).choose core sched with | none => _ | some (w, W) => _) = _
    rw [hch]
    show perform (match W.leader ((risen { s with agenda := ms } core sched).cycle core) with | none => _ | some (_, L) => _) = _
    rw [hl']
    rfl
  have heX : X.hbmErr = [] := by subst hX; exact he
  rw [hstep]
  exact perform_issueWord heX hpc hta htb hxa hxb
end Sys2Proof.Proofs
end

section
/-! PROOFS. Words that act lane by lane or as a gang: carries, immediates, pairs and the uniform block (R48, R57 to R59, R66, R77
to R79, R85, R88). -/

namespace Sys2Proof.Machine

/-- The registers of a result in vector registers are distinct, and registers of its lane. -/
theorem vecResult_nodup (l r n : Nat) (v : BitVec 64) (bad : Bool) : ((vecResult l r n v bad).map (·.1)).Nodup := by
  rw [vecResult_targets]
  split_ifs <;> simp

theorem vecResult_of {l r n : Nat} {v : BitVec 64} {bad : Bool} {x : Target × Cell} (hx : x ∈ vecResult l r n v bad) :
    ∃ k, x.1 = .vec l k ∧ r ≤ k ∧ k < r + (if n = 2 then 2 else 1) := by
  have hx' := List.mem_map_of_mem (f := (·.1)) hx
  rw [vecResult_targets] at hx'
  split_ifs at hx' ⊢ <;> simp only [List.mem_cons, List.not_mem_nil, or_false] at hx'
  · rcases hx' with h | h
    · exact ⟨r, h, by omega, by omega⟩
    · exact ⟨r + 1, h, by omega, by omega⟩
  · exact ⟨r, hx', by omega, by omega⟩

end Sys2Proof.Machine

namespace Sys2Proof.Proofs

open Sys2Proof.Machine Sys2Proof.Claims

/-- What a lane writes goes to registers of that lane, and no two to one register. -/
def OwnTargets (s : State) (f : LaneFn) : Prop :=
  ∀ l, ((f s l).1.map (·.1)).Nodup ∧ ∀ r ∈ (f s l).1, r.1.of l = true

theorem targetsOf_nodup {s : State} {f : LaneFn} (h : OwnTargets s f) (m : BitVec 32) : (targetsOf s m f).Nodup :=
  (flatMap_lanes_nodup m (fun l => (h l).1) fun l x hx => by
    obtain ⟨r, hr, rfl⟩ := List.mem_map.mp hx
    exact (h l).2 r hr).filter _

theorem vecResult_own (l r n : Nat) (v : BitVec 64) (bad : Bool) : ∀ x ∈ vecResult l r n v bad, x.1.of l = true := by
  intro x hx
  obtain ⟨k, hk, -⟩ := vecResult_of hx
  rw [hk]
  exact beq_self_eq_true l

/-! ### The words with a carry and those with an immediate -/

theorem carryLane_quiet {s : State} (h : s.wp.Quiet) (t : Tri) (op : BitVec 64 → BitVec 64 → Bool → BitVec 64 × Bool)
    (l : Nat) : State.carryLane t op s l = carryFn t op s l := by
  simp only [State.carryLane, carryFn, State.sources, operand_quiet h]
  rfl

theorem carryFn_own (t : Tri) (op : BitVec 64 → BitVec 64 → Bool → BitVec 64 × Bool) (s : State) :
    OwnTargets s (carryFn t op) := by
  intro l
  constructor
  · simp only [carryFn, List.map_append, List.nodup_append, vecResult_nodup, true_and]
    refine ⟨by simp [predResult], fun x hx y hy => ?_⟩
    obtain ⟨r, hr, rfl⟩ := List.mem_map.mp hx
    obtain ⟨k, hk, -⟩ := vecResult_of hr
    simp only [predResult, List.map_cons, List.map_nil, List.mem_singleton] at hy
    subst hy
    rw [hk]
    exact Target.noConfusion
  · intro r hr
    rcases List.mem_append.mp hr with h | h
    · exact vecResult_own _ _ _ _ _ r h
    · simp only [predResult, List.mem_singleton] at h
      subst h
      exact beq_self_eq_true l

/-- A word with a carry is a short word: its destination lies in the frame of every acting lane (R78). -/
theorem shortWord_carry {i : Instr} {t : Tri} {op : BitVec 64 → BitVec 64 → Bool → BitVec 64 × Bool}
    (he : ∀ s, exec i s = .next (s.carryWord t op)) : ShortWord i t.h (triUses t shCarry false) (carryFn t op) := by
  refine shortWord_of_byLane he (fun s l hq => carryLane_quiet hq t op l) ?_ fun s m => targetsOf_nodup (carryFn_own t op s) m
  intro _ s m a l hl r hr hk
  rcases List.mem_append.mp hr with h | h
  · have hfit := a.fits_of_mem (r := (t.d.toNat, 1)) hl (List.mem_append_right _ List.mem_cons_self)
    exact vecResult_writable Nat.one_pos hfit r h
  · simp only [predResult, List.mem_singleton] at h
    subst h
    exact of_decide_eq_true (p := t.c.toNat < 15) hk

theorem carry_words : carryClause := fun _ => ⟨shortWord_carry fun _ => rfl, shortWord_carry fun _ => rfl⟩

theorem immFn_own (t : Imm) (d : BitVec 8) (rd : Bool) (f : BitVec 64 → BitVec 64) (s : State) :
    OwnTargets s (immFn t d rd f) :=
  fun l => ⟨vecResult_nodup l d.toNat 1 _ _, vecResult_own l d.toNat 1 _ _⟩

/-- Every word with an immediate is an I32 word of its destination (R48). -/
theorem exec_immWord {i : Instr} {t : Imm} {d : BitVec 8} {rd : Bool} {f : BitVec 64 → BitVec 64}
    (h : immWord i = some (t, d, rd, f)) (s : State) : exec i s = .next (s.immWord { t with d := d } rd f) := by
  unfold immWord at h
  split at h
  case h_8 => cases h
  all_goals
    cases h
    rfl

theorem immediate_words : immediateClause := by
  intro i t d rd f hi
  refine shortWord_of_byLane (exec_immWord hi) (fun s l hq => ?_) ?_
    fun s m => targetsOf_nodup (immFn_own t d rd f s) m
  · simp only [immFn, operand_quiet hq]
  · intro _ s m a l hl r hr _
    have hfit := a.fits_of_mem (r := (d.toNat, 1)) hl (List.mem_append_right _ List.mem_cons_self)
    exact vecResult_writable Nat.one_pos hfit r hr

/-- Settles O2: all of them go lane by lane, write the destination alone, and with a carry the predicate C. -/
theorem carryAndImmediateWords : Obligations.CarryAndImmediateWords := ⟨carry_words, immediate_words⟩

/-! ### Pair words -/

theorem exec_pairWord {i : Instr} {p : Pair} {po : BitVec 6} (h : pairWord i = some (p, po)) (s : State) :
    exec i s = .next (s.pairWord p po) := by
  unfold pairWord at h
  split at h
  case h_41 => cases h
  all_goals
    cases h
    rfl

theorem halfLane_quiet {s : State} (hq : s.wp.Quiet) (l : Nat) (h : Half) (pos : Nat) : s.halfLane l h pos = halfFn h s l := by
  have hv : ∀ k p, s.readV s.w l k p = s.reads s.w (.vec l k) := fun k p => readV_quiet hq l k p
  simp only [State.halfLane, halfFn, vecSrc, hv, beq_iff_eq]

theorem halfCount_eq (h : Half) : halfCount h = 2 ∨ halfCount h = 1 := by
  unfold halfCount
  cases (halfKind h).wide
  · exact .inr rfl
  · exact .inl rfl

/-- What a half writes: nothing, or a value in its destination (R59). -/
theorem halfFn_result (h : Half) (s : State) (l : Nat) : (halfFn h s l).1 = [] ∨
    halfDst h = [(h.d.toNat, halfCount h)] ∧ ∃ v bad, (halfFn h s l).1 = vecResult l h.d.toNat (halfCount h) v bad := by
  by_cases h0 : h.po = 0
  · exact .inl (by simp [halfFn, h0])
  · exact .inr ⟨by rw [halfDst, beq_eq_false_iff_ne.mpr h0]; rfl, _, _, congrArg Prod.fst (if_neg h0)⟩

/-- A half writes the vector registers of its destination in its lane (R58). -/
theorem halfFn_of {h : Half} {s : State} {l : Nat} {x : Target × Cell} (hx : x ∈ (halfFn h s l).1) :
    ∃ k, x.1 = .vec l k ∧ k ∈ regsOf (halfDst h) := by
  obtain e | ⟨hd, v, bad, e⟩ := halfFn_result h s l <;> rw [e] at hx
  · exact absurd hx List.not_mem_nil
  · obtain ⟨k, hk, h1, h2⟩ := vecResult_of hx
    refine ⟨k, hk, ?_⟩
    simp only [regsOf, hd, List.mem_eraseDups, List.mem_flatMap, List.mem_singleton, exists_eq_left, List.mem_map,
      List.mem_range]
    refine ⟨k - h.d.toNat, ?_, by omega⟩
    rcases halfCount_eq h with hn | hn <;> rw [hn] at h2 ⊢ <;> simp at h2 <;> omega

theorem halfFn_nodup (h : Half) (s : State) (l : Nat) : ((halfFn h s l).1.map (·.1)).Nodup := by
  obtain e | ⟨-, v, bad, e⟩ := halfFn_result h s l <;> rw [e]
  · exact List.nodup_nil
  · exact vecResult_nodup _ _ _ _ _

/-- Halves that keep the bank rules write different registers (R58). -/
theorem halves_apart {x y : Half} (h : pairClash x y = false) {k : Nat} (hx : k ∈ regsOf (halfDst x)) :
    k ∉ regsOf (halfDst y) := by
  intro hy
  simp only [pairClash, Bool.or_eq_false_iff, List.any_eq_false, banksOf] at h
  exact h.1 (k % 4) (List.mem_map_of_mem hx) (List.contains_iff_mem.mpr (List.mem_map_of_mem hy))

theorem pairFn_own {p : Pair} {po : BitVec 6} (h : pairClash (p.x po) p.y = false) (s : State) :
    OwnTargets s (pairFn p po) := by
  intro l
  constructor
  · simp only [pairFn, List.map_append, List.nodup_append, halfFn_nodup, true_and]
    intro x hx y hy e
    obtain ⟨r, hr, rfl⟩ := List.mem_map.mp hx
    obtain ⟨r', hr', rfl⟩ := List.mem_map.mp hy
    obtain ⟨k, hk, hx⟩ := halfFn_of hr
    obtain ⟨k', hk', hy⟩ := halfFn_of hr'
    rw [hk, hk'] at e
    cases e
    exact halves_apart h hx hy
  · intro r hr
    obtain ⟨k, hk⟩ : ∃ k, r.1 = .vec l k := by
      rcases List.mem_append.mp hr with h | h
      all_goals
        obtain ⟨k, hk, -⟩ := halfFn_of h
        exact ⟨k, hk⟩
    rw [hk]
    exact beq_self_eq_true l

/-- A pair word that keeps the bank rules goes lane by lane (R57, R58). -/
theorem pairWord_byLane {p : Pair} {po : BitVec 6} (h : pairClash (p.x po) p.y = false) (s : State) :
    s.pairWord p po = s.byLane (pairHdr p) (pairUses p po) false (fun s l =>
      ((s.halfLane l (p.x po) 0).1 ++ (s.halfLane l p.y 4).1, (s.halfLane l (p.x po) 0).2 ||| (s.halfLane l p.y 4).2)) := by
  unfold State.pairWord
  simp only [h, Bool.and_false, Bool.false_eq_true, if_false]
  rfl

theorem halfFn_writable {h : Half} {s : State} {w l : Nat}
    (hfit : ∀ r ∈ halfDst h, r.1 + r.2 ≤ 8 * ((s.warp w).lane l).top.g) :
    ∀ x ∈ (halfFn h s l).1, s.Writable w x.1 := by
  intro x hx
  obtain e | ⟨hd, v, bad, e⟩ := halfFn_result h s l <;> rw [e] at hx
  · exact absurd hx List.not_mem_nil
  · have hn : 0 < halfCount h := by rcases halfCount_eq h with hn | hn <;> omega
    exact vecResult_writable hn (hfit _ (hd ▸ List.mem_singleton_self _)) x hx

/-- Settles O6: both halves read the registers as they stand, and the bank rules keep their destinations apart. -/
theorem pairWords : Obligations.PairWords := by
  intro i p po hi hc
  refine shortWord_of_byLane (fun s => (exec_pairWord hi s).trans (congrArg _ (pairWord_byLane hc s)))
    (fun s l hq => ?_) ?_ fun s m => targetsOf_nodup (pairFn_own hc s) m
  · simp only [halfLane_quiet hq]
    rfl
  · intro _ s m a l hl r hr _
    rcases List.mem_append.mp hr with h | h
    · exact halfFn_writable (fun r hr => a.fits_of_mem hl
        (List.mem_append_right _ (List.mem_append_left _ hr))) r h
    · exact halfFn_writable (fun r hr => a.fits_of_mem hl
        (List.mem_append_right _ (List.mem_append_right _ hr))) r h

end Sys2Proof.Proofs

namespace Sys2Proof.Proofs

open Sys2Proof.Machine Sys2Proof.Claims

/-! ### Uniform words -/

/-- A word that settles what its acting lanes determine together is a gang word of it, when the results can be written
and are no two for one register. -/
theorem gangWord_of_settle {i : Instr} {h : Hdr} {u : Uses} {f : GangFn}
    (he : ∀ (s : State) (m : BitVec 32), s.Acts h u m → m ≠ 0 →
      exec i s = .next (s.settle h m u false (f s (lanesOf m)).1 (f s (lanesOf m)).2))
    (hx : ∀ (s : State) (ls : List Nat), ∀ r ∈ (f s ls).1, r.1.kept = true → s.Writable s.w r.1)
    (hn : ∀ (s : State) (ls : List Nat), (((f s ls).1.map (·.1)).filter Target.kept).Nodup) : GangWord i h u f := by
  intro _ s m a hu hm
  obtain ⟨h1, h2⟩ := settle_kept a hu (f s (lanesOf m)).1 (f s (lanesOf m)).2 (hx s (lanesOf m))
  rw [show (fun r : Target × Cell => r.1.kept) = Target.kept ∘ Prod.fst from rfl, ← List.filter_map] at h1 h2
  exact ⟨_, he s m a hm, h1, h2 (hn s (lanesOf m))⟩

theorem uniResult_targets (r n : Nat) (v : BitVec 64) (bad : Bool) :
    (uniResult r n v bad).map (·.1) = if n = 2 then [.uni r, .uni (r + 1)] else [.uni r] := by
  unfold uniResult wideCells
  by_cases h : n = 2 <;> simp [h]

/-- A result in uniform registers can be written, and goes to registers that differ. -/
theorem uniResult_writable (s : State) (w r n : Nat) (v : BitVec 64) (bad : Bool) :
    ∀ x ∈ uniResult r n v bad, s.Writable w x.1 := by
  intro x hx
  have hx' := List.mem_map_of_mem (f := (·.1)) hx
  rw [uniResult_targets] at hx'
  generalize x.1 = y at hx'
  split_ifs at hx' <;> simp only [List.mem_cons, List.not_mem_nil, or_false] at hx'
  · rcases hx' with rfl | rfl <;> trivial
  · subst hx'; trivial

theorem uniResult_nodup (r n : Nat) (v : BitVec 64) (bad : Bool) :
    (((uniResult r n v bad).map (·.1)).filter Target.kept).Nodup := by
  rw [uniResult_targets]
  refine List.Nodup.filter _ ?_
  split_ifs <;> simp

/-- A word of the uniform block settles what its lowest acting lane gives (R66). -/
theorem uniWord_settle {s : State} {t : Tri} {sh : Shape} {m : BitVec 32} (a : s.Acts t.h (triUses t sh true) m) (hm : m ≠ 0)
    (f : State → Nat → List (Target × Cell)) :
    s.uniWord t sh f = s.settle t.h m (triUses t sh true) false (f s ((lanesOf m).headD 0)) 0 := by
  unfold State.uniWord
  rw [admit_eq a false (by simp)]
  obtain ⟨l, ls, e⟩ := List.exists_cons_of_ne_nil (lanesOf_ne_nil hm)
  rw [e]
  rfl

/-- What a uniform shift computes is what its operands say (R79). -/
theorem uniShift_eq {t t' : Tri} {sh : Shape} {f : BitVec 64 → BitVec 64 → BitVec 64} {op : Bits}
    (h : uniWord.shift t op = (t', sh, f)) (s : State) :
    s.uniShift t op = s.uniWord t' sh (State.uniLane t' sh (fun a b _ => f a b)) ∧ sh.c = .none ∧ sh.d = .sT := by
  unfold uniWord.shift at h
  unfold State.uniShift
  split_ifs at h ⊢ <;> cases h <;> exact ⟨rfl, rfl, rfl⟩

/-- Every uniform word of TRI layout with one uniform destination goes by its operands (R66, R88). -/
theorem exec_uniWord {i : Instr} {t : Tri} {sh : Shape} {f : BitVec 64 → BitVec 64 → BitVec 64}
    (h : uniWord i = some (t, sh, f)) (s : State) :
    exec i s = .next (s.uniWord t sh (State.uniLane t sh (fun a b _ => f a b))) ∧ sh.c = .none ∧ sh.d = .sT := by
  unfold uniWord at h
  split at h
  case h_7 | h_8 | h_9 =>
    obtain ⟨e, hs⟩ := uniShift_eq (Option.some.inj h) s
    exact ⟨congrArg Host.Outcome.next e, hs⟩
  case h_11 => cases h
  all_goals
    cases h
    exact ⟨rfl, rfl, rfl⟩

theorem uniLane_quiet {s : State} (hq : s.wp.Quiet) (t : Tri) {sh : Shape} (f : BitVec 64 → BitVec 64 → BitVec 64)
    (hc : sh.c = .none) (hd : sh.d = .sT) (ls : List Nat) :
    State.uniLane t sh (fun a b _ => f a b) s (ls.headD 0) = (uniFn t sh f s ls).1 := by
  simp only [State.uniLane, uniFn, State.sources, operand_quiet hq, hc, hd, src, Bool.or_false]
  rfl

theorem uniform_words {i : Instr} {t : Tri} {sh : Shape} {f : BitVec 64 → BitVec 64 → BitVec 64}
    (h : uniWord i = some (t, sh, f)) : GangWord i t.h (triUses t sh true) (uniFn t sh f) := by
  refine gangWord_of_settle (fun s m a hm => ?_) (fun s ls r hr _ => uniResult_writable s s.w _ _ _ _ r hr)
    (fun s ls => uniResult_nodup _ _ _ _)
  obtain ⟨he, hc, hd⟩ := exec_uniWord h s
  rw [he, uniWord_settle a hm, uniLane_quiet a.quiet t f hc hd]
  rfl

/-- A uniform word with an immediate settles its result (R48, R88). -/
theorem gangWord_uniImm {i : Instr} {t : Imm} {rd : Bool} {f : BitVec 64 → BitVec 64}
    (he : ∀ s, exec i s = .next (s.uniImm t rd f)) : GangWord i t.h {} (uniImmFn t rd f) := by
  refine gangWord_of_settle (fun s m a _ => ?_) (fun s ls r hr _ => uniResult_writable s s.w t.d.toNat 1 _ _ r hr)
    (fun s ls => uniResult_nodup t.d.toNat 1 _ _)
  rw [he]
  unfold State.uniImm
  rw [admit_eq a false (by simp), operand_quiet a.quiet]
  rfl

theorem ucmpResults_quiet {s : State} (hq : s.wp.Quiet) (t : Tri) (ls : List Nat) :
    State.ucmpResults t s (ls.headD 0) = (ucmpFn t s ls).1 := by
  have hp : ∀ k, src s k t.ty .pred false t.c = s.operand k t.ty .pred false t.c 8 := fun k => (operand_quiet hq ..).symm
  simp only [State.ucmpResults, ucmpFn, State.sources, hp, operand_quiet hq _ t.ty .sT]
  congr 1
  funext k
  simp only [State.operand, Bool.or_false]
  cases (s.readP s.w k t.c.toNat 8).1 <;> rfl

theorem ucmp_word (t : Tri) : GangWord (.ucmp t) t.h (triUses t shUCmp true) (ucmpFn t) := by
  refine gangWord_of_settle (fun s m a hm => ?_) (fun s ls r hr hk => ?_) (fun s ls => ?_)
  · show Host.Outcome.next (s.uniWord t shUCmp (State.ucmpResults t)) = _
    rw [uniWord_settle a hm, ucmpResults_quiet a.quiet]
    rfl
  · obtain ⟨k, -, hr⟩ := List.mem_flatMap.mp hr
    simp only [predResult, List.mem_singleton] at hr
    subst hr
    exact of_decide_eq_true (p := t.d.toNat < 15) hk
  · refine List.Nodup.filter _ ?_
    simp only [ucmpFn, predResult, List.map_flatMap, List.map_cons, List.map_nil]
    exact flatMap_lanes_nodup _ (fun l => List.nodup_singleton _) fun l x hx => by
      rw [List.mem_singleton.mp hx]
      exact beq_self_eq_true l

/-- Settles O8: the lowest acting lane gives the sources, and the result goes to the uniform destination, of `ucmp` to the
predicate of every lane of the gang. -/
theorem uniformWords : Obligations.UniformWords :=
  ⟨fun _ _ _ _ h => uniform_words h, fun _ => gangWord_uniImm fun _ => rfl, fun _ => gangWord_uniImm fun _ => rfl, ucmp_word⟩

end Sys2Proof.Proofs
end

section
/-! PROOFS. A load takes a number for its long operation before its access looks for a regroup commit (R60, R188). -/

namespace Sys2Proof.Proofs

open Sys2Proof.Machine Sys2Proof.Claims

/-! ### A load of a segment whose rehousing has a number ahead of the order of issue -/

/-- Lane 0 of the one placed warp is at a word, with address 0 in v1; the die has a regroup commit of the warp's cluster
whose beginning is one number ahead of what has been issued. -/
def commitAhead : State :=
  let s := { State.reset.withFetchWord 128 0 with cur := ⟨3, 1, 0⟩ }
  s.updDie 0 (fun d => { d with commit := [⟨0, 0, 0, 0, 0, 0, s.uid + 1⟩] })

/-- `ld.n64 v254, [v1].clp`. -/
def clusterLoad : Tri := { d := 254, a := 1, ty := 3, sub := 2 }

theorem lane_of_first {l : Nat} (h : (1 : BitVec 32).getLsbD l = true) : l = 0 := by
  simpa using h

theorem commitAhead_acts :
    commitAhead.Acts clusterLoad.h ⟨[(clusterLoad.a.toNat, 1)], [(clusterLoad.d.toNat, Opd.count clusterLoad.ty .vT)], false⟩ 1 where
  warp := by decide +kernel
  ready l hl := by
    obtain rfl := lane_of_first hl
    decide +kernel
  quiet := ⟨by decide +kernel, by decide +kernel⟩
  alone := by decide +kernel
  fits l hl := by
    obtain rfl := lane_of_first hl
    decide +kernel
  live l hl := by
    obtain rfl := lane_of_first hl
    decide +kernel
  clean h := absurd rfl h
  acting l := ⟨fun h => ⟨h, rfl⟩, And.left⟩

/-- What the lane's load meets: its checks pass at the first byte of the segment, whose line is present, whose bank is awake and
whose segment is not being rehoused. -/
theorem commitAhead_reaches :
    Reaches commitAhead 1 clusterLoad.a (eaOf commitAhead clusterLoad) (memSpace clusterLoad) (accessSize clusterLoad)
        (accessSize clusterLoad) false (fun _ => dspKey 0 0) ∧
      ∀ l, (1 : BitVec 32).getLsbD l = true → commitAhead.accessible (dspKey 0 0) (accessSize clusterLoad) = true := by
  refine ⟨fun l hl => ?_, fun _ _ => by decide +kernel⟩
  obtain rfl := lane_of_first hl
  exact ⟨by decide +kernel, by decide +kernel⟩

/-- The word parks the lane, as its access is numbered after the commit began. -/
theorem commitAhead_parks {u : State} (h : exec (.ld clusterLoad) commitAhead = .next u) :
    ((u.warp 3).lane 0).park ≠ .no := by
  have hp : (match exec (.ld clusterLoad) commitAhead with
    | .next t => decide (((t.warp 3).lane 0).park ≠ Park.no)
    | _ => false) = true := by decide +kernel
  rw [h] at hp
  exact of_decide_eq_true hp

/-- Refutes O10: the access takes its number after the word has taken one for its long operation, and a commit whose
beginning lies between the two rehouses its segment for the access, though not for the state before the word: the lane
parks. -/
theorem not_loadWords : ¬ Obligations.LoadWords := by
  rintro ⟨h, -⟩
  obtain ⟨hld, -, -⟩ := h clusterLoad commitAhead 1 (fun _ => dspKey 0 0) (by decide) (.inl rfl)
  obtain ⟨hr, ha⟩ := commitAhead_reaches
  obtain ⟨u, hu, hb⟩ := hld (by decide) commitAhead_acts hr ha
  have hpark := congrArg Lane.park (hb.goes.lane 0)
  have hstands : (commitAhead.wp.lane 0).park = .no := by decide +kernel
  exact commitAhead_parks hu (hpark.trans hstands)

end Sys2Proof.Proofs
end

section
/-! PROOFS. Words that leave a long operation outstanding (R60, R89, R90, R95). -/

namespace Sys2Proof.Machine

/-! ### A word that leaves a long operation outstanding -/

/-- The long operation that a word leaves in a warp that has none (R60). -/
theorem pend_quiet {s : State} (hw : (tget s.warps s.w).isSome) (hq : s.wp.Quiet) (ds : List Dest) (f : Flags) (n : Nat) :
    let t := (s.pend s.w ds f n).2
    t = { s with warps := t.warps, uid := s.uid + 1 } ∧ (∀ v, v ≠ s.w → t.warp v = s.warp v) ∧
      t.warp s.w = { s.wp with longs := [(s.uid, ⟨ds, f, n⟩)] } := by
  refine ⟨rfl, fun v hv => warp_updWarp_ne _ _ hv, ?_⟩
  refine (warp_updWarp_self { s with uid := s.uid + 1 } _ hw).trans ?_
  show { s.wp with longs := tset s.wp.longs s.uid ⟨ds, f, n⟩ } = _
  rw [hq.longs]
  rfl

/-- A word closes while a long operation is outstanding: with W its warp parks (R60). -/
theorem close_outstanding {s : State} {h : Hdr} (hw : (tget s.warps s.w).isSome) (hl : s.wp.longs ≠ [])
    (ho : s.wp.outstanding = true) (hu : s.Unheld h) :
    s.close h = { s with warps := (s.close h).warps, fresh := s.fresh + 16384 } ∧
      (∀ v, v ≠ s.w → (s.close h).warp v = s.warp v) ∧
      (s.close h).warp s.w = { s.wp with
        stall := s.wp.stall || h.w, stallLanes := if h.w then s.cur.lanes else s.wp.stallLanes } := by
  have e : (h.live.isSome && s.requested s.wp.core && !s.wp.cur) = false := by
    rcases hu with hu | hu | hu <;> simp [hu]
  have hf : ∀ c, State.requested { s with fresh := s.fresh + 16384 } c = s.requested c := fun _ => rfl
  have hwp : State.wp { s with fresh := s.fresh + 16384 } = s.wp := rfl
  unfold State.close
  simp only [List.isEmpty_iff, hl, if_false]
  cases hh : h.w with
  | false =>
    simp only [Bool.not_false, if_true, hf, e, Bool.false_eq_true, if_false, Bool.or_false]
    exact ⟨trivial, fun _ _ => rfl, rfl⟩
  | true =>
    simp only [Bool.not_true, Bool.false_eq_true, if_false, ho, if_true, Bool.or_true]
    have hr : ∀ g c, State.requested (State.updWarp { s with fresh := s.fresh + 16384 } s.w g) c = s.requested c :=
      fun _ _ => rfl
    simp only [State.w, updWarp_cur] at hr ⊢
    simp only [hr, e, Bool.false_eq_true, if_false]
    exact ⟨rfl, fun v hv => warp_updWarp_ne _ _ hv, warp_updWarp_self { s with fresh := s.fresh + 16384 } _ hw⟩

/-- A result that is known is in flight: it waits at no park of its word (R60). -/
theorem outstanding_known {W : Warp} {id : Nat} {ds : List Dest} {f : Flags} {n : Nat} (h : W.longs = [(id, ⟨ds, f, n⟩)])
    {d : Dest} (hd : d ∈ ds) (hv : d.val.isSome) : W.outstanding = true := by
  have hp : W.parkedFor true id d = false := by
    unfold Warp.parkedFor
    rw [Option.isSome_iff_ne_none] at hv
    simp [hv]
  unfold Warp.outstanding
  rw [h, List.any_cons, Bool.or_eq_true, Bool.or_eq_true, List.any_eq_true]
  exact .inl (.inr ⟨d, hd, by rw [hp]; rfl⟩)

/-- A word that leaves known results in one long operation goes on: its lanes stand at the next word, nothing else has changed
but the long operation, and with W its warp is parked (R60, R72). -/
theorem pend_finish {s : State} {h : Hdr} {u : Uses} {m : BitVec 32} (a : s.Acts h u m) (hu : s.Unheld h) {ds : List Dest}
    (f : Flags) {d : Dest} (hd : d ∈ ds) (hv : d.val.isSome) :
    let t := (s.pend s.w ds f 0).2.finish h
    s.GoesOn t h ∧ t = { s with warps := t.warps, uid := s.uid + 1, fresh := s.fresh + 16384 } ∧
      (t.warp s.w).rest = { s.wp.rest with
        longs := [(s.uid, ⟨ds, f, 0⟩)], stall := s.wp.stall || h.w
        stallLanes := if h.w then s.cur.lanes else s.wp.stallLanes } := by
  intro t
  obtain ⟨p1, p2, p3⟩ := pend_quiet a.warp a.quiet ds f 0
  have hlist : (tget (s.pend s.w ds f 0).2.warps s.w).isSome := (isSome_updWarp _ s.w s.w _).trans a.warp
  have ht : t = ((s.pend s.w ds f 0).2.goto ((s.pend s.w ds f 0).2.wp.mask Lane.ready &&& s.cur.lanes)
    (afterWord h s.cur.pc)).close h := rfl
  generalize (s.pend s.w ds f 0).2 = p at p1 p2 p3 hlist ht
  have hpc : p.cur = s.cur := by rw [p1]
  have hpw : p.w = s.w := congrArg Issue.warp hpc
  have hwp : p.wp = { s.wp with longs := [(s.uid, ⟨ds, f, 0⟩)] } := by rw [← p3, ← hpw]; rfl
  have hcyc : p.cyc = s.cyc := by
    unfold State.cyc
    rw [hwp]
    rw [p1]
    rfl
  have hmask : p.wp.mask Lane.ready &&& s.cur.lanes = s.cur.lanes :=
    ready_mask fun l hl => by rw [hwp]; exact a.ready l hl
  rw [hmask] at ht
  have hg := goto_onlyLanes (s := p) (by rw [hpw]; exact hlist) s.cur.lanes (afterWord h s.cur.pc)
  have hgl := goto_lane (s := p) (by rw [hpw]; exact hlist) s.cur.lanes (afterWord h s.cur.pc)
  generalize p.goto s.cur.lanes (afterWord h s.cur.pc) = g at ht hg hgl
  have hgw : g.w = s.w := hg.w.trans hpw
  have hgwp := hg.wp
  rw [hwp] at hgwp
  obtain ⟨c1, c2, c3⟩ := close_outstanding (s := g) (h := h) (hg.w ▸ hg.listed) (by rw [hgwp]; exact List.cons_ne_nil _ _)
    (outstanding_known (by rw [hgwp]) hd hv) (by
      refine hg.unheld ?_
      unfold State.Unheld
      rw [hwp, p1]
      exact hu)
  rw [← ht] at c1 c2 c3
  rw [hgw] at c2 c3
  rw [hgwp] at c3
  have hgc : g.cur = s.cur := by rw [hg.rest, hpc]
  rw [hgc] at c3
  have hlane : ∀ l, (t.warp s.w).lane l = if s.cur.lanes.getLsbD l = true then
      (s.wp.lane l).standAt (afterWord h s.cur.pc) (s.cyc + 1) else s.wp.lane l := by
    intro l
    have hl := hgl l
    have hpl : p.wp.lane l = s.wp.lane l := by rw [hwp]; rfl
    have hps : p.wp.lanes = s.wp.lanes := by rw [hwp]
    rw [hpw, hpl, hps, hcyc, if_congr (and_iff_left_of_imp fun hm => isSome_of_ready (a.ready l hm)) rfl rfl] at hl
    have htl : (t.warp s.w).lane l = (g.warp g.w).lane l := by rw [c3]; rfl
    rw [htl, hgw]
    exact hl
  have hblocks : t.blocks = s.blocks := by rw [c1, hg.rest, p1]
  have hfile : ∀ l, ((t.warp s.w).lane l).file = (s.wp.lane l).file := fun l => by rw [hlane]; split_ifs <;> rfl
  refine ⟨⟨fun v hv => ?_, fun x => ?_, ?_, fun l hl => ?_, fun l => ?_, fun l => ?_, fun l hl => ?_⟩, ?_, ?_⟩
  · exact (c2 v hv).trans ((hg.others v (hpw ▸ hv)).trans (p2 v hv))
  · exact reads_congr hblocks (by rw [c3]; rfl) (by rw [c3]; rfl) hfile x
  · rw [c3]
  · rw [hlane, if_pos hl]
    exact ⟨rfl, rfl⟩
  · rw [hlane]; split_ifs <;> rfl
  · rw [hlane]; split_ifs <;> rfl
  · rw [hlane, if_neg (by simp [hl])]
  · rw [c1, hg.rest, p1]
  · rw [c3]
    rfl

end Sys2Proof.Machine
namespace Sys2Proof.Proofs

open Sys2Proof.Machine Sys2Proof.Claims

/-! ### The long floating-point words -/

theorem triLane_quiet {s : State} (hq : s.wp.Quiet) (t : Tri) (sh : Shape)
    (f : BitVec 64 → BitVec 64 → BitVec 64 → BitVec 64 × Flags) (l : Nat) :
    State.triLane t sh f s l = triFn t sh f s l := by
  simp only [State.triLane, triFn, State.sources, operand_quiet hq]

/-- Every floating-point word is a TRI word of its operands with a destination (R89). -/
theorem exec_fpWord {i : Instr} {t : Tri} {sh : Shape} {long : Bool}
    {f : BitVec 64 → BitVec 64 → BitVec 64 → BitVec 64 × Flags} (h : fpWord i = some (t, sh, long, f)) (s : State) :
    exec i s = .next (s.triWord t sh long f) ∧ sh.d ≠ .none := by
  unfold fpWord at h
  split at h
  case h_20 t =>
    cases h
    exact ⟨rfl, by split_ifs <;> exact Opd.noConfusion⟩
  case h_22 => cases h
  all_goals
    cases h
    exact ⟨rfl, Opd.noConfusion⟩

theorem opdResult_ne_nil {o : Opd} (h : o ≠ .none) (ty : BitVec 3) (l : Nat) (r : BitVec 8) (v : BitVec 64) (bad : Bool) :
    opdResult o ty l r v bad ≠ [] := by
  unfold opdResult vecResult uniResult predResult wideCells
  cases o with
  | none => exact absurd rfl h
  | pred => exact List.cons_ne_nil _ _
  | _ =>
    dsimp only
    split_ifs <;> exact List.cons_ne_nil _ _

/-- A word that leaves its results to LONG_RESULT_DELIVERY is a long word, when each of its lanes has a result (R60). -/
theorem longWord_of_byLane {i : Instr} {h : Hdr} {u : Uses} {f g : LaneFn}
    (he : ∀ s, exec i s = .next (s.byLane h u true g)) (hfg : ∀ (s : State) (l : Nat), s.wp.Quiet → g s l = f s l)
    (hn : ∀ s l, (f s l).1 ≠ []) : LongWord i h u f := by
  intro _ s m a hu hm
  have hg : g s = f s := funext fun l => hfg s l a.quiet
  obtain ⟨l, ls, e⟩ := List.exists_cons_of_ne_nil (lanesOf_ne_nil hm)
  obtain ⟨r, rs, hr⟩ := List.exists_cons_of_ne_nil (hn s l)
  have hd : (⟨r.1, some r.2, false⟩ : Dest) ∈
      (lanesOf m).flatMap (fun l => (f s l).1.map (fun r => ⟨r.1, some r.2, false⟩)) :=
    List.mem_flatMap.mpr ⟨l, by rw [e]; exact List.mem_cons_self, by rw [hr]; exact List.mem_cons_self⟩
  have hb : s.byLane h u true g = (s.pend s.w
      ((lanesOf m).flatMap (fun l => (f s l).1.map (fun r => ⟨r.1, some r.2, false⟩)))
      (flagUnion ((lanesOf m).map (fun l => (f s l).2))) 0).2.finish h := by
    unfold State.byLane
    rw [admit_eq a false (by simp), hg]
    have hne : ((lanesOf m).flatMap (fun l => (f s l).1)).isEmpty = false := by
      rw [e, List.flatMap_cons, hr]
      rfl
    simp only [State.settle, emptyCells_alone a.alone, State.results, hne, Bool.true_or, Bool.not_false, Bool.and_true,
      if_true, List.flatMap_map, List.map_flatMap, List.map_map]
    rfl
  obtain ⟨h1, h2, h3⟩ := pend_finish a hu (flagUnion ((lanesOf m).map (fun l => (f s l).2))) hd rfl
  exact ⟨_, (he s).trans (congrArg _ hb), h1, h2, h3⟩

/-- Settles O5: every lane's result is known when the word issues, and one long operation holds them all. -/
theorem longFloatWords : Obligations.LongFloatWords := by
  intro i t sh f hi
  exact longWord_of_byLane (fun s => (exec_fpWord hi s).1) (fun s l hq => triLane_quiet hq t sh f l)
    fun s _ => opdResult_ne_nil (exec_fpWord hi s).2 _ _ _ _ _

end Sys2Proof.Proofs
end

section
/-! PROOFS. Branches (R45, R102, R103). -/

namespace Sys2Proof.Proofs

open Sys2Proof.Machine Sys2Proof.Claims

/-! ### Branches -/

/-- What a control word leaves that moves lanes of its gang and changes nothing else (R102). -/
theorem jump_moves {s : State} {h : Hdr} {u : Uses} {n m : BitVec 32} (a : s.Acts h u n) (hu : s.Unheld h)
    (hm : ∀ l, m.getLsbD l = true → s.cur.lanes.getLsbD l = true) (target : Nat → DWord) :
    Moves s (s.jump h ((lanesOf m).map (fun l => (l, target l)))) h m target := by
  obtain ⟨ho, hl⟩ := jump_spec a.warp a.quiet hu a.ready hm target
  generalize s.jump h ((lanesOf m).map (fun l => (l, target l))) = t at ho hl ⊢
  have hw := ho.warp
  have hregs : ∀ x, t.reads s.w x = s.reads s.w x := reads_congr (by rw [ho.rest]) (by rw [hw]; rfl) (by rw [hw]; rfl)
    fun l => by rw [hl]; split_ifs <;> rfl
  refine ⟨⟨ho.rest, ho.others, ?_, fun l => ?_, fun l => ?_, fun x _ => hregs x⟩, fun l hml => ?_, fun l hc hml => ?_,
    fun l hc => ?_, ?_⟩
  · rw [hw]; rfl
  · rw [hl]; split_ifs <;> rfl
  · rw [hl]; split_ifs <;> rfl
  · rw [hl, if_pos hml]; exact ⟨rfl, rfl⟩
  · rw [hl, if_neg (by simp [hml]), if_pos hc]; exact ⟨rfl, rfl⟩
  · have hml : m.getLsbD l = false := Bool.eq_false_iff.mpr fun e => by simp [hm l e] at hc
    rw [hl, if_neg (by simp [hml]), if_neg (by simp [hc])]
    exact ⟨rfl, rfl⟩
  · rw [hw]

/-- A branch that nothing stops moves its lanes (R45, R103). -/
theorem branch_jumps {s : State} {h : Hdr} {u : Uses} {m : BitVec 32} {target f : Nat → DWord} (a : s.Acts h u m)
    (hl : Lands s m target) (hf : ∀ l, m.getLsbD l = true → f l = target l) (rd : List Nat) :
    s.branch h m rd f = s.jump h ((lanesOf m).map (fun l => (l, target l))) := by
  obtain ⟨⟨hdoom, hmis⟩, hland⟩ := hl
  have hcur : m &&& s.cur.lanes = m := BitVec.eq_of_getLsbD_eq fun l _ => by
    rw [BitVec.getLsbD_and, Bool.and_eq_left_iff_imp]
    exact a.inGang
  have hts : (lanesOf m).map (fun l => (l, f l)) = (lanesOf m).map (fun l => (l, target l)) :=
    List.map_congr_left fun l hl => by rw [hf l (mem_lanesOf.mp hl)]
  unfold State.branch
  rw [reclaimFirst_undoomed fun l hb => hdoom l (by
    rw [getLsbD_lanesWhere, Bool.and_eq_true] at hb
    exact hb.1)]
  dsimp only
  rw [hcur, hts, checkLanding_lanes hland, maskOf_lanesOf,
    compare_agree ((mismatch_congr fun l hl => by rw [hf l hl]).trans hmis), emptyCells_alone a.alone]

/-- A branch word that reaches its branch with its lanes' targets moves them. -/
theorem branch_moves {i : Instr} {s : State} {h : Hdr} {u : Uses} {m : BitVec 32} {target f : Nat → DWord} {rd : List Nat}
    (a : s.Acts h u m) (hu : s.Unheld h) (hl : Lands s m target) (hf : ∀ l, m.getLsbD l = true → f l = target l)
    (he : exec i s = .next (s.branch h m rd f)) : ∃ t, exec i s = .next t ∧ Moves s t h m target :=
  ⟨_, he.trans (congrArg _ (branch_jumps a hl hf rd)), jump_moves a hu (fun _ => a.inGang) target⟩

/-- The offset of a relative branch is the lane's register as a signed word (R103). -/
theorem offset_of_register (s : State) (l r : Nat) :
    ((vecSrc s l 1 r).1.setWidth 32).signExtend 64 = (s.reads s.w (.vec l r)).val.signExtend 64 := by
  congr 1
  show (((s.reads s.w (.vec l (r + 0))).val.setWidth 64).setWidth 32) = _
  rw [Nat.add_zero, BitVec.setWidth_setWidth_of_le _ (by decide), BitVec.setWidth_eq]

/-- Settles O15: every branch comes to one jump of its acting lanes to their targets, and `nop` to the jump of none. -/
theorem branchWords : Obligations.BranchWords := by
  intro s m
  refine ⟨fun t _ a hu hl => ?_, fun t _ a hu hd hl => ?_, fun t _ a hu hd hl => ?_, fun t _ a hu => ?_⟩
  · exact branch_moves a hu hl (fun _ _ => rfl) (congrArg Host.Outcome.next (admit_eq a false (by simp) _))
  · refine branch_moves (rd := regsOf [(t.a.toNat, 2)])
      (f := valOf ((lanesOf m).map fun l => (l, (vecSrc s l 2 t.a.toNat).1))) a hu hl
      (fun l hm => valOf_map (mem_lanesOf.mpr hm) fun l => (vecSrc s l 2 t.a.toNat).1)
      (congrArg Host.Outcome.next ((admit_eq a false (by simp) _).trans ?_))
    rw [laneVals_clean a.quiet (by omega) hd]
    rfl
  · refine branch_moves (rd := regsOf [(t.a.toNat, 1)]) (f := fun l => s.cur.pc +
        ((valOf ((lanesOf m).map fun l => (l, (vecSrc s l 1 t.a.toNat).1)) l).setWidth 32).signExtend 64 * 8) a hu hl
      (fun l hm => by rw [valOf_map (mem_lanesOf.mpr hm) fun l => (vecSrc s l 1 t.a.toNat).1, offset_of_register])
      (congrArg Host.Outcome.next ((admit_eq a false (by simp) _).trans ?_))
    rw [laneVals_clean a.quiet (by omega) hd]
    rfl
  · exact ⟨_, congrArg Host.Outcome.next (admit_eq a false (by simp) _), jump_moves a hu (m := 0) (by simp) fun _ => 0⟩

end Sys2Proof.Proofs
end

section
/-! PROOFS. Trap entry, and what a double trap ends (R62, R333, R335, R349). -/

namespace Sys2Proof.Machine

/-! ### Ended lanes stay ended -/

/-- No lane that has ended in s is alive in t. -/
def State.Fades (s t : State) : Prop :=
  ∀ w l, ((t.warp w).lane l).alive = true → ((s.warp w).lane l).alive = true

theorem State.Fades.refl (s : State) : s.Fades s := fun _ _ h => h

theorem State.Fades.trans {s t u : State} (h : s.Fades t) (k : t.Fades u) : s.Fades u := fun w l a => h w l (k w l a)

theorem State.Fades.ite {s t u : State} {c : Prop} [Decidable c] (h : s.Fades t) (k : s.Fades u) :
    s.Fades (if c then t else u) := by split_ifs; exacts [h, k]

theorem fades_of_warps {s t : State} (h : t.warps = s.warps) : s.Fades t := by
  intro w l a
  unfold State.warp at *
  rwa [h] at a

theorem fades_foldl {α : Type} {f : State → α → State} (h : ∀ (s : State) x, s.Fades (f s x)) (xs : List α) (s : State) :
    s.Fades (xs.foldl f s) := by
  induction xs generalizing s with
  | nil => exact .refl s
  | cons x xs ih => exact (h s x).trans (ih _)

theorem fades_updWarp (s : State) (w : Nat) {f : Warp → Warp}
    (h : ∀ W l, ((f W).lane l).alive = true → (W.lane l).alive = true) : s.Fades (s.updWarp w f) := by
  intro v l a
  rw [warp_updWarp] at a
  split_ifs at a with e
  · rw [e.1]; exact h _ _ a
  · exact a

/-- A change of a warp that keeps its lanes. -/
theorem fades_updWarp_lanes (s : State) (w : Nat) {f : Warp → Warp} (h : ∀ W, (f W).lanes = W.lanes) :
    s.Fades (s.updWarp w f) :=
  fades_updWarp s w fun W l a => by unfold Warp.lane at *; rwa [h] at a

theorem foldl_warps {α : Type} {f : State → α → State} (h : ∀ s x, (f s x).warps = s.warps) (xs : List α) (s : State) :
    (xs.foldl f s).warps = s.warps := by
  induction xs generalizing s with
  | nil => rfl
  | cons x xs ih => exact (ih _).trans (h s x)

/-! ### Barriers, logs, faults, channels: no warp changes -/

theorem msix_warps (s : State) (vi vec : Nat) : (s.msix vi vec).warps = s.warps := by
  unfold State.msix
  dsimp only
  split_ifs <;> rfl

theorem errEntry_warps (s : State) (vi code die cix : Nat) (bix : Word) (addr : Nat) (cause : BitVec 8) (tpc : DWord) :
    (s.errEntry vi code die cix bix addr cause tpc).warps = s.warps := by
  unfold State.errEntry
  dsimp only
  split_ifs
  · rfl
  · exact msix_warps _ _ _

theorem barCheck_warps (s : State) (n : BarName) : (s.barCheck n).warps = s.warps := by
  unfold State.barCheck State.scoreBarrier
  dsimp only
  split_ifs <;> rfl

theorem barLeave_warps (s : State) (t : Nat) : (s.barLeave t).warps = s.warps := by
  unfold State.barLeave
  refine foldl_warps (fun s x => ?_) _ _
  exact barCheck_warps _ _

theorem barLand_warps (s : State) (n : BarName) (vi bytes : Nat) (ws : Waits) :
    (s.barLand n vi bytes ws).warps = s.warps := by
  unfold State.barLand
  dsimp only
  split_ifs
  · exact (barCheck_warps _ _).trans (errEntry_warps ..)
  · exact barCheck_warps _ _

theorem cancelFault_warps (s : State) (vi token : Nat) : (s.cancelFault vi token).warps = s.warps := by
  unfold State.cancelFault
  dsimp only
  split
  · rfl
  · split <;> rfl

theorem markDone_warps (s : State) (c : Nat) (first : Word) (void : Bool) (k : Nat) :
    (s.markDone c first void k).warps = s.warps := by
  induction k generalizing s first with
  | zero => rfl
  | succ k ih =>
    unfold State.markDone
    dsimp only
    split_ifs <;> exact ih _ _

theorem advance_warps (s : State) (c off : Nat) (limit : Word) (clearVoid : Bool) (n : Nat) :
    (s.advance c off limit clearVoid n).warps = s.warps := by
  induction n generalizing s with
  | zero => rfl
  | succ n ih =>
    unfold State.advance
    dsimp only
    split_ifs
    · rfl
    · exact ih _
    · exact ih _

theorem chanCommitOp_warps (s : State) (c : Nat) (x : Claim) (void : Bool) :
    (s.chanCommitOp c x void).warps = s.warps := by
  unfold State.chanCommitOp
  exact (advance_warps ..).trans (markDone_warps ..)

theorem chanRetireOp_warps (s : State) (c : Nat) (x : Claim) : (s.chanRetireOp c x).warps = s.warps := by
  unfold State.chanRetireOp
  exact (advance_warps ..).trans (markDone_warps ..)

theorem chanLeave_warps (s : State) (t : Nat) : (s.chanLeave t).warps = s.warps := by
  unfold State.chanLeave
  refine foldl_warps (fun s x => ?_) _ _
  refine (foldl_warps (fun s c => chanRetireOp_warps s x.1 c) _ _).trans ?_
  exact foldl_warps (fun s c => chanCommitOp_warps s x.1 c true) _ _

/-! ### Futures whose references are dropped -/

theorem setPresence_fades (s : State) (ls : List Nat) : s.Fades (s.setPresence ls) := by
  intro w l a
  unfold State.setPresence at a
  unfold State.warp tgetD at a ⊢
  simp only [tget_tmap] at a
  cases e : tget s.warps w with
  | none => rw [e] at a; exact a
  | some W => rw [e] at a; exact a

theorem copyLines_fades (s : State) (c : Copy) : s.Fades (s.copyLines c) := by
  unfold State.copyLines
  split
  · exact .refl s
  · exact setPresence_fades _ _

theorem cancelFault_fades (s : State) (vi token : Nat) : s.Fades (s.cancelFault vi token) :=
  fades_of_warps (cancelFault_warps s vi token)

theorem futRelease_fades (s : State) (f : Nat) : s.Fades (s.futRelease f) := fades_of_warps rfl

theorem copyStop_fades (s : State) (id : Nat) : s.Fades (s.copyStop id) := by
  unfold State.copyStop
  split
  · exact .refl s
  · next c _ =>
    have h : s.Fades (if c.cut then { s with copies := tdel s.copies id }
        else match c.bar with
          | some n => (State.copyLines { s with copies := tdel s.copies id } c).barLand n c.vi (c.total - c.landedBytes) c.waits
          | none => State.copyLines { s with copies := tdel s.copies id } c) := by
      refine .ite (.refl s) ?_
      have hl := copyLines_fades { s with copies := tdel s.copies id } c
      split
      · exact State.Fades.trans (s := s) hl (fades_of_warps (barLand_warps ..))
      · exact hl
    exact (h.trans (fades_foldl (fun s _ => cancelFault_fades s _ _) _ _)).trans (.ite (futRelease_fades _ _) (.refl _))

theorem raise_fades (s : State) (w : Nat) (f : Flags) : s.Fades (s.raise w f) :=
  .ite (.refl s) (fades_updWarp_lanes s w fun _ => rfl)

theorem matrixStop_fades (s : State) (word : Nat) : s.Fades (s.matrixStop word) := by
  unfold State.matrixStop
  split
  · exact .refl s
  · split
    · dsimp only
      refine .trans ?_ (futRelease_fades _ _)
      refine .trans ?_ (fades_foldl (fun s _ => cancelFault_fades s _ _) _ _)
      refine .trans ?_ (raise_fades _ _ _)
      exact fades_of_warps rfl
    · exact .refl s

theorem futDoom_fades (s : State) (f : Nat) : s.Fades (s.futDoom f) := by
  have hc : ∀ {t : State} (id : Nat), t.warps = s.warps → s.Fades (t.copyStop id) := fun id h =>
    (fades_of_warps h).trans (copyStop_fades _ id)
  have hm : ∀ {t : State} (id : Nat), t.warps = s.warps → s.Fades (t.matrixStop id) := fun id h =>
    (fades_of_warps h).trans (matrixStop_fades _ id)
  unfold State.futDoom
  dsimp only
  split
  · exact futRelease_fades s f
  · split
    · exact fades_of_warps rfl
    · exact .ite (hc _ rfl) (fades_of_warps rfl)
    · exact .ite (hm _ rfl) (fades_of_warps rfl)
  · split
    · exact fades_of_warps rfl
    · exact .ite (hc _ rfl) (fades_of_warps rfl)
    · exact .ite (hm _ rfl) (fades_of_warps rfl)
  · exact .refl s

theorem futDrop_fades (s : State) (f : Nat) : s.Fades (s.futDrop f) := by
  unfold State.futDrop
  refine .ite (.trans ?_ (futDoom_fades _ _)) ?_
  · exact fades_of_warps rfl
  · exact fades_of_warps rfl

theorem dropAll_fades (s : State) (w l : Nat) : s.Fades (s.dropAll w l) := by
  unfold State.dropAll
  refine .trans ?_ (fades_foldl futDrop_fades _ _)
  exact fades_updWarp_lanes s w fun _ => rfl

/-! ### The end of threads, and what follows from it -/

theorem leaveSlice_fades (s : State) (w l sf : Nat) : s.Fades (s.leaveSlice w l sf) := by
  obtain ⟨h1, h2⟩ := leaveSlice_spec s w l sf
  intro v k a
  by_cases hv : v = w
  · subst hv; rwa [h2] at a
  · rwa [h1.others v hv] at a

theorem leaveSlices_fades {α : Type} (w l : Nat) (f : α → Nat) (xs : List α) (s : State) :
    s.Fades (xs.foldl (fun s x => s.leaveSlice w l (f x)) s) := fades_foldl (fun s x => leaveSlice_fades s w l (f x)) xs s

theorem reapLane_fades (s : State) (w l : Nat) : s.Fades (s.reapLane w l) := by
  unfold State.reapLane
  refine .ite (.refl s) ?_
  refine .trans (leaveSlices_fades w l Frame.sf _ s) (fades_updWarp _ w fun W k a => ?_)
  rw [lane_updLane] at a
  split_ifs at a with e
  · rw [e]; exact a
  · exact a

/-- What `endThread` makes of the warp of the thread that ends (R109, R121). -/
def Warp.endLane (W : Warp) (l : Nat) : Warp :=
  let W := { W.dropParked l with late := W.late.filter (fun x => !x.2.1.of l) }
  let W := W.updLane l (fun L => { L with alive := false, park := .no, parkRec := .no, held := false })
  { W.leaveGangs l with m := tmap W.m (fun _ x => setBit x l false) }

theorem endLane_alive (W : Warp) (l k : Nat) :
    ((W.endLane l).lane k).alive = if k = l then false else (W.lane k).alive := by
  have h : (W.endLane l).lane k =
      (W.updLane l (fun L => { L with alive := false, park := .no, parkRec := .no, held := false })).lane k := rfl
  rw [h, lane_updLane]
  split_ifs <;> rfl

/-- What `endThread` does before and after the lane itself ends. -/
theorem endThread_eq (s : State) (w l : Nat) : ∃ t : State, t.warps = s.warps ∧
    s.endThread w l = if !((s.warp w).lane l).alive then s else
      ((((t.updWarp w (·.endLane l)).barLeave (threadNo w l)).dropAll w l).chanLeave (threadNo w l)).reapLane w l :=
  ⟨_, foldl_warps (fun s _ => cancelFault_warps s _ _) _ s, rfl⟩

/-- A thread ends, and none comes back (R109). -/
theorem endThread_ends (s : State) (w l : Nat) :
    s.Fades (s.endThread w l) ∧ (((s.endThread w l).warp w).lane l).alive = false := by
  obtain ⟨t, ht, e⟩ := endThread_eq s w l
  rw [e]
  cases h : ((s.warp w).lane l).alive with
  | false => exact ⟨.refl s, h⟩
  | true =>
    have hf : (t.updWarp w (·.endLane l)).Fades
        (((((t.updWarp w (·.endLane l)).barLeave (threadNo w l)).dropAll w l).chanLeave (threadNo w l)).reapLane w l) :=
      (((fades_of_warps (barLeave_warps _ _)).trans (dropAll_fades _ _ _)).trans
        (fades_of_warps (chanLeave_warps _ _))).trans (reapLane_fades _ _ _)
    have hu : s.Fades (t.updWarp w (·.endLane l)) := (fades_of_warps ht).trans (fades_updWarp t w fun W k a => by
      rw [endLane_alive] at a
      split_ifs at a
      exact a)
    refine ⟨hu.trans hf, Bool.eq_false_iff.mpr fun a => ?_⟩
    have := hf w l a
    rw [warp_updWarp] at this
    split_ifs at this with hw
    · rw [endLane_alive, if_pos rfl] at this
      cases this
    · have hn : ¬ (tget t.warps w).isSome := fun x => hw ⟨rfl, x⟩
      have ha : ((t.warp w).lane l).alive = true := this
      unfold State.warp tgetD at ha
      rw [Option.not_isSome_iff_eq_none.mp hn] at ha
      cases ha

theorem freeSpill_fades (s : State) (die owner : Nat) : s.Fades (s.freeSpill die owner) := fades_of_warps rfl

theorem updCore_fades (s : State) (c : Nat) (f : Core → Core) : s.Fades (s.updCore c f) := fades_of_warps rfl

theorem updBlock_fades (s : State) (b : Nat) (f : Block → Block) : s.Fades (s.updBlock b f) := fades_of_warps rfl

theorem freeLaunch_fades (s : State) (w : Nat) : s.Fades (s.freeLaunch w) := by
  unfold State.freeLaunch
  refine .trans ?_ (updCore_fades _ _ _)
  refine .trans ?_ (fades_updWarp_lanes _ w fun _ => rfl)
  exact fades_foldl (fun s x => .ite (freeSpill_fades s _ _) (.refl s)) _ s

theorem unbind_fades (s : State) (c : Nat) : s.Fades (s.unbind c) := fades_of_warps rfl

theorem warpCheck_fades (s : State) (w : Nat) : s.Fades (s.warpCheck w) := by
  unfold State.warpCheck
  refine .ite (.refl s) ?_
  have h : s.Fades (State.updWarp ((s.warp w).c.foldl (fun s x => s.unbind x.2) s) w (fun W => { W with c := [] })) := by
    refine .trans ?_ (fades_updWarp_lanes _ w fun _ => rfl)
    exact fades_foldl (fun s x => unbind_fades s _) _ s
  refine .ite ?_ h
  refine .trans ?_ (updBlock_fades _ _ _)
  refine .trans ?_ (fades_updWarp_lanes _ w fun _ => rfl)
  refine .trans ?_ (updCore_fades _ _ _)
  exact (h.trans (freeLaunch_fades _ w)).trans (freeSpill_fades _ _ _)

theorem returnBuffers_warps (s : State) (b : Nat) : (s.returnBuffers b).warps = s.warps := by
  unfold State.returnBuffers
  refine foldl_warps (fun s x => ?_) _ s
  split <;> rfl

theorem freeMatrix_warps (s : State) (b : Nat) : (s.freeMatrix b).warps = s.warps := by
  unfold State.freeMatrix
  dsimp only
  split_ifs <;> rfl

theorem clusterCheck_warps (s : State) (c : Nat) : (s.clusterCheck c).warps = s.warps := by
  unfold State.clusterCheck
  dsimp only
  split_ifs <;> rfl

/-- A warp gives up what it has frozen and its spill image. -/
theorem thaw_fades (s : State) (w die : Nat) :
    s.Fades ((s.updWarp w (fun W => { W with freeze := 0 })).freeSpill die w) := by
  refine .trans ?_ (freeSpill_fades _ _ _)
  exact fades_updWarp_lanes s w fun _ => rfl

theorem blockCheck_fades (s : State) (b : Nat) : s.Fades (s.blockCheck b) := by
  unfold State.blockCheck
  refine .ite (.refl s) ?_
  dsimp only
  refine .trans ?_ (fades_of_warps (clusterCheck_warps _ _))
  refine .trans ?_ (fades_of_warps (freeMatrix_warps _ _))
  refine .trans ?_ (fades_of_warps (returnBuffers_warps _ _))
  refine .trans ?_ (fades_foldl (fun s w => thaw_fades s w _) _ _)
  refine .trans ?_ (.ite (.refl _) (updCore_fades _ _ _))
  exact (updBlock_fades _ _ _).trans (.ite (.refl _) (fades_foldl freeLaunch_fades _ _))

theorem checkSaved_fades (s : State) (core : Nat) : s.Fades (s.checkSaved core) :=
  .ite (updCore_fades _ _ _) (.refl s)

/-- Lanes that end one by one. -/
theorem endThreadList_ends (w : Nat) (ls : List Nat) (s : State) :
    s.Fades (ls.foldl (fun s l => s.endThread w l) s) ∧
      ∀ l ∈ ls, (((ls.foldl (fun s l => s.endThread w l) s).warp w).lane l).alive = false := by
  induction ls generalizing s with
  | nil => exact ⟨.refl s, fun _ h => absurd h List.not_mem_nil⟩
  | cons a ls ih =>
    obtain ⟨h1, h2⟩ := endThread_ends s w a
    obtain ⟨h3, h4⟩ := ih (s.endThread w a)
    refine ⟨h1.trans h3, fun l hl => ?_⟩
    rcases List.mem_cons.mp hl with rfl | hl
    · exact Bool.eq_false_iff.mpr fun e => Bool.eq_false_iff.mp h2 (h3 w l e)
    · exact h4 l hl

/-- Threads of one warp end, and none comes back (R109). -/
theorem endThreads_ends (s : State) (w : Nat) (m : BitVec 32) :
    s.Fades (s.endThreads w m) ∧ ∀ l, m.getLsbD l = true → (((s.endThreads w m).warp w).lane l).alive = false := by
  obtain ⟨h1, h2⟩ := endThreadList_ends w (lanesOf m) s
  have h3 : State.Fades ((lanesOf m).foldl (fun s l => s.endThread w l) s) (s.endThreads w m) := by
    unfold State.endThreads
    dsimp only
    generalize (lanesOf m).foldl (fun s l => s.endThread w l) s = t
    have hw := warpCheck_fades t w
    generalize t.warpCheck w = u at hw ⊢
    have hb : u.Fades (if (u.warp w).wave then u else u.blockCheck (u.warp w).block) :=
      .ite (.refl u) (blockCheck_fades u _)
    generalize (if (u.warp w).wave then u else u.blockCheck (u.warp w).block) = v at hb ⊢
    exact (hw.trans hb).trans (.ite (.refl v) (checkSaved_fades v _))
  exact ⟨h1.trans h3, fun l hl => Bool.eq_false_iff.mpr fun e =>
    Bool.eq_false_iff.mp (h2 l (mem_lanesOf.mpr hl)) (h3 w l e)⟩

/-! ### Kills -/

theorem killMatrix_fades (s : State) (ws : List Nat) : s.Fades (s.killMatrix ws) := by
  unfold State.killMatrix
  refine fades_foldl (fun s x => ?_) _ s
  refine .ite (.refl s) ?_
  split
  · exact .ite (fades_of_warps rfl) (matrixStop_fades _ _)
  · exact fades_of_warps rfl

/-- A lane that lives is in the mask of the unended lanes, when it is one of the 32. -/
theorem getLsbD_alive {W : Warp} {l : Nat} (hl : l < 32) (h : (W.lane l).alive = true) : W.alive.getLsbD l = true := by
  refine getLsbD_mask hl ?_ h
  unfold Warp.lane tgetD at h
  cases e : tget W.lanes l with
  | none => rw [e] at h; cases h
  | some L => rfl

/-- Warps whose unended threads end one warp after the other: all of theirs have ended (R349). -/
theorem endAll_ends (ws : List Nat) (s : State) :
    s.Fades (ws.foldl (fun s w => s.endThreads w (s.warp w).alive) s) ∧ ∀ w ∈ ws, ∀ l, l < 32 →
      (((ws.foldl (fun s w => s.endThreads w (s.warp w).alive) s).warp w).lane l).alive = false := by
  induction ws generalizing s with
  | nil => exact ⟨.refl s, fun _ h => absurd h List.not_mem_nil⟩
  | cons a ws ih =>
    obtain ⟨h1, h2⟩ := endThreads_ends s a (s.warp a).alive
    obtain ⟨h3, h4⟩ := ih (s.endThreads a (s.warp a).alive)
    refine ⟨h1.trans h3, fun w hw l hl => ?_⟩
    rcases List.mem_cons.mp hw with rfl | hw
    · refine Bool.eq_false_iff.mpr fun e => ?_
      have e1 := h3 w l e
      exact Bool.eq_false_iff.mp (h2 l (getLsbD_alive hl (h1 w l e1))) e1
    · exact h4 w hw l hl

/-- Killed warps have no unended thread (R349). -/
theorem killWarps_ends (s : State) (ws : List Nat) : s.Fades (s.killWarps ws) ∧
    ∀ w ∈ ws, ∀ l, l < 32 → (((s.killWarps ws).warp w).lane l).alive = false := by
  have h1 : s.Fades (ws.foldl (fun s w =>
      s.updWarp w (fun W => { W with trap := none, stall := false, saved := false })) (s.killMatrix ws)) := by
    refine .trans (killMatrix_fades s ws) (fades_foldl (fun s w => ?_) ws _)
    exact fades_updWarp_lanes s w fun _ => rfl
  obtain ⟨h2, h3⟩ := endAll_ends ws (ws.foldl (fun s w =>
      s.updWarp w (fun W => { W with trap := none, stall := false, saved := false })) (s.killMatrix ws))
  exact ⟨h1.trans h2, h3⟩

theorem afterKill_fades (s : State) (g : Nat) (idx : List Nat) (wide : Bool) : s.Fades (s.afterKill g idx wide) := by
  unfold State.afterKill
  refine .ite (fades_of_warps rfl) ?_
  exact .trans (fades_of_warps rfl) (killWarps_ends _ _).1

theorem mem_warps_of_live {s : State} {w : Nat} (h : (s.warp w).live = true) : (w, s.warp w) ∈ s.warps := by
  refine mem_of_tget ?_
  unfold State.warp tgetD at *
  cases e : tget s.warps w with
  | none => rw [e] at h; cases h
  | some W => rfl

/-- The kill set of a live warp's gang holds the warp (R349). -/
theorem mem_killSet {s : State} {w : Nat} (h : (s.warp w).live = true) : w ∈ (s.killSet w).1 := by
  unfold State.killSet
  dsimp only
  generalize hws : (if (s.warpsOn (s.warp w).grid (s.memberCores w)).contains w then
    s.warpsOn (s.warp w).grid (s.memberCores w) else w :: s.warpsOn (s.warp w).grid (s.memberCores w)) = ws
  split_ifs
  · exact List.mem_map.mpr ⟨(w, s.warp w), List.mem_filter.mpr ⟨mem_warps_of_live h, by simp [h]⟩, rfl⟩
  · subst hws
    split_ifs with hc
    · exact List.contains_iff_mem.mp hc
    · exact List.mem_cons_self

/-- A killed gang's warp has no unended thread (R335, R349). -/
theorem killBy_ends {s : State} {w : Nat} (h : (s.warp w).live = true) (log : State → State) {l : Nat} (hl : l < 32) :
    (((s.killBy w log).warp w).lane l).alive = false := by
  refine Bool.eq_false_iff.mpr fun e => ?_
  have := afterKill_fades _ _ _ _ w l e
  exact Bool.eq_false_iff.mp ((killWarps_ends _ _).2 w (mem_killSet h) l hl) this

/-! ### Traps of the word being issued -/

/-- A lane that stands ready is alive, and so is its warp. -/
theorem live_of_ready {W : Warp} {l : Nat} (h : (W.lane l).ready = true) : W.live = true := by
  obtain ⟨L, hL⟩ := Option.isSome_iff_exists.mp (isSome_of_ready h)
  have hW : W.lane l = L := by simp [Warp.lane, tgetD, hL]
  rw [hW] at h
  simp only [Lane.ready, Bool.and_eq_true] at h
  exact List.any_eq_true.mpr ⟨(l, L), mem_of_tget hL, h.1.1⟩

/-- When every lane of the gang acts, none passes by. -/
theorem passBy_all (s : State) (h : Hdr) : s.passBy h s.cur.lanes = s.updWarp s.w id := by
  have hz : s.cur.lanes &&& ~~~s.cur.lanes = 0 := by simp
  have hu : ∀ (W : Warp) (f : Nat → Lane → Lane), W.updLanes 0 f = W := by
    intro W f
    have ht : tmap W.lanes (fun l L => if (0 : BitVec 32).getLsbD l then f l L else L) = W.lanes := by
      simp [tmap]
    show { W with lanes := tmap W.lanes _ } = W
    rw [ht]
  unfold State.passBy
  rw [hz]
  exact congrArg (s.updWarp s.w) (funext fun W => hu W _)

/-- A lane of the acting mask does not pass by. -/
theorem passBy_lane {s : State} (h : Hdr) {m : BitVec 32} (hw : (tget s.warps s.w).isSome) {l : Nat}
    (hl : m.getLsbD l = true) : ((s.passBy h m).warp s.w).lane l = s.wp.lane l := by
  unfold State.passBy
  rw [goto_lane hw, if_neg]
  simp [hl]

/-- A trap at system privilege ends every thread of its warp (R335). -/
theorem trapWarp_double {s : State} {w : Nat} (hl : (s.warp w).live = true) (hc : (s.warp w).cur = true) (t : Trap)
    {l : Nat} (h : l < 32) : (((s.trapWarp w t).warp w).lane l).alive = false := by
  have e : s.trapWarp w t = s.doubleTrap w t := if_pos hc
  rw [e]
  unfold State.doubleTrap
  exact killBy_ends hl _ h

end Sys2Proof.Machine

namespace Sys2Proof.Proofs

open Sys2Proof.Machine Sys2Proof.Claims

/-! ### Trap entry and double traps -/

/-- TRAP_ENTRY in a warp to whose lanes every result has shown (R333, R358). -/
theorem trapEntry_enters {s : State} {w : Nat} (hw : (tget s.warps w).isSome) (hl : (s.warp w).late = []) (tr : Trap) :
    ((s.enterTrap w tr allLive).warp w).taddr = tr.addr ∧
      Entered s (s.enterTrap w tr allLive) w tr.cause tr.mask (fun l =>
        if tr.mask.getLsbD l then tr.tpc.getD ((s.warp w).lane l).pc else ((s.warp w).lane l).pc) allLive := by
  have he : s.enterTrap w tr allLive =
      s.updWarp w (·.trapEntry tr allLive (s.vi (s.warp w).vi).trapvec (s.cycle (s.warp w).core)) := by
    unfold State.enterTrap State.showLate
    simp only [hl, List.isEmpty_nil, if_true]
    rfl
  have hself := warp_updWarp_self s (·.trapEntry tr allLive (s.vi (s.warp w).vi).trapvec (s.cycle (s.warp w).core)) hw
  rw [← he] at hself
  refine ⟨by rw [hself]; rfl, entered_of_trapEntry hself (fun v hv => ?_) (by rw [he]; rfl) (by rw [he]; rfl)⟩
  rw [he]
  exact warp_updWarp_ne s _ hv

theorem isSome_of_trap {s : State} {w : Nat} {tr : Trap} (h : (s.warp w).trap = some tr) : (tget s.warps w).isSome := by
  unfold State.warp tgetD at h
  cases e : tget s.warps w with
  | none => rw [e] at h; cases h
  | some W => rfl

/-- `brk` while long operations are outstanding leaves its trap pending (R62). -/
theorem brk_waits {t : Imm} {s : State} (hi : s.Issues) (hne : s.cur.lanes ≠ 0) (hg : t.h.g = 15) (hn : t.h.gn = false)
    (hlive : t.h.live = none) (ha : (s.block s.wp.block).shares = []) (hc : s.wp.cur = false) (hb : s.wp.busyLong = true) :
    exec (.brk t) s = .next ((s.passBy t.h s.cur.lanes).updWarp s.w
      (fun W => { W with trap := some ⟨0x21, t.imm.setWidth 64, s.cur.lanes, some s.cur.pc⟩ })) := by
  have hv : ∀ k, s.vet t.h false {} k = k s s.cur.lanes := by
    intro k
    unfold State.vet State.admitAs
    rw [lanesWhere_zero fun l _ => by simp [Lane.liveFits, Lane.fits, hlive]]
    simp [State.guards, hg, hn, State.admitCells, State.sharing, ha]
  have hp : (s.passBy t.h s.cur.lanes).warp s.w = s.wp := by
    rw [passBy_all]
    exact warp_updWarp_self s id hi.warp
  show execBrk t s = _
  unfold execBrk
  rw [hv, if_neg (by simpa using hne)]
  refine congrArg _ ?_
  show State.trapWarp _ s.w _ = _
  unfold State.trapWarp
  dsimp only
  rw [hp, hc, hb]
  rfl

theorem entry_waits : entryClause := by
  refine ⟨fun t s _ hi hne hg hn hlive ha hc hb => ⟨_, brk_waits hi hne hg hn hlive ha hc hb, rfl, fun v hv => ?_, ?_⟩,
    fun w tr s ht hl => ?_⟩
  · rw [warp_updWarp_ne _ _ hv, passBy_all, warp_updWarp_ne _ _ hv]
  · rw [passBy_all, warp_updWarp_self _ _ ((isSome_updWarp _ _ _ _).trans hi.warp), warp_updWarp_self _ _ hi.warp]
    rfl
  · show ∃ u, execTrapEntry w s = .next u ∧ _
    unfold execTrapEntry
    dsimp only
    rw [ht]
    dsimp only
    cases hb : (s.warp w).busyLong with
    | true => exact ⟨s, rfl, rfl⟩
    | false => exact ⟨_, rfl, trapEntry_enters (isSome_of_trap ht) hl tr⟩

theorem double_traps : doubleClause := by
  intro t s m hm a hc _
  obtain ⟨l, hl⟩ : ∃ l, m.getLsbD l = true := by
    obtain ⟨x, xs, e⟩ := List.exists_cons_of_ne_nil (lanesOf_ne_nil hm)
    exact ⟨x, mem_lanesOf.mp (e ▸ List.mem_cons_self)⟩
  have hlive : ((s.passBy t.h m).warp s.w).live = true :=
    live_of_ready (l := l) (by rw [passBy_lane t.h a.warp hl]; exact a.ready l (a.inGang hl))
  have hcur : ((s.passBy t.h m).warp s.w).cur = true := by
    unfold State.passBy
    rw [(goto_onlyLanes a.warp _ _).warp]
    exact hc
  have he : exec (.trap t) s = .next ((s.passBy t.h m).trapWarp s.w
      ⟨cSoftware, t.imm.setWidth 64, m, some (afterWord t.h s.cur.pc)⟩) := by
    show execTrap t s = _
    unfold execTrap
    rw [admit_eq a false (by simp), if_neg (by simpa using hm)]
  exact ⟨_, he, fun k hk => trapWarp_double hlive hcur _ hk⟩

/-- Settles O19: TRAP_ENTRY enters a pending trap once nothing is outstanding; a double trap kills the gang's kill set, in
which its warp is. -/
theorem trapEntryAndDoubleTraps : Obligations.TrapEntryAndDoubleTraps := ⟨entry_waits, double_traps⟩

end Sys2Proof.Proofs
end

section
/-! PROOFS. A delivery that frees the call frame of an ended lane (R109, R356). -/

namespace Sys2Proof.Proofs

open Sys2Proof.Machine Sys2Proof.Claims

/-! ### A delivery that frees the call frame of an ended lane -/

/-- Lane 0 runs and has one long result known; lane 1 has ended in a called frame whose v8 holds 1. -/
def endedCaller : Warp :=
  { core := 0, slot := 0, grid := 0, vi := 0, block := 0
    longs := [(5, ⟨[⟨.vec 0 0, some ⟨7, false⟩, false⟩], 0, 0⟩)]
    lanes := [(0, { alive := true, frames := [{ g := 1 }] }),
      (1, { frames := [{ g := 2, regs := [(8, ⟨1, false⟩)] }, { g := 1 }] })] }

/-- That warp alone, in a deterministic grid. -/
def endedInCall : State :=
  { State.reset with
    warps := [(0, endedCaller)]
    grids := [(0, { vi := 0, q := 0, seq := 0, launch := { determ := true } })] }

/-- The delivery frees the ended lane's call frame (R109), and its v8 is no longer the one that held 1. -/
theorem endedInCall_frees {u : State} (h : exec (.longResultDelivery 0 5) endedInCall = .next u) :
    u.reads 0 (.vec 1 8) ≠ endedInCall.reads 0 (.vec 1 8) := by
  have hp : (match exec (.longResultDelivery 0 5) endedInCall with
    | .next t => decide (t.reads 0 (.vec 1 8) ≠ endedInCall.reads 0 (.vec 1 8))
    | _ => false) = true := by decide +kernel
  rw [h] at hp
  exact of_decide_eq_true hp

/-- Refutes O42: in a deterministic grid no register at all is to change while the result is kept for later, ended lanes'
registers included; but with the delivery the call frames of an ended lane are freed, and its registers are those of its
launch frame. -/
theorem not_resultDelivery : ¬ Obligations.ResultDelivery := by
  intro h
  obtain ⟨u, hu, -, -, -, hdet, -⟩ := h 0 5 ⟨[⟨.vec 0 0, some ⟨7, false⟩, false⟩], 0, 0⟩ endedInCall
    (by decide +kernel) (by decide +kernel) (by decide +kernel) (by decide) (by
      intro d hd
      obtain rfl := List.mem_singleton.mp hd
      exact ⟨by decide +kernel, by decide +kernel⟩)
  obtain ⟨hreads, -⟩ := hdet (by decide +kernel) (by decide +kernel)
  exact endedInCall_frees hu (hreads _)

end Sys2Proof.Proofs
end

section
/-! PROOFS. Integer, floating-point and predicate words, and the rules of exact arithmetic (R72 to R100). -/

namespace Sys2Proof.Machine

/-! ### The destination of a word of TRI layout -/

theorem opdResult_vec {o : Opd} (h : isVec o = true) (ty : BitVec 3) (l : Nat) (r : BitVec 8) (v : BitVec 64) (bad : Bool) :
    opdResult o ty l r v bad = vecResult l r.toNat (o.count ty) v bad := by
  cases o with
  | v1 | vT | v2 | v4 => rfl
  | none | s1 | sT | s2 | pred => cases h

theorem opdRange_vec {o : Opd} (h : isVec o = true) (ty : BitVec 3) (r : BitVec 8) :
    opdRange o ty false r = [(r.toNat, o.count ty)] := by
  cases o with
  | v1 | vT | v2 | v4 => rfl
  | none | s1 | sT | s2 | pred => cases h

theorem count_vec_pos {o : Opd} (h : isVec o = true) (ty : BitVec 3) : 0 < o.count ty := by
  cases o with
  | v1 | v2 | v4 => exact Nat.succ_pos _
  | vT => unfold Opd.count; split_ifs <;> exact Nat.succ_pos _
  | none | s1 | sT | s2 | pred => cases h

end Sys2Proof.Machine

namespace Sys2Proof.Proofs

open Sys2Proof.Machine Sys2Proof.Claims

/-- A form whose destination is a register of the lane: a vector register or group, or a predicate. -/
def LaneDst (sh : Shape) : Prop := isVec sh.d = true ∨ sh.d = .pred

theorem predResult_own (l p : Nat) (v bad : Bool) : ∀ x ∈ predResult l p v bad, x.1.of l = true := by
  intro x hx
  obtain rfl := List.mem_singleton.mp hx
  exact beq_self_eq_true l

theorem triFn_own {t : Tri} {sh : Shape} (hd : LaneDst sh) (f : BitVec 64 → BitVec 64 → BitVec 64 → BitVec 64 × Flags)
    (s : State) : OwnTargets s (triFn t sh f) := by
  intro l
  unfold triFn
  dsimp only
  rcases hd with hd | hd
  · rw [opdResult_vec hd]
    exact ⟨vecResult_nodup _ _ _ _ _, vecResult_own _ _ _ _ _⟩
  · rw [hd]
    exact ⟨List.nodup_singleton _, predResult_own _ _ _ _⟩

/-- The destination of a word of TRI layout lies in the frame of every acting lane, or is a predicate (R13, R15). -/
theorem triFn_writable {t : Tri} {sh : Shape} (hd : LaneDst sh) (f : BitVec 64 → BitVec 64 → BitVec 64 → BitVec 64 × Flags)
    {s : State} {m : BitVec 32} (a : s.Acts t.h (triUses t sh false) m) {l : Nat} (hl : m.getLsbD l = true) :
    ∀ r ∈ (triFn t sh f s l).1, r.1.kept = true → s.Writable s.w r.1 := by
  intro r hr hk
  unfold triFn at hr
  dsimp only at hr
  rcases hd with hd | hd
  · rw [opdResult_vec hd] at hr
    have hw : (t.d.toNat, sh.d.count t.ty) ∈ (triUses t sh false).writes := by
      rw [triUses, opdRange_vec hd]
      exact List.mem_cons_self
    exact vecResult_writable (count_vec_pos hd t.ty) (a.fits_of_mem hl (List.mem_append_right _ hw)) r hr
  · rw [hd] at hr
    obtain rfl := List.mem_singleton.mp hr
    exact of_decide_eq_true (p := t.d.toNat < 15) hk

/-- A short word of TRI layout leaves what its lanes' operands give (R72, R76). -/
theorem shortWord_tri {i : Instr} {t : Tri} {sh : Shape} {f : BitVec 64 → BitVec 64 → BitVec 64 → BitVec 64 × Flags}
    (hd : LaneDst sh) (he : ∀ s, exec i s = .next (s.triWord t sh false f)) :
    ShortWord i t.h (triUses t sh false) (triFn t sh f) :=
  shortWord_of_byLane he (fun _ l hq => triLane_quiet hq t sh f l) (fun _ _ _ a _ hl => triFn_writable hd f a hl)
    fun s m => targetsOf_nodup (triFn_own hd f s) m

/-! ### Integer words -/

theorem intShift_dst {t t' : Tri} {sh : Shape} {f : BitVec 64 → BitVec 64 → BitVec 64 → BitVec 64} {op : Bits}
    (h : intWord.shift t op = (t', sh, f)) : LaneDst sh := by
  unfold intWord.shift at h
  split_ifs at h <;> cases h <;> exact .inl rfl

/-- The integer words write a vector register or group, but for `cmp`, which writes a predicate (R76, R84). -/
theorem intWord_dst {i : Instr} {t : Tri} {sh : Shape} {f : BitVec 64 → BitVec 64 → BitVec 64 → BitVec 64}
    (h : intWord i = some (t, sh, f)) : LaneDst sh := by
  unfold intWord at h
  split at h
  case h_15 | h_16 | h_17 | h_18 => exact intShift_dst (Option.some.inj h)
  case h_27 => cases h; exact .inr rfl
  case h_30 => cases h
  all_goals
    cases h
    exact .inl rfl

/-- Settles O1: every integer word is a TRI word of its operands, and its destination is a register of each lane. -/
theorem integerWords : Obligations.IntegerWords :=
  fun _ _ _ _ hi => shortWord_tri (intWord_dst hi) fun s => exec_intWord hi s

/-! ### Short floating-point words -/

/-- The floating-point words write a vector register or group, but for `fcmp`, which writes a predicate (R89, R96). -/
theorem fpWord_dst {i : Instr} {t : Tri} {sh : Shape} {long : Bool}
    {f : BitVec 64 → BitVec 64 → BitVec 64 → BitVec 64 × Flags} (h : fpWord i = some (t, sh, long, f)) : LaneDst sh := by
  unfold fpWord at h
  split at h
  case h_7 => cases h; exact .inr rfl
  case h_20 =>
    cases h
    split_ifs <;> exact .inl rfl
  case h_22 => cases h
  all_goals
    cases h
    exact .inl rfl

/-- Settles O4: the short ones among the floating-point words write their results at once, and their flags unite. -/
theorem floatWords : Obligations.FloatWords :=
  fun _ _ _ _ hi => shortWord_tri (fpWord_dst hi) fun s => (exec_fpWord hi s).1

/-! ### Predicate words -/

/-- A predicate reads as its operand is not zero (R13). -/
theorem readP_src {s : State} (hq : s.wp.Quiet) (l : Nat) (r : BitVec 8) (pos : Nat) :
    s.readP s.w l r.toNat pos = ((src s l 0 .pred false r).1 != 0, (src s l 0 .pred false r).2) := by
  rw [← operand_quiet hq l 0 .pred false r pos]
  show s.readP s.w l r.toNat pos = (((if (s.readP s.w l r.toNat pos).1 then 1 else 0 : BitVec 64) != 0), _)
  refine Prod.ext ?_ rfl
  cases (s.readP s.w l r.toNat pos).1 <;> rfl

theorem predLane_quiet {s : State} (hq : s.wp.Quiet) (t : Tri) (two : Bool) (f : Bool → Bool → Bool) (l : Nat) :
    State.predLane t two f s l = predFn t two f s l := by
  unfold State.predLane predFn
  rw [readP_src hq, readP_src hq]
  cases two <;> rfl

theorem predFn_own (t : Tri) (two : Bool) (f : Bool → Bool → Bool) (s : State) : OwnTargets s (predFn t two f) :=
  fun _ => ⟨List.nodup_singleton _, predResult_own _ _ _ _⟩

theorem exec_predWord {i : Instr} {t : Tri} {two : Bool} {f : Bool → Bool → Bool} (h : predWord i = some (t, two, f))
    (s : State) : exec i s = .next (s.predWord t two f) := by
  unfold predWord at h
  split at h
  case h_6 => cases h
  all_goals
    cases h
    rfl

/-- Settles O7: the lanes' predicates are read as they stand, and each lane writes the one predicate D. -/
theorem predicateWords : Obligations.PredicateWords := by
  intro i t two f hi
  refine shortWord_of_byLane (exec_predWord hi) (fun _ l hq => predLane_quiet hq t two f l) ?_
    fun s m => targetsOf_nodup (predFn_own t two f s) m
  intro _ s m _ l _ r hr hk
  obtain rfl := List.mem_singleton.mp hr
  exact of_decide_eq_true (p := t.d.toNat < 15) hk

end Sys2Proof.Proofs

/-! ### Exact arithmetic, wrapped or clamped (R73, R77) -/

namespace Sys2Proof.Machine

theorem widthOf_int {ty : BitVec 3} (h : intTy ty = true) : widthOf ty = if ty = 2 ∨ ty = 3 then 64 else 32 := by
  revert ty
  decide

theorem signedTy_iff (ty : BitVec 3) : signedTy ty = true ↔ ty = 0 ∨ ty = 2 := by
  unfold signedTy
  rw [Bool.or_eq_true, beq_iff_eq, beq_iff_eq]

/-- The value of a pattern is its residue, less the modulus when the type is signed and the sign bit set (R73). -/
theorem ival_eq (ty : BitVec 3) (x : BitVec 64) : ival ty x =
    if (ty = 0 ∨ ty = 2) ∧ 2 ^ (widthOf ty - 1) ≤ x.toNat % 2 ^ widthOf ty then
      (x.toNat % 2 ^ widthOf ty : Int) - 2 ^ widthOf ty
    else (x.toNat % 2 ^ widthOf ty : Int) := by
  unfold ival sval
  simp only [← signedTy_iff]
  cases signedTy ty with
  | false => simp
  | true =>
    by_cases hs : 2 ^ (widthOf ty - 1) ≤ x.toNat % 2 ^ widthOf ty
    · simp [hs, Nat.not_lt.mpr hs]
    · simp [hs, Nat.not_le.mp hs]

theorem wrapInt_eq (w : Nat) (i : Int) : wrapInt w i = BitVec.ofInt 64 (i % 2 ^ w) := by
  have h : 0 ≤ i % 2 ^ w := Int.emod_nonneg _ (by positivity)
  unfold wrapInt
  rw [← BitVec.ofInt_natCast, Int.toNat_of_nonneg h]

/-- A result is wrapped to its width, with the saturate bit after it is clamped to its type (R21, R22). -/
theorem deliver_eq (ty : BitVec 3) (sf : Bool) (i : Int) : deliver ty sf i =
    BitVec.ofInt 64 ((if sf then max (minInt ty) (min i (maxInt ty)) else i) % 2 ^ widthOf ty) := by
  unfold deliver clampInt
  rw [wrapInt_eq, wrapInt_eq, min_comm]
  cases sf <;> rfl

end Sys2Proof.Machine

namespace Sys2Proof.Proofs

open Sys2Proof.Machine Sys2Proof.Claims

/-- The rule's result is the exact one delivered to the type (R77). -/
theorem rule77_eq {t : Tri} (h : intTy t.ty = true) (exact : Int → Int → Int → Int) (a b c : BitVec 64) :
    rule77 t exact a b c = deliver t.ty t.sf (exact (ival t.ty a) (ival t.ty b) (ival t.ty c)) := by
  rw [deliver_eq, ival_eq, ival_eq, ival_eq]
  unfold rule77 minInt maxInt
  simp only [signedTy_iff, widthOf_int h]

/-- The type of a word is one that its form admits (R76). -/
theorem ty_of_blk {t : Tri} {sh : Shape} {ty : BitVec 3 → Bool} {rm sf : Bool} {var : BitVec 6 → Bool}
    (h : t.blk sh ty rm sf var = true) : ty t.ty = true := by
  unfold Tri.blk at h
  simp only [Bool.and_eq_true] at h
  obtain ⟨⟨⟨⟨⟨-, hty⟩, -⟩, -⟩, -⟩, -⟩ := h
  exact hty

theorem shortWord_congr {i : Instr} {h : Hdr} {u : Uses} {f g : LaneFn} (w : ShortWord i h u f)
    (e : i.wf = true → f = g) : ShortWord i h u g := fun hw => e hw ▸ w hw

/-- An integer word of the model's exact arithmetic is one of the rule's, when their results agree on integer types. -/
theorem shortWord_rule77 {i : Instr} {t : Tri} {sh : Shape} {op : BitVec 64 → BitVec 64 → BitVec 64 → BitVec 64}
    (hi : intWord i = some (t, sh, op)) (hty : i.wf = true → intTy t.ty = true) {exact : Int → Int → Int → Int}
    (e : intTy t.ty = true → ∀ a b c, op a b c = deliver t.ty t.sf (exact (ival t.ty a) (ival t.ty b) (ival t.ty c))) :
    ShortWord i t.h (triUses t sh false) (triFn t sh (fun a b c => (rule77 t exact a b c, 0))) := by
  refine shortWord_congr (integerWords i t sh op hi) fun hw => ?_
  have ho : op = rule77 t exact := by
    funext a b c
    rw [rule77_eq (hty hw), e (hty hw)]
  rw [ho]

theorem addImm_eq (a : BitVec 64) (imm : BitVec 32) :
    arith .add 1 false a (imm.setWidth 64) 0 = (a.setWidth 32 + imm).setWidth 64 := by
  show wrapInt 32 (((a.toNat % 2 ^ 32 : Nat) : Int) + (((imm.setWidth 64).toNat % 2 ^ 32 : Nat) : Int)) = _
  apply BitVec.eq_of_toNat_eq
  unfold wrapInt
  simp only [BitVec.toNat_ofNat, BitVec.toNat_setWidth, BitVec.toNat_add]
  omega

theorem subImm_eq (a : BitVec 64) (imm : BitVec 32) :
    arith .sub 1 false a (imm.setWidth 64) 0 = (a.setWidth 32 - imm).setWidth 64 := by
  show wrapInt 32 (((a.toNat % 2 ^ 32 : Nat) : Int) - (((imm.setWidth 64).toNat % 2 ^ 32 : Nat) : Int)) = _
  apply BitVec.eq_of_toNat_eq
  unfold wrapInt
  simp only [BitVec.toNat_ofNat, BitVec.toNat_setWidth, BitVec.toNat_sub]
  omega

theorem intTy_of_signed {ty : BitVec 3} (h : (ty == 0 || ty == 2) = true) : intTy ty = true := by
  revert ty
  decide

/-- Settles O53: what the model computes is the exact result delivered to the type, and the rule says the same of it. -/
theorem arithmeticRule : Obligations.ArithmeticRule := by
  refine ⟨fun t => ⟨?_, ?_, ?_, ?_, ?_, ?_, ?_, ?_, ?_⟩, fun t => ⟨?_, ?_⟩⟩
  · exact shortWord_rule77 (i := .add t) rfl ty_of_blk fun _ _ _ _ => rfl
  · exact shortWord_rule77 (i := .sub t) rfl ty_of_blk fun _ _ _ _ => rfl
  · exact shortWord_rule77 (i := .mul t) rfl ty_of_blk fun _ _ _ _ => rfl
  · exact shortWord_rule77 (i := .mad t) rfl ty_of_blk fun _ _ _ _ => rfl
  · exact shortWord_rule77 (i := .neg t) rfl ty_of_blk fun _ _ _ _ => congrArg (deliver t.ty t.sf) (zero_sub _).symm
  · exact shortWord_rule77 (i := .abs t) rfl
      (fun h => intTy_of_signed (ty_of_blk (ty := fun ty => ty == 0 || ty == 2) h))
      fun _ _ _ _ => congrArg (deliver t.ty t.sf) (Int.natCast_natAbs _)
  · exact shortWord_rule77 (i := .min t) rfl ty_of_blk fun _ _ _ _ => congrArg (deliver t.ty t.sf) (min_def _ _).symm
  · exact shortWord_rule77 (i := .max t) rfl ty_of_blk fun _ _ _ _ => congrArg (deliver t.ty t.sf) (max_def _ _).symm
  · refine shortWord_rule77 (i := .mulhi t) rfl ty_of_blk fun h _ _ _ => congrArg (deliver t.ty t.sf) ?_
    rw [← widthOf_int h]
    exact Int.fdiv_eq_ediv_of_nonneg _ (by positivity)
  · exact shortWord_congr (immediate_words (.addImm t) t t.d true _ rfl) fun _ => congrArg _ (funext fun a => addImm_eq a t.imm)
  · exact shortWord_congr (immediate_words (.subImm t) t t.d true _ rfl) fun _ => congrArg _ (funext fun a => subImm_eq a t.imm)

/-! ### Carries and borrows (R78) -/

/-- The carry in of a word (R78). -/
theorem carryIn_eq (sf : Bool) (c : BitVec 64) :
    (((!sf && c != 0).toNat : Nat) : Int) = if sf = false ∧ c ≠ 0 then 1 else 0 := by
  by_cases hc : c = 0
  · simp [hc]
  · rw [bne_iff_ne.mpr hc]
    cases sf with
    | false => exact (if_pos ⟨rfl, hc⟩).symm
    | true => exact (if_neg fun e => Bool.noConfusion e.1).symm

/-- A sum with its carry in, as an exact integer (R78). -/
theorem addCarry_eq (a b : BitVec 64) (cin : Bool) (r : Int)
    (hr : r = (a.toNat % 2 ^ 32 : Int) + (b.toNat % 2 ^ 32 : Int) + (cin.toNat : Int)) :
    addCarry a b cin = (BitVec.ofInt 64 (r % 2 ^ 32), decide (2 ^ 32 ≤ r)) := by
  have hn : r = ((a.toNat % 2 ^ 32 + b.toNat % 2 ^ 32 + cin.toNat : Nat) : Int) := by rw [hr]; push_cast; rfl
  unfold addCarry
  generalize a.toNat % 2 ^ 32 + b.toNat % 2 ^ 32 + cin.toNat = n at hn
  subst hn
  refine Prod.ext ?_ (decide_eq_decide.mpr (by omega))
  show BitVec.ofNat 64 (n % 2 ^ 32) = BitVec.ofInt 64 (n % 2 ^ 32)
  rw [← BitVec.ofInt_natCast, Int.natCast_mod]
  rfl

/-- A difference with its borrow in, as an exact integer (R78). -/
theorem subBorrow_eq (a b : BitVec 64) (cin : Bool) (r : Int)
    (hr : r = (a.toNat % 2 ^ 32 : Int) - (b.toNat % 2 ^ 32 : Int) - (cin.toNat : Int)) :
    subBorrow a b cin = (BitVec.ofInt 64 (r % 2 ^ 32), decide (r < 0)) := by
  unfold subBorrow
  dsimp only
  rw [wrapInt_eq, hr]
  rfl

theorem rule78_add (t : Tri) : rule78 t false = carryFn t addCarry := by
  funext s l
  unfold rule78 carryFn
  dsimp only
  rw [addCarry_eq _ _ _ _ (by rw [carryIn_eq])]
  rfl

theorem rule78_sub (t : Tri) : rule78 t true = carryFn t subBorrow := by
  funext s l
  unfold rule78 carryFn
  dsimp only
  rw [subBorrow_eq _ _ _ _ (by rw [carryIn_eq])]
  rfl

/-- Settles O54: the carry or borrow of the exact sum or difference is what the word passes on. -/
theorem carryRule : Obligations.CarryRule := by
  intro t
  rw [rule78_add, rule78_sub]
  exact carry_words t

end Sys2Proof.Proofs
end

section
/-! PROOFS. `trap` and `brk` (R102, R111, R333). -/

namespace Sys2Proof.Machine

/-- The lanes of the gang that do not act go on at the next word; no other lane has changed (R102). -/
theorem passBy_spec {s : State} (hi : s.Issues) (h : Hdr) (m : BitVec 32) :
    State.OnlyLanes s (s.passBy h m) ∧ ∀ l, ((s.passBy h m).warp s.w).lane l =
      if s.cur.lanes.getLsbD l = true ∧ m.getLsbD l = false then (s.wp.lane l).standAt (afterWord h s.cur.pc) (s.cyc + 1)
      else s.wp.lane l := by
  refine ⟨goto_onlyLanes hi.warp _ _, fun l => ?_⟩
  unfold State.passBy
  rw [goto_lane hi.warp]
  refine if_congr ?_ rfl rfl
  rw [BitVec.getLsbD_and, BitVec.getLsbD_not, Bool.and_eq_true]
  constructor
  · rintro ⟨⟨hc, hm⟩, -⟩
    exact ⟨hc, by simpa only [BitVec.lt_of_getLsbD hc, decide_true, Bool.true_and, Bool.not_eq_true'] using hm⟩
  · rintro ⟨hc, hm⟩
    exact ⟨⟨hc, by simp only [BitVec.lt_of_getLsbD hc, hm, decide_true, Bool.not_false, Bool.and_self]⟩,
      isSome_of_ready (hi.ready l hc)⟩

/-- A change of lanes that keeps a property keeps the mask of the lanes that have it. -/
theorem mask_updLanes (W : Warp) (m : BitVec 32) {f : Nat → Lane → Lane} {p : Lane → Bool} (h : ∀ l L, p (f l L) = p L) :
    (W.updLanes m f).mask p = W.mask p := by
  have hp : ∀ x : Nat × Lane, p (if m.getLsbD x.1 then f x.1 x.2 else x.2) = p x.2 := fun x => by
    split_ifs
    · exact h _ _
    · rfl
  unfold Warp.mask Warp.updLanes tmap
  simp only [List.filter_map, List.map_map, Function.comp_def, hp]

theorem passBy_alive {s : State} (hw : (tget s.warps s.w).isSome) (h : Hdr) (m : BitVec 32) :
    ((s.passBy h m).warp s.w).alive = s.wp.alive := by
  unfold State.passBy State.goto
  rw [warp_updWarp_self s _ hw]
  exact mask_updLanes _ _ fun _ _ => rfl

/-- No register read sees lanes move. -/
theorem onlyLanes_reads {s p : State} (ho : State.OnlyLanes s p)
    (hf : ∀ l, ((p.warp s.w).lane l).file = (s.wp.lane l).file) (v : Nat) (x : Target) : p.reads v x = s.reads v x := by
  have hb : p.blocks = s.blocks := by rw [ho.rest]
  by_cases hv : v = s.w
  · subst hv
    exact reads_congr hb (by rw [ho.warp]; rfl) (by rw [ho.warp]; rfl) hf x
  · refine reads_congr hb ?_ ?_ (fun l => ?_) x <;> rw [ho.others v hv]

/-- Trap entry from a state in which lanes of the issuing warp have moved is trap entry from the state before they did. -/
theorem entered_of_passing {s p t : State} {cause : BitVec 8} {mask : BitVec 32} {tpc tpc' : Nat → DWord} {live : DWord}
    (ho : State.OnlyLanes s p) (ha : (p.warp s.w).alive = s.wp.alive)
    (hp : ∀ l, ((p.warp s.w).lane l).park = (s.wp.lane l).park) (hr : ∀ v x, p.reads v x = s.reads v x)
    (ht : ∀ l, tpc l = tpc' l) (e : Claims.Entered p t s.w cause mask tpc live) :
    Claims.Entered s t s.w cause mask tpc' live := by
  obtain ⟨h1, h2, h3, h4, h5, h6, h7, h8⟩ := e
  have hw : p.warp s.w = { s.wp with lanes := (p.warp s.w).lanes } := ho.warp
  have hvi : (p.vi (p.warp s.w).vi).trapvec = (s.vi s.wp.vi).trapvec := by rw [hw, ho.rest]; rfl
  have hcyc : p.cycle (p.warp s.w).core = s.cycle s.wp.core := by rw [hw, ho.rest]; rfl
  have hcur : (p.warp s.w).cur = s.wp.cur := by rw [hw]
  rw [hcur] at h4
  rw [ha, hvi, hcyc] at h5
  refine ⟨h1, h2, h3, h4, fun l hl => ?_, fun v x => (h6 v x).trans (hr v x), fun v hv => (h7 v hv).trans (ho.others v hv), ?_⟩
  · have := h5 l hl
    rw [hp, ht] at this
    exact this
  · rw [h8, ho.rest]

/-- A trap that is entered after lanes of the gang have passed by is entered from the state before the word; `pc` is the TPC
of its own lanes, and the lanes that passed by have the next word (R102, R333). -/
theorem trap_passing {s : State} {h : Hdr} {u : Uses} {m : BitVec 32} (a : s.Acts h u m) (hc : s.wp.cur = false)
    (cause : BitVec 8) (addr pc : DWord) :
    let t := (s.passBy h m).trapWarp s.w ⟨cause, addr, m, some pc⟩
    (t.warp s.w).taddr = addr ∧ Claims.Entered s t s.w cause m (fun l => if m.getLsbD l then pc
      else if s.cur.lanes.getLsbD l then afterWord h s.cur.pc else (s.wp.lane l).pc) allLive := by
  obtain ⟨ho, hl⟩ := passBy_spec a.toIssues h m
  have halive := passBy_alive a.warp h m
  generalize s.passBy h m = p at ho hl halive
  have hw : p.warp s.w = { s.wp with lanes := (p.warp s.w).lanes } := ho.warp
  have hq : (p.warp s.w).Quiet := by rw [hw]; exact ⟨a.quiet.longs, a.quiet.late⟩
  have ht := trapWarp_quiet hq (by rw [hw]; exact hc) ⟨cause, addr, m, some pc⟩
  generalize p.trapWarp s.w ⟨cause, addr, m, some pc⟩ = t at ht
  have hself : t.warp s.w = _ := ht ▸ warp_updWarp_self p _ ho.listed
  have hent := entered_of_trapEntry hself (fun v hv => ht ▸ warp_updWarp_ne p _ hv) (by rw [ht]; rfl) (by rw [ht]; rfl)
  refine ⟨by rw [hself]; rfl, entered_of_passing ho halive (fun l => ?_) (onlyLanes_reads ho fun l => ?_) (fun l => ?_) hent⟩
  · rw [hl]; split_ifs <;> rfl
  · rw [hl]; split_ifs <;> rfl
  · show (if m.getLsbD l = true then pc else ((p.warp s.w).lane l).pc) = _
    by_cases hm : m.getLsbD l = true
    · rw [if_pos hm, if_pos hm]
    rw [if_neg hm, if_neg hm, hl]
    by_cases hg : s.cur.lanes.getLsbD l = true
    · rw [if_pos ⟨hg, Bool.not_eq_true _ ▸ hm⟩, if_pos hg]
      rfl
    · rw [if_neg (fun e => hg e.1), if_neg hg]

end Sys2Proof.Machine

namespace Sys2Proof.Proofs

open Sys2Proof.Machine Sys2Proof.Claims

/-- A word of no effect completes (R72). -/
theorem finish_only {s : State} {h : Hdr} {u : Uses} {m : BitVec 32} (a : s.Acts h u m) (hu : s.Unheld h) :
    s.Completed (s.finish h) h [] 0 :=
  (finish_completed (xs := []) (f := 0) a.toIssues a.warp a.quiet a.alone hu (.refl s s.w) (fun _ => ⟨rfl, rfl⟩) rfl).1

theorem traps_passed : passedClause := by
  intro t s a hu
  exact ⟨fun _ => ⟨_, congrArg Host.Outcome.next (admit_eq a false (by simp) _), finish_only a hu⟩,
    fun _ => ⟨_, congrArg Host.Outcome.next (admit_eq a false (by simp) _), finish_only a hu⟩⟩

theorem exec_trap {s : State} {t : Imm} {m : BitVec 32} (hm : m ≠ 0) (a : s.Acts t.h {} m) : exec (.trap t) s =
    .next ((s.passBy t.h m).trapWarp s.w ⟨0x20, t.imm.setWidth 64, m, some (afterWord t.h s.cur.pc)⟩) :=
  congrArg Host.Outcome.next ((admit_eq a false (by simp) _).trans (if_neg (by simpa using hm)))

theorem exec_brk {s : State} {t : Imm} {m : BitVec 32} (hm : m ≠ 0) (a : s.Acts t.h {} m) : exec (.brk t) s =
    .next ((s.passBy t.h m).trapWarp s.w ⟨0x21, t.imm.setWidth 64, m, some s.cur.pc⟩) :=
  congrArg Host.Outcome.next ((admit_eq a false (by simp) _).trans (if_neg (by simpa using hm)))

/-- Settles O17: the lanes of the gang that do not act pass by, and then the trap is entered, with the next word as the TPC
for `trap` and the word itself for `brk`; with no lane acting both go on. -/
theorem trapWords : Obligations.TrapWords := by
  refine ⟨traps_passed, fun t s m hm a hc => ⟨fun _ => ⟨_, exec_trap hm a, ?_⟩, fun _ => ⟨_, exec_brk hm a, ?_⟩⟩⟩
  · obtain ⟨haddr, hent⟩ := trap_passing a hc 0x20 (t.imm.setWidth 64) (afterWord t.h s.cur.pc)
    refine ⟨haddr, ?_⟩
    convert hent using 2 with l
    by_cases hl : m.getLsbD l = true
    · simp [hl, a.inGang hl]
    · simp [hl]
  · obtain ⟨haddr, hent⟩ := trap_passing a hc 0x21 (t.imm.setWidth 64) s.cur.pc
    refine ⟨haddr, ?_⟩
    convert hent using 2 with l
    by_cases hl : m.getLsbD l = true <;> simp [hl, tpcAt]

end Sys2Proof.Proofs
end

section
/-! PROOFS. The end of threads by `exit`, `tret` and `halt.end` (R109, R121, R322, R367). -/

namespace Sys2Proof.Machine

/-! ### What the end of a thread leaves to the other threads -/

/-- The part of a warp that says how its threads stand: their lanes, the rejoin masks, and the ends that their tasks await. -/
def Warp.standing (W : Warp) : Table Lane × Table Word × List (Nat × Nat × DWord) := (W.lanes, W.m, W.ending)

theorem lane_of_standing {W V : Warp} (h : W.standing = V.standing) (l : Nat) : W.lane l = V.lane l :=
  congrArg (fun x : Table Lane × _ => tgetD x.1 l {}) h

theorem rejoin_of_standing {W V : Warp} (h : W.standing = V.standing) (k : Nat) : W.rejoin k = V.rejoin k :=
  congrArg (fun x : _ × Table Word × _ => tgetD x.2.1 k 0) h

theorem ending_of_standing {W V : Warp} (h : W.standing = V.standing) : W.ending = V.ending := congrArg (fun x => x.2.2) h

/-- From s to t every thread of every warp stands as it stood. -/
def State.KeepsThreads (s t : State) : Prop := ∀ w, (t.warp w).standing = (s.warp w).standing

theorem State.KeepsThreads.refl (s : State) : s.KeepsThreads s := fun _ => rfl

theorem State.KeepsThreads.trans {s t u : State} (h : s.KeepsThreads t) (k : t.KeepsThreads u) : s.KeepsThreads u :=
  fun w => (k w).trans (h w)

theorem State.KeepsThreads.ite {s t u : State} {c : Prop} [Decidable c] (h : s.KeepsThreads t) (k : s.KeepsThreads u) :
    s.KeepsThreads (if c then t else u) := by split_ifs; exacts [h, k]

theorem keepsThreads_of_warps {s t : State} (h : t.warps = s.warps) : s.KeepsThreads t := by
  intro w
  unfold State.warp
  rw [h]

theorem keepsThreads_foldl {α : Type} {f : State → α → State} (h : ∀ (s : State) x, s.KeepsThreads (f s x)) (xs : List α)
    (s : State) : s.KeepsThreads (xs.foldl f s) := by
  induction xs generalizing s with
  | nil => exact .refl s
  | cons x xs ih => exact (h s x).trans (ih _)

theorem keepsThreads_updWarp (s : State) (w : Nat) {f : Warp → Warp} (h : ∀ W, (f W).standing = W.standing) :
    s.KeepsThreads (s.updWarp w f) := by
  intro v
  rw [warp_updWarp]
  split_ifs with e
  · rw [e.1]; exact h _
  · rfl

/-! ### Futures whose references are dropped -/

theorem setPresence_keepsThreads (s : State) (ls : List Nat) : s.KeepsThreads (s.setPresence ls) := by
  intro w
  unfold State.setPresence State.warp tgetD
  simp only [tget_tmap]
  cases tget s.warps w <;> rfl

theorem copyLines_keepsThreads (s : State) (c : Copy) : s.KeepsThreads (s.copyLines c) := by
  unfold State.copyLines
  split
  · exact .refl s
  · exact setPresence_keepsThreads _ _

theorem cancelFault_keepsThreads (s : State) (vi token : Nat) : s.KeepsThreads (s.cancelFault vi token) :=
  keepsThreads_of_warps (cancelFault_warps s vi token)

theorem futRelease_keepsThreads (s : State) (f : Nat) : s.KeepsThreads (s.futRelease f) := keepsThreads_of_warps rfl

theorem copyStop_keepsThreads (s : State) (id : Nat) : s.KeepsThreads (s.copyStop id) := by
  unfold State.copyStop
  split
  · exact .refl s
  · next c _ =>
    have hl := copyLines_keepsThreads { s with copies := tdel s.copies id } c
    have h : s.KeepsThreads (if c.cut then { s with copies := tdel s.copies id }
        else match c.bar with
          | some n => (State.copyLines { s with copies := tdel s.copies id } c).barLand n c.vi (c.total - c.landedBytes) c.waits
          | none => State.copyLines { s with copies := tdel s.copies id } c) := by
      refine .ite (.refl s) ?_
      split
      · exact State.KeepsThreads.trans (s := s) hl (keepsThreads_of_warps (barLand_warps ..))
      · exact hl
    exact (h.trans (keepsThreads_foldl (fun s _ => cancelFault_keepsThreads s _ _) _ _)).trans
      (.ite (futRelease_keepsThreads _ _) (.refl _))

theorem raise_keepsThreads (s : State) (w : Nat) (f : Flags) : s.KeepsThreads (s.raise w f) :=
  .ite (.refl s) (keepsThreads_updWarp s w fun _ => rfl)

theorem matrixStop_keepsThreads (s : State) (word : Nat) : s.KeepsThreads (s.matrixStop word) := by
  unfold State.matrixStop
  split
  · exact .refl s
  · split
    · dsimp only
      refine .trans ?_ (futRelease_keepsThreads _ _)
      refine .trans ?_ (keepsThreads_foldl (fun s _ => cancelFault_keepsThreads s _ _) _ _)
      refine .trans ?_ (raise_keepsThreads _ _ _)
      exact keepsThreads_of_warps rfl
    · exact .refl s

theorem futDoom_keepsThreads (s : State) (f : Nat) : s.KeepsThreads (s.futDoom f) := by
  have hc : ∀ {t : State} (id : Nat), t.warps = s.warps → s.KeepsThreads (t.copyStop id) := fun id h =>
    (keepsThreads_of_warps h).trans (copyStop_keepsThreads _ id)
  have hm : ∀ {t : State} (id : Nat), t.warps = s.warps → s.KeepsThreads (t.matrixStop id) := fun id h =>
    (keepsThreads_of_warps h).trans (matrixStop_keepsThreads _ id)
  unfold State.futDoom
  dsimp only
  split
  case h_1 => exact futRelease_keepsThreads s f
  case h_4 => exact .refl s
  all_goals
    split
    · exact keepsThreads_of_warps rfl
    · exact .ite (hc _ rfl) (keepsThreads_of_warps rfl)
    · exact .ite (hm _ rfl) (keepsThreads_of_warps rfl)

theorem futDrop_keepsThreads (s : State) (f : Nat) : s.KeepsThreads (s.futDrop f) := by
  have hu : s.KeepsThreads (s.updFut f (fun r => { r with count := r.count - 1 })) := keepsThreads_of_warps rfl
  exact .ite (hu.trans (futDoom_keepsThreads _ _)) hu

theorem dropAll_keepsThreads (s : State) (w l : Nat) : s.KeepsThreads (s.dropAll w l) := by
  unfold State.dropAll
  refine .trans ?_ (keepsThreads_foldl futDrop_keepsThreads _ _)
  exact keepsThreads_updWarp s w fun _ => rfl

/-! ### Warps, blocks and cores looked at -/

theorem updCore_keepsThreads (s : State) (c : Nat) (f : Core → Core) : s.KeepsThreads (s.updCore c f) :=
  keepsThreads_of_warps rfl

theorem freeSpill_keepsThreads (s : State) (die owner : Nat) : s.KeepsThreads (s.freeSpill die owner) :=
  keepsThreads_of_warps rfl

theorem unbind_keepsThreads (s : State) (c : Nat) : s.KeepsThreads (s.unbind c) := keepsThreads_of_warps rfl

theorem leaveSlice_keepsThreads (s : State) (w l sf : Nat) : s.KeepsThreads (s.leaveSlice w l sf) := by
  unfold State.leaveSlice
  dsimp only
  split
  · exact .refl s
  · refine .ite ?_ (keepsThreads_updWarp s w fun _ => rfl)
    refine .trans ?_ (updCore_keepsThreads _ _ _)
    refine .trans ?_ (keepsThreads_updWarp _ w fun _ => rfl)
    exact .ite (freeSpill_keepsThreads s _ _) (.refl s)

theorem freeLaunch_keepsThreads (s : State) (w : Nat) : s.KeepsThreads (s.freeLaunch w) := by
  unfold State.freeLaunch
  refine .trans ?_ (updCore_keepsThreads _ _ _)
  refine .trans ?_ (keepsThreads_updWarp _ w fun _ => rfl)
  exact keepsThreads_foldl (fun s _ => .ite (freeSpill_keepsThreads s _ _) (.refl s)) _ s

theorem warpCheck_keepsThreads (s : State) (w : Nat) : s.KeepsThreads (s.warpCheck w) := by
  unfold State.warpCheck
  refine .ite (.refl s) ?_
  have h : s.KeepsThreads (State.updWarp ((s.warp w).c.foldl (fun s x => s.unbind x.2) s) w (fun W => { W with c := [] })) := by
    refine .trans ?_ (keepsThreads_updWarp _ w fun _ => rfl)
    exact keepsThreads_foldl (fun s _ => unbind_keepsThreads s _) _ s
  refine .ite ?_ h
  refine .trans ?_ (keepsThreads_of_warps (updBlock_warps _ _ _))
  refine .trans ?_ (keepsThreads_updWarp _ w fun _ => rfl)
  refine .trans ?_ (updCore_keepsThreads _ _ _)
  exact (h.trans (freeLaunch_keepsThreads _ w)).trans (freeSpill_keepsThreads _ _ _)

theorem blockCheck_keepsThreads (s : State) (b : Nat) : s.KeepsThreads (s.blockCheck b) := by
  have thaw : ∀ (t : State) (w die : Nat),
      t.KeepsThreads ((t.updWarp w (fun W => { W with freeze := 0 })).freeSpill die w) := fun t w _ =>
    (keepsThreads_updWarp t w (f := fun W => { W with freeze := 0 }) fun _ => rfl).trans (freeSpill_keepsThreads _ _ _)
  unfold State.blockCheck
  refine .ite (.refl s) ?_
  dsimp only
  refine .trans ?_ (keepsThreads_of_warps (clusterCheck_warps _ _))
  refine .trans ?_ (keepsThreads_of_warps (freeMatrix_warps _ _))
  refine .trans ?_ (keepsThreads_of_warps (returnBuffers_warps _ _))
  refine .trans ?_ (keepsThreads_foldl (fun s w => thaw s w _) _ _)
  refine .trans ?_ (.ite (.refl _) (updCore_keepsThreads _ _ _))
  exact .trans (keepsThreads_of_warps (updBlock_warps _ _ _)) (.ite (.refl _) (keepsThreads_foldl freeLaunch_keepsThreads _ _))

theorem checkSaved_keepsThreads (s : State) (core : Nat) : s.KeepsThreads (s.checkSaved core) :=
  .ite (updCore_keepsThreads s _ _) (.refl s)

/-! ### Threads that end -/

/-- From s to t, threads of warp w have ended in lanes of `p` at most: no other lane and no other warp's threads have changed,
no rejoin mask names a thread that it did not name, and no task's end has come or gone. -/
structure State.EndsOnly (s t : State) (w : Nat) (p : Nat → Prop) : Prop where
  others : ∀ v, v ≠ w → (t.warp v).standing = (s.warp v).standing
  lane : ∀ l, ¬ p l → (t.warp w).lane l = (s.warp w).lane l
  rejoin : ∀ k l, ((s.warp w).rejoin k).getLsbD l = false → ((t.warp w).rejoin k).getLsbD l = false
  ending : (t.warp w).ending = (s.warp w).ending

theorem State.KeepsThreads.endsOnly {s t : State} (h : s.KeepsThreads t) (w : Nat) (p : Nat → Prop) : s.EndsOnly t w p where
  others v _ := h v
  lane l _ := lane_of_standing (h w) l
  rejoin k l e := by rw [rejoin_of_standing (h w)]; exact e
  ending := ending_of_standing (h w)

theorem State.EndsOnly.trans {s t u : State} {w : Nat} {p q : Nat → Prop} (h : s.EndsOnly t w p) (k : t.EndsOnly u w q) :
    s.EndsOnly u w (fun l => p l ∨ q l) where
  others v hv := (k.others v hv).trans (h.others v hv)
  lane l hl := (k.lane l fun e => hl (.inr e)).trans (h.lane l fun e => hl (.inl e))
  rejoin i l e := k.rejoin i l (h.rejoin i l e)
  ending := k.ending.trans h.ending

theorem State.EndsOnly.mono {s t : State} {w : Nat} {p q : Nat → Prop} (h : s.EndsOnly t w p) (hpq : ∀ l, p l → q l) :
    s.EndsOnly t w q := { h with lane := fun l hl => h.lane l fun e => hl (hpq l e) }

theorem endLane_lane_ne (W : Warp) {l k : Nat} (h : k ≠ l) : (W.endLane l).lane k = W.lane k := by
  show (W.updLane l (fun L => { L with alive := false, park := .no, parkRec := .no, held := false })).lane k = _
  rw [lane_updLane, if_neg h]

/-- A thread that ends leaves every rejoin mask (R109), and no other thread does. -/
theorem endLane_rejoin (W : Warp) (l k j : Nat) (hl : l < 32) :
    ((W.endLane l).rejoin k).getLsbD j = if j = l then false else (W.rejoin k).getLsbD j := by
  show (tgetD (tmap W.m (fun _ x => setBit x l false)) k 0).getLsbD j = if j = l then false else (tgetD W.m k 0).getLsbD j
  unfold tgetD
  rw [tget_tmap]
  cases tget W.m k with
  | none => simp
  | some x => exact getLsbD_setBit x l j false hl

/-- A change of one warp that ends threads in lanes of `p` at most. -/
theorem endsOnly_updWarp (s : State) (w : Nat) {p : Nat → Prop} {f : Warp → Warp}
    (hl : ∀ W l, ¬ p l → (f W).lane l = W.lane l)
    (hr : ∀ W k l, (W.rejoin k).getLsbD l = false → ((f W).rejoin k).getLsbD l = false)
    (he : ∀ W, (f W).ending = W.ending) : s.EndsOnly (s.updWarp w f) w p := by
  refine ⟨fun v hv => by rw [warp_updWarp_ne s f hv], fun l hp => ?_, fun k l e => ?_, ?_⟩
  all_goals
    rw [warp_updWarp]
    split_ifs
  · exact hl _ l hp
  · rfl
  · exact hr _ k l e
  · exact e
  · exact he _
  · rfl

theorem endLane_endsOnly (s : State) (w l : Nat) (hl : l < 32) : s.EndsOnly (s.updWarp w (·.endLane l)) w (· = l) :=
  endsOnly_updWarp s w (fun W _ hk => endLane_lane_ne W hk)
    (fun W k j e => by rw [endLane_rejoin W l k j hl, e, ite_self]) fun _ => rfl

/-- The frames that an ended lane gives up are its own. -/
theorem reapLane_endsOnly (s : State) (w l : Nat) : s.EndsOnly (s.reapLane w l) w (· = l) := by
  unfold State.reapLane
  dsimp only
  split_ifs
  · exact (State.KeepsThreads.refl s).endsOnly w _
  · have h1 := keepsThreads_foldl (fun s (f : Frame) => leaveSlice_keepsThreads s w l f.sf)
      (((s.warp w).lane l).frames.take (((s.warp w).lane l).frames.length - 1)) s
    generalize List.foldl (fun s (f : Frame) => s.leaveSlice w l f.sf) s _ = t at h1
    have h2 := endsOnly_updWarp t w (p := (· = l))
      (f := fun W => W.updLane l (fun L => { L with frames := L.frames.drop (L.frames.length - 1) }))
      (fun W k hk => by rw [lane_updLane, if_neg hk]) (fun _ _ _ e => e) fun _ => rfl
    exact ((h1.endsOnly w (· = l)).trans h2).mono fun _ h => h.elim id id

theorem isSome_of_alive {s : State} {w l : Nat} (h : ((s.warp w).lane l).alive = true) : (tget s.warps w).isSome := by
  unfold State.warp tgetD at h
  cases e : tget s.warps w with
  | none => rw [e] at h; cases h
  | some W => rfl

/-- A thread that ends changes no other thread, and no rejoin mask names it any longer (R109). -/
theorem endThread_endsOnly (s : State) (w l : Nat) (hl : l < 32) : s.EndsOnly (s.endThread w l) w (· = l) ∧
    (((s.warp w).lane l).alive = true → ∀ k, (((s.endThread w l).warp w).rejoin k).getLsbD l = false) := by
  obtain ⟨t, ht, e⟩ := endThread_eq s w l
  rw [e]
  cases ha : ((s.warp w).lane l).alive with
  | false => exact ⟨(State.KeepsThreads.refl s).endsOnly w _, fun h => by cases h⟩
  | true =>
    have hk : (t.updWarp w (·.endLane l)).KeepsThreads
        ((((t.updWarp w (·.endLane l)).barLeave (threadNo w l)).dropAll w l).chanLeave (threadNo w l)) :=
      ((keepsThreads_of_warps (barLeave_warps _ _)).trans (dropAll_keepsThreads _ _ _)).trans
        (keepsThreads_of_warps (chanLeave_warps _ _))
    have hr := (hk.endsOnly w (· = l)).trans (reapLane_endsOnly _ w l)
    have hs := ((keepsThreads_of_warps ht).endsOnly w (· = l)).trans (endLane_endsOnly t w l hl)
    refine ⟨(hs.trans hr).mono fun k h => by tauto, fun _ k => hr.rejoin k l ?_⟩
    rw [warp_updWarp_self t _ (by rw [ht]; exact isSome_of_alive ha), endLane_rejoin _ _ _ _ hl, if_pos rfl]

/-- Lanes that end one by one. -/
theorem endThreadList_endsOnly (w : Nat) (ls : List Nat) (s : State) (hl : ∀ l ∈ ls, l < 32) :
    s.EndsOnly (ls.foldl (fun s l => s.endThread w l) s) w (· ∈ ls) ∧
      ∀ l ∈ ls, ((s.warp w).lane l).alive = true →
        ∀ k, (((ls.foldl (fun s l => s.endThread w l) s).warp w).rejoin k).getLsbD l = false := by
  induction ls generalizing s with
  | nil => exact ⟨(State.KeepsThreads.refl s).endsOnly w _, fun _ h => absurd h List.not_mem_nil⟩
  | cons a ls ih =>
    obtain ⟨h1, h2⟩ := endThread_endsOnly s w a (hl a List.mem_cons_self)
    obtain ⟨h3, h4⟩ := ih (s.endThread w a) fun l h => hl l (List.mem_cons_of_mem a h)
    refine ⟨(h1.trans h3).mono fun _ => List.mem_cons.mpr, fun l hm ha k => ?_⟩
    by_cases e : l = a
    · subst e
      exact h3.rejoin k l (h2 ha k)
    · exact h4 l ((List.mem_cons.mp hm).resolve_left e) (by rw [h1.lane l e]; exact ha) k

/-- Threads of one warp end (R109): no other thread changes, and the rejoin masks name those that were alive no longer. -/
theorem endThreads_endsOnly (s : State) (w : Nat) (m : BitVec 32) :
    s.EndsOnly (s.endThreads w m) w (m.getLsbD · = true) ∧
      ∀ l, m.getLsbD l = true → ((s.warp w).lane l).alive = true →
        ∀ k, (((s.endThreads w m).warp w).rejoin k).getLsbD l = false := by
  obtain ⟨h1, h2⟩ := endThreadList_endsOnly w (lanesOf m) s fun _ h => BitVec.lt_of_getLsbD (mem_lanesOf.mp h)
  have h3 : State.KeepsThreads ((lanesOf m).foldl (fun s l => s.endThread w l) s) (s.endThreads w m) := by
    unfold State.endThreads
    dsimp only
    generalize (lanesOf m).foldl (fun s l => s.endThread w l) s = t
    have hw := warpCheck_keepsThreads t w
    generalize t.warpCheck w = u at hw ⊢
    have hb : u.KeepsThreads (if (u.warp w).wave then u else u.blockCheck (u.warp w).block) :=
      .ite (.refl u) (blockCheck_keepsThreads u _)
    generalize (if (u.warp w).wave then u else u.blockCheck (u.warp w).block) = v at hb ⊢
    exact (hw.trans hb).trans (.ite (.refl v) (checkSaved_keepsThreads v _))
  refine ⟨(h1.trans (h3.endsOnly w (fun _ => False))).mono fun l h => mem_lanesOf.mp (h.resolve_right id),
    fun l hl ha k => ?_⟩
  rw [rejoin_of_standing (h3 w)]
  exact h2 l (mem_lanesOf.mpr hl) ha k

/-! ### Words that end threads -/

/-- Outside protected mode no lanes are compared (R351). -/
theorem mismatch_unprotected {s : State} (h : s.prot = false) (m : BitVec 32) (f : Nat → List DWord) :
    s.mismatch m f = false := by
  unfold State.mismatch
  rw [h]
  rfl

/-- Outside a deterministic grid no digest is compared (R355). -/
theorem digestCheck_free {s : State} (h : s.determ = false) (m : BitVec 32) (k : State → State) :
    s.digestCheck m k = k s := by
  unfold State.digestCheck
  rw [h]
  rfl

/-- The gang of a word that nothing holds up goes on (R72): its lanes stand at the next word, and nothing else has changed. -/
theorem finish_spec {s : State} {h : Hdr} (hi : s.Issues) (hq : s.wp.Quiet) (hu : s.Unheld h) :
    State.OnlyLanes s (s.finish h) ∧ ∀ l, ((s.finish h).warp s.w).lane l =
      if s.cur.lanes.getLsbD l = true then (s.wp.lane l).standAt (afterWord h s.cur.pc) (s.cyc + 1) else s.wp.lane l := by
  obtain ⟨h1, h2⟩ := jump_spec hi.warp hq hu hi.ready (m := 0) (by simp) (fun _ => 0)
  exact ⟨h1, fun l => (h2 l).trans (if_neg (by simp))⟩

/-- The threads of a mask have been noted for the futures of their tasks (R322). -/
def State.noteEnds (s : State) (m : BitVec 32) (v : Nat → DWord) : State :=
  s.updWarp s.w (fun W => { W with ending := W.ending ++ Claims.endingOf s m v })

theorem finishThreads_eq {s : State} (hp : s.prot = false) (hd : s.determ = false) (h : Hdr) (m : BitVec 32)
    (v : Nat → DWord) : s.finishThreads h m v = ((s.noteEnds m v).finish h).endThreads s.w m := by
  unfold State.finishThreads
  rw [compare_agree (mismatch_unprotected hp m _), digestCheck_free hd]
  rfl

theorem noteEnds_wp {s : State} (hw : (tget s.warps s.w).isSome) (m : BitVec 32) (v : Nat → DWord) :
    (s.noteEnds m v).wp = { s.wp with ending := s.wp.ending ++ Claims.endingOf s m v } :=
  warp_updWarp_self s (fun W => { W with ending := W.ending ++ Claims.endingOf s m v }) hw

/-- Noted threads hold up no word that they did not hold up before. -/
theorem noteEnds_issues {s : State} (hi : s.Issues) (m : BitVec 32) (v : Nat → DWord) : (s.noteEnds m v).Issues where
  warp := (isSome_updWarp s s.w s.w _).trans hi.warp
  ready l hl := by rw [noteEnds_wp hi.warp]; exact hi.ready l hl

/-- When threads have been noted and their gang goes on, the warp's lanes stand as the word leaves them, and nothing else of
its threads has changed. -/
theorem noteEnds_finish {s : State} {h : Hdr} (hi : s.Issues) (hq : s.wp.Quiet) (hu : s.Unheld h) (m : BitVec 32)
    (v : Nat → DWord) :
    let t := (s.noteEnds m v).finish h
    (∀ w, w ≠ s.w → t.warp w = s.warp w) ∧ (t.warp s.w).ending = s.wp.ending ++ Claims.endingOf s m v ∧
      ∀ l, (t.warp s.w).lane l =
        if s.cur.lanes.getLsbD l = true then (s.wp.lane l).standAt (afterWord h s.cur.pc) (s.cyc + 1) else s.wp.lane l := by
  have hw := noteEnds_wp hi.warp m v
  have hcyc : (s.noteEnds m v).cyc = s.cyc := by
    unfold State.cyc
    rw [hw]
    rfl
  obtain ⟨ho, hl⟩ := finish_spec (s := s.noteEnds m v) (noteEnds_issues hi m v) (by rw [hw]; exact ⟨hq.longs, hq.late⟩)
    (by unfold State.Unheld; rw [hw]; exact hu)
  rw [hw, hcyc] at hl
  exact ⟨fun w hv => (ho.others w hv).trans (warp_updWarp_ne s _ hv),
    (congrArg Warp.ending ho.warp).trans (congrArg Warp.ending hw), hl⟩

end Sys2Proof.Machine

namespace Sys2Proof.Proofs

open Sys2Proof.Machine Sys2Proof.Claims

/-- The threads of unended lanes end, and the rest of their gang goes on (R109). -/
theorem finishThreads_ends {s : State} {h : Hdr} {m : BitVec 32} (hi : s.Issues) (hq : s.wp.Quiet) (hu : s.Unheld h)
    (hp : s.prot = false) (hd : s.determ = false) (ha : ∀ l, m.getLsbD l = true → (s.wp.lane l).alive = true)
    (v : Nat → DWord) : Ends s (s.finishThreads h m v) h m v := by
  rw [finishThreads_eq hp hd]
  obtain ⟨ho, hend, hl⟩ := noteEnds_finish hi hq hu m v
  generalize (s.noteEnds m v).finish h = t at ho hend hl
  obtain ⟨he, hclear⟩ := endThreads_endsOnly t s.w m
  have hlane : ∀ l, m.getLsbD l = false → ((t.endThreads s.w m).warp s.w).lane l = (t.warp s.w).lane l :=
    fun l hm => he.lane l (by simp [hm])
  have halive : ∀ l, ((t.warp s.w).lane l).alive = (s.wp.lane l).alive := fun l => by
    rw [hl]
    split_ifs <;> rfl
  refine ⟨(endThreads_ends t s.w m).2, fun k l hm => hclear l hm (by rw [halive]; exact ha l hm) k, fun l hm => ?_,
    fun l hc hm => ?_, fun w hw => ?_, he.ending.trans hend⟩
  · rw [hlane l hm, halive]
  · rw [hlane l hm, hl, if_pos hc]
    exact ⟨rfl, rfl⟩
  · rw [← ho w hw]
    exact congrArg Prod.fst (he.others w hw)

theorem alive_of_ready {L : Lane} (h : L.ready = true) : L.alive = true := by
  simp only [Lane.ready, Bool.and_eq_true] at h
  exact h.1.1

/-- The end of acting lanes depends on their values alone. -/
theorem endingOf_congr (s : State) {m : BitVec 32} {v v' : Nat → DWord} (h : ∀ l, m.getLsbD l = true → v l = v' l) :
    endingOf s m v = endingOf s m v' := by
  unfold endingOf
  refine List.filterMap_congr fun l hl => ?_
  rw [h l (mem_lanesOf.mp (List.mem_of_mem_filter hl))]

theorem ends_congr {s t : State} {h : Hdr} {m : BitVec 32} {v v' : Nat → DWord} (e : Ends s t h m v)
    (hv : ∀ l, m.getLsbD l = true → v l = v' l) : Ends s t h m v' :=
  { e with ending := endingOf_congr s hv ▸ e.ending }

theorem exec_tret {s : State} {t : Tri} {m : BitVec 32} (a : s.Acts t.h ⟨[(t.a.toNat, 2)], [], false⟩ m)
    (hc : CleanData s m t.a.toNat 2) : exec (.tret t) s =
      .next (s.finishThreads t.h m (valOf ((lanesOf m).map (fun l => (l, (vecSrc s l 2 t.a.toNat).1))))) := by
  refine congrArg Host.Outcome.next ((admitEngine_eq a _).trans ?_)
  rw [laneVals_clean a.quiet (by omega) hc, emptyCells_alone a.alone]
  rfl

theorem exec_haltEnd {s : State} {t : Tri} {m : BitVec 32} (a : s.Acts t.h {} m) (hc : s.wp.cur = true) :
    exec (.haltEnd t) s =
      .next (s.finishThreads t.h ((s.reads s.w (.uni t.a.toNat)).val &&& s.wp.alive) (fun _ => 0)) := by
  refine congrArg Host.Outcome.next ((admit_eq a true (fun _ => hc) _).trans ?_)
  rw [readS_quiet (w := s.w) a.quiet]
  rfl

/-- Settles O21: each of the words comes to the end of the threads of a mask of unended lanes: the acting ones, which stand
ready, or those of the mask that `halt.end` names. -/
theorem endWords : Obligations.EndWords := by
  intro t s m hu hp hd
  refine ⟨fun _ a => ⟨_, congrArg Host.Outcome.next (admit_eq a false (by simp) _), ?_⟩,
    fun _ a hc => ⟨_, exec_tret a hc, ?_⟩, fun _ a hc halive => ⟨_, exec_haltEnd a hc, ?_⟩⟩
  · exact finishThreads_ends a.toIssues a.quiet hu hp hd (fun l hl => alive_of_ready (a.ready l (a.inGang hl))) _
  · refine ends_congr (finishThreads_ends a.toIssues a.quiet hu hp hd
      (fun l hl => alive_of_ready (a.ready l (a.inGang hl))) _) fun l hl => ?_
    exact valOf_map (mem_lanesOf.mpr hl) fun l => (vecSrc s l 2 t.a.toNat).1
  · refine finishThreads_ends a.toIssues a.quiet hu hp hd (fun l hl => halive l ?_) _
    rw [BitVec.getLsbD_and, Bool.and_eq_true] at hl
    exact hl.2

end Sys2Proof.Proofs
end

section
/-! PROOFS. Parked lanes: which lanes a property holds of, how lanes park and go on, and the sweep of doomed tasks (R117, R257,
R342). -/

namespace Sys2Proof.Machine

/-! ### The lanes that have a property -/

/-- A lane is in the mask of a property when the warp lists it with the property. -/
theorem mem_mask {W : Warp} {p : Lane → Bool} {l : Nat} :
    (W.mask p).getLsbD l = true ↔ l < 32 ∧ ∃ L, (l, L) ∈ W.lanes ∧ p L = true := by
  unfold Warp.mask
  rw [getLsbD_maskOf]
  simp only [Bool.and_eq_true, decide_eq_true_eq, List.contains_iff_mem, List.mem_map, List.mem_filter]
  refine and_congr_right fun _ => ⟨?_, fun ⟨L, hL⟩ => ⟨(l, L), hL, rfl⟩⟩
  rintro ⟨⟨k, L⟩, hL, rfl⟩
  exact ⟨L, hL⟩

/-- An entry set to a value that has a property just when the old entry has it: the numbers listed with the property stay. -/
theorem exists_mem_tset {α : Type} {t : Table α} {i : Nat} {a : α} {p : α → Bool} (h : p a = (tget t i).any p) (j : Nat) :
    (∃ b, (j, b) ∈ tset t i a ∧ p b = true) ↔ ∃ b, (j, b) ∈ t ∧ p b = true := by
  induction t with
  | nil =>
    have : p a = false := h
    simp only [tset, List.mem_singleton, Prod.mk.injEq, List.not_mem_nil, false_and, exists_false, iff_false]
    rintro ⟨b, ⟨-, rfl⟩, hb⟩
    simp [this] at hb
  | cons q t ih =>
    obtain ⟨k, v⟩ := q
    unfold tset
    split_ifs with h1 h2
    · subst h1
      have hv : p a = p v := by simpa [tget] using h
      simp only [List.mem_cons, Prod.mk.injEq, or_and_right, exists_or]
      refine or_congr ⟨?_, ?_⟩ Iff.rfl
      · rintro ⟨b, ⟨rfl, rfl⟩, hb⟩; exact ⟨v, ⟨rfl, rfl⟩, hv ▸ hb⟩
      · rintro ⟨b, ⟨rfl, rfl⟩, hb⟩; exact ⟨a, ⟨rfl, rfl⟩, hv ▸ hb⟩
    · refine ⟨fun ⟨b, hb, hp⟩ => ?_, fun ⟨b, hb, hp⟩ => ⟨b, List.mem_cons_of_mem _ hb, hp⟩⟩
      rcases List.mem_cons.mp hb with e | hb
      · obtain ⟨rfl, rfl⟩ := Prod.mk.inj e
        rw [h] at hp
        obtain ⟨c, hc, hp⟩ := (Option.any_eq_true _ _).mp hp
        exact ⟨c, mem_of_tget hc, hp⟩
      · exact ⟨b, hb, hp⟩
    · have h' : p a = (tget t i).any p := by simpa [tget, h1] using h
      simp only [List.mem_cons, or_and_right, exists_or, ih h']

/-- A lane changed in what a property does not look at: the lanes that have the property stay. -/
theorem mask_updLane (W : Warp) (l : Nat) {f : Lane → Lane} {p : Lane → Bool} (h : ∀ L, p (f L) = p L)
    (h0 : p {} = false) : (W.updLane l f).mask p = W.mask p := by
  apply BitVec.eq_of_getLsbD_eq
  intro k _
  rw [Bool.eq_iff_iff, mem_mask, mem_mask]
  refine and_congr_right fun _ => exists_mem_tset ?_ k
  rw [h]
  unfold tgetD
  cases tget W.lanes l with
  | none => exact h0
  | some L => rfl

/-! ### Lanes of one warp -/

/-- From s to t, nothing but lanes of warp w has changed. -/
structure State.LanesOf (s t : State) (w : Nat) : Prop where
  rest : t = { s with warps := t.warps }
  others : ∀ v, v ≠ w → t.warp v = s.warp v
  warp : t.warp w = { s.warp w with lanes := (t.warp w).lanes }
  listed : (tget t.warps w).isSome = (tget s.warps w).isSome

theorem State.LanesOf.refl (s : State) (w : Nat) : s.LanesOf s w := ⟨rfl, fun _ _ => rfl, rfl, rfl⟩

theorem State.LanesOf.trans {s t u : State} {w : Nat} (h : s.LanesOf t w) (k : t.LanesOf u w) : s.LanesOf u w where
  rest := by rw [k.rest, h.rest]
  others v hv := (k.others v hv).trans (h.others v hv)
  warp := by rw [k.warp, h.warp]
  listed := k.listed.trans h.listed

/-- A warp changed in two ways that agree on the warp as it stands. -/
theorem updWarp_congr {s : State} {w : Nat} {f g : Warp → Warp} (h : f (s.warp w) = g (s.warp w)) :
    s.updWarp w f = s.updWarp w g := by
  unfold State.updWarp tupd
  unfold State.warp tgetD at h
  cases e : tget s.warps w with
  | none => rfl
  | some W =>
    rw [e] at h
    simp only [Option.getD_some] at h
    simp only [h]

theorem lanesOf_updLane (s : State) (w l : Nat) (f : Lane → Lane) : s.LanesOf (s.updWarp w (·.updLane l f)) w where
  rest := rfl
  others v hv := warp_updWarp_ne s _ hv
  warp := by rw [warp_updWarp]; split_ifs <;> rfl
  listed := isSome_updWarp _ _ _ _

theorem State.LanesOf.core {s t : State} {w : Nat} (h : s.LanesOf t w) : (t.warp w).core = (s.warp w).core := by
  rw [h.warp]

theorem State.LanesOf.priv {s t : State} {w : Nat} (h : s.LanesOf t w) : (t.warp w).cur = (s.warp w).cur := by
  rw [h.warp]

theorem State.LanesOf.cycle {s t : State} {w : Nat} (h : s.LanesOf t w) (c : Nat) : t.cycle c = s.cycle c := by
  rw [h.rest]; rfl

theorem State.LanesOf.requested {s t : State} {w : Nat} (h : s.LanesOf t w) (c : Nat) :
    t.requested c = s.requested c := by
  rw [h.rest]; rfl

theorem State.LanesOf.mem {s t : State} {w : Nat} (h : s.LanesOf t w) : t.mem = s.mem := by rw [h.rest]

/-- Lanes that keep their register files: every register reads as before. -/
theorem State.LanesOf.reads {s t : State} {w : Nat} (h : s.LanesOf t w)
    (hf : ∀ l, ((t.warp w).lane l).file = ((s.warp w).lane l).file) (v : Nat) (x : Target) : t.reads v x = s.reads v x := by
  have hb : t.blocks = s.blocks := by rw [h.rest]
  by_cases hv : v = w
  · subst hv
    exact reads_congr hb (by rw [h.warp]) (by rw [h.warp]) hf x
  · exact reads_congr hb (by rw [h.others v hv]) (by rw [h.others v hv]) (fun l => by rw [h.others v hv]) x

/-- Some lanes of a warp changed one after the other, each as the state says that the lanes of the warp change now. -/
theorem eachLane_spec {s : State} {w : Nat} {f : State → Lane → Lane} (hf : ∀ {s t : State}, s.LanesOf t w → f t = f s)
    (hw : (tget s.warps w).isSome) {ls : List Nat} (hn : ls.Nodup) :
    let t := ls.foldl (fun s l => s.updWarp w (·.updLane l (f s))) s
    s.LanesOf t w ∧ ∀ l, (t.warp w).lane l = if l ∈ ls then f s ((s.warp w).lane l) else (s.warp w).lane l := by
  induction ls generalizing s with
  | nil => exact ⟨.refl s w, fun l => by simp⟩
  | cons a ls ih =>
    rw [List.nodup_cons] at hn
    have h := lanesOf_updLane s w a (f s)
    obtain ⟨h1, h2⟩ := ih (s := s.updWarp w (·.updLane a (f s))) (h.listed.trans hw) hn.2
    refine ⟨h.trans h1, fun l => (h2 l).trans ?_⟩
    rw [hf h, warp_updWarp_self s _ hw, lane_updLane]
    by_cases hl : l = a
    · subst hl; simp [hn.1]
    · simp [hl]

/-- The lanes that have a property when some lanes of a warp have changed one after the other in what it does not look at. -/
theorem eachLane_mask {s : State} {w : Nat} {f : State → Lane → Lane} {p : Lane → Bool} (hp : ∀ s L, p (f s L) = p L)
    (h0 : p {} = false) (ls : List Nat) :
    ((ls.foldl (fun s l => s.updWarp w (·.updLane l (f s))) s).warp w).mask p = (s.warp w).mask p := by
  induction ls generalizing s with
  | nil => rfl
  | cons a ls ih =>
    rw [List.foldl_cons, ih, warp_updWarp]
    split_ifs
    · exact mask_updLane _ _ (hp s) h0
    · rfl

/-! ### Lanes go on -/

/-- A parked lane when it goes on from a cycle (R117), held when its word is a safe point and pre-emption is requested
(R342). -/
def Lane.goOn (L : Lane) (since : Nat) (hold : Bool) : Lane :=
  { L with park := .no, pc := L.next, since := since, held := hold && L.heldMask.getLsbD 0 }

/-- How a parked lane of a warp goes on now. -/
def State.goOnOf (s : State) (w : Nat) (L : Lane) : Lane :=
  L.goOn (s.cycle (s.warp w).core + 1) (s.requested (s.warp w).core && !(s.warp w).cur)

theorem wake_eq (s : State) (w l : Nat) : s.wake w l = s.updWarp w (·.updLane l (s.goOnOf w)) := rfl

theorem goOnOf_congr {s t : State} {w : Nat} (h : s.LanesOf t w) : t.goOnOf w = s.goOnOf w := by
  funext L
  unfold State.goOnOf
  rw [h.core, h.priv, h.cycle, h.requested]

/-- Some lanes go on: no other lane changes, and nothing but lanes of the warp does (R117). -/
theorem wakes_spec {s : State} {w : Nat} (hw : (tget s.warps w).isSome) {ls : List Nat} (hn : ls.Nodup) :
    let t := ls.foldl (fun s l => s.wake w l) s
    s.LanesOf t w ∧ ∀ l, (t.warp w).lane l = if l ∈ ls then s.goOnOf w ((s.warp w).lane l) else (s.warp w).lane l :=
  eachLane_spec goOnOf_congr hw hn

/-- Lanes that go on keep their register files. -/
theorem wakes_reads {s : State} {w : Nat} (hw : (tget s.warps w).isSome) {ls : List Nat} (hn : ls.Nodup) (v : Nat)
    (x : Target) : (ls.foldl (fun s l => s.wake w l) s).reads v x = s.reads v x := by
  obtain ⟨h1, h2⟩ := wakes_spec hw hn
  refine h1.reads (fun l => ?_) v x
  rw [h2]
  split_ifs <;> rfl

/-- A lane that has gone on is woken (R117, R342). -/
theorem woken_of_goOn {s t : State} {w l : Nat} (h : (t.warp w).lane l = s.goOnOf w ((s.warp w).lane l)) :
    Claims.Woken s t w l := by
  unfold Claims.Woken
  rw [h]
  exact ⟨rfl, rfl, rfl, rfl⟩

/-- Where no parked lane has a notice, nothing is swept (R257). -/
theorem sweep_unnoticed {s : State} {w : Nat} (h : Claims.NoNotice s w) : s.sweep w = s := by
  have hnil : (s.warp w).lanes.filter (fun x => x.2.alive && x.2.park.on && s.laneDoomed x.2) = [] := by
    refine List.filter_eq_nil_iff.mpr fun x hx e => ?_
    simp only [Bool.and_eq_true] at e
    obtain ⟨⟨halive, hon⟩, hdoom⟩ := e
    have hp : x.2.park ≠ .no := fun e => by rw [e] at hon; cases hon
    rw [h x hx halive hp] at hdoom
    cases hdoom
  unfold State.sweep
  rw [hnil]
  rfl

/-! ### Lanes park -/

/-- A lane parked at a word (R117), with where it goes on and what it carries of a safe point. -/
def Lane.parkAt (L : Lane) (p : Park) (next tag : DWord) : Lane := { L with park := p, next := next, heldMask := tag }

theorem State.OnlyLanes.blocks {s t : State} (h : s.OnlyLanes t) : t.blocks = s.blocks := by rw [h.rest]

/-- Lanes that stand ready park at their word, and the rest of their gang goes on (R102, R117). -/
theorem parkLanes_finish {s : State} {h : Hdr} {m : BitVec 32} (hi : s.Issues) (hq : s.wp.Quiet) (hu : s.Unheld h)
    (hm : ∀ l, m.getLsbD l = true → s.cur.lanes.getLsbD l = true) {p : Nat → Park} (hp : ∀ l, (p l).on = true) :
    let t := (s.parkLanes m h p).finish h
    State.OnlyLanes s t ∧ ∀ l, (t.warp s.w).lane l =
      if m.getLsbD l = true then (s.wp.lane l).parkAt (p l) (afterWord h s.cur.pc) (safeTag h)
      else if s.cur.lanes.getLsbD l = true then (s.wp.lane l).standAt (afterWord h s.cur.pc) (s.cyc + 1)
      else s.wp.lane l := by
  intro t
  let f : Warp → Warp := (·.updLanes m (fun l L => L.parkAt (p l) (afterWord h s.cur.pc) (safeTag h)))
  have hpark : State.OnlyLanes s (s.parkLanes m h p) := onlyLanes_updWarp hi.warp (f := f) fun _ => rfl
  have hwp : (s.parkLanes m h p).wp = f s.wp := warp_updWarp_self s f hi.warp
  have hcyc : (s.parkLanes m h p).cyc = s.cyc := by unfold State.cyc; rw [hwp]; rfl
  have hlane : ∀ l, (f s.wp).lane l =
      if m.getLsbD l = true then (s.wp.lane l).parkAt (p l) (afterWord h s.cur.pc) (safeTag h) else s.wp.lane l :=
    fun l => (lane_updLanes _ _ _ l).trans
      (if_congr ⟨And.left, fun e => ⟨e, isSome_of_ready (hi.ready l (hm l e))⟩⟩ rfl rfl)
  have hmask : ∀ l, ((f s.wp).mask Lane.ready &&& s.cur.lanes).getLsbD l = true ↔
      s.cur.lanes.getLsbD l = true ∧ m.getLsbD l = false := by
    intro l
    rw [BitVec.getLsbD_and, Bool.and_eq_true, and_comm]
    refine and_congr_right fun hl => ?_
    by_cases hml : m.getLsbD l = true
    · simp only [hml, Bool.true_eq_false, iff_false, mem_mask, not_and, not_exists]
      rintro - L hL hr
      obtain ⟨⟨k, K⟩, -, e⟩ := List.mem_map.mp hL
      obtain ⟨rfl, rfl⟩ := Prod.mk.inj e
      simp [hml, Lane.ready, Lane.parkAt, hp] at hr
    · have hr : ((f s.wp).lane l).ready = true := by rw [hlane, if_neg hml]; exact hi.ready l hl
      simpa [hml] using getLsbD_mask (BitVec.lt_of_getLsbD hl) (isSome_of_ready hr) hr
  have hgo := goto_onlyLanes (hpark.w ▸ hpark.listed) ((f s.wp).mask Lane.ready &&& s.cur.lanes) (afterWord h s.cur.pc)
  have ht : t = (s.parkLanes m h p).goto ((f s.wp).mask Lane.ready &&& s.cur.lanes) (afterWord h s.cur.pc) := by
    show State.close (State.goto _ ((s.parkLanes m h p).wp.mask Lane.ready &&& s.cur.lanes) _) h = _
    rw [hwp]
    exact close_quiet ((hpark.trans hgo).quiet hq) ((hpark.trans hgo).unheld hu)
  refine ⟨ht ▸ hpark.trans hgo, fun l => ?_⟩
  rw [ht]
  refine (goto_lane (hpark.w ▸ hpark.listed) _ _ l).trans ?_
  rw [hwp, hcyc, hlane]
  by_cases hml : m.getLsbD l = true
  · rw [if_neg fun e => Bool.eq_false_iff.mp ((hmask l).mp e.1).2 hml, if_pos hml, if_pos hml]
  · rw [if_neg hml, if_neg hml]
    by_cases hl : s.cur.lanes.getLsbD l = true
    · have hr : ((f s.wp).lane l).ready = true := by rw [hlane, if_neg hml]; exact hi.ready l hl
      rw [if_pos ⟨(hmask l).mpr ⟨hl, by simpa using hml⟩, isSome_of_ready hr⟩, if_pos hl]
    · rw [if_neg fun e => hl ((hmask l).mp e.1).1, if_neg hl]

end Sys2Proof.Machine

namespace Sys2Proof.Proofs

open Sys2Proof.Machine Sys2Proof.Claims

/-! ### Joins and rejoin masks -/

/-- A rejoin mask reads as written, and the others as before (R142). -/
theorem rejoin_setRejoin (W : Warp) (k j : Nat) (v : Word) :
    (W.setRejoin k v).rejoin j = if j = k then v else W.rejoin j := by
  unfold Warp.setRejoin Warp.rejoin
  by_cases hv : v = 0
  · subst hv
    simp only [beq_self_eq_true, if_true, tgetD]
    by_cases hj : j = k
    · subst hj; simp
    · rw [if_neg hj, tget_tdel_ne _ hj]
  · have : (v == 0) = false := by simpa using hv
    simp only [this, Bool.false_eq_true, if_false, tgetD, tget_tset]
    split_ifs <;> rfl

/-- A word that sets a rejoin mask completes with that and nothing else (R143). -/
theorem setRejoin_finish {s : State} {h : Hdr} (hi : s.Issues) (hq : s.wp.Quiet) (hu : s.Unheld h) (k : Nat) (v : Word) :
    let u := (s.updWarp s.w (·.setRejoin k v)).finish h
    u = { s with warps := u.warps } ∧ Steps s u h [] ∧
      (∀ j, (u.warp s.w).rejoin j = if j = k then v else s.wp.rejoin j) ∧
      (u.warp s.w).rest = { s.wp.rest with m := (u.warp s.w).m } := by
  intro u
  have hwp : State.wp (s.updWarp s.w (·.setRejoin k v)) = s.wp.setRejoin k v := warp_updWarp_self s _ hi.warp
  have hcyc : State.cyc (s.updWarp s.w (·.setRejoin k v)) = s.cyc := by unfold State.cyc; rw [hwp]; rfl
  obtain ⟨ho, hl⟩ := finish_spec (s := s.updWarp s.w (·.setRejoin k v)) (h := h)
    ⟨(isSome_updWarp _ _ _ _).trans hi.warp, fun l hl => by rw [hwp]; exact hi.ready l hl⟩
    (by rw [hwp]; exact ⟨hq.longs, hq.late⟩) (by unfold State.Unheld; rw [hwp]; exact hu)
  rw [hwp, hcyc] at hl
  have hwarp : u.warp s.w = { s.wp.setRejoin k v with lanes := (u.warp s.w).lanes } := by rw [← hwp]; exact ho.warp
  have hlane : ∀ l, (u.warp s.w).lane l = if s.cur.lanes.getLsbD l = true then
      (s.wp.lane l).standAt (afterWord h s.cur.pc) (s.cyc + 1) else s.wp.lane l := hl
  refine ⟨ho.rest.trans rfl, ⟨fun v hv => ?_, fun x _ => ?_, by rw [hwarp]; rfl, fun l hc => ?_, fun l hc => ?_⟩,
    fun j => ?_, by rw [hwarp]; rfl⟩
  · exact (ho.others v hv).trans (warp_updWarp_ne s _ hv)
  · have hb : u.blocks = s.blocks := ho.blocks
    refine reads_congr hb (by rw [hwarp]; rfl) (by rw [hwarp]; rfl) (fun l => ?_) x
    rw [hlane]
    split_ifs <;> rfl
  · rw [hlane, if_pos hc]
    exact ⟨rfl, rfl, hi.ready l hc⟩
  · rw [hlane, if_neg (by simp [hc])]
    exact ⟨rfl, rfl⟩
  · rw [← rejoin_setRejoin, hwarp]
    rfl

/-- `join` parks the acting lanes, and the rest of the gang goes on (R120, R143). -/
theorem join_parks {s : State} {t : Tri} {m : BitVec 32} (a : s.Acts t.h {} m) (hu : s.Unheld t.h) (hd : Wanted s m) :
    ∃ u, exec (.join t) s = .next u ∧ u = { s with warps := u.warps } ∧ (∀ v, v ≠ s.w → u.warp v = s.warp v) ∧
      (∀ x, u.reads s.w x = s.reads s.w x) ∧
      (∀ l, m.getLsbD l = true → ParkedAt s u t.h l (.join s.cur.pc t.a.toNat)) ∧
      ∀ l, s.cur.lanes.getLsbD l = true → m.getLsbD l = false → ((u.warp s.w).lane l).pc = afterWord t.h s.cur.pc := by
  obtain ⟨ho, hl⟩ := parkLanes_finish a.toIssues a.quiet hu (fun l => a.inGang)
    (p := fun _ => .join s.cur.pc t.a.toNat) fun _ => rfl
  have hr : ∀ x, ((s.parkLanes m t.h fun _ => .join s.cur.pc t.a.toNat).finish t.h).reads s.w x = s.reads s.w x :=
    onlyLanes_reads ho (fun l => by rw [hl]; split_ifs <;> rfl) s.w
  refine ⟨_, congrArg Host.Outcome.next ((admit_eq a false (by simp) _).trans (reclaimFirst_undoomed hd _)), ho.rest,
    ho.others, hr, fun l hm => ?_, fun l hc hm => ?_⟩
  · unfold ParkedAt
    rw [hl, if_pos hm]
    exact ⟨rfl, rfl, rfl, fun r => hr _⟩
  · rw [hl, if_neg (by simp [hm]), if_pos hc]
    rfl

/-- `jleave` and the `jmask` forms set one rejoin mask, and their gang goes on (R142, R143). -/
theorem exec_rejoinWord {s : State} {t : Tri} {m : BitVec 32} (a : s.Acts t.h {} m) {i : Instr} {k : Nat} {v : Word}
    (h : (i = .jleave t ∧ k = t.a.toNat ∧ v = s.wp.rejoin k &&& ~~~m) ∨ (i = .jmaskGang t ∧ k = t.d.toNat ∧ m ≠ 0 ∧ v = m) ∨
      (i = .jmaskAdd t ∧ k = t.d.toNat ∧ v = s.wp.rejoin k ||| m) ∨
      (i = .jmaskU t ∧ k = t.d.toNat ∧ m ≠ 0 ∧ v = (s.reads s.w (.uni t.b.toNat)).val)) :
    exec i s = .next ((s.updWarp s.w (·.setRejoin k v)).finish t.h) := by
  have hset : ∀ g : Word → Word, s.updWarp s.w (fun W => W.setRejoin k (g (W.rejoin k))) =
      s.updWarp s.w (·.setRejoin k (g (s.wp.rejoin k))) := fun g => updWarp_congr rfl
  rcases h with ⟨rfl, rfl, rfl⟩ | ⟨rfl, rfl, hm, rfl⟩ | ⟨rfl, rfl, rfl⟩ | ⟨rfl, rfl, hm, rfl⟩
  · exact congrArg Host.Outcome.next ((admit_eq a false (by simp) _).trans (congrArg (State.finish · t.h) (hset (· &&& ~~~m))))
  · refine congrArg Host.Outcome.next ((admit_eq a false (by simp) _).trans (if_neg ?_))
    simpa using hm
  · exact congrArg Host.Outcome.next ((admit_eq a false (by simp) _).trans (congrArg (State.finish · t.h) (hset (· ||| m))))
  · refine congrArg Host.Outcome.next ((admit_eq a false (by simp) _).trans ((if_neg ?_).trans ?_))
    · simpa using hm
    · rw [readS_quiet (w := s.w) a.quiet]
      rfl

/-- A join opens when every thread that its mask names has ended or is parked (R120). -/
theorem joinOpen_iff (W : Warp) (k : Nat) : W.joinOpen k = true ↔
    ∀ l, l < 32 → (W.rejoin k).getLsbD l = true → (W.lane l).alive = false ∨ (W.lane l).park ≠ .no := by
  have hon : ∀ L : Lane, L.passes = true ↔ L.alive = false ∨ L.park ≠ .no := by
    intro L
    unfold Lane.passes
    cases L.park <;> simp [Park.on]
  unfold Warp.joinOpen
  simp only [List.all_eq_true, mem_lanesOf, hon]
  exact ⟨fun h l _ hl => h l hl, fun h l hl => h l (BitVec.lt_of_getLsbD hl) hl⟩

/-- JOIN_RELEASE at a lane that is parked at a join (R120): all that are parked there go on, or none. -/
theorem exec_joinRelease {w lane k : Nat} {word : DWord} {s : State} (hp : ((s.warp w).lane lane).park = .join word k)
    (hn : NoNotice s w) : exec (.joinRelease w lane) s = .next (if (s.warp w).joinOpen k then
      (lanesOf ((s.warp w).mask (fun L => L.park = .join word k))).foldl (fun s l => s.wake w l) s else s) := by
  show execJoinRelease w lane s = _
  unfold execJoinRelease
  simp only [sweep_unnoticed hn, hp]

theorem listed_of_park {s : State} {w l : Nat} (h : ((s.warp w).lane l).park ≠ .no) :
    (tget s.warps w).isSome ∧ (tget (s.warp w).lanes l).isSome := by
  constructor
  · unfold State.warp tgetD at h
    cases e : tget s.warps w with
    | none => rw [e] at h; exact absurd rfl h
    | some W => rfl
  · unfold Warp.lane tgetD at h
    cases e : tget (s.warp w).lanes l with
    | none => rw [e] at h; exact absurd rfl h
    | some L => rfl

/-- Settles O22: the words by what they do to the acting lanes and to the one mask; the event by whether the join is open. -/
theorem joinWords : Obligations.JoinWords := by
  refine ⟨fun t s m a hu => ⟨fun _ hd => join_parks a hu hd, fun i k v _ hi => ?_⟩, fun w lane k word s hp hn => ?_⟩
  · exact ⟨_, exec_rejoinWord a hi, setRejoin_finish a.toIssues a.quiet hu k v⟩
  · have hw := (listed_of_park (s := s) (w := w) (l := lane) (by rw [hp]; simp)).1
    refine ⟨_, exec_joinRelease hp hn, fun hopen => ?_, fun ⟨l, hl, hr, ha, hno⟩ => ?_⟩
    · rw [if_pos ((joinOpen_iff _ _).mpr hopen)]
      obtain ⟨h1, h2⟩ := wakes_spec hw (lanesOf_nodup ((s.warp w).mask (fun L => L.park = .join word k)))
      refine ⟨fun l hl hpark => woken_of_goOn ((h2 l).trans (if_pos (mem_lanesOf.mpr ?_))), wakes_reads hw (lanesOf_nodup _),
        h1.mem⟩
      exact getLsbD_mask hl (listed_of_park (by rw [hpark]; simp)).2 (by simpa using hpark)
    · rw [if_neg]
      intro hopen
      rcases (joinOpen_iff _ _).mp hopen l hl hr with e | e
      · rw [ha] at e; cases e
      · exact e hno

end Sys2Proof.Proofs
end

section
/-! PROOFS. Parked gangs: what leaves them parked as they are, and what wakes them (R117, R159). -/

namespace Sys2Proof.Machine

/-! ### Cells that are emptied -/

/-- From s to t, nothing but blocks and what lanes have accepted has changed. -/
structure State.OnlySyncs (s t : State) : Prop where
  rest : t = { s with warps := t.warps, blocks := t.blocks }
  warp : ∀ w, t.warp w = { s.warp w with syncs := (t.warp w).syncs }
  listed : ∀ w, (tget t.warps w).isSome = (tget s.warps w).isSome

theorem State.OnlySyncs.refl (s : State) : s.OnlySyncs s := ⟨rfl, fun _ => rfl, fun _ => rfl⟩

theorem State.OnlySyncs.trans {s t u : State} (h : s.OnlySyncs t) (k : t.OnlySyncs u) : s.OnlySyncs u where
  rest := by rw [k.rest, h.rest]
  warp w := by rw [k.warp, h.warp]
  listed w := (k.listed w).trans (h.listed w)

theorem accept_onlySyncs (s : State) (w : Nat) (ls : List Nat) (ws : Waits) : s.OnlySyncs (s.accept w ls ws) := by
  unfold State.accept
  split
  · exact .refl s
  · exact ⟨rfl, fun v => by rw [warp_updWarp]; split_ifs with e; exacts [e.1 ▸ rfl, rfl], fun v => isSome_updWarp _ _ _ _⟩

/-- Cells that lanes have read are emptied, and the lanes accept what filled them (R159, R198). -/
theorem emptyShared_onlySyncs (s : State) (w : Nat) (ls rs : List Nat) : s.OnlySyncs (s.emptyShared w ls rs) := by
  have hfold : ∀ (ls : List Nat) (ws : State → Nat → Waits) (s : State),
      s.OnlySyncs (ls.foldl (fun s l => s.accept w [l] (ws s l)) s) := by
    intro ls ws
    induction ls with
    | nil => exact State.OnlySyncs.refl
    | cons l ls ih => exact fun s => (accept_onlySyncs s w [l] _).trans (ih _)
  unfold State.emptyShared
  dsimp only
  split_ifs
  · exact .refl s
  · exact (hfold ls _ s).trans ⟨rfl, fun _ => rfl, fun _ => rfl⟩

/-! ### Gangs stay parked -/

/-- From s to t, every gang is parked as it was, and its lanes go on where they would have. -/
structure State.KeepsGangs (s t : State) : Prop where
  listed : ∀ w, (tget t.warps w).isSome = (tget s.warps w).isSome
  gangs : ∀ w, (t.warp w).gangs = (s.warp w).gangs
  parked : ∀ w id, (t.warp w).gangLanes id = (s.warp w).gangLanes id
  next : ∀ w l, ((t.warp w).lane l).next = ((s.warp w).lane l).next

theorem State.KeepsGangs.refl (s : State) : s.KeepsGangs s := ⟨fun _ => rfl, fun _ => rfl, fun _ _ => rfl, fun _ _ => rfl⟩

theorem State.KeepsGangs.trans {s t u : State} (h : s.KeepsGangs t) (k : t.KeepsGangs u) : s.KeepsGangs u where
  listed w := (k.listed w).trans (h.listed w)
  gangs w := (k.gangs w).trans (h.gangs w)
  parked w id := (k.parked w id).trans (h.parked w id)
  next w l := (k.next w l).trans (h.next w l)

theorem keepsGangs_foldl {α : Type} {f : State → α → State} (h : ∀ (s : State) x, s.KeepsGangs (f s x)) (xs : List α)
    (s : State) : s.KeepsGangs (xs.foldl f s) := by
  induction xs generalizing s with
  | nil => exact .refl s
  | cons x xs ih => exact (h s x).trans (ih _)

theorem keepsGangs_of_warps {s t : State} (h : t.warps = s.warps) : s.KeepsGangs t := by
  have e : ∀ w, t.warp w = s.warp w := fun w => by unfold State.warp; rw [h]
  exact ⟨fun w => by rw [h], fun w => by rw [e], fun w id => by rw [e], fun w l => by rw [e]⟩

/-- A warp changed in neither its lanes nor its gangs. -/
theorem keepsGangs_updWarp (s : State) (w : Nat) {f : Warp → Warp}
    (h : ∀ W, (f W).lanes = W.lanes ∧ (f W).gangs = W.gangs) : s.KeepsGangs (s.updWarp w f) := by
  have e : ∀ v, ((s.updWarp w f).warp v).lanes = (s.warp v).lanes ∧ ((s.updWarp w f).warp v).gangs = (s.warp v).gangs := by
    intro v
    rw [warp_updWarp]
    split_ifs with hv
    · rw [hv.1]; exact h _
    · exact ⟨rfl, rfl⟩
  refine ⟨fun v => isSome_updWarp _ _ _ _, fun v => (e v).2, fun v id => ?_, fun v l => ?_⟩
  · unfold Warp.gangLanes Warp.mask; rw [(e v).1]
  · unfold Warp.lane; rw [(e v).1]

/-- A lane changed in neither its park nor its next address. -/
theorem keepsGangs_updLane (s : State) (w l : Nat) {f : Lane → Lane} (hp : ∀ L, (f L).park = L.park)
    (hn : ∀ L, (f L).next = L.next) : s.KeepsGangs (s.updWarp w (·.updLane l f)) where
  listed v := isSome_updWarp _ _ _ _
  gangs v := by rw [warp_updWarp]; split_ifs with e; exacts [e.1 ▸ rfl, rfl]
  parked v id := by
    rw [warp_updWarp]
    split_ifs with e
    · rw [e.1]
      exact mask_updLane _ _ (fun L => by rw [hp]) (by simp)
    · rfl
  next v k := by
    rw [warp_updWarp]
    split_ifs with e
    · rw [e.1, lane_updLane]
      split_ifs with hk
      · rw [hn, hk]
      · rfl
    · rfl

theorem State.OnlySyncs.keepsGangs {s t : State} (h : s.OnlySyncs t) : s.KeepsGangs t where
  listed := h.listed
  gangs w := by rw [h.warp]
  parked w id := by rw [h.warp]; rfl
  next w l := by rw [h.warp]; rfl

/-! ### A gang is served -/

/-- A parked gang that has been served is gone, and its lanes go on at their next addresses; no other lane of the warp changes,
and outside warps and blocks nothing does. -/
theorem wakeGang_spec {s : State} {w : Nat} (hw : (tget s.warps w).isSome) (id : Nat) :
    let t := s.wakeGang w id
    t = { s with warps := t.warps, blocks := t.blocks } ∧ tget (t.warp w).gangs id = none ∧ ∀ l, (t.warp w).lane l =
      if ((s.warp w).gangLanes id).getLsbD l = true then s.goOnOf w ((s.warp w).lane l) else (s.warp w).lane l := by
  intro t
  have he := emptyShared_onlySyncs s w (lanesOf ((s.warp w).gangLanes id))
    (((tget (s.warp w).gangs id).map (·.reads)).getD [])
  obtain ⟨e, he'⟩ : ∃ e, e = s.emptyShared w (lanesOf ((s.warp w).gangLanes id))
    (((tget (s.warp w).gangs id).map (·.reads)).getD []) := ⟨_, rfl⟩
  rw [← he'] at he
  have hwe : (tget e.warps w).isSome := by rw [he.listed, hw]
  have hd := warp_updWarp_self e (fun W => { W with gangs := tdel W.gangs id }) hwe
  have ht : t = (lanesOf ((s.warp w).gangLanes id)).foldl (fun s l => s.wake w l)
      (e.updWarp w (fun W => { W with gangs := tdel W.gangs id })) := by rw [he']; rfl
  obtain ⟨h1, h2⟩ := wakes_spec (s := e.updWarp w (fun W => { W with gangs := tdel W.gangs id }))
    (by rw [isSome_updWarp]; exact hwe) (lanesOf_nodup ((s.warp w).gangLanes id))
  rw [← ht] at h1 h2
  have hgo : State.goOnOf (e.updWarp w (fun W => { W with gangs := tdel W.gangs id })) w = s.goOnOf w := by
    funext L
    unfold State.goOnOf
    rw [hd, he.warp, he.rest]
    rfl
  refine ⟨by rw [h1.rest]; rw [he.rest]; rfl, by rw [h1.warp, hd]; exact tget_tdel_self _ _, fun l => ?_⟩
  rw [h2, hgo, hd, he.warp]
  simp only [mem_lanesOf]
  rfl

/-- A parked gang that has been served goes on where its lanes would have before changes that kept it parked. -/
theorem wakeGang_of_keepsGangs {s t : State} {w : Nat} (h : s.KeepsGangs t) (hw : (tget s.warps w).isSome) (id : Nat) :
    tget ((t.wakeGang w id).warp w).gangs id = none ∧ ∀ l, ((s.warp w).gangLanes id).getLsbD l = true →
      (((t.wakeGang w id).warp w).lane l).park = .no ∧
      (((t.wakeGang w id).warp w).lane l).pc = ((s.warp w).lane l).next := by
  obtain ⟨-, h1, h2⟩ := wakeGang_spec (s := t) (w := w) (by rw [h.listed, hw]) id
  refine ⟨h1, fun l hl => ?_⟩
  rw [h2, h.parked, if_pos hl]
  exact ⟨rfl, h.next w l⟩

end Sys2Proof.Machine
end

section
/-! PROOFS. `spawn`: records are taken, tasks enter bins, and handles reach their lanes (R137, R244, R316). -/

namespace Sys2Proof.Machine

/-! ### Records and bins -/

/-- From s to t, future records have been taken and tasks have entered bins for a warp: nothing else has changed but the
references of warps. -/
structure State.Spawned (s t : State) : Prop where
  rest : t = { s with warps := t.warps, futs := t.futs, cores := t.cores, uid := t.uid }
  preq : ∀ c, (t.core c).preq = (s.core c).preq
  warp : ∀ w, t.warp w = { s.warp w with refs := (t.warp w).refs }
  lanes : s.KeepsGangs t

theorem State.Spawned.refl (s : State) : s.Spawned s := ⟨rfl, fun _ => rfl, fun _ => rfl, .refl s⟩

theorem State.Spawned.trans {s t u : State} (h : s.Spawned t) (k : t.Spawned u) : s.Spawned u where
  rest := by rw [k.rest, h.rest]
  preq c := (k.preq c).trans (h.preq c)
  warp w := by rw [k.warp, h.warp]
  lanes := h.lanes.trans k.lanes

/-- A record taken for a task, with its thread's reference. -/
def State.takeFor (s : State) (w l f : Nat) : State :=
  (s.futTake f .task (s.warp w).core).updWarp w (fun W => { W with refs := W.refs ++ [(f, false, maskOf [l])] })

/-- A warp changed in its references only. -/
theorem onlyRefs_updWarp (s : State) (w : Nat) {f : Warp → Warp} (h : ∀ W, f W = { W with refs := (f W).refs }) (v : Nat) :
    (s.updWarp w f).warp v = { s.warp v with refs := ((s.updWarp w f).warp v).refs } := by
  rw [warp_updWarp]
  split_ifs with e
  · rw [e.1]; exact h _
  · rfl

theorem takeFor_spawned (s : State) (w l f : Nat) : s.Spawned (s.takeFor w l f) where
  rest := rfl
  preq _ := rfl
  warp v := onlyRefs_updWarp (s.futTake f .task (s.warp w).core) w (fun _ => rfl) v
  lanes := (keepsGangs_of_warps (s := s) (t := s.futTake f .task (s.warp w).core) rfl).trans
    (keepsGangs_updWarp _ w fun _ => ⟨rfl, rfl⟩)

/-- A task that enters a bin is the last in it (R137); nothing but the bin changes. -/
theorem binPut_eq (s : State) (w bin : Nat) (entry : DWord) (t : TaskRec) : ∃ b : Bin, b.tasks.getLast? = some t ∧
    s.binPut w bin entry t = State.updCore { s with uid := s.uid + 1 } (s.warp w).core
      (fun c => { c with bins := tset c.bins bin b }) := by
  refine ⟨_, ?_, rfl⟩
  exact List.getLast?_concat

theorem binPut_spawned (s : State) (w bin : Nat) (entry : DWord) (t : TaskRec) : s.Spawned (s.binPut w bin entry t) := by
  obtain ⟨b, -, e⟩ := binPut_eq s w bin entry t
  rw [e]
  refine ⟨rfl, fun c => ?_, fun _ => rfl, keepsGangs_of_warps rfl⟩
  rw [core_updCore]
  split_ifs with e
  · rw [e]; rfl
  · rfl

/-- Records taken for tasks leave the order and the arguments of the tasks (R316). -/
theorem spawnTake_spec {s o : State} {w : Nat} {todo out : List (Nat × Nat × Word)} (h : s.spawnTake w todo = some (o, out)) :
    s.Spawned o ∧ out.map (·.1) = todo.map (·.1) := by
  induction todo generalizing s o out with
  | nil =>
    obtain ⟨rfl, rfl⟩ := Prod.mk.inj (Option.some.inj h)
    exact ⟨.refl s, rfl⟩
  | cons x rest ih =>
    obtain ⟨l, g, arg⟩ := x
    unfold State.spawnTake at h
    split at h
    · cases h
    · next f _ =>
      change (match (s.takeFor w l f).spawnTake w rest with | none => none | some (s, out) => _) = _ at h
      split at h
      · cases h
      · next t more ht =>
        obtain ⟨rfl, rfl⟩ := Prod.mk.inj (Option.some.inj h)
        obtain ⟨h1, h2⟩ := ih ht
        exact ⟨(takeFor_spawned s w l f).trans h1, by simp [h2]⟩

/-- Tasks that enter bins keep their order (R137): the handles are those of some of them. -/
theorem spawnPlace_spec {s o : State} {w : Nat} {entry : DWord} {todo rest : List (Nat × Nat × Word)}
    {done out : List (Nat × Word)} (h : s.spawnPlace w entry todo done = (o, rest, out)) :
    s.Spawned o ∧ (out.map (·.1)).Sublist (done.map (·.1) ++ todo.map (·.1)) := by
  induction todo generalizing s done with
  | nil =>
    obtain ⟨rfl, e⟩ := Prod.mk.inj h
    obtain ⟨rfl, rfl⟩ := Prod.mk.inj e
    exact ⟨.refl s, by simp⟩
  | cons x todo ih =>
    obtain ⟨l, f, arg⟩ := x
    have skip : (done.map (·.1) ++ todo.map (·.1)).Sublist (done.map (·.1) ++ ((l, f, arg) :: todo).map (·.1)) :=
      (List.Sublist.refl _).append (List.sublist_cons_self _ _)
    unfold State.spawnPlace at h
    split_ifs at h
    · obtain ⟨h1, h2⟩ := ih h
      exact ⟨h1, h2.trans skip⟩
    · split at h
      · obtain ⟨rfl, e⟩ := Prod.mk.inj h
        obtain ⟨rfl, rfl⟩ := Prod.mk.inj e
        exact ⟨.refl s, List.sublist_append_left _ _⟩
      · obtain ⟨h1, h2⟩ := ih h
        exact ⟨(binPut_spawned s w _ entry _).trans h1, by simpa using h2⟩

/-- What a `spawn` that may have to wait does (R316): it takes records and fills bins, and its handles are those of tasks that it
was to place. -/
theorem spawnTry_spec {s o : State} {w id : Nat} {entry : DWord} {todo rest : List (Nat × Nat × Word)}
    {done out : List (Nat × Word)} (h : s.spawnTry w id entry todo done = (o, rest, out)) :
    s.Spawned o ∧ (out.map (·.1)).Sublist (done.map (·.1) ++ todo.map (·.1)) := by
  have waits : (s, todo, done) = (o, rest, out) →
      s.Spawned o ∧ (out.map (·.1)).Sublist (done.map (·.1) ++ todo.map (·.1)) := fun h => by
    obtain ⟨rfl, e⟩ := Prod.mk.inj h
    obtain ⟨rfl, rfl⟩ := Prod.mk.inj e
    exact ⟨.refl s, List.sublist_append_left _ _⟩
  unfold State.spawnTry at h
  split_ifs at h
  · exact waits h
  · split at h
    · exact waits h
    · next t more ht =>
      obtain ⟨h1, h2⟩ := spawnTake_spec ht
      obtain ⟨h3, h4⟩ := spawnPlace_spec h
      exact ⟨h1.trans h3, h2 ▸ h4⟩
  · exact spawnPlace_spec h

/-- What a lane's releases carry depends on accesses, what lanes have accepted, copies and matrix words alone (R198). -/
theorem pendingOf_congr {s t : State} (hw : ∀ v, (t.warp v).accs = (s.warp v).accs ∧ (t.warp v).syncs = (s.warp v).syncs)
    (hc : t.copies = s.copies) (hm : t.mwords = s.mwords) (w l n : Nat) : t.pendingOf w l n = s.pendingOf w l n := by
  have hu : ∀ ws, t.undone ws = s.undone ws := fun ws => by simp only [State.undone, hw, hc, hm]
  simp only [State.pendingOf, hu, hw, hc, hm]

theorem takeFor_releases (s : State) (w l f v : Nat) (ls : List Nat) : (s.takeFor w l f).releases v ls = s.releases v ls := by
  have hw := (takeFor_spawned s w l f).warp
  unfold State.releases
  simp only [pendingOf_congr (s := s) (t := s.takeFor w l f) (fun v => by rw [hw v]; exact ⟨rfl, rfl⟩) rfl rfl]
  rfl

theorem fut_takeFor (s : State) (w l f : Nat) : (s.takeFor w l f).fut f =
    { s.fut f with st := .run, count := 1, value := 0, kind := .task, op := (s.warp w).core } :=
  fut_updFut_self s f (fun r => { r with st := .run, count := 1, value := 0, kind := .task, op := (s.warp w).core })

/-- A `spawn` of one lane, with a record free and a bin for the task (R137, R244, R316). -/
theorem spawnTry_one {s : State} {w id l f b : Nat} {entry : DWord} (arg : Word)
    (hahead : s.spawnAhead (s.warp w).core id = false) (hf : s.futFind (dieOf (s.warp w).core) = some f)
    (hb : s.binFor (s.warp w).core (s.warp w).grid entry = some b) (ha : ((s.warp w).lane l).alive = true) :
    s.spawnTry w id entry [(l, noFut, arg)] [] =
      ((s.takeFor w l f).binPut w b entry ⟨f, arg, s.releases w [l]⟩, [], [(l, futHandle f (s.fut f).gen)]) := by
  have ht : s.spawnTake w [(l, noFut, arg)] = some (s.takeFor w l f, [(l, f, arg)]) := by
    simp only [State.spawnTake, hf]
    rfl
  have hw := (takeFor_spawned s w l f).warp w
  have hbin : (s.takeFor w l f).binFor (s.warp w).core (s.warp w).grid entry = some b := hb
  have hgen : ((s.takeFor w l f).fut f).gen = (s.fut f).gen := by rw [fut_takeFor]
  have hp : (s.takeFor w l f).spawnPlace w entry [(l, f, arg)] [] =
      ((s.takeFor w l f).binPut w b entry ⟨f, arg, s.releases w [l]⟩, [], [(l, futHandle f (s.fut f).gen)]) := by
    have halive : (((s.takeFor w l f).warp w).lane l).alive = true := by rw [hw]; exact ha
    have hcore : ((s.takeFor w l f).warp w).core = (s.warp w).core := by rw [hw]
    have hgrid : ((s.takeFor w l f).warp w).grid = (s.warp w).grid := by rw [hw]
    simp only [State.spawnPlace, halive, hcore, hgrid, hbin, takeFor_releases, hgen, Bool.not_true, Bool.false_eq_true,
      if_false, List.nil_append]
  simp only [State.spawnTry, hahead, ht, hp, List.any_cons, beq_self_eq_true, Bool.true_or, Bool.false_eq_true, if_false,
    if_true]

/-! ### Handles reach their lanes -/

/-- The handles of tasks as results for their lanes. -/
def handleResults (dst : Nat) (done : List (Nat × Word)) : List (Target × Cell) :=
  done.map (fun x => (.vec x.1 dst, ⟨x.2, false⟩))

theorem refs_rest (W : Warp) : W.rest.refs = W.refs := rfl

theorem shadow_rest (L : Lane) : L.rest.shadow = L.shadow := rfl

/-- In a warp without shadows the handles are the results of the lanes that spawned (R316, R351). -/
theorem spawnWrite_plain {s : State} {w dst : Nat} (hw : (tget s.warps w).isSome) (hq : (s.warp w).Quiet)
    (ha : (s.block (s.warp w).block).shares = []) (hs : ∀ l, ((s.warp w).lane l).shadow = false)
    {done : List (Nat × Word)} (hx : ∀ x ∈ done, s.Writable w (.vec x.1 dst)) :
    s.spawnWrite w dst done = (handleResults dst done).foldl (fun s r => s.writeTarget w r.1 r.2) s := by
  induction done generalizing s with
  | nil => rfl
  | cons x done ih =>
    obtain ⟨h1, -⟩ := writeTarget_spec hw hq ha (hx x List.mem_cons_self) ⟨x.2, false⟩
    have h2 := writeTarget_samePlace hw hq ha (.vec x.1 dst) ⟨x.2, false⟩
    have hshadow : ∀ l, (((s.writeTarget w (.vec x.1 dst) ⟨x.2, false⟩).warp w).lane l).shadow = false := fun l => by
      rw [← shadow_rest, h1.lane, shadow_rest, hs]
    have e := ih h2.listed (h1.quiet hq) (h1.alone ha) hshadow
      fun y hy => h1.writable (hx y (List.mem_cons_of_mem _ hy))
    unfold State.spawnWrite at e ⊢
    rw [List.foldl_cons]
    dsimp only
    rw [if_neg (by rw [hshadow]; decide)]
    exact e

theorem nodup_handleTargets {dst : Nat} {done : List (Nat × Word)} (h : (done.map (·.1)).Nodup) :
    ((handleResults dst done).map (·.1)).Nodup := by
  have e : (handleResults dst done).map (·.1) = (done.map (·.1)).map (Target.vec · dst) := by
    simp [handleResults]
  rw [e]
  exact h.map fun a b hab => by simpa using hab

end Sys2Proof.Machine

namespace Sys2Proof.Proofs

open Sys2Proof.Machine Sys2Proof.Claims

/-- A record taken and tasks placed leave a word's hold on its gang as it was. -/
theorem spawned_acts {s o : State} (h : s.Spawned o) (hi : s.Issues) : o.w = s.w ∧ o.wp = { s.wp with refs := o.wp.refs } ∧
    o.cur = s.cur ∧ o.cyc = s.cyc ∧ o.Issues := by
  have hc : o.cur = s.cur := by rw [h.rest]
  have hw : o.w = s.w := congrArg Issue.warp hc
  have hwp : o.wp = { s.wp with refs := o.wp.refs } := by
    have e := h.warp o.w
    rw [hw] at e
    unfold State.wp
    rw [hc]
    exact e
  have hcyc : o.cyc = s.cyc := by
    unfold State.cyc
    rw [hwp, h.rest]
    rfl
  exact ⟨hw, hwp, hc, hcyc, (by rw [hw, h.lanes.listed]; exact hi.warp), fun l hl => by
    rw [hwp]; exact hi.ready l (hc ▸ hl)⟩

/-- The word completes once its tasks lie in bins: each of them has left its handle in its lane (R316). -/
theorem spawnWrite_finish {s o : State} {i : Imm} {m : BitVec 32} {done : List (Nat × Word)}
    (a : s.Acts i.h ⟨[(i.a.toNat, 1)], [(i.d.toNat, 1)], false⟩ m) (hu : s.Unheld i.h) (h : s.Spawned o)
    (hs : ∀ l, (s.wp.lane l).shadow = false) (hd : (done.map (·.1)).Sublist (lanesOf m)) :
    let u := (o.spawnWrite o.w i.d.toNat done).finish i.h
    o.Completed u i.h ((handleResults i.d.toNat done).map (·.1)) 0 ∧
      ∀ x ∈ done, u.reads s.w (.vec x.1 i.d.toNat) = ⟨x.2, false⟩ := by
  obtain ⟨hw, hwp, hc, -, hi⟩ := spawned_acts h a.toIssues
  have hq : o.wp.Quiet := by rw [hwp]; exact ⟨a.quiet.longs, a.quiet.late⟩
  have hb : ∀ b, o.block b = s.block b := fun b => by rw [h.rest]; rfl
  have ha : (o.block o.wp.block).shares = [] := by rw [hwp, hb]; exact a.alone
  have hx : ∀ x ∈ done, o.Writable o.w (.vec x.1 i.d.toNat) := fun x hx => by
    have hl : m.getLsbD x.1 = true := mem_lanesOf.mp (hd.subset (List.mem_map_of_mem hx))
    show i.d.toNat < 8 * (o.wp.lane x.1).top.g
    rw [hwp]
    exact a.fits_of_mem hl (r := (i.d.toNat, 1)) (by simp)
  have hr : ∀ r ∈ handleResults i.d.toNat done, o.Writable o.w r.1 := fun r hr => by
    obtain ⟨x, hxd, rfl⟩ := List.mem_map.mp hr
    exact hx x hxd
  have hun : o.Unheld i.h := by
    unfold State.Unheld State.requested
    rw [hwp, h.preq]
    exact hu
  rw [spawnWrite_plain hi.warp hq ha (fun l => by show (o.wp.lane l).shadow = false; rw [hwp]; exact hs l) hx]
  obtain ⟨h1, h2⟩ := writeTargets_spec hi.warp hq ha _ hr
  have h3 := writeTargets_samePlace hi.warp hq ha _ hr
  obtain ⟨h4, h5⟩ := finish_completed (f := 0) hi h3.listed hq ha hun h1 (fun l => ⟨h3.pc l, h3.since l⟩) h3.flags
  refine ⟨h4, fun x hxd => ?_⟩
  rw [← hw, h5, h2 (nodup_handleTargets (hd.nodup (lanesOf_nodup m))) (.vec x.1 i.d.toNat, ⟨x.2, false⟩)
    (List.mem_map.mpr ⟨x, hxd, rfl⟩)]
  rfl

/-- What holds of a `spawn` that neither traps nor has to wait for anything but bins and records (R137, R316). -/
structure SpawnActs (s : State) (i : Imm) (m : BitVec 32) : Prop where
  acts : s.Acts i.h ⟨[(i.a.toNat, 1)], [(i.d.toNat, 1)], false⟩ m
  some : m ≠ 0
  determ : s.determ = false
  visible : ∀ l, (s.wp.lane l).shadow = false
  clean : CleanData s m i.a.toNat 1
  lands : s.landing s.wp.vi s.wp.core (s.cur.pc + i.imm.signExtend 64 * 8) = .ok
  args : ∀ l, m.getLsbD l = true → (s.reads s.w (.vec l i.a.toNat)).val.toNat % 32 = 0 ∧
    ∃ k, s.locate s.w .dsp (s.reads s.w (.vec l i.a.toNat)).val 32 = .ok k
  room : s.wp.refs.length + (lanesOf m).length ≤ 4096

/-- The tasks of a `spawn`: one for each acting lane, with the address of its argument record (R316). -/
def tasksOf (s : State) (i : Imm) (m : BitVec 32) : List (Nat × Nat × Word) :=
  (lanesOf m).map (fun l => (l, noFut, (s.reads s.w (.vec l i.a.toNat)).val))

theorem vecSrc_one (s : State) (l r : Nat) : (vecSrc s l 1 r).1 = (s.reads s.w (.vec l r)).val.setWidth 64 := rfl

/-- The address of a task's argument record is the register's value (R316). -/
theorem arg_narrow (x : Word) : (x.setWidth 64).setWidth 32 = x := by simp

/-- A `spawn` whose tasks all enter bins writes their handles and completes (R137, R316). -/
theorem exec_spawn {s o : State} {i : Imm} {m : BitVec 32} {done : List (Nat × Word)} (a : SpawnActs s i m)
    (h : s.spawnTry s.w s.uid (s.cur.pc + i.imm.signExtend 64 * 8) (tasksOf s i m) [] = (o, [], done)) :
    exec (.spawn i) s = .next ((o.spawnWrite o.w i.d.toNat done).finish i.h) := by
  have hvals := laneVals_clean a.acts.quiet (by omega) a.clean 0
  have hvis : s.visible m = lanesOf m := List.filter_eq_self.mpr fun l _ => by simp [a.visible l]
  have hodd : ((lanesOf m).map (fun l => (l, (vecSrc s l 1 i.a.toNat).1))).filter (fun v => v.2.toNat % 32 != 0) = [] := by
    refine List.filter_eq_nil_iff.mpr fun v hv => ?_
    obtain ⟨l, hl, rfl⟩ := List.mem_map.mp hv
    have h32 := (a.args l (mem_lanesOf.mp hl)).1
    simp only [vecSrc_one, BitVec.toNat_setWidth_of_le (show 32 ≤ 64 by omega), h32, bne_self_eq_false, Bool.false_eq_true,
      not_false_eq_true]
  have htodo : (lanesOf m).map (fun l => (l, noFut,
      (valOf ((lanesOf m).map (fun l => (l, (vecSrc s l 1 i.a.toNat).1))) l).setWidth 32)) = tasksOf s i m := by
    refine List.map_congr_left fun l hl => ?_
    rw [valOf_map hl fun l => (vecSrc s l 1 i.a.toNat).1, vecSrc_one, arg_narrow]
  have hroom : s.refsFull s.w (tasksOf s i m).length = false := by
    have := a.room
    simp only [State.refsFull, tasksOf, List.length_map, decide_eq_false_iff_not]
    exact Nat.not_lt.mpr this
  have hm : (m == 0) = false := by simpa using a.some
  show execSpawn i s = _
  unfold execSpawn
  dsimp only
  rw [admitEngine_eq a.acts]
  simp only [hvals, hm, a.determ, hodd, branchTo, a.lands, hvis, htodo, hroom, emptyCells_alone a.acts.alone, h,
    List.isEmpty_nil, Bool.not_true, Bool.false_eq_true, if_false, if_true]
  refine congrArg Host.Outcome.next (if_neg ?_)
  rw [Bool.not_eq_true', Bool.not_eq_false, List.isEmpty_iff]
  refine List.filter_eq_nil_iff.mpr fun v hv => ?_
  obtain ⟨l, hl, rfl⟩ := List.mem_map.mp hv
  obtain ⟨-, k, hk⟩ := a.args l (mem_lanesOf.mp hl)
  simp only [vecSrc_one, arg_narrow, hk, Bool.false_eq_true, not_false_eq_true]

/-- A `spawn` whose tasks all enter bins: its gang goes on, and each of its lanes holds a handle (R137, R316). -/
theorem spawn_completes {s o : State} {i : Imm} {m : BitVec 32} {done : List (Nat × Word)} (a : SpawnActs s i m)
    (hu : s.Unheld i.h)
    (h : s.spawnTry s.w s.uid (s.cur.pc + i.imm.signExtend 64 * 8) (tasksOf s i m) [] = (o, [], done)) :
    ∃ u, exec (.spawn i) s = .next u ∧ Onward s u i.h ∧ u.mem = s.mem ∧ u.futs = o.futs ∧ u.cores = o.cores ∧
      (u.warp s.w).refs = (o.warp s.w).refs ∧ ∀ x ∈ done, u.reads s.w (.vec x.1 i.d.toNat) = ⟨x.2, false⟩ := by
  obtain ⟨hs, hsub⟩ := spawnTry_spec h
  have hlanes : (tasksOf s i m).map (·.1) = lanesOf m := by simp [tasksOf, Function.comp_def]
  rw [List.map_nil, List.nil_append, hlanes] at hsub
  obtain ⟨hw, -, hc, hcyc, -⟩ := spawned_acts hs a.acts.toIssues
  obtain ⟨hdone, hreads⟩ := spawnWrite_finish a.acts hu hs a.visible hsub
  have he := exec_spawn a h
  generalize (o.spawnWrite o.w i.d.toNat done).finish i.h = u at he hdone hreads
  refine ⟨u, he, fun l hl => ?_, ?_, ?_, ?_, ?_, hreads⟩
  · have := hdone.next l (by rw [hc]; exact hl)
    rwa [hw, hc, hcyc] at this
  · rw [hdone.rest, hs.rest]
  · rw [hdone.rest]
  · rw [hdone.rest]
  · rw [← hw, ← refs_rest, hdone.warp, refs_rest]

/-- Settles O29: `spawn` completes with what its tasks left in records and bins; a single task takes the free record of lowest
index and is the last of its bin. -/
theorem spawnWord : Obligations.SpawnWord := by
  rintro i s m entry todo - a hu hm hd - hv hc rfl hland hargs hroom hahead rfl
  have act : SpawnActs s i m := ⟨a, hm, hd, hv, hc, hland, hargs, hroom⟩
  refine ⟨fun o done h => ?_, fun l f b hl hf hb => ?_⟩
  · obtain ⟨u, he, hon, hmem, hfuts, hcores, -, hreads⟩ := spawn_completes act hu h
    exact ⟨u, he, hon, hfuts, hcores, hmem, hreads⟩
  · have hml : m.getLsbD l = true := mem_lanesOf.mp (by rw [hl]; exact List.mem_cons_self)
    have hmask : maskOf [l] = m := by rw [← hl, maskOf_lanesOf]
    have htry := spawnTry_one (s := s) (w := s.w) (id := s.uid) (l := l) (s.reads s.w (.vec l i.a.toNat)).val hahead hf hb
      (alive_of_ready (a.ready l (a.inGang hml)))
    obtain ⟨u, he, hon, hmem, hfuts, hcores, hrefs, hreads⟩ := spawn_completes (done := [(l, futHandle f (s.fut f).gen)]) act hu
      (by rw [tasksOf, hl]; exact htry)
    obtain ⟨B, hB, hput⟩ := binPut_eq (s.takeFor s.w l f) s.w b (s.cur.pc + i.imm.signExtend 64 * 8)
      ⟨f, (s.reads s.w (.vec l i.a.toNat)).val, s.releases s.w [l]⟩
    rw [hput] at hfuts hcores hrefs
    have hfut : u.fut f = { s.fut f with st := .run, count := 1, value := 0, kind := .task, op := s.wp.core } := by
      have hf : u.futs = (s.takeFor s.w l f).futs := hfuts
      show tgetD u.futs f {} = _
      rw [hf]
      exact fut_takeFor s s.w l f
    refine ⟨u, he, hon, hmem, by rw [hfut], by rw [hfut], by rw [hfut], by rw [hfut], hreads _ List.mem_cons_self, ?_, ?_⟩
    · rw [hrefs, ← hmask]
      exact congrArg Warp.refs (warp_updWarp_self (s.futTake f .task s.wp.core) _ a.warp)
    · have hcore : u.core s.wp.core = { s.core s.wp.core with bins := tset (s.core s.wp.core).bins b B } := by
        have hw : ((s.takeFor s.w l f).warp s.w).core = s.wp.core := by rw [(takeFor_spawned s s.w l f).warp]; rfl
        unfold State.core
        rw [hcores, hw]
        exact core_updCore_self { s.takeFor s.w l f with uid := s.uid + 1 } s.wp.core _
      rw [hcore]
      simp [hB]

end Sys2Proof.Proofs
end

section
/-! PROOFS. Tasks: completion, reclamation, bins that become due, and parked `spawn` words that go on (R137, R138, R244, R248,
R257, R258, R322). -/

namespace Sys2Proof.Machine

/-! ### Handles written in a parked gang -/

/-- A vector register written leaves gangs parked, and futures and cores as they are. -/
theorem writeVec_keeps (s : State) (w l r : Nat) (c : Cell) :
    s.KeepsGangs (s.writeTarget w (.vec l r) c) ∧ (s.writeTarget w (.vec l r) c).futs = s.futs ∧
      (s.writeTarget w (.vec l r) c).cores = s.cores := by
  have hcontest : s.KeepsGangs (s.contest w (.vec l r)) ∧ (s.contest w (.vec l r)).futs = s.futs ∧
      (s.contest w (.vec l r)).cores = s.cores := by
    unfold State.contest
    split_ifs
    · exact ⟨.refl s, rfl, rfl⟩
    · exact ⟨keepsGangs_updWarp s w fun _ => ⟨rfl, rfl⟩, rfl, rfl⟩
  have hlate : ∀ t : State, ∃ u, u = (if (t.warp w).late.isEmpty then t
      else t.updWarp w (fun W => { W with late := W.late.filter (fun x => x.2.1 != .vec l r) })) ∧
      t.KeepsGangs u ∧ u.futs = t.futs ∧ u.cores = t.cores := by
    intro t
    refine ⟨_, rfl, ?_⟩
    split_ifs
    · exact ⟨.refl t, rfl, rfl⟩
    · exact ⟨keepsGangs_updWarp t w fun _ => ⟨rfl, rfl⟩, rfl, rfl⟩
  have hset : ∀ t : State, t.KeepsGangs (t.setVreg w l r c) ∧ (t.setVreg w l r c).futs = t.futs ∧
      (t.setVreg w l r c).cores = t.cores := by
    intro t
    unfold State.setVreg
    split
    · exact ⟨keepsGangs_of_warps rfl, rfl, rfl⟩
    · exact ⟨keepsGangs_updLane t w l (fun _ => rfl) fun _ => rfl, rfl, rfl⟩
  obtain ⟨u, hu, hk, hf, hc⟩ := hlate (s.contest w (.vec l r))
  have e : s.writeTarget w (.vec l r) c = u.setVreg w l r c := by rw [hu]; rfl
  obtain ⟨k1, k2, k3⟩ := hset u
  rw [e]
  exact ⟨(hcontest.1.trans hk).trans k1, k2.trans (hf.trans hcontest.2.1), k3.trans (hc.trans hcontest.2.2)⟩

/-- The handles of tasks written leave gangs parked, and futures and cores as they are. -/
theorem spawnWrite_keeps (s : State) (w dst : Nat) (done : List (Nat × Word)) :
    s.KeepsGangs (s.spawnWrite w dst done) ∧ (s.spawnWrite w dst done).futs = s.futs ∧
      (s.spawnWrite w dst done).cores = s.cores := by
  unfold State.spawnWrite
  induction done generalizing s with
  | nil => exact ⟨.refl s, rfl, rfl⟩
  | cons x done ih =>
    obtain ⟨h1, h2, h3⟩ := writeVec_keeps s w x.1 dst ⟨x.2, false⟩
    rw [List.foldl_cons]
    dsimp only
    generalize s.writeTarget w (.vec x.1 dst) ⟨x.2, false⟩ = t at h1 h2 h3
    split_ifs
    · obtain ⟨k1, k2, k3⟩ := writeVec_keeps t w (x.1 + 1) dst ⟨x.2, false⟩
      obtain ⟨i1, i2, i3⟩ := ih (t.writeTarget w (.vec (x.1 + 1) dst) ⟨x.2, false⟩)
      exact ⟨(h1.trans k1).trans i1, i2.trans (k2.trans h2), i3.trans (k3.trans h3)⟩
    · obtain ⟨i1, i2, i3⟩ := ih t
      exact ⟨h1.trans i1, i2.trans h2, i3.trans h3⟩

/-- A warp with a parked request is listed. -/
theorem listed_of_reqOf {s : State} {w id : Nat} {r : Req} (h : s.reqOf w id = some r) : (tget s.warps w).isSome := by
  cases e : tget s.warps w with
  | some W => rfl
  | none =>
    have hw : (s.warp w).gangs = [] := by simp [State.warp, tgetD, e]
    unfold State.reqOf at h
    rw [hw] at h
    split_ifs at h
    cases h

/-- A parked `spawn` whose tasks now all enter bins wakes its gang (R137, R244). -/
theorem spawnResume_done {s o : State} {w id : Nat} {entry : DWord} {todo : List (Nat × Nat × Word)} {dst : Nat}
    {done out : List (Nat × Word)} (h : s.spawnTry w id entry todo done = (o, [], out)) :
    s.spawnResume w id entry todo dst done = (o.spawnWrite w dst out).wakeGang w id := by
  unfold State.spawnResume
  rw [h]
  rfl

/-! ### Doomed tasks -/

/-- A doomed task's lane that is reclaimed has ended (R257). -/
theorem reclaim_ends (s : State) (w : Nat) (m : BitVec 32) {l : Nat} (hl : m.getLsbD l = true) :
    (((s.reclaim w m).warp w).lane l).alive = false := by
  unfold State.reclaim
  have h : ∀ (fs : List Nat) (t : State), (fs.foldl State.futRelease t).warps = t.warps :=
    foldl_warps fun _ _ => rfl
  unfold State.warp
  rw [h]
  exact (endThreads_ends s w m).2 l hl

/-- The tasks of a bin once one has left it (R258). -/
theorem binDrop_tasks {s : State} {c b : Nat} {x : Bin} (h : tget (s.core c).bins b = some x) (f : Nat) :
    ((tget ((s.binDrop c b f).core c).bins b).map (·.tasks)).getD [] = x.tasks.filter (fun t => t.fut != f) := by
  unfold State.binDrop
  rw [core_updCore_self]
  simp only [h]
  split_ifs with he
  · simpa using (List.isEmpty_iff.mp he).symm
  · simp

/-- What completing a future changes (R248): the one record, which is done, or free when it was doomed. -/
theorem futComplete_spec (s : State) (f : Nat) (v : DWord) :
    (s.futComplete f v).warps = s.warps ∧ (s.futComplete f v).mem = s.mem ∧
      (s.futComplete f v).fut f = match (s.fut f).st with
        | .run | .fault => { s.fut f with st := .done, value := v }
        | .doom => { s.fut f with st := .free, gen := nextGen (s.fut f).gen, count := 0, value := 0 }
        | _ => s.fut f := by
  unfold State.futComplete
  cases e : (s.fut f).st
  case run => exact ⟨rfl, rfl, fut_updFut_self s f _⟩
  case fault => exact ⟨rfl, rfl, fut_updFut_self s f _⟩
  case doom => exact ⟨rfl, rfl, fut_updFut_self s f _⟩
  all_goals exact ⟨rfl, rfl, rfl⟩

/-- A task that neither runs nor is ending leaves its bin, and its record is freed (R258). -/
theorem execTaskReclamation_unplaced {s : State} {f : Nat} (hn : s.noticed f = true) (hk : (s.fut f).kind = .task)
    (hl : s.taskLane f = none) (he : ∀ x ∈ s.warps, ∀ e ∈ x.2.ending, e.1 ≠ f) :
    execTaskReclamation f s = .next (match s.taskBin f with
      | some (c, b) => (s.binDrop c b f).futRelease f
      | none => s.futRelease f) := by
  have hending : s.warps.any (fun x => x.2.ending.any (fun e => e.1 == f)) = false := by
    simp only [List.any_eq_false, beq_iff_eq, Bool.not_eq_true]
    exact fun x hx => by simpa using he x hx
  unfold execTaskReclamation
  rw [hn, hl]
  simp [hk, hending] <;> rfl

/-- A task that waits at its lane is reclaimed there (R257). -/
theorem execTaskReclamation_parked {s : State} {f w l : Nat} (hn : s.noticed f = true) (hk : (s.fut f).kind = .task)
    (hl : s.taskLane f = some (w, l)) (hp : ((s.warp w).lane l).park ≠ .no) :
    execTaskReclamation f s = .next (s.reclaim w ((s.warp w).mask (fun L => L.task == some f))) := by
  have hon : ((s.warp w).lane l).park.on = true := by
    cases e : ((s.warp w).lane l).park with
    | no => exact absurd e hp
    | _ => rfl
  unfold execTaskReclamation
  rw [hn, hl]
  simp [hk, hon]

end Sys2Proof.Machine

namespace Sys2Proof.Proofs

open Sys2Proof.Machine Sys2Proof.Claims

/-- A task that has ended completes its future once its accesses have performed (R322). -/
theorem task_completes {w f l : Nat} {v : DWord} {s : State}
    (h : (s.warp w).ending.find? (fun x => x.1 == f) = some (f, l, v)) :
    ∃ u, exec (.taskFutureComplete w f) s = .next u ∧
      if s.writing w l then u = s
      else (u.warp w).ending = (s.warp w).ending.filter (fun x => x.1 != f) ∧ u.mem = s.mem ∧
        u.fut f = match (s.fut f).st with
          | .run | .fault => { s.fut f with st := .done, value := v }
          | .doom => { s.fut f with st := .free, gen := nextGen (s.fut f).gen, count := 0, value := 0 }
          | _ => s.fut f := by
  have hw : (tget s.warps w).isSome := by
    cases e : tget s.warps w with
    | some W => rfl
    | none => simp [State.warp, tgetD, e] at h
  have he : exec (.taskFutureComplete w f) s = .next (if s.writing w l then s
      else (s.updWarp w (fun W => { W with ending := W.ending.filter (fun x => x.1 != f) })).futComplete f v) := by
    show execTaskFutureComplete w f s = _
    unfold execTaskFutureComplete
    rw [h]
  refine ⟨_, he, ?_⟩
  split_ifs
  · rfl
  · have hend := warp_updWarp_self s (fun W => { W with ending := W.ending.filter (fun x => x.1 != f) }) hw
    have hfut : (s.updWarp w (fun W => { W with ending := W.ending.filter (fun x => x.1 != f) })).fut f = s.fut f := rfl
    have hmem : (s.updWarp w (fun W => { W with ending := W.ending.filter (fun x => x.1 != f) })).mem = s.mem := rfl
    generalize s.updWarp w (fun W => { W with ending := W.ending.filter (fun x => x.1 != f) }) = t at hend hfut hmem ⊢
    obtain ⟨hwarps, hmem', hf⟩ := futComplete_spec t f v
    rw [hfut] at hf
    refine ⟨?_, hmem'.trans hmem, hf⟩
    unfold State.warp at hend ⊢
    rw [hwarps, hend]

/-- Settles O32: a task's future completes once nothing of its lane is pending; a doomed task is reclaimed in its bin or at its
wait point; a timer that has run out makes its bin due; and a parked `spawn` whose tasks all enter bins wakes its gang. -/
theorem taskEvents : Obligations.TaskEvents := by
  refine ⟨fun w f l v s h => task_completes h, fun f s hn hk hl he => ?_, fun f w l s hn hk hl hl32 htask hp => ?_,
    fun core bin b s hb => ?_, fun w id entry todo dst done out s o hr ht hn i hi => ?_⟩
  · refine ⟨_, execTaskReclamation_unplaced hn hk hl he, ?_⟩
    cases hbin : s.taskBin f with
    | none => exact ⟨congrArg Fut.st (fut_updFut_self s f _), congrArg Fut.gen (fut_updFut_self s f _), fun _ _ _ h => by cases h⟩
    | some y =>
      refine ⟨congrArg Fut.st (fut_updFut_self _ f _), congrArg Fut.gen (fut_updFut_self _ f _), fun c b x hx hb => ?_⟩
      cases hx
      exact binDrop_tasks hb f
  · refine ⟨_, execTaskReclamation_parked hn hk hl hp, reclaim_ends s w _ ?_⟩
    have hlisted : (tget (s.warp w).lanes l).isSome := by
      cases e : tget (s.warp w).lanes l with
      | some L => rfl
      | none => simp [Warp.lane, tgetD, e] at htask
    exact getLsbD_mask hl32 hlisted (by simp [htask])
  · by_cases h : b.due.isSome = false ∧ b.start + b.timer ≤ s.refTick
    · refine ⟨{ s with uid := s.uid + 1 }.updCore core (fun c => { c with bins := tset c.bins bin { b with due := some s.uid } }),
        ?_, ?_⟩
      · show execBinTimerExpiry core bin s = _
        unfold execBinTimerExpiry
        rw [hb]
        simp [h.1, Nat.not_lt.mpr h.2, State.take]
      · rw [if_pos h, core_updCore_self]
        exact tget_tset_self _ _ _
    · refine ⟨s, ?_, by rw [if_neg h]⟩
      show execBinTimerExpiry core bin s = _
      unfold execBinTimerExpiry
      rw [hb]
      have : (b.due.isSome || decide (s.refTick < b.start + b.timer)) = true := by
        cases hd : b.due.isSome <;> simp_all
      simp [this]
  · have hw := listed_of_reqOf hr
    have hx : exec i s = .next ((o.spawnWrite w dst out).wakeGang w id) := by
      rcases hi with rfl | rfl
      · show execBinSpaceResume w id s = _
        unfold execBinSpaceResume
        simp only [sweep_unnoticed hn, hr, spawnResume_done ht]
      · show execFutureRecordWaitResume w id s = _
        unfold execFutureRecordWaitResume
        simp only [sweep_unnoticed hn, hr, spawnResume_done ht]
    obtain ⟨h1, h2, h3⟩ := spawnWrite_keeps o w dst out
    have hkeep := (spawnTry_spec ht).1.lanes.trans h1
    obtain ⟨hrest, -, -⟩ := wakeGang_spec (s := o.spawnWrite w dst out) (w := w) (by rw [hkeep.listed, hw]) id
    obtain ⟨hgone, hlanes⟩ := wakeGang_of_keepsGangs hkeep hw id
    exact ⟨_, hx, hgone, by rw [hrest]; exact h2, by rw [hrest]; exact h3, hlanes⟩

end Sys2Proof.Proofs
end

section
/-! PROOFS. Argument records: banks that begin to wake, and the registers that a task begins with (R169, R176, R188, R317). -/

namespace Sys2Proof.Machine

/-! ### Banks that begin to wake -/

/-- Waking a bank changes dies only. -/
theorem rouse_rest (s : State) (die a : Nat) : s.rouse die a = { s with dies := (s.rouse die a).dies } := by
  unfold State.rouse
  dsimp only
  split_ifs <;> rfl

theorem rouse_warps (s : State) (die a : Nat) : (s.rouse die a).warps = s.warps := by rw [rouse_rest]

/-- A die changed in nothing but its commits leaves what is being rehoused. -/
theorem rehousing_updDie (s : State) (i : Nat) {f : Die → Die} (h : ∀ d, (f d).commit = d.commit) (key : Nat) :
    (s.updDie i f).rehousing key = s.rehousing key := by
  rw [Bool.eq_iff_iff]
  show List.any (tset s.dies i (f (tgetD s.dies i {}))) _ = true ↔ List.any s.dies _ = true
  rw [List.any_eq_true, List.any_eq_true]
  have hany : ∀ (p : Nat → Die → Bool), (∀ j d, p j (f d) = p j d) → (∀ j, p j {} = false) →
      ((∃ x, x ∈ tset s.dies i (f (tgetD s.dies i {})) ∧ p x.1 x.2 = true) ↔ ∃ x, x ∈ s.dies ∧ p x.1 x.2 = true) := by
    intro p hp h0
    rw [Prod.exists, Prod.exists]
    refine exists_congr fun j => exists_mem_tset ?_ j
    rw [hp]
    unfold tgetD
    cases tget s.dies i with
    | none => exact h0 j
    | some d => rfl
  exact hany (fun j d => d.commit.any (fun r => r.began ≤ s.uid && [r.x, r.y].any (fun c =>
    within key (dspKey j (s.cluster (clusterNo j c)).base,
      dspKey j ((s.cluster (clusterNo j c)).base + (s.cluster (clusterNo j c)).size)))))
    (fun j d => by rw [h]) (fun j => rfl)

/-- A bank that begins to wake is asleep still (R169). -/
theorem asleep_rouse (s : State) (die a : Nat) : (s.rouse die a).asleep die a = s.asleep die a := by
  unfold State.rouse
  dsimp only
  split_ifs with h
  · rfl
  · obtain ⟨g, hg⟩ := List.exists_mem_of_ne_nil _ (fun e => h (List.isEmpty_iff.mpr e))
    rw [List.mem_filter] at hg
    have hold : s.asleep die a = true := by
      refine Bool.or_eq_true_iff.mpr (.inl (List.any_eq_true.mpr ⟨g, hg⟩))
    rw [hold]
    refine Bool.or_eq_true_iff.mpr (.inr (List.any_eq_true.mpr ⟨(g.1, g.2, s.now + 594000), ?_, ?_⟩))
    · rw [die_updDie_self]
      exact List.mem_append_right _ (List.mem_map.mpr ⟨g, List.mem_filter.mpr hg, rfl⟩)
    · simp only [Bool.and_eq_true, decide_eq_true_eq]
      exact ⟨hg.2, show s.now < s.now + 594000 by omega⟩

/-- Waking the bank of a byte leaves whether its record can be accessed (R169, R176, R188). -/
theorem accessible_rouse (s : State) (die n : Nat) (a : Word) :
    (s.rouse die a.toNat).accessible (dspKey die a.toNat) n = s.accessible (dspKey die a.toNat) n := by
  have hpresent : (s.rouse die a.toNat).present (dspKey die a.toNat) n = s.present (dspKey die a.toNat) n := by
    rw [rouse_rest]; rfl
  have hrehousing : (s.rouse die a.toNat).rehousing (dspKey die a.toNat) = s.rehousing (dspKey die a.toNat) := by
    unfold State.rouse
    dsimp only
    split_ifs
    · rfl
    · apply rehousing_updDie
      intro d
      rfl
  have hawake : (s.rouse die a.toNat).awake (dspKey die a.toNat) = s.awake (dspKey die a.toNat) := by
    have ha := a.isLt
    unfold State.awake
    by_cases hk : dspKey die a.toNat / 2 ^ 100 = 1
    · have hdie : dspKey die a.toNat / 2 ^ 60 % 2 ^ 40 = die := by unfold dspKey memKey at hk ⊢; omega
      have hoff : dspKey die a.toNat % 2 ^ 60 = a.toNat := by unfold dspKey memKey at hk ⊢; omega
      rw [hdie, hoff, asleep_rouse]
    · rw [beq_false_of_ne hk]
      rfl
  unfold State.accessible
  rw [hpresent, hrehousing, hawake]

/-! ### Registers that a task begins with -/

/-- Some vector registers of a warp written, each with what the state then says: what is said must not depend on warps. -/
theorem setVregs_spec {w : Nat} {v : State → Nat → Cell} (hv : ∀ {s t : State}, t = { s with warps := t.warps } → v t = v s)
    {xs : List (Nat × Nat)} {s : State} (hw : (tget s.warps w).isSome) (ha : (s.block (s.warp w).block).shares = [])
    (hx : ∀ x ∈ xs, s.Writable w (.vec x.1 x.2)) :
    let t := xs.foldl (fun s x => s.setVreg w x.1 x.2 (v s x.2)) s
    s.OnlyRegs t w (xs.map (fun x => .vec x.1 x.2)) ∧ (tget t.warps w).isSome ∧
      ∀ x ∈ xs, t.reads w (.vec x.1 x.2) = v s x.2 := by
  induction xs generalizing s with
  | nil => exact ⟨.refl s w, hw, fun x hx => absurd hx List.not_mem_nil⟩
  | cons x xs ih =>
    obtain ⟨h1, h2⟩ := setVreg_onlyRegs hw x.1 x.2 (v s x.2) (hx x List.mem_cons_self) ha
    have hw' : (tget (s.setVreg w x.1 x.2 (v s x.2)).warps w).isSome := by
      unfold State.setVreg
      rw [sharedAt_none ha]
      simpa using hw
    obtain ⟨k1, k2, k3⟩ := ih hw' (h1.alone ha) (fun y hy => h1.writable (hx y (List.mem_cons_of_mem _ hy)))
    have hsame := hv h1.rest
    refine ⟨by simpa using h1.trans k1, k2, fun y hy => ?_⟩
    by_cases hin : y ∈ xs
    · rw [← hsame]
      exact k3 y hin
    · obtain rfl := (List.mem_cons.mp hy).resolve_right hin
      refine (k1.regs _ fun e => hin ?_).trans h2
      obtain ⟨z, hz, e⟩ := List.mem_map.mp e
      obtain ⟨e1, e2⟩ := Target.vec.inj e
      rwa [show y = z from Prod.ext e1.symm e2.symm]

/-- A lane that goes on after writes of its warp's registers is woken (R117). -/
theorem woken_of_onlyRegs {s t u : State} {w l : Nat} {xs : List Target} (h : s.OnlyRegs t w xs)
    (hu : (u.warp w).lane l = t.goOnOf w ((t.warp w).lane l)) : Claims.Woken s u w l := by
  have hnext : ((t.warp w).lane l).next = ((s.warp w).lane l).next := by
    have e := congrArg Lane.next (h.lane l); exact e
  have hheld : ((t.warp w).lane l).heldMask = ((s.warp w).lane l).heldMask := by
    have e := congrArg Lane.heldMask (h.lane l); exact e
  have hcur : (t.warp w).cur = (s.warp w).cur := by
    have e := congrArg Warp.cur h.warp; exact e
  have hreq : t.requested (t.warp w).core = s.requested (s.warp w).core := by rw [h.core, h.rest]; rfl
  obtain ⟨h1, h2, h3, h4⟩ := woken_of_goOn hu
  exact ⟨h1, h2.trans hnext, h3.trans (by rw [h.core, h.cycle]), by rw [h4, hreq, hcur, hheld]⟩

/-- What the record at a key gives register j of a launching task (R317). -/
def argCell (key : Nat) (s : State) (j : Nat) : Cell :=
  ⟨BitVec.ofNat 32 (s.num (key + 4 * j) 4), s.tainted (key + 4 * j) 4⟩

/-- Some lanes of a warp with v0 to v7 of the record at a key, gone on (R317, R351). -/
def State.takeArgument (s : State) (w key : Nat) (pair : List Nat) : State :=
  pair.foldl (fun s l => s.wake w l) (pair.foldl (fun (s : State) l => (List.range 8).foldl (fun (s : State) j =>
    s.setVreg w l j ⟨BitVec.ofNat 32 (s.num (key + 4 * j) 4), s.tainted (key + 4 * j) 4⟩) s) s)

/-- A launching task's lanes have v0 to v7 of its record, and go on (R317, R351). -/
theorem argument_taken {s : State} {w key : Nat} {pair : List Nat} (hw : (tget s.warps w).isSome)
    (ha : (s.block (s.warp w).block).shares = []) (hn : pair.Nodup)
    (hf : ∀ k ∈ pair, ((s.warp w).lane k).fits [(0, 8)] = true) :
    let u := s.takeArgument w key pair
    u.mem = s.mem ∧ (∀ k ∈ pair, Claims.Woken s u w k ∧ ∀ j, j < 8 → u.reads w (.vec k j) = argCell key s j) ∧
      ∀ x, (∀ k ∈ pair, ∀ j, j < 8 → x ≠ .vec k j) → u.reads w x = s.reads w x := by
  intro u
  let xs := pair.flatMap (fun l => (List.range 8).map (fun j => (l, j)))
  have hmem : ∀ x, x ∈ xs ↔ x.1 ∈ pair ∧ x.2 < 8 := by
    rintro ⟨k, j⟩
    simp [xs]
  have ht : u = pair.foldl (fun s l => s.wake w l) (xs.foldl (fun s x => s.setVreg w x.1 x.2 (argCell key s x.2)) s) := by
    simp only [u, State.takeArgument, xs, List.foldl_flatMap, List.foldl_map]
    rfl
  have hx : ∀ x ∈ xs, s.Writable w (.vec x.1 x.2) := by
    intro x hx
    obtain ⟨h1, h2⟩ := (hmem x).mp hx
    have := hf x.1 h1
    simp only [Lane.fits, List.all_cons, List.all_nil, Bool.and_true, decide_eq_true_eq] at this
    show x.2 < 8 * ((s.warp w).lane x.1).top.g
    omega
  obtain ⟨h1, h2, h3⟩ := setVregs_spec (v := argCell key) (fun h => by rw [h]; rfl) hw ha hx
  generalize xs.foldl (fun s x => s.setVreg w x.1 x.2 (argCell key s x.2)) s = t at ht h1 h2 h3
  obtain ⟨k1, k2⟩ := wakes_spec h2 hn
  rw [← ht] at k1 k2
  have hreads : ∀ x, u.reads w x = t.reads w x := fun x => by rw [ht]; exact wakes_reads h2 hn w x
  refine ⟨by rw [k1.mem, h1.rest], fun k hk => ⟨woken_of_onlyRegs h1 (by rw [k2, if_pos hk]), fun j hj => ?_⟩, fun x hx => ?_⟩
  · rw [hreads]
    exact h3 (k, j) ((hmem (k, j)).mpr ⟨hk, hj⟩)
  · rw [hreads]
    refine h1.regs x fun e => ?_
    obtain ⟨y, hy, rfl⟩ := List.mem_map.mp e
    obtain ⟨e1, e2⟩ := (hmem y).mp hy
    exact hx y.1 e1 y.2 e2 rfl

end Sys2Proof.Machine

namespace Sys2Proof.Proofs

open Sys2Proof.Machine Sys2Proof.Claims

/-- A warp's level rises by one once it has waited (R134). -/
theorem warp_rise (s : State) (w : Nat) : (s.updWarp w Warp.rise).warp w = Warp.rise (s.warp w) := by
  rw [warp_updWarp]
  split_ifs with h
  · rfl
  · have hnone : tget s.warps w = none := by simpa using fun e => h ⟨rfl, e⟩
    have haged : (s.warp w).aged < 256 := by
      unfold State.warp tgetD
      rw [hnone]
      decide
    exact (if_pos haged).symm

/-- A lane that waits for its argument record, its task not doomed and what its spawner issued performed: it takes the record
once its lines, its bank and its segment let it (R197, R317). -/
theorem exec_taskArgumentRead {w l key : Nat} {s : State} (hp : ((s.warp w).lane l).park = .argument)
    (hs : ((s.warp w).lane l).shadow = false) (hd : s.taskDoomed ((s.warp w).lane l) = false)
    (ho : s.laneOrdered w l 0 = true) (hkey : key = dspKey (dieOf (s.warp w).core) ((s.warp w).lane l).arg.toNat) :
    exec (.taskArgumentRead w l) s = .next (if s.accessible key 32 = true
      then (s.rouse (dieOf (s.warp w).core) ((s.warp w).lane l).arg.toNat).takeArgument w key
        (if ((s.warp w).lane (l + 1)).shadow then [l, l + 1] else [l])
      else s.rouse (dieOf (s.warp w).core) ((s.warp w).lane l).arg.toNat) := by
  show execTaskArgumentRead w l s = _
  unfold execTaskArgumentRead State.takeArgument
  have hacc := accessible_rouse s (dieOf (s.warp w).core) 32 ((s.warp w).lane l).arg
  rw [← hkey] at hacc
  simp only [hp, hs, hd, ho, hacc, ← hkey]
  by_cases h : s.accessible key 32 = true <;> simp [h]

/-- Levels rise (R134), and launching tasks read their records (R317). -/
theorem levelClause_holds : levelClause := by
  refine ⟨fun w s => ⟨s.updWarp w Warp.rise, rfl, rfl, fun v hv => warp_updWarp_ne s _ hv, warp_rise s w⟩,
    fun w l key s hp hs => ⟨fun h => ?_, fun hd ho hkey ha hf => ⟨_, exec_taskArgumentRead hp hs hd ho hkey, ?_⟩⟩⟩
  · show execTaskArgumentRead w l s = _
    unfold execTaskArgumentRead
    rcases h with h | h <;> simp [h]
  · have hw : (tget s.warps w).isSome := by
      cases e : tget s.warps w with
      | some W => rfl
      | none => simp [State.warp, tgetD, e, Warp.lane] at hp
    have hn : (if ((s.warp w).lane (l + 1)).shadow = true then [l, l + 1] else [l]).Nodup := by
      split_ifs <;> simp
    generalize (if ((s.warp w).lane (l + 1)).shadow = true then [l, l + 1] else [l]) = pair at hf hn ⊢
    have hrest := rouse_rest s (dieOf (s.warp w).core) ((s.warp w).lane l).arg.toNat
    generalize s.rouse (dieOf (s.warp w).core) ((s.warp w).lane l).arg.toNat = r at hrest
    have hwarp : ∀ v, r.warp v = s.warp v := fun v => by rw [hrest]; rfl
    have hreads : ∀ x, r.reads w x = s.reads w x := fun x => by rw [hrest]; rfl
    by_cases hacc : s.accessible key 32 = true
    · rw [if_pos hacc, if_pos hacc]
      obtain ⟨h1, h2, h3⟩ := argument_taken (s := r) (w := w) (key := key) (pair := pair) (by rw [hrest]; exact hw)
        (by rw [hwarp, hrest]; exact ha) hn (by rw [hwarp]; exact hf)
      have hcell : ∀ j, argCell key r j = argCell key s j := fun j => by rw [hrest]; rfl
      have hwoken : ∀ u k, Woken r u w k → Woken s u w k := fun u k h => by
        unfold Woken at h
        rw [hwarp, hrest] at h
        exact h
      exact ⟨h1.trans (by rw [hrest]),
        fun k hk => ⟨hwoken _ k (h2 k hk).1, fun j hj => ((h2 k hk).2 j hj).trans (hcell j)⟩,
        fun x hx => (h3 x hx).trans (hreads x)⟩
    · rw [if_neg hacc, if_neg hacc]
      exact ⟨by rw [hrest], by rw [hrest]⟩

end Sys2Proof.Proofs
end

section
/-! PROOFS. Frame requests that are served (R104, R105, R172, R174). -/

namespace Sys2Proof.Machine

/-! ### Frames change under parked gangs -/

/-- A warp whose lanes change in neither their park nor their next addresses. -/
theorem keepsGangs_updWarp_of (s : State) (w : Nat) {f : Warp → Warp} (hg : ∀ W, (f W).gangs = W.gangs)
    (hp : ∀ W id, (f W).gangLanes id = W.gangLanes id) (hn : ∀ W l, ((f W).lane l).next = (W.lane l).next) :
    s.KeepsGangs (s.updWarp w f) where
  listed v := isSome_updWarp _ _ _ _
  gangs v := by rw [warp_updWarp]; split_ifs with e; exacts [e.1 ▸ hg _, rfl]
  parked v id := by rw [warp_updWarp]; split_ifs with e; exacts [e.1 ▸ hp _ id, rfl]
  next v l := by rw [warp_updWarp]; split_ifs with e; exacts [e.1 ▸ hn _ l, rfl]

/-- Lanes of a warp changed one after the other in neither their park nor their gangs: the gangs' lanes stay. -/
theorem gangLanes_foldl {α : Type} (W : Warp) {i : α → Nat} {f : α → Lane → Lane} (h : ∀ x L, (f x L).park = L.park)
    (xs : List α) (id : Nat) : (xs.foldl (fun W x => W.updLane (i x) (f x)) W).gangLanes id = W.gangLanes id := by
  induction xs generalizing W with
  | nil => rfl
  | cons x xs ih => exact (ih _).trans (mask_updLane W (i x) (fun L => by rw [h]) (by simp))

/-- Lanes of a warp changed one after the other: its gangs stand. -/
theorem gangs_foldl {α : Type} (W : Warp) {i : α → Nat} {f : α → Lane → Lane} (xs : List α) :
    (xs.foldl (fun W x => W.updLane (i x) (f x)) W).gangs = W.gangs := by
  induction xs generalizing W with
  | nil => rfl
  | cons x xs ih => exact ih _

/-- A call in one slice leaves gangs parked. -/
theorem pushSlice_keepsGangs (s : State) (w g win : Nat) (ret : DWord) {ls : List Nat} (hn : ls.Nodup) (k : Nat) :
    s.KeepsGangs (s.pushSlice w g win ret ls k) := by
  have hu : s.KeepsGangs { s with uid := s.uid + 1 } := keepsGangs_of_warps rfl
  have hlanes : ∀ (W : Warp) (id depth : Nat) (ls : List Nat), (W.pushSlice g win ret id depth k ls).lanes =
      (W.pushAll g win ret (if g == 1 then 0 else id) ls).lanes := by
    intro W id depth ls
    unfold Warp.pushSlice
    dsimp only
    split_ifs <;> rfl
  refine hu.trans (keepsGangs_updWarp_of _ w (fun W => ?_) (fun W id => ?_) fun W l => ?_)
  · have e := congrArg Warp.gangs (pushSlice_sliceless W g win ret s.uid
      (((s.warp w).lane ((ls.filter (fun l => l / 4 == k)).headD 0)).depth + 1) k (ls.filter (fun l => l / 4 == k)))
    exact e
  · have hpush : ∀ n ls, (W.pushAll g win ret n ls).gangLanes id = W.gangLanes id :=
      fun n ls => gangLanes_foldl W (by intros; rfl) ls id
    rw [← hpush (if g == 1 then 0 else s.uid) (ls.filter (fun l => l / 4 == k))]
    unfold Warp.gangLanes Warp.mask
    rw [hlanes]
  · rw [pushSlice_lane _ _ _ _ _ _ _ (hn.filter _)]
    split_ifs <;> rfl

theorem pushFrames_keepsGangs (s : State) (w g win : Nat) (ret : DWord) {ls : List Nat} (hn : ls.Nodup) :
    s.KeepsGangs (s.pushFrames w g win ret ls) := by
  rw [pushFrames_eq]
  exact keepsGangs_foldl (fun s k => pushSlice_keepsGangs s w g win ret hn k) _ s

/-- A lane that leaves a slice-frame leaves gangs parked. -/
theorem leaveSlice_keepsGangs (s : State) (w l sf : Nat) : s.KeepsGangs (s.leaveSlice w l sf) := by
  have hs : ∀ (s : State) (f : Table SliceFrame → Table SliceFrame),
      s.KeepsGangs (s.updWarp w (fun W => { W with slices := f W.slices })) :=
    fun s f => keepsGangs_updWarp s w fun _ => ⟨rfl, rfl⟩
  unfold State.leaveSlice
  dsimp only
  split
  · exact .refl s
  · split_ifs
    · exact ((keepsGangs_of_warps (s := s) (t := s.freeSpill (dieOf (s.warp w).core) sf) rfl).trans (hs _ (tdel · sf))).trans
        (keepsGangs_of_warps rfl)
    · exact (hs s (tdel · sf)).trans (keepsGangs_of_warps rfl)
    · exact hs s (tset · sf _)

theorem popTo_keepsGangs (s : State) (w l d : Nat) : s.KeepsGangs (s.popTo w l d) := by
  refine keepsGangs_foldl (fun s _ => ?_) _ s
  exact (keepsGangs_updLane s w l (f := fun L => { L with frames := L.frames.drop 1 }) (fun _ => rfl) fun _ => rfl).trans
    (leaveSlice_keepsGangs _ w l _)

/-- Images copied back leave storage, lanes and parked gangs as they are (R174). -/
theorem refillAll_spec (s : State) (w : Nat) (sfs : List Nat) : (s.refillAll w sfs).mem = s.mem ∧
    s.KeepsGangs (s.refillAll w sfs) ∧ ∀ l, ((s.refillAll w sfs).warp w).lane l = (s.warp w).lane l := by
  have hfold : ∀ (sfs : List Nat) (s : State),
      (sfs.foldl (fun s k => s.freeSpill (dieOf (s.warp w).core) k) s).mem = s.mem ∧
      (sfs.foldl (fun s k => s.freeSpill (dieOf (s.warp w).core) k) s).warps = s.warps := by
    intro sfs
    induction sfs with
    | nil => exact fun s => ⟨rfl, rfl⟩
    | cons k sfs ih => exact fun s => ih (s.freeSpill (dieOf (s.warp w).core) k)
  unfold State.refillAll
  obtain ⟨h1, h2⟩ := hfold sfs s
  generalize sfs.foldl (fun s k => s.freeSpill (dieOf (s.warp w).core) k) s = t at h1 h2
  refine ⟨h1, (keepsGangs_of_warps h2).trans (keepsGangs_updWarp t w fun _ => ⟨rfl, rfl⟩), fun l => ?_⟩
  rw [warp_updWarp]
  have e : t.warp w = s.warp w := by unfold State.warp; rw [h2]
  split_ifs
  · rw [← e]; rfl
  · rw [e]

/-- Frames popped in some lanes of a warp, in each down to a depth of its own (R105). -/
theorem popTos_spec {s : State} {w : Nat} (hw : (tget s.warps w).isSome) {xs : List (Nat × Nat × DWord)}
    (hn : (xs.map (·.1)).Nodup) :
    let t := xs.foldl (fun s x => s.popTo w x.1 x.2.1) s
    t.mem = s.mem ∧ s.KeepsGangs t ∧ (∀ l, l ∉ xs.map (·.1) → ((t.warp w).lane l).frames = ((s.warp w).lane l).frames) ∧
      ∀ x ∈ xs, ((t.warp w).lane x.1).frames =
        ((s.warp w).lane x.1).frames.drop (((s.warp w).lane x.1).depth - x.2.1) := by
  induction xs generalizing s with
  | nil => exact ⟨rfl, .refl s, fun _ _ => rfl, fun x hx => absurd hx List.not_mem_nil⟩
  | cons x xs ih =>
    rw [List.map_cons, List.nodup_cons] at hn
    obtain ⟨h1, h2⟩ := popTo_spec hw x.1 x.2.1
    obtain ⟨k1, k2, k3, k4⟩ := ih (s := s.popTo w x.1 x.2.1) (h1.listed.trans hw) hn.2
    have hsame : ∀ l, l ≠ x.1 → (((s.popTo w x.1 x.2.1).warp w).lane l).frames = ((s.warp w).lane l).frames :=
      fun l hl => (h2 l).trans (if_neg hl)
    refine ⟨k1.trans h1.mem, (popTo_keepsGangs s w x.1 x.2.1).trans k2, fun l hl => ?_, fun y hy => ?_⟩
    · rw [List.map_cons, List.mem_cons, not_or] at hl
      exact (k3 l hl.2).trans (hsame l hl.1)
    · rcases List.mem_cons.mp hy with rfl | hy
      · exact (k3 _ hn.1).trans ((h2 _).trans (if_pos rfl))
      · have hne : y.1 ≠ x.1 := fun e => hn.1 (e ▸ List.mem_map_of_mem hy)
        refine (k4 y hy).trans ?_
        unfold Lane.depth
        rw [hsame y.1 hne]

/-! ### A gang goes on at addresses of its own -/

/-- Lanes of a warp with the addresses at which they will go on. -/
def Warp.aim (W : Warp) (ts : List (Nat × DWord)) : Warp :=
  ts.foldl (fun W t => W.updLane t.1 (fun L => { L with next := t.2 })) W

theorem aimGang_eq (s : State) (w : Nat) (ts : List (Nat × DWord)) : s.aimGang w ts = s.updWarp w (·.aim ts) := rfl

theorem aim_lane_next (W : Warp) {ts : List (Nat × DWord)} (hn : (ts.map (·.1)).Nodup) :
    (∀ l, l ∉ ts.map (·.1) → (W.aim ts).lane l = W.lane l) ∧
      ∀ t ∈ ts, (W.aim ts).lane t.1 = { W.lane t.1 with next := t.2 } := by
  unfold Warp.aim
  induction ts generalizing W with
  | nil => exact ⟨fun _ _ => rfl, fun t ht => absurd ht List.not_mem_nil⟩
  | cons a ts ih =>
    rw [List.map_cons, List.nodup_cons] at hn
    obtain ⟨h1, h2⟩ := ih (W.updLane a.1 (fun L => { L with next := a.2 })) hn.2
    refine ⟨fun l hl => ?_, fun t ht => ?_⟩
    · rw [List.map_cons, List.mem_cons, not_or] at hl
      refine (h1 l hl.2).trans ?_
      rw [lane_updLane, if_neg hl.1]
    · rcases List.mem_cons.mp ht with rfl | ht
      · exact (h1 _ hn.1).trans (lane_updLane_self W _ _)
      · have hne : t.1 ≠ a.1 := fun e => hn.1 (e ▸ List.mem_map_of_mem ht)
        refine (h2 t ht).trans ?_
        rw [lane_updLane, if_neg hne]

/-- A parked gang that is sent on has its lanes at the addresses given, in the frames that they have (R104, R105). -/
theorem aimGang_wakeGang {s t : State} {w id : Nat} {ts : List (Nat × DWord)} (h : s.KeepsGangs t)
    (hw : (tget s.warps w).isSome) (hn : (ts.map (·.1)).Nodup) :
    let u := (t.aimGang w ts).wakeGang w id
    u.mem = t.mem ∧ tget (u.warp w).gangs id = none ∧
      ∀ x ∈ ts, ((s.warp w).gangLanes id).getLsbD x.1 = true → ((u.warp w).lane x.1).park = .no ∧
        ((u.warp w).lane x.1).pc = x.2 ∧ ((u.warp w).lane x.1).frames = ((t.warp w).lane x.1).frames := by
  intro u
  have hwt : (tget t.warps w).isSome := by rw [h.listed, hw]
  have ha : (t.aimGang w ts).warp w = (t.warp w).aim ts := warp_updWarp_self t (·.aim ts) hwt
  have hmem : (t.aimGang w ts).mem = t.mem := rfl
  have hwa : (tget (t.aimGang w ts).warps w).isSome := by rw [aimGang_eq, isSome_updWarp]; exact hwt
  obtain ⟨-, h2⟩ := aim_lane_next (t.warp w) hn
  have hgang : ((t.aimGang w ts).warp w).gangLanes id = (s.warp w).gangLanes id := by
    rw [ha, ← h.parked]
    exact gangLanes_foldl _ (by intros; rfl) ts id
  have hu : u = (t.aimGang w ts).wakeGang w id := rfl
  generalize t.aimGang w ts = a at ha hmem hwa hgang hu
  obtain ⟨k1, k2, k3⟩ := wakeGang_spec hwa id
  rw [← hu] at k1 k2 k3
  refine ⟨by rw [k1]; exact hmem, k2, fun x hx hl => ?_⟩
  rw [k3, hgang, if_pos hl, ha, h2 x hx]
  exact ⟨rfl, rfl, rfl⟩

/-! ### Requests served -/

theorem nodup_map_filter {α : Type} {f : α → Nat} {p : α → Bool} {xs : List α} (h : (xs.map f).Nodup) :
    ((xs.filter p).map f).Nodup := h.sublist (List.filter_sublist.map f)

/-- A blocked call that is served: its lanes stand at their targets in called frames (R104). -/
theorem serveReq_call {s : State} {q : FrameReq} {g win : Nat} {ts : List (Nat × DWord)} {ret : DWord}
    (hr : s.reqOf q.warp q.gang = some (.call g win ts ret)) (hn : (ts.map (·.1)).Nodup) :
    let u := s.serveReq q
    tget (u.warp q.warp).gangs q.gang = none ∧
      ∀ l d, ((s.warp q.warp).gangLanes q.gang).getLsbD l = true → (l, d) ∈ ts →
        ((u.warp q.warp).lane l).park = .no ∧ ((u.warp q.warp).lane l).pc = d ∧
        ∃ sf, ((u.warp q.warp).lane l).frames = ⟨g, win, ret, none, [], sf⟩ :: ((s.warp q.warp).lane l).frames := by
  intro u
  have hw := listed_of_reqOf hr
  have hn' := nodup_map_filter (p := fun t => (lanesOf ((s.warp q.warp).gangLanes q.gang)).contains t.1) hn
  have hu : u = ((s.pushFrames q.warp g win ret
      ((ts.filter (fun t => (lanesOf ((s.warp q.warp).gangLanes q.gang)).contains t.1)).map (·.1))).aimGang q.warp
      (ts.filter (fun t => (lanesOf ((s.warp q.warp).gangLanes q.gang)).contains t.1))).wakeGang q.warp q.gang := by
    show s.serveReq q = _
    unfold State.serveReq
    rw [hr]
    rfl
  obtain ⟨-, -, hframes, -⟩ := pushFrames_spec hw g win ret hn'
  obtain ⟨-, h2, h3⟩ := aimGang_wakeGang (id := q.gang) (pushFrames_keepsGangs s q.warp g win ret hn') hw hn'
  rw [← hu] at h2 h3
  refine ⟨h2, fun l d hl hd => ?_⟩
  have hin : (l, d) ∈ ts.filter (fun t => (lanesOf ((s.warp q.warp).gangLanes q.gang)).contains t.1) :=
    List.mem_filter.mpr ⟨hd, by simpa [mem_lanesOf] using hl⟩
  obtain ⟨hpark, hpc, hfr⟩ := h3 (l, d) hin hl
  exact ⟨hpark, hpc, by rw [hfr]; exact hframes l (List.mem_map_of_mem (f := (·.1)) hin)⟩

/-- A blocked return that is served: its lanes stand at their addresses in the frames they return to (R105, R174). -/
theorem serveReq_refill {s : State} {q : FrameReq} {dest : List (Nat × Nat × DWord)}
    (hr : s.reqOf q.warp q.gang = some (.refill dest)) (hn : (dest.map (·.1)).Nodup) :
    let u := s.serveReq q
    tget (u.warp q.warp).gangs q.gang = none ∧
      ∀ l n d, ((s.warp q.warp).gangLanes q.gang).getLsbD l = true → (l, n, d) ∈ dest →
        ((u.warp q.warp).lane l).park = .no ∧ ((u.warp q.warp).lane l).pc = d ∧
        ((u.warp q.warp).lane l).frames =
          ((s.warp q.warp).lane l).frames.drop (((s.warp q.warp).lane l).depth - n) := by
  intro u
  have hw := listed_of_reqOf hr
  let ls := lanesOf ((s.warp q.warp).gangLanes q.gang)
  let xs := dest.filter (fun x => ls.contains x.1)
  let sfs := (s.warp q.warp).spilledAt ls (fun l => ((xs.find? (fun x => x.1 == l)).map (·.2.1)).getD 0)
  have hn' : (xs.map (·.1)).Nodup := nodup_map_filter hn
  have hu : u = ((xs.foldl (fun s x => s.popTo q.warp x.1 x.2.1) (s.refillAll q.warp sfs)).aimGang q.warp
      (xs.map (fun x => (x.1, x.2.2)))).wakeGang q.warp q.gang := by
    show s.serveReq q = _
    unfold State.serveReq
    rw [hr]
  obtain ⟨-, hrefill, hlanes⟩ := refillAll_spec s q.warp sfs
  have hwr : (tget (s.refillAll q.warp sfs).warps q.warp).isSome := by rw [hrefill.listed, hw]
  obtain ⟨-, hpops, -, hframes⟩ := popTos_spec hwr hn'
  obtain ⟨-, h2, h3⟩ := aimGang_wakeGang (id := q.gang) (ts := xs.map (fun x => (x.1, x.2.2))) (hrefill.trans hpops) hw
    (by rw [List.map_map]; exact hn')
  rw [← hu] at h2 h3
  refine ⟨h2, fun l n d hl hd => ?_⟩
  have hin : (l, n, d) ∈ xs := List.mem_filter.mpr ⟨hd, by simpa [ls, mem_lanesOf] using hl⟩
  obtain ⟨hpark, hpc, hfr⟩ := h3 (l, d) (List.mem_map.mpr ⟨_, hin, rfl⟩) hl
  exact ⟨hpark, hpc, by rw [hfr, hframes _ hin, hlanes]⟩

/-- Waking a gang writes no storage. -/
theorem wakeGang_mem (s : State) (w id : Nat) : (s.wakeGang w id).mem = s.mem := by
  have hwake : ∀ (ls : List Nat) (s : State), (ls.foldl (fun s l => s.wake w l) s).mem = s.mem := by
    intro ls
    induction ls with
    | nil => exact fun _ => rfl
    | cons l ls ih => exact fun s => ih (s.wake w l)
  have he := (emptyShared_onlySyncs s w (lanesOf ((s.warp w).gangLanes id))
    (((tget (s.warp w).gangs id).map (·.reads)).getD [])).rest
  unfold State.wakeGang
  dsimp only
  rw [hwake, he]
  rfl

/-- Popping frames writes no storage. -/
theorem popTo_mem (s : State) (w l d : Nat) : (s.popTo w l d).mem = s.mem := by
  have hpop : ∀ s : State, (s.popFrame w l).mem = s.mem := fun s => by
    unfold State.popFrame
    exact (leaveSlice_spec _ w l _).1.mem
  unfold State.popTo
  generalize List.range (((s.warp w).lane l).depth - d) = ns
  induction ns generalizing s with
  | nil => rfl
  | cons n ns ih => exact (ih _).trans (hpop s)

/-- Pushing frames writes no storage. -/
theorem pushFrames_mem (s : State) (w g win : Nat) (ret : DWord) (ls : List Nat) :
    (s.pushFrames w g win ret ls).mem = s.mem := by
  rw [pushFrames_eq]
  generalize slicesOf ls = ks
  induction ks generalizing s with
  | nil => rfl
  | cons k ks ih => exact ih (s.pushSlice w g win ret ls k)

/-- Whatever a frame request is, serving it writes no storage. -/
theorem serveReq_mem (s : State) (q : FrameReq) : (s.serveReq q).mem = s.mem := by
  have hpops : ∀ (xs : List (Nat × Nat × DWord)) (s : State),
      (xs.foldl (fun s x => s.popTo q.warp x.1 x.2.1) s).mem = s.mem := by
    intro xs
    induction xs with
    | nil => exact fun _ => rfl
    | cons x xs ih => exact fun s => (ih _).trans (popTo_mem s _ _ _)
  unfold State.serveReq
  split
  · rw [wakeGang_mem]
    exact pushFrames_mem s q.warp _ _ _ _
  · rw [wakeGang_mem]
    exact (hpops _ _).trans (refillAll_spec s q.warp _).1
  · rfl

/-- Where no parked lane of some warps has a notice, sweeping them changes nothing (R257). -/
theorem sweeps_unnoticed {s : State} {ws : List Nat} (h : ∀ w ∈ ws, Claims.NoNotice s w) : ws.foldl State.sweep s = s := by
  induction ws with
  | nil => rfl
  | cons w ws ih =>
    rw [List.foldl_cons, sweep_unnoticed (h w List.mem_cons_self)]
    exact ih fun v hv => h v (List.mem_cons_of_mem _ hv)

end Sys2Proof.Machine

namespace Sys2Proof.Proofs

open Sys2Proof.Machine Sys2Proof.Claims

/-- The first frame request of a core is served once its granules are there (R172). -/
theorem serveClause_holds : serveClause := by
  intro core q s hq hn
  have hsweep : ((s.frameReqs core).map (·.warp)).eraseDups.foldl State.sweep s = s :=
    sweeps_unnoticed fun w hw => by
      obtain ⟨r, hr, rfl⟩ := List.mem_map.mp (List.mem_eraseDups.mp hw)
      exact hn r hr
  have hx : exec (.frameRequestServe core) s = .next (match (s.core core).cover q.warp (s.reqNeed q) with
      | none => s
      | some c => ({ s with cores := tset s.cores core c }).serveReq q) := by
    show execFrameRequestServe core s = _
    unfold execFrameRequestServe
    dsimp only
    rw [hsweep, hq] <;> rfl
  refine ⟨_, hx, ?_⟩
  cases (s.core core).cover q.warp (s.reqNeed q) with
  | none => rfl
  | some c =>
    have hreq : ∀ r, s.reqOf q.warp q.gang = some r → ({ s with cores := tset s.cores core c } : State).reqOf q.warp q.gang =
      some r := fun r h => h
    exact ⟨serveReq_mem _ q, fun g win ts ret hr hts => serveReq_call (hreq _ hr) hts,
      fun dest hr hts => serveReq_refill (hreq _ hr) hts⟩

end Sys2Proof.Proofs
end

section
/-! PROOFS. The spill engines: what is owed to a core, and a round (R173). -/

namespace Sys2Proof.Machine

/-! ### Only dies change -/

/-- From s to t, nothing but dies has changed. -/
def State.OnlyDies (s t : State) : Prop := t = { s with dies := t.dies }

theorem State.OnlyDies.refl (s : State) : s.OnlyDies s := rfl

theorem State.OnlyDies.trans {s t u : State} (h : s.OnlyDies t) (k : t.OnlyDies u) : s.OnlyDies u := by
  unfold State.OnlyDies at *
  rw [k, h]

theorem onlyDies_updDie (s : State) (i : Nat) (f : Die → Die) : s.OnlyDies (s.updDie i f) := rfl

theorem onlyDies_foldl {α : Type} {f : State → α → State} (h : ∀ (s : State) x, s.OnlyDies (f s x)) (xs : List α)
    (s : State) : s.OnlyDies (xs.foldl f s) := by
  induction xs generalizing s with
  | nil => exact .refl s
  | cons x xs ih => exact (h s x).trans (ih _)

theorem rouseRange_onlyDies (s : State) (key n : Nat) : s.OnlyDies (s.rouseRange key n) := by
  unfold State.rouseRange
  split_ifs
  · exact .refl s
  · exact onlyDies_foldl (fun s g => onlyDies_updDie s _ _) _ s

/-- Bytes of a spill area taken: only dies change (R167, R169). -/
theorem takeSpill_onlyDies {s t : State} {die : Nat} {area : Nat × Nat} {n owner : Nat}
    (h : s.takeSpill die area n owner = some t) : s.OnlyDies t := by
  unfold State.takeSpill at h
  dsimp only at h
  split_ifs at h
  cases h
  exact (onlyDies_foldl (fun s r => rouseRange_onlyDies s _ _) _ s).trans (onlyDies_updDie _ _ _)

theorem noteSpills_onlyDies (s : State) : s.OnlyDies s.noteSpills := by
  unfold State.noteSpills
  refine State.OnlyDies.trans (t := { s with dies := _ }) rfl (onlyDies_foldl (fun t core => ?_) _ _)
  split_ifs
  · exact .refl t
  · exact onlyDies_updDie t _ _

/-! ### Rounds that are due -/

theorem mem_insertAsc {x y : Nat} {xs : List Nat} : y ∈ insertAsc x xs ↔ y = x ∨ y ∈ xs := by
  induction xs with
  | nil => simp [insertAsc]
  | cons a xs ih =>
    unfold insertAsc
    split_ifs
    · simp
    · simp only [List.mem_cons, ih]
      tauto

theorem mem_sortAsc {y : Nat} {xs : List Nat} : y ∈ sortAsc xs ↔ y ∈ xs := by
  induction xs with
  | nil => rfl
  | cons a xs ih =>
    show y ∈ insertAsc a (sortAsc xs) ↔ _
    rw [mem_insertAsc, ih, List.mem_cons]

/-- The spill engines of t owe rounds only to cores whose rounds are due in s. -/
def State.OwesDue (s t : State) : Prop := ∀ d c, c ∈ (t.die d).spillQueue → s.roundDue c = true

/-- A queue from which the cores whose rounds are not due have dropped out. -/
theorem owesDue_filter {s : State} {due : List Nat} (h : ∀ c ∈ due, s.roundDue c = true) :
    s.OwesDue { s with dies := tmap s.dies (fun _ d => { d with spillQueue := d.spillQueue.filter due.contains }) } := by
  intro d c hc
  unfold State.die tgetD at hc
  rw [tget_tmap] at hc
  cases e : tget s.dies d with
  | none => rw [e] at hc; exact absurd hc List.not_mem_nil
  | some D =>
    rw [e] at hc
    exact h c (List.contains_iff_mem.mp (List.mem_filter.mp hc).2)

/-- A core whose round is due comes last in its die's queue. -/
theorem owesDue_append {s t : State} (h : s.OwesDue t) {core : Nat} (hcore : s.roundDue core = true) :
    s.OwesDue (t.updDie (dieOf core) (fun d => { d with spillQueue := d.spillQueue ++ [core] })) := by
  intro d c hc
  rw [die_updDie] at hc
  split_ifs at hc
  · rcases List.mem_append.mp hc with hc | hc
    · exact h _ c hc
    · rw [List.mem_singleton.mp hc]
      exact hcore
  · exact h d c hc

/-- The engines owe rounds only to cores whose rounds are due (R173). -/
theorem due_of_noted {s : State} {die c : Nat} (h : c ∈ (s.noteSpills.die die).spillQueue) : s.roundDue c = true := by
  have hdue : ∀ c ∈ sortAsc ((s.cores.map (·.1)).filter s.roundDue), s.roundDue c = true :=
    fun c hc => (List.mem_filter.mp (mem_sortAsc.mp hc)).2
  have hfold : ∀ (cs : List Nat) (t : State), (∀ c ∈ cs, s.roundDue c = true) → s.OwesDue t →
      s.OwesDue (cs.foldl (fun (t : State) core => if (s.die (dieOf core)).spillQueue.contains core then t
        else t.updDie (dieOf core) (fun d => { d with spillQueue := d.spillQueue ++ [core] })) t) := by
    intro cs
    induction cs with
    | nil => exact fun _ _ h => h
    | cons a cs ih =>
      intro t hcs ht
      refine ih _ (fun c hc => hcs c (List.mem_cons_of_mem _ hc)) ?_
      dsimp only
      split_ifs
      · exact ht
      · exact owesDue_append ht (hcs a List.mem_cons_self)
  exact hfold _ _ hdue (owesDue_filter hdue) die c h

/-! ### A blocked gang takes the frame-spill trap -/

/-- The lanes of a blocked gang stand ready at its word once it is tried again; nothing else of them changes (R117). -/
theorem retryGang_spec {s : State} {w : Nat} (hw : (tget s.warps w).isSome) (id : Nat) :
    let t := s.retryGang w id
    t = { s with warps := t.warps } ∧ (∀ v, v ≠ w → t.warp v = s.warp v) ∧ (tget t.warps w).isSome ∧
      (∃ ls, t.warp w = { s.warp w with lanes := ls, gangs := tdel (s.warp w).gangs id }) ∧
      (t.warp w).alive = (s.warp w).alive ∧ ∀ l, (t.warp w).lane l =
        if ((s.warp w).gangLanes id).getLsbD l = true then
          { (s.warp w).lane l with park := .no, since := s.cycle (s.warp w).core + 1 }
        else (s.warp w).lane l := by
  intro t
  let f : State → Lane → Lane := fun s L => { L with park := .no, since := s.cycle (s.warp w).core + 1 }
  have hd := warp_updWarp_self s (fun W => { W with gangs := tdel W.gangs id }) hw
  have hne : ∀ v, v ≠ w → (s.updWarp w (fun W => { W with gangs := tdel W.gangs id })).warp v = s.warp v :=
    fun v hv => warp_updWarp_ne s _ hv
  have hlist : (tget (s.updWarp w (fun W => { W with gangs := tdel W.gangs id })).warps w).isSome := by
    rw [isSome_updWarp]; exact hw
  have hrest : (s.updWarp w (fun W => { W with gangs := tdel W.gangs id })) =
    { s with warps := (s.updWarp w (fun W => { W with gangs := tdel W.gangs id })).warps } := rfl
  have ht : t = (lanesOf ((s.warp w).gangLanes id)).foldl (fun s l => s.updWarp w (·.updLane l (f s)))
    (s.updWarp w (fun W => { W with gangs := tdel W.gangs id })) := rfl
  generalize s.updWarp w (fun W => { W with gangs := tdel W.gangs id }) = d at hd hne hlist hrest ht
  have hf : ∀ {s t : State}, s.LanesOf t w → f t = f s := fun h => by
    funext L
    show ({ L with park := Park.no, since := _ } : Lane) = { L with park := .no, since := _ }
    rw [h.core, h.cycle]
  obtain ⟨h1, h2⟩ := eachLane_spec hf hlist (lanesOf_nodup ((s.warp w).gangLanes id))
  have h3 := eachLane_mask (s := d) (w := w) (f := f) (p := (·.alive)) (fun _ _ => rfl) rfl
    (lanesOf ((s.warp w).gangLanes id))
  rw [← ht] at h1 h2 h3
  refine ⟨by rw [h1.rest, hrest], fun v hv => (h1.others v hv).trans (hne v hv), h1.listed.trans hlist,
    ⟨(t.warp w).lanes, by rw [h1.warp, hd]⟩, ?_, fun l => ?_⟩
  · refine Eq.trans h3 ?_
    rw [hd]
    rfl
  · rw [h2, hd]
    simp only [mem_lanesOf]
    have hc : d.cycle = s.cycle := by rw [hrest]; rfl
    show (if _ then ({ (s.warp w).lane l with park := .no, since := d.cycle (d.warp w).core + 1 } : Lane) else _) = _
    rw [hc, hd]
    rfl

/-- A blocked gang in a quiet user warp takes its trap at its word (R173, R333). -/
theorem failGang_enters {s : State} {w : Nat} (hw : (tget s.warps w).isSome) (hq : (s.warp w).Quiet)
    (hc : (s.warp w).cur = false) (id : Nat) (cause : BitVec 8) :
    Claims.Entered s (s.failGang w id cause) w cause ((s.warp w).gangLanes id)
      (fun l => if ((s.warp w).gangLanes id).getLsbD l then ((tget (s.warp w).gangs id).map (·.word)).getD 0
        else ((s.warp w).lane l).pc) allLive := by
  obtain ⟨hrest, hothers, hlist, ⟨ls, hwarp⟩, halive, hlane⟩ := retryGang_spec hw id
  let tr : Trap := ⟨cause, Config.freeWord (s.retryGang w id).fresh, (s.warp w).gangLanes id,
    some (((tget (s.warp w).gangs id).map (·.word)).getD 0)⟩
  have hfail : s.failGang w id cause =
    { s.retryGang w id with fresh := (s.retryGang w id).fresh + 1 }.trapWarp w tr := rfl
  generalize s.retryGang w id = r at *
  have he := trapWarp_quiet (s := { r with fresh := r.fresh + 1 }) (w := w)
    (show (r.warp w).Quiet from ⟨by rw [hwarp]; exact hq.longs, by rw [hwarp]; exact hq.late⟩)
    (show (r.warp w).cur = false by rw [hwarp]; exact hc) tr
  obtain ⟨e1, e2, e3, e4, e5, e6, e7, e8⟩ := entered_of_trapEntry (s := r) (t := s.failGang w id cause) (tr := tr)
    (by rw [hfail, he]; exact warp_updWarp_self { r with fresh := r.fresh + 1 } _ hlist)
    (fun v hv => by rw [hfail, he]; exact warp_updWarp_ne _ _ hv) (by rw [hfail, he]; rfl) (by rw [hfail, he]; rfl)
  have hvi : r.vi (r.warp w).vi = s.vi (s.warp w).vi := by rw [hwarp]; rw [hrest]; rfl
  have hcyc : r.cycle (r.warp w).core = s.cycle (s.warp w).core := by rw [hwarp]; rw [hrest]; rfl
  have hcur : (r.warp w).cur = (s.warp w).cur := by rw [hwarp]
  have hpc : ∀ l, ((r.warp w).lane l).pc = ((s.warp w).lane l).pc := fun l => by rw [hlane]; split_ifs <;> rfl
  refine ⟨e1, e2, e3, by rw [← hcur]; exact e4, fun l hl => ?_, fun v x => (e6 v x).trans ?_,
    fun v hv => (e7 v hv).trans (hothers v hv), e8.trans (by rw [hrest])⟩
  · obtain ⟨p1, p2, p3, p4, p5, p6⟩ := e5 l (by rw [halive]; exact hl)
    refine ⟨p1.trans (by rw [hvi]), p2, p3, p4.trans (by rw [hcyc]), p5.trans (by rw [hpc]; rfl), p6.trans ?_⟩
    rw [hlane]
    show (if ((s.warp w).gangLanes id).getLsbD l = true then _ else _) = _
    split_ifs <;> rfl
  · have hb : r.blocks = s.blocks := by rw [hrest]
    by_cases hv : v = w
    · subst hv
      exact reads_congr hb (by rw [hwarp]) (by rw [hwarp]) (fun l => by rw [hlane]; split_ifs <;> rfl) x
    · exact reads_congr hb (by rw [hothers v hv]) (by rw [hothers v hv]) (fun l => by rw [hothers v hv]) x

/-! ### Lists in an order -/

theorem mem_of_firstBy {α : Type} {lt : α → α → Bool} {xs : List α} {x : α} (h : firstBy lt xs = some x) : x ∈ xs := by
  induction xs generalizing x with
  | nil => cases h
  | cons y ys ih =>
    unfold firstBy at h
    cases e : firstBy lt ys with
    | none => rw [e] at h; cases h; exact List.mem_cons_self
    | some z =>
      rw [e] at h
      dsimp only at h
      split_ifs at h <;> cases h
      · exact List.mem_cons_of_mem _ (ih e)
      · exact List.mem_cons_self

theorem mem_of_sortBy {α : Type} {lt : α → α → Bool} {xs : List α} {x : α} (h : x ∈ sortBy lt xs) : x ∈ xs := by
  have hfold : ∀ (xs acc : List α), x ∈ xs.foldl (fun acc y => acc.takeWhile (fun z => !lt y z) ++
      y :: acc.dropWhile (fun z => !lt y z)) acc → x ∈ xs ∨ x ∈ acc := by
    intro xs
    induction xs with
    | nil => exact fun acc h => .inr h
    | cons y ys ih =>
      intro acc h
      rcases ih _ h with h | h
      · exact .inl (List.mem_cons_of_mem _ h)
      · rcases List.mem_append.mp h with h | h
        · exact .inr ((List.takeWhile_sublist _).mem h)
        · rcases List.mem_cons.mp h with rfl | h
          · exact .inl List.mem_cons_self
          · exact .inr ((List.dropWhile_sublist _).mem h)
  exact (hfold xs [] h).resolve_right List.not_mem_nil

/-- The warp of a blocked frame request is listed. -/
theorem listed_of_frameReqs {s : State} {core : Nat} {q : FrameReq} (h : q ∈ s.frameReqs core) :
    (tget s.warps q.warp).isSome := by
  obtain ⟨x, hx, hq⟩ := List.mem_flatMap.mp h
  split_ifs at hq
  · exact absurd hq List.not_mem_nil
  · obtain ⟨g, -, rfl⟩ := List.mem_map.mp hq
    exact isSome_of_mem hx

/-! ### Slice-frames that are spilled -/

/-- A slice-frame spilled: its image is recorded, and its granules go to the pool of its core (R173). -/
theorem spillOne_spec {s o : State} {w sf : Nat} {x : SliceFrame} (hx : tget (s.warp w).slices sf = some x)
    (h : s.spillOne w sf = some o) :
    tget (o.warp w).slices sf = some { x with spilled := true, image := (s.warp w).imageOf sf x } ∧
      o.core (s.warp w).core = (s.core (s.warp w).core).release ((s.warp w).imageOf sf x) := by
  have hw : (tget s.warps w).isSome := by
    cases e : tget s.warps w with
    | some W => rfl
    | none => simp [State.warp, tgetD, e] at hx
  unfold State.spillOne at h
  simp only [hx] at h
  cases ht : s.takeSpill (dieOf (s.warp w).core) (s.block (s.warp w).block).area ((s.warp w).imageOf sf x * 128) sf with
  | none => rw [ht] at h; cases h
  | some t =>
    rw [ht] at h
    have hd : t = _ := takeSpill_onlyDies ht
    cases h
    refine ⟨?_, ?_⟩
    · refine (congrArg (fun W : Warp => tget W.slices sf) (warp_updWarp_self t _ (by rw [hd]; exact hw))).trans ?_
      exact tget_tset_self _ _ _
    · rw [core_updCore_self]
      rw [hd]
      rfl

/-- From s to t, what a round of the spill engine looks at stands: cores, what requests need, and what can be spilled. -/
structure State.SameFrames (s t : State) : Prop where
  core : ∀ c, t.core c = s.core c
  need : ∀ q, t.reqNeed q = s.reqNeed q
  spillable : ∀ w, t.spillable w = s.spillable w

theorem State.OnlyDies.frames {s t : State} (h : s.OnlyDies t) : s.SameFrames t := by
  unfold State.OnlyDies at h
  exact ⟨fun c => by rw [h]; rfl, fun q => by rw [h]; rfl, fun w => by rw [h]; rfl⟩

/-- A round whose first request can be served already spills nothing (R173). -/
theorem spillRound_served {s : State} {q : FrameReq} {core : Nat} (h : ((s.core core).cover q.warp (s.reqNeed q)).isSome)
    (xs : List (Nat × Nat)) : s.spillRound q core xs = s := by
  cases xs with
  | nil => exact if_pos h
  | cons x xs => exact if_pos h

end Sys2Proof.Machine

namespace Sys2Proof.Proofs

open Sys2Proof.Machine Sys2Proof.Claims

/-- A round on a core, once its engine has come to it (R173). -/
theorem exec_spillRound {core : Nat} {q : FrameReq} {s s' : State} (hq : firstBy FrameReq.before (s.frameReqs core) = some q)
    (hs : s' = s.noteSpills.updDie (dieOf core) (fun d => { d with spillQueue := d.spillQueue.tail })) :
    exec (.umbraSpillRound core) s = .next (if (s.noteSpills.die (dieOf core)).spillQueue.head? = some core
      then s'.spillRound q core (((sortBy FrameReq.victimBefore (s.frameReqs core)).map (·.warp)).eraseDups.flatMap
        (fun w => (s'.spillable w).map (fun y => (w, y.1))))
      else s) := by
  show execUmbraSpillRound core s = _
  unfold execUmbraSpillRound
  dsimp only
  rw [hq]
  subst hs
  by_cases h : (s.noteSpills.die (dieOf core)).spillQueue.head? = some core <;> simp [h]

/-- What a round of the spill engine does (R173). -/
theorem spillClause_holds : spillClause := by
  intro core q s s' hq hs
  have hx := exec_spillRound hq hs
  have hdies : s.OnlyDies s' := by rw [hs]; exact (noteSpills_onlyDies s).trans (onlyDies_updDie _ _ _)
  obtain ⟨hcore, hneed, hspillable⟩ := hdies.frames
  refine ⟨fun h => ?_, fun hhead => ?_⟩
  · rw [hx, if_neg]
    rcases h with h | h
    · intro e
      rw [due_of_noted (List.mem_of_mem_head? e)] at h
      cases h
    · exact h
  rw [if_pos hhead] at hx
  simp only [hspillable] at hx
  refine ⟨fun hcover => ?_, fun hcover => ⟨fun hnone hu hquiet => ⟨_, hx, ?_⟩, fun v sf x o hv hxs ho hcover' => ?_⟩⟩
  · rw [hx, spillRound_served (by rw [hcore, hneed]; exact hcover)]
  · have hw := listed_of_frameReqs (mem_of_firstBy hq)
    have hempty : (((sortBy FrameReq.victimBefore (s.frameReqs core)).map (·.warp)).eraseDups.flatMap
        (fun w => (s.spillable w).map (fun y => (w, y.1)))) = [] := by
      refine List.flatMap_eq_nil_iff.mpr fun w hw => ?_
      obtain ⟨v, hv, rfl⟩ := List.mem_map.mp (List.mem_eraseDups.mp hw)
      rw [hnone v (mem_of_sortBy hv)]
      rfl
    have hfail : s'.spillRound q core [] = s'.failGang q.warp q.gang cSpill :=
      if_neg (by rw [hcore, hneed, hcover]; simp)
    rw [hempty, hfail]
    have hd : s' = { s with dies := s'.dies } := hdies
    generalize s'.dies = ds at hd
    subst hd
    obtain ⟨e1, e2, e3, e4, e5, e6, e7, e8⟩ := failGang_enters (s := { s with dies := ds }) hw hquiet hu q.gang cSpill
    exact ⟨e1, e2, e3, e4, e5, e6, e7, e8⟩
  · have hround : s'.spillRound q core [(v, sf)] = o := by
      refine Eq.trans (if_neg (by rw [hcore, hneed, hcover]; simp)) ?_
      rw [ho]
      exact spillRound_served hcover' []
    rw [hv, hround] at hx
    have hwarp : s'.warp v = s.warp v := by rw [hdies]; rfl
    obtain ⟨h1, h2⟩ := spillOne_spec (by rw [hwarp]; exact hxs) ho
    rw [hwarp] at h1 h2
    rw [hcore] at h2
    exact ⟨o, hx, rfl, h1, h2⟩

/-- Settles O43: levels and argument records, the service of frame requests and the rounds of the spill engines. -/
theorem coreEvents : Obligations.CoreEvents := ⟨levelClause_holds, serveClause_holds, spillClause_holds⟩

end Sys2Proof.Proofs
end

section
/-! PROOFS. Launch queues: the doorbell, records and completion entries (R124, R126, R128, R396). -/

namespace Sys2Proof.Machine

/-! ### Messages and entries -/

/-- A message changes nothing but what is sent or pending (R366, R399). -/
theorem msix_spec (s : State) (i vec : Nat) : s.msix i vec = { s with vis := (s.msix i vec).vis, sent := (s.msix i vec).sent } ∧
    ∀ v, ∃ m, (s.msix i vec).vi v = { s.vi v with msix := m } := by
  unfold State.msix
  dsimp only
  split_ifs
  · exact ⟨rfl, fun v => ⟨_, rfl⟩⟩
  · refine ⟨rfl, fun v => ?_⟩
    rw [vi_updVi]
    split_ifs with e
    · rw [e]; exact ⟨_, rfl⟩
    · exact ⟨_, rfl⟩
  · exact ⟨rfl, fun v => ⟨_, rfl⟩⟩

/-- An entry of the error log leaves the launch queues (R397). -/
theorem errLog_lq (s : State) (i code die cix : Nat) (bix : Word) (addr v : Nat) :
    ((s.errLog i code die cix bix addr).vi v).lq = (s.vi v).lq := by
  have hupd : ∀ (s : State) (f : Vi → Vi), (∀ V, (f V).lq = V.lq) → ((s.updVi i f).vi v).lq = (s.vi v).lq := by
    intro s f h
    rw [vi_updVi]
    split_ifs with e
    · rw [h, e]
    · rfl
  unfold State.errLog State.errEntry
  dsimp only
  split_ifs
  · exact hupd s _ fun _ => rfl
  · obtain ⟨m, hm⟩ := (msix_spec _ i ((s.vi i).vec 2)).2 v
    rw [hm]
    exact hupd _ _ fun _ => rfl

/-- A completion queue with room takes an entry at once: its bytes, closed by PHASE, stand at the tail (R396). -/
theorem putCq_spec {s : State} {i : Nat} (h : Claims.CqRoom s i) {bs : List Byte} (hb : bs.length = 24) (core : Nat) (bix : Word) :
    let t := s.putCq i ⟨bs, 64, core, bix⟩
    Claims.CqEntry s t i bs ∧ (∀ v, (t.vi v).lq = (s.vi v).lq) ∧
      t = { s with mem := t.mem, poison := t.poison, vis := t.vis, sent := t.sent } := by
  obtain ⟨hroom, hok, hwait⟩ := h
  intro t
  let key := dpaKey ((s.vi i).cq.slot 32)
  let bytes := bs ++ leBytes 8 (s.vi i).cq.phase.toNat
  let r := (s.write key bytes false).updVi i (fun V => { V with cq := V.cq.push })
  have ht : t = r.msix i ((s.vi i).vec 0) := by
    have hcond : (decide ((s.vi i).cq.used ≥ 2 ^ (s.vi i).cq.log2n) || !s.ringOk i (s.vi i).cq 32
        || !(s.vi i).cqWait.isEmpty) = false := by
      simp [hok, hwait, hroom]
    show s.putCq i _ = _
    unfold State.putCq
    dsimp only
    rw [hcond]
    rfl
  obtain ⟨h1, h2⟩ := msix_spec r i ((s.vi i).vec 0)
  rw [← ht] at h1 h2
  have hr : ∀ v, r.vi v = if v = i then { s.vi v with cq := (s.vi v).cq.push } else s.vi v := fun v => by
    refine (vi_updVi _ _ _ _).trans ?_
    split_ifs with e
    · rw [e]; rfl
    · rfl
  refine ⟨⟨?_, fun k => ?_⟩, fun v => ?_, ?_⟩
  · obtain ⟨m, hm⟩ := h2 i
    rw [hm, hr, if_pos rfl]
    rfl
  · have hmem : t.mem = putBytes s.mem key bytes := by rw [h1]; rfl
    have hlen : bytes.length = 32 := by
      show (bs ++ _).length = 32
      rw [List.length_append, Laws.leBytes_length, hb]
    unfold State.byte
    rw [hmem, cellGet_putBytes, hlen]
    rfl
  · obtain ⟨m, hm⟩ := h2 v
    rw [hm, hr]
    split_ifs <;> rfl
  · rw [h1]
    rfl

theorem completion_length (kind status lq seq value src : Nat) : (completion kind status lq seq value src).length = 24 := by
  simp only [completion, List.length_append, Laws.leBytes_length]

/-! ### Entries of launch queues -/

/-- An interface's queue set: that queue is what it was set to, any other as it was. -/
theorem queue_tset (V : Vi) (q p : Nat) (r : Ring) :
    Vi.queue { V with lq := tset V.lq q r } p = if p = q then r else V.queue p := by
  unfold Vi.queue tgetD
  rw [tget_tset]
  split_ifs <;> rfl

/-- The entry in turn has been passed: its queue's head moves on, and of the interfaces nothing else but turns does (R396). -/
theorem passEntry_vi (s : State) (i q : Nat) : (s.passEntry i q).vi i = { s.vi i with
    lq := tset (s.vi i).lq q { (s.vi i).queue q with head := ((s.vi i).queue q).head + 1 }, lqTurn := (q + 1) % 4 } := by
  unfold State.passEntry
  rw [vi_updVi_self]
  rfl

theorem passEntry_vi_ne (s : State) {i v : Nat} (q : Nat) (h : v ≠ i) : (s.passEntry i q).vi v = s.vi v := by
  unfold State.passEntry
  rw [vi_updVi, if_neg h]
  rfl

theorem passEntry_queue (s : State) (i q : Nat) :
    ((s.passEntry i q).vi i).queue q = { (s.vi i).queue q with head := ((s.vi i).queue q).head + 1 } := by
  rw [passEntry_vi]
  exact (queue_tset (s.vi i) q q _).trans (if_pos rfl)

/-- Passing an entry leaves what interfaces have but for their launch queues. -/
theorem passEntry_keeps (s : State) (i q v : Nat) : ((s.passEntry i q).vi v).quads = (s.vi v).quads ∧
    ((s.passEntry i q).vi v).cq = (s.vi v).cq ∧ ((s.passEntry i q).vi v).cqWait = (s.vi v).cqWait ∧
    ((s.passEntry i q).vi v).restvec = (s.vi v).restvec ∧ (s.passEntry i q).ringOk v = s.ringOk v := by
  have hall : ∃ lq turn, (s.passEntry i q).vi v = { s.vi v with lq := lq, lqTurn := turn } := by
    by_cases h : v = i
    · subst h; exact ⟨_, _, passEntry_vi s v q⟩
    · exact ⟨_, _, passEntry_vi_ne s q h⟩
  obtain ⟨lq, turn, e⟩ := hall
  refine ⟨by rw [e], by rw [e], by rw [e], by rw [e], ?_⟩
  funext r n
  unfold State.ringOk
  rw [e]
  rfl

theorem inPool_passEntry (s : State) (i q v core cls : Nat) : (s.passEntry i q).inPool v core cls = s.inPool v core cls := by
  unfold State.inPool
  rw [(passEntry_keeps s i q v).1]
  rfl

theorem launchStatus_passEntry (s : State) (i q v : Nat) (bs : List Byte) :
    (s.passEntry i q).launchStatus v bs = s.launchStatus v bs := by
  have hpool : ∀ d cls, (s.passEntry i q).poolOn v d cls = s.poolOn v d cls := fun d cls => by
    unfold State.poolOn
    simp only [inPool_passEntry]
  unfold State.launchStatus
  simp only [hpool]

theorem cqRoom_passEntry {s : State} {i : Nat} (q : Nat) (h : Claims.CqRoom s i) : Claims.CqRoom (s.passEntry i q) i := by
  obtain ⟨-, hcq, hwait, -, hok⟩ := passEntry_keeps s i q i
  unfold Claims.CqRoom
  rw [hcq, hwait, hok]
  exact h

/-- The completion entry of an entry that has been passed (R396). -/
theorem launchResult_passEntry {s : State} {i q : Nat} (h : Claims.CqRoom s i) (seq st : Nat) :
    let u := (s.passEntry i q).launchResult i q seq st
    Claims.CqEntry s u i (completion 0 st q seq 0 0) ∧ u.grids = s.grids ∧ u.blocks = s.blocks ∧
      (u.vi i).queue q = { (s.vi i).queue q with head := ((s.vi i).queue q).head + 1 } := by
  intro u
  obtain ⟨h1, h2, h3⟩ := putCq_spec (cqRoom_passEntry q h) (completion_length 0 st q seq 0 0) 0 0
  obtain ⟨-, hcq, -, -, -⟩ := passEntry_keeps s i q i
  have hu : u = (s.passEntry i q).putCq i ⟨completion 0 st q seq 0 0, 64, 0, 0⟩ := rfl
  rw [← hu] at h1 h2 h3
  refine ⟨?_, by rw [h3]; rfl, by rw [h3]; rfl, ?_⟩
  · unfold Claims.CqEntry at h1 ⊢
    rw [hcq] at h1
    exact h1
  · unfold Vi.queue
    rw [h2]
    exact passEntry_queue s i q

end Sys2Proof.Machine

namespace Sys2Proof.Proofs

open Sys2Proof.Machine Sys2Proof.Claims

/-- The doorbell of a launch queue (R396). -/
theorem doorbell_moves {i q : Nat} {v : Word} {s : State} (h : s.ringOk i ((s.vi i).queue q) 128 = true) :
    ∃ u, exec (.launchQueueDoorbell i q v) s = .next u ∧
      if (v.setWidth 17 - ((s.vi i).queue q).head).toNat ≤ 2 ^ ((s.vi i).queue q).log2n then
        u = { s with vis := u.vis } ∧ (u.vi i).queue q = { (s.vi i).queue q with tail := v.setWidth 17 } ∧
        (∀ p, p ≠ q → (u.vi i).queue p = (s.vi i).queue p) ∧ ∀ x, x ≠ i → u.vi x = s.vi x
      else (u.vi i).queue q = (s.vi i).queue q := by
  have hx : exec (.launchQueueDoorbell i q v) s = .next
      (if (v.setWidth 17 - ((s.vi i).queue q).head).toNat > 2 ^ ((s.vi i).queue q).log2n
        then s.errLog i 0x0D 0 0 0 v.toNat
        else s.updVi i (fun V => { V with lq := tset V.lq q { (s.vi i).queue q with tail := v.setWidth 17 } })) := by
    show execLaunchQueueDoorbell i q v s = _
    unfold execLaunchQueueDoorbell
    dsimp only
    rw [h]
    rfl
  refine ⟨_, hx, ?_⟩
  by_cases hroom : (v.setWidth 17 - ((s.vi i).queue q).head).toNat ≤ 2 ^ ((s.vi i).queue q).log2n
  · rw [if_pos hroom, if_neg (Nat.not_lt.mpr hroom)]
    refine ⟨rfl, ?_, fun p hp => ?_, fun x hx => ?_⟩
    · rw [vi_updVi_self]
      exact (queue_tset _ q q _).trans (if_pos rfl)
    · rw [vi_updVi_self]
      exact (queue_tset _ q p _).trans (if_neg hp)
    · rw [vi_updVi, if_neg hx]
  · rw [if_neg hroom, if_pos (Nat.not_le.mp hroom)]
    unfold Vi.queue
    rw [errLog_lq]

/-- The entry in turn, when it is a launch record or of no kind (R124, R126). -/
theorem exec_launchRecord {i q : Nat} {s : State} (h : s.nextEntry = some (i, q)) :
    exec .launchRecord s = .next (if recNum (s.entryBytes i q) 0x18 1 = 1 then s
      else match (if recNum (s.entryBytes i q) 0x18 1 = 0 then s.launchStatus i (s.entryBytes i q) else some 1) with
      | some st => (s.passEntry i q).launchResult i q ((s.vi i).queue q).head.toNat st
      | none => { s.passEntry i q with
        uid := s.uid + 1, grids := tset s.grids s.uid { vi := i, q := q, seq := ((s.vi i).queue q).head.toNat,
                                                        launch := launchOf (s.entryBytes i q) } }) := by
  show execLaunchRecord s = _
  unfold execLaunchRecord
  rw [h]
  dsimp only
  simp only [beq_iff_eq, launchStatus_passEntry]
  by_cases hk : recNum (s.entryBytes i q) 0x18 1 = 1
  · rw [if_pos hk, if_pos hk]
  · rw [if_neg hk, if_neg hk]
    rfl

/-- Launch records (R124, R126, R396). -/
theorem recordClause_holds : recordClause := by
  refine ⟨fun i q v s h => doorbell_moves h, fun i q bs s hnext hbs => ?_⟩
  subst hbs
  have hx := exec_launchRecord hnext
  refine ⟨fun hk => by rw [hx, if_pos hk], fun hk hst => ⟨_, hx, ?_⟩, fun st hst hroom => ⟨_, hx, ?_⟩⟩
  · rw [if_neg (by omega), if_pos hk, hst]
    refine ⟨rfl, passEntry_queue s i q, tget_tset_self _ _ _, fun g hg => tget_tset_ne _ _ hg⟩
  · have hstatus : (if recNum (s.entryBytes i q) 0x18 1 = 0 then s.launchStatus i (s.entryBytes i q) else some 1) = some st := by
      rcases hst with ⟨hk, e⟩ | ⟨hk, rfl⟩
      · rw [if_pos hk, e]
      · rw [if_neg (by omega)]
    rw [if_neg (by omega), hstatus]
    obtain ⟨h1, h2, -, h4⟩ := launchResult_passEntry hroom ((s.vi i).queue q).head.toNat st
    exact ⟨h2, h4, h1⟩

/-- The completion of a grid (R128, R350, R396). -/
theorem completionClause_holds : completionClause := by
  intro g G s hG
  have hx : exec (.gridCompletion g) s = .next (if s.gridOver g = true
      then (((G.leaves.map (·.1)).eraseDups.foldl (fun s k => s.mergeLeaves G.vi G.leaves k) s).updGrid g
        (fun G => { G with done := true, leaves := [] })).launchResult G.vi G.q G.seq (G.failed.getD 0)
      else s) := by
    show execGridCompletion g s = _
    unfold execGridCompletion
    rw [hG]
    dsimp only
    cases s.gridOver g <;> rfl
  refine ⟨fun h => by rw [hx, h]; rfl, fun h hl hroom => ⟨_, hx, ?_⟩⟩
  rw [if_pos h, hl]
  have hgrids : ((([] : List (Nat × Nat × Nat × BitVec 64 × BitVec 3)).map (·.1)).eraseDups.foldl
    (fun s k => s.mergeLeaves G.vi [] k) s) = s := rfl
  rw [hgrids]
  obtain ⟨h1, -, h3⟩ := putCq_spec (s := s.updGrid g (fun G => { G with done := true, leaves := [] })) hroom
    (completion_length 0 (G.failed.getD 0) G.q G.seq 0 0) 0 0
  refine ⟨?_, h1⟩
  unfold State.launchResult
  rw [h3]
  show tget (tupd s.grids g _) g = _
  rw [tget_tupd, if_pos rfl, hG]
  rfl

end Sys2Proof.Proofs
end

section
/-! PROOFS. Launch frames, and waves of tasks (R127, R132, R138, R139, R170, R317). -/

namespace Sys2Proof.Machine

/-! ### Launch frames -/

/-- The frames of a lane that begins: the launch frame alone, in a slice-frame of its slice (R127). -/
def LaunchFrames (g : Nat) (fs : List Frame) : Prop := ∃ sf, fs = [⟨g, 0, 0, none, [], sf⟩]

/-- A lane with its launch frame alone. -/
def Lane.launchIn (L : Lane) (g sf : Nat) : Lane := { L with frames := [{ g := g, sf := sf }] }

/-- Some lanes of a warp with their launch frames alone. -/
def Warp.launchAll (W : Warp) (g sf : Nat) (ls : List Nat) : Warp := ls.foldl (fun W l => W.updLane l (·.launchIn g sf)) W

theorem launchAll_lane (W : Warp) (g sf : Nat) (ls : List Nat) (l : Nat) :
    (W.launchAll g sf ls).lane l = if l ∈ ls then (W.lane l).launchIn g sf else W.lane l := by
  unfold Warp.launchAll
  induction ls generalizing W with
  | nil => simp
  | cons a ls ih =>
    rw [List.foldl_cons, ih, lane_updLane]
    by_cases h : l = a
    · subst h
      by_cases hl : l ∈ ls <;> simp [hl, Lane.launchIn]
    · simp [h]

theorem launchAll_alive (W : Warp) (g sf : Nat) (ls : List Nat) : (W.launchAll g sf ls).alive = W.alive := by
  unfold Warp.launchAll
  induction ls generalizing W with
  | nil => rfl
  | cons a ls ih => exact (ih _).trans (mask_updLane W a (fun _ => rfl) rfl)

theorem launchAll_sliceless (W : Warp) (g sf : Nat) (ls : List Nat) : (W.launchAll g sf ls).sliceless = W.sliceless := by
  unfold Warp.launchAll
  induction ls generalizing W with
  | nil => rfl
  | cons a ls ih => exact ih _

/-- From s to t, frames of lanes of warp w, and its slice-frames, have changed, and numbers have been taken. -/
structure State.Launched (s t : State) (w : Nat) : Prop where
  rest : t = { s with warps := t.warps, uid := t.uid }
  grows : s.uid ≤ t.uid
  others : ∀ v, v ≠ w → t.warp v = s.warp v
  listed : ∀ v, (tget t.warps v).isSome = (tget s.warps v).isSome
  warp : (t.warp w).sliceless = (s.warp w).sliceless
  lane : ∀ l, (t.warp w).lane l = { (s.warp w).lane l with frames := ((t.warp w).lane l).frames }
  alive : (t.warp w).alive = (s.warp w).alive

theorem State.Launched.refl (s : State) (w : Nat) : s.Launched s w :=
  ⟨rfl, le_refl _, fun _ _ => rfl, fun _ => rfl, rfl, fun _ => rfl, rfl⟩

theorem State.Launched.trans {s t u : State} {w : Nat} (h : s.Launched t w) (k : t.Launched u w) : s.Launched u w where
  rest := by rw [k.rest, h.rest]
  grows := h.grows.trans k.grows
  others v hv := (k.others v hv).trans (h.others v hv)
  listed v := (k.listed v).trans (h.listed v)
  warp := k.warp.trans h.warp
  lane l := by rw [k.lane l, h.lane l]
  alive := k.alive.trans h.alive

/-- The launch frames of one slice of a warp. -/
def State.launchSlice (s : State) (w g : Nat) (lanes : List Nat) (k : Nat) : State :=
  let mine := lanes.filter (fun l => l / 4 == k)
  State.updWarp { s with uid := s.uid + 1 } w (fun W =>
    { W.launchAll g s.uid mine with slices := tset (W.launchAll g s.uid mine).slices s.uid ⟨1, k, mine, g, false, 0⟩ })

theorem launchSlices_eq (s : State) (w g : Nat) (slices lanes : List Nat) :
    s.launchSlices w g slices lanes = slices.foldl (fun s k => s.launchSlice w g lanes k) s := rfl

theorem launchSlice_spec (s : State) (w g : Nat) (lanes : List Nat) (k : Nat) :
    s.Launched (s.launchSlice w g lanes k) w ∧ ((tget s.warps w).isSome → ∀ l,
      ((s.launchSlice w g lanes k).warp w).lane l =
        if l ∈ lanes ∧ l / 4 = k then ((s.warp w).lane l).launchIn g s.uid else (s.warp w).lane l) := by
  let mine := lanes.filter (fun l => l / 4 == k)
  let f : Warp → Warp := fun W =>
    { W.launchAll g s.uid mine with slices := tset (W.launchAll g s.uid mine).slices s.uid ⟨1, k, mine, g, false, 0⟩ }
  have hwarp : (s.launchSlice w g lanes k).warp w = if (tget s.warps w).isSome then f (s.warp w) else s.warp w := by
    refine (warp_updWarp { s with uid := s.uid + 1 } w w f).trans ?_
    simp only [true_and]
    rfl
  have hlane : ∀ l, (f (s.warp w)).lane l =
      if l ∈ lanes ∧ l / 4 = k then ((s.warp w).lane l).launchIn g s.uid else (s.warp w).lane l := fun l => by
    refine (launchAll_lane (s.warp w) g s.uid mine l).trans ?_
    simp only [mine, List.mem_filter, beq_iff_eq]
  refine ⟨⟨rfl, Nat.le_succ _, fun v hv => warp_updWarp_ne { s with uid := s.uid + 1 } f hv, fun _ => isSome_updWarp _ _ _ _, ?_,
    fun l => ?_, ?_⟩, fun hw l => ?_⟩
  · rw [hwarp]
    split_ifs
    · exact launchAll_sliceless (s.warp w) g s.uid mine
    · rfl
  · rw [hwarp]
    split_ifs
    · rw [hlane]
      split_ifs <;> rfl
    · rfl
  · rw [hwarp]
    split_ifs
    · exact launchAll_alive (s.warp w) g s.uid mine
    · rfl
  · rw [hwarp, if_pos hw, hlane]

/-- Launch frames in some slices of a warp: the lanes of those slices have them, and no others' frames change (R127, R130). -/
theorem launchSlices_spec (s : State) (w g : Nat) (slices lanes : List Nat) :
    s.Launched (s.launchSlices w g slices lanes) w ∧ ((tget s.warps w).isSome → ∀ l, l ∈ lanes → l / 4 ∈ slices →
      LaunchFrames g (((s.launchSlices w g slices lanes).warp w).lane l).frames) := by
  rw [launchSlices_eq]
  have hkeep : ∀ (ks : List Nat) (s : State), (tget s.warps w).isSome → ∀ l, LaunchFrames g ((s.warp w).lane l).frames →
      LaunchFrames g (((ks.foldl (fun s k => s.launchSlice w g lanes k) s).warp w).lane l).frames := by
    intro ks
    induction ks with
    | nil => exact fun s _ l h => h
    | cons k ks ih =>
      intro s hw l h
      obtain ⟨h1, h2⟩ := launchSlice_spec s w g lanes k
      refine ih _ (by rw [h1.listed, hw]) l ?_
      rw [h2 hw]
      split_ifs
      · exact ⟨s.uid, rfl⟩
      · exact h
  induction slices generalizing s with
  | nil => exact ⟨.refl s w, fun _ l _ hl => absurd hl List.not_mem_nil⟩
  | cons k ks ih =>
    obtain ⟨h1, h2⟩ := launchSlice_spec s w g lanes k
    obtain ⟨k1, k2⟩ := ih (s.launchSlice w g lanes k)
    refine ⟨h1.trans k1, fun hw l hl hk => ?_⟩
    have hw' : (tget (s.launchSlice w g lanes k).warps w).isSome := by rw [h1.listed, hw]
    rcases List.mem_cons.mp hk with e | hk
    · refine hkeep ks _ hw' l ?_
      rw [h2 hw, if_pos ⟨hl, e⟩]
      exact ⟨s.uid, rfl⟩
    · exact k2 hw' l hl hk

/-! ### Waves -/

/-- Bins that hold no doomed task keep their tasks (R258). -/
theorem dropDoomed_none {s : State} {core : Nat}
    (h : ∀ x ∈ (s.core core).bins, ∀ t ∈ x.2.tasks, (s.fut t.fut).st ≠ .doom) : s.dropDoomed core = s := by
  have hfold : ∀ xs : List (Nat × Nat), (∀ x ∈ xs, (s.fut x.2).st ≠ .doom) → xs.foldl (fun (s : State) x =>
      if (s.fut x.2).st = .doom then (s.binDrop core x.1 x.2).futRelease x.2 else s) s = s := by
    intro xs
    induction xs with
    | nil => exact fun _ => rfl
    | cons x xs ih =>
      intro hx
      rw [List.foldl_cons, if_neg (hx x List.mem_cons_self)]
      exact ih fun y hy => hx y (List.mem_cons_of_mem _ hy)
  refine hfold _ fun x hx => ?_
  obtain ⟨b, hb, hx⟩ := List.mem_flatMap.mp hx
  obtain ⟨t, ht, rfl⟩ := List.mem_map.mp hx
  exact h b hb t ht

/-- A list's entries at their places, as a table. -/
theorem tget_zipIdx {α β : Type} (xs : List α) (f : Nat × α → β) (n i : Nat) :
    tget ((xs.zipIdx n).map (fun x => (x.2, f (x.2, x.1)))) (n + i) = xs[i]?.map (fun x => f (n + i, x)) := by
  induction xs generalizing n i with
  | nil => rfl
  | cons x xs ih =>
    cases i with
    | zero => simp [tget]
    | succ i =>
      have := ih (n + 1) i
      rw [show n + (i + 1) = n + 1 + i by omega]
      simp only [List.zipIdx_cons, List.map_cons, tget, List.getElem?_cons_succ]
      rw [if_neg (by omega), this]

/-- The lanes of a wave that is not protected are the first ones, in order (R139). -/
theorem waveLanes_map (ts : List TaskRec) : (waveLanes false ts).map (·.1) = List.range ts.length := by
  unfold waveLanes
  rw [if_neg (by decide), List.map_map]
  exact List.zipIdx_map_snd 0 ts |>.trans (by simp [List.range_eq_range'])

/-- Slices that the first n lanes of a warp take. -/
theorem slicesOf_range_length : ∀ n, n ≤ 32 → (slicesOf (List.range n)).length = (n + 3) / 4 := by decide

/-- The state of a wave's stacks: taken when the area has them, none otherwise. -/
def State.waveStacks (s : State) (die w : Nat) : State × Nat :=
  match (if (s.die die).stkBytes == 0 then none else s.takeSpill die (s.die die).spillRange (s.die die).stkBytes w) with
  | some t => (t, (s.die die).stkBytes)
  | none => (s, 0)

theorem waveStacks_onlyDies (s : State) (die w : Nat) : s.OnlyDies (s.waveStacks die w).1 := by
  unfold State.waveStacks
  split
  · next t h =>
    split_ifs at h
    exact takeSpill_onlyDies h
  · exact .refl s

/-- The lane of a task in a wave that is not protected (R139). -/
def State.waveLane (s : State) (G : Grid) (core : Nat) (b : Bin) (x : Nat × TaskRec) : Lane :=
  { alive := true, pc := b.entry, next := b.entry, since := s.cycle core, park := .argument
    shadow := G.launch.prot && x.1 % 2 == 1, task := some x.2.fut, arg := x.2.arg }

/-- A wave's warp as it begins, but for its launch frames (R132, R138, R139). -/
def State.waveWarp (s : State) (G : Grid) (core slot blk : Nat) (b : Bin) (ls : List (Nat × TaskRec)) : Warp :=
  { core := core, slot := slot, grid := b.grid, vi := G.vi, block := blk, wave := true, bix := b.bix
    prio := b.prio, level := b.prio, lanes := ls.map (fun x => (x.1, s.waveLane G core b x))
    syncs := ls.filterMap (fun x => if s.settled x.2.waits then none else some ⟨x.1, 0, x.2.waits⟩) }

/-- A wave made of a bin, with the stacks that it has taken: its record, its warp and its launch frames (R138, R139). -/
def State.makeWave (s : State) (x : State × Nat) (core k slot need : Nat) (b : Bin) : State :=
  let ls := waveLanes (s.grid b.grid).launch.prot b.tasks
  let B : Block :=
    { grid := b.grid, vi := (s.grid b.grid).vi, bix := b.bix.toNat, core := core, cid := (x.1.block b.block).cid
      warps := [s.uid + 1], serial := (x.1.block b.block).serial, area := (s.die (dieOf core)).spillRange, stk := x.2
      wave := true }
  let t := { x.1 with
    blocks := tset x.1.blocks s.uid B
    warps := tset x.1.warps (s.uid + 1) (x.1.waveWarp (s.grid b.grid) core slot s.uid b ls) }
  (t.updCore core (fun c => { c with free := c.free - need, bins := tdel c.bins k })).launchSlices (s.uid + 1)
    ((s.grid b.grid).launch.tdemand + 1) (slicesOf (ls.map (·.1))) (ls.map (·.1))

/-- A due bin with a slot becomes a wave when its core launches waves and has the granules (R138). -/
theorem execWaveLaunch_due {core k slot : Nat} {b : Bin} {s : State} (hd : (s.core core).dueBin = some (k, b))
    (hs : s.pickSlot core = some slot) (hdrop : s.dropDoomed core = s) {need : Nat} (hneed : need =
      (slicesOf ((waveLanes (s.grid b.grid).launch.prot b.tasks).map (·.1))).length * ((s.grid b.grid).launch.tdemand + 1)) :
    execWaveLaunch core s = .next (if s.launching core = false ∨ (s.core core).free < need then s
      else s.makeWave (State.waveStacks { s with uid := s.uid + 1 + 1 } (dieOf core) (s.uid + 1)) core k slot need b) := by
  unfold execWaveLaunch
  rw [hdrop]
  dsimp only
  rw [hd, hs]
  subst hneed
  by_cases h : s.launching core = false ∨ (s.core core).free < (slicesOf ((waveLanes (s.grid b.grid).launch.prot
      b.tasks).map (·.1))).length * ((s.grid b.grid).launch.tdemand + 1)
  · rw [if_pos h]
    refine congrArg _ (if_pos ?_)
    rcases h with h | h <;> simp [h]
  · rw [if_neg h]
    refine congrArg _ (Eq.trans (if_neg ?_) rfl)
    simpa [not_or] using h

end Sys2Proof.Machine

namespace Sys2Proof.Proofs

open Sys2Proof.Machine Sys2Proof.Claims

/-- A wave as it begins: its warp in its slot, its bin gone and its granules taken, each task in its lane (R138, R139). -/
theorem makeWave_spec {s : State} {x : State × Nat} (hx : State.OnlyDies { s with uid := s.uid + 1 + 1 } x.1)
    (core k slot need : Nat) {b : Bin} (hprot : (s.grid b.grid).launch.prot = false) :
    let u := s.makeWave x core k slot need b
    u.mem = s.mem ∧ u.core core = { s.core core with free := (s.core core).free - need, bins := tdel (s.core core).bins k } ∧
      (u.warp (s.uid + 1)).sliceless =
        (x.1.waveWarp (s.grid b.grid) core slot s.uid b (waveLanes false b.tasks)).sliceless ∧
      ∀ i y, b.tasks[i]? = some y → ∃ sf, (u.warp (s.uid + 1)).lane i =
        { alive := true, pc := b.entry, next := b.entry, since := s.cycle core, park := .argument
          task := some y.fut, arg := y.arg
          frames := [⟨(s.grid b.grid).launch.tdemand + 1, 0, 0, none, [], sf⟩] } := by
  intro u
  let W := x.1.waveWarp (s.grid b.grid) core slot s.uid b (waveLanes false b.tasks)
  let B : Block :=
    { grid := b.grid, vi := (s.grid b.grid).vi, bix := b.bix.toNat, core := core, cid := (x.1.block b.block).cid
      warps := [s.uid + 1], serial := (x.1.block b.block).serial, area := (s.die (dieOf core)).spillRange, stk := x.2
      wave := true }
  let a := State.updCore { x.1 with blocks := tset x.1.blocks s.uid B, warps := tset x.1.warps (s.uid + 1) W } core
    (fun c => { c with free := c.free - need, bins := tdel c.bins k })
  have hu : u = a.launchSlices (s.uid + 1) ((s.grid b.grid).launch.tdemand + 1)
      (slicesOf ((waveLanes false b.tasks).map (·.1))) ((waveLanes false b.tasks).map (·.1)) := by
    show s.makeWave x core k slot need b = _
    unfold State.makeWave
    rw [hprot]
  have hw : (tget a.warps (s.uid + 1)).isSome := by
    show (tget (tset x.1.warps (s.uid + 1) W) (s.uid + 1)).isSome
    rw [tget_tset_self]
    rfl
  have hwarp : a.warp (s.uid + 1) = W := tgetD_tset_self x.1.warps (s.uid + 1) W _
  have hcore : a.core core = { x.1.core core with free := (x.1.core core).free - need, bins := tdel (x.1.core core).bins k } :=
    core_updCore_self _ core _
  have hcore0 : x.1.core core = s.core core := by rw [hx]; rfl
  have hcyc : x.1.cycle core = s.cycle core := by rw [hx]; rfl
  have hmem : a.mem = s.mem := show x.1.mem = s.mem by rw [hx]
  obtain ⟨h1, h2⟩ := launchSlices_spec a (s.uid + 1) ((s.grid b.grid).launch.tdemand + 1)
    (slicesOf ((waveLanes false b.tasks).map (·.1))) ((waveLanes false b.tasks).map (·.1))
  rw [← hu] at h1 h2
  generalize a = a at h1 h2 hw hwarp hcore hmem
  refine ⟨by rw [h1.rest]; exact hmem, ?_, by rw [h1.warp, hwarp], fun i y hy => ?_⟩
  · rw [← hcore0, ← hcore, h1.rest]
    rfl
  · have hi : i < b.tasks.length := (List.getElem?_eq_some_iff.mp hy).1
    have hmemi : i ∈ (waveLanes false b.tasks).map (·.1) := by rw [waveLanes_map]; exact List.mem_range.mpr hi
    have hslice : i / 4 ∈ slicesOf ((waveLanes false b.tasks).map (·.1)) :=
      List.mem_eraseDups.mpr (List.mem_map_of_mem hmemi)
    obtain ⟨sf, hsf⟩ := h2 hw i hmemi hslice
    refine ⟨sf, ?_⟩
    have hlane : W.lane i = x.1.waveLane (s.grid b.grid) core b (i, y) := by
      have h := tget_zipIdx b.tasks (x.1.waveLane (s.grid b.grid) core b) 0 i
      rw [Nat.zero_add, hy] at h
      have hW : W.lanes = (b.tasks.zipIdx 0).map (fun z => (z.2, x.1.waveLane (s.grid b.grid) core b (z.2, z.1))) := by
        show ((waveLanes false b.tasks).map _ : List _) = _
        unfold waveLanes
        rw [if_neg (by decide), List.map_map]
        rfl
      unfold Warp.lane tgetD
      rw [hW, h]
      rfl
    rw [h1.lane, hsf, hwarp, hlane]
    unfold State.waveLane
    rw [hprot, hcyc]
    rfl

/-- The waves that a core launches (R132, R138, R139, R317). -/
theorem waveClause_holds : waveClause := by
  intro core k slot b s hd hs hprot hn hdoom
  have hneed : (slicesOf ((waveLanes (s.grid b.grid).launch.prot b.tasks).map (·.1))).length *
      ((s.grid b.grid).launch.tdemand + 1) = ((b.tasks.length + 3) / 4) * ((s.grid b.grid).launch.tdemand + 1) := by
    rw [hprot, waveLanes_map, slicesOf_range_length _ hn]
  refine ⟨_, execWaveLaunch_due hd hs (dropDoomed_none hdoom) hneed.symm, ?_⟩
  intro need
  by_cases h : s.launching core = false ∨ (s.core core).free < need
  · rw [if_pos h, if_pos h]
  · rw [if_neg h, if_neg h]
    obtain ⟨h1, h2, h3, h4⟩ := makeWave_spec (waveStacks_onlyDies { s with uid := s.uid + 1 + 1 } (dieOf core) (s.uid + 1))
      core k slot need hprot
    generalize s.makeWave _ core k slot need b = u at h1 h2 h3 h4 ⊢
    refine ⟨h1, by rw [h2]; exact tget_tdel_self _ _, by rw [h2], ?_, ?_, ?_, ?_, ?_, ?_, ?_, h4⟩
    · have e := congrArg Warp.wave h3; exact e
    · have e := congrArg Warp.slot h3; exact e
    · have e := congrArg Warp.core h3; exact e
    · have e := congrArg Warp.grid h3; exact e
    · have e := congrArg Warp.bix h3; exact e
    · have e := congrArg Warp.prio h3; exact e
    · have e := congrArg Warp.block h3; exact e

end Sys2Proof.Proofs
end

section
/-! PROOFS. The placement of blocks (R127, R129 to R132). -/

namespace Sys2Proof.Machine

/-! ### A warp begins -/

/-- Launch arguments as registers: each in the register of its place. -/
theorem tgetD_argCells (xs : List Word) (t : Table Cell) (n k : Nat) :
    tgetD ((xs.zipIdx n).foldl (fun t x => setCell t x.2 ⟨x.1, false⟩) t) k {} =
      if n ≤ k ∧ k < n + xs.length then ⟨xs.getD (k - n) 0, false⟩ else tgetD t k {} := by
  induction xs generalizing t n with
  | nil => rw [if_neg (by simp)]; rfl
  | cons x xs ih =>
    rw [List.zipIdx_cons, List.foldl_cons, ih, tgetD_setCell, List.length_cons]
    by_cases h : k = n
    · subst h
      rw [if_neg (by omega), if_pos rfl, if_pos (by omega), Nat.sub_self]
      rfl
    · rw [if_neg h]
      by_cases h' : n + 1 ≤ k ∧ k < n + 1 + xs.length
      · rw [if_pos h', if_pos (by omega), show k - n = k - (n + 1) + 1 by omega, List.getD_cons_succ]
      · rw [if_neg h', if_neg (by omega)]

/-- s0 to s7 of a launched warp hold UARG (R127, R353). -/
theorem launchUni_arg (L : LaunchRec) (bix wib : Nat) {k : Nat} (hk : k < 8) :
    tgetD (launchUni L bix wib) k {} = ⟨L.uarg.getD k 0, false⟩ := by
  have hargs : tgetD (L.uarg.zipIdx.foldl (fun t x => setCell t x.2 ⟨x.1, false⟩) []) k {} = ⟨L.uarg.getD k 0, false⟩ := by
    rw [tgetD_argCells]
    split_ifs with h
    · rfl
    · rw [List.getD_eq_default _ _ (by omega)]
      rfl
  unfold launchUni
  dsimp only
  split_ifs
  · rw [tgetD_setCell, if_neg (by omega), tgetD_setCell, if_neg (by omega), hargs]
  · exact hargs

/-- A launched warp but for its launch frames (R127). -/
def launchWarp (cyc slot b grid wib : Nat) (B : Block) (L : LaunchRec) : Warp :=
  { core := B.core, slot := slot, grid := grid, vi := B.vi, block := b, wib := wib, bix := BitVec.ofNat 32 B.bix
    role := L.roles.getD wib 0, prio := L.prio, level := L.prio
    lanes := (List.range 32).map (fun l =>
      (l, { alive := true, pc := L.entry, since := cyc, shadow := L.prot && l % 2 == 1 }))
    s := launchUni L B.bix wib }

/-- A table that lists what a function gives for the numbers below n. -/
theorem tget_map_range {α : Type} (f : Nat → α) {n k : Nat} (hk : k < n) :
    tget ((List.range n).map (fun l => (l, f l))) k = some (f k) := by
  have hfrom : ∀ n a, a ≤ k → k < a + n → tget ((List.range' a n).map (fun l => (l, f l))) k = some (f k) := by
    intro n
    induction n with
    | zero => exact fun a h1 h2 => absurd h2 (by omega)
    | succ n ih =>
      intro a h1 h2
      rw [List.range'_succ, List.map_cons]
      by_cases e : a = k
      · simp [tget, e]
      · simp only [tget, if_neg e]
        exact ih (a + 1) (by omega) (by omega)
  rw [List.range_eq_range']
  exact hfrom n 0 (Nat.zero_le k) (by omega)

theorem launchWarp_lane (cyc slot b grid wib : Nat) (B : Block) (L : LaunchRec) {l : Nat} (hl : l < 32) :
    (launchWarp cyc slot b grid wib B L).lane l =
      { alive := true, pc := L.entry, since := cyc, shadow := L.prot && l % 2 == 1 } := by
  have hlanes : (launchWarp cyc slot b grid wib B L).lanes = (List.range 32).map (fun l =>
      (l, { alive := true, pc := L.entry, since := cyc, shadow := L.prot && l % 2 == 1 })) := rfl
  unfold Warp.lane tgetD
  rw [hlanes, tget_map_range _ hl]
  rfl

/-- From s to t, no block and no warp of a number below those that s gives out has changed, nor has a grid or a clock. -/
structure State.Grows (s t : State) : Prop where
  uid : s.uid ≤ t.uid
  blocks : ∀ b, b < s.uid → t.block b = s.block b
  warps : ∀ w, w < s.uid → t.warp w = s.warp w
  grids : t.grids = s.grids
  cycle : t.cycle = s.cycle

theorem State.Grows.refl (s : State) : s.Grows s := ⟨le_refl _, fun _ _ => rfl, fun _ _ => rfl, rfl, rfl⟩

theorem State.Grows.trans {s t u : State} (h : s.Grows t) (k : t.Grows u) : s.Grows u where
  uid := h.uid.trans k.uid
  blocks b hb := (k.blocks b (hb.trans_le h.uid)).trans (h.blocks b hb)
  warps w hw := (k.warps w (hw.trans_le h.uid)).trans (h.warps w hw)
  grids := k.grids.trans h.grids
  cycle := k.cycle.trans h.cycle

/-- A warp of block b has begun (R127). -/
structure State.BegunIn (t : State) (b core : Nat) (L : LaunchRec) (w : Nat) : Prop where
  older : w < t.uid
  block : (t.warp w).block = b
  onCore : (t.warp w).core = core
  begun : Claims.Begun t w L (t.cycle core)

/-- A warp that has begun and that does not change has begun still. -/
theorem State.BegunIn.of_warp {s t : State} {b core w : Nat} {L : LaunchRec} (h : s.BegunIn b core L w)
    (hw : t.warp w = s.warp w) (hu : s.uid ≤ t.uid) (hc : t.cycle = s.cycle) : t.BegunIn b core L w where
  older := h.older.trans_le hu
  block := by rw [hw]; exact h.block
  onCore := by rw [hw]; exact h.onCore
  begun := by
    obtain ⟨h1, h2, h3⟩ := h.begun
    refine ⟨?_, ?_, ?_⟩
    · rw [hw, hc]; exact h1
    · intro k hk
      show tgetD (t.warp w).s k {} = _
      rw [hw]
      exact h2 k hk
    · rw [hw]; exact h3

/-- A warp of a block that begins: its stacks taken, the warp listed with its launch frames, and added to its block. -/
theorem startWarp_eq {s t : State} {b grid wib : Nat} {L : LaunchRec} (h : s.startWarp b grid wib L = some t) :
    ∃ slot x, State.OnlyDies { s with uid := s.uid + 1 } x ∧ t = (State.launchSlices { x with
      warps := tset x.warps s.uid (launchWarp (x.cycle (s.block b).core) slot b grid wib (s.block b) L) } s.uid (L.demand + 1)
      (List.range 8) (List.range 32)).updBlock b (fun B => { B with warps := B.warps ++ [s.uid] }) := by
  unfold State.startWarp at h
  dsimp only [State.take] at h
  split at h
  · next slot x _ hx =>
    refine ⟨slot, x, ?_, (Option.some.inj h).symm⟩
    split_ifs at hx
    · cases hx
      exact .refl _
    · exact takeSpill_onlyDies hx
  · cases h

/-- A warp of a listed block begins, with a number that nothing has: it is added to its block (R127, R132). -/
theorem startWarp_spec {s t : State} {b grid wib : Nat} {L : LaunchRec} (h : s.startWarp b grid wib L = some t)
    (hb : (tget s.blocks b).isSome) :
    s.uid < t.uid ∧ (∀ c, t.block c = if c = b then { s.block b with warps := (s.block b).warps ++ [s.uid] } else s.block c) ∧
      (tget t.blocks b).isSome ∧ (∀ v, v ≠ s.uid → t.warp v = s.warp v) ∧ t.grids = s.grids ∧ t.cycle = s.cycle ∧
      t.BegunIn b (s.block b).core L s.uid := by
  obtain ⟨slot, x, hx, ht⟩ := startWarp_eq h
  let W := launchWarp (x.cycle (s.block b).core) slot b grid wib (s.block b) L
  let a : State := { x with warps := tset x.warps s.uid W }
  have hgrids : a.grids = s.grids := show x.grids = s.grids by rw [hx]
  have hblocks : a.blocks = s.blocks := show x.blocks = s.blocks by rw [hx]
  have hcyc : a.cycle = s.cycle := show x.cycle = s.cycle by rw [hx]; rfl
  have huid : a.uid = s.uid + 1 := show x.uid = s.uid + 1 by rw [hx]
  have hself : a.warp s.uid = W := tgetD_tset_self x.warps s.uid W _
  have hne : ∀ v, v ≠ s.uid → a.warp v = s.warp v := fun v hv =>
    (tgetD_tset_ne x.warps W _ hv).trans (show x.warp v = s.warp v by rw [hx]; rfl)
  have hlist : (tget a.warps s.uid).isSome := by
    show (tget (tset x.warps s.uid W) s.uid).isSome
    rw [tget_tset_self]
    rfl
  obtain ⟨h1, h2⟩ := launchSlices_spec a s.uid (L.demand + 1) (List.range 8) (List.range 32)
  have hframes := h2 hlist
  change t = (a.launchSlices s.uid (L.demand + 1) (List.range 8) (List.range 32)).updBlock b _ at ht
  generalize a.launchSlices s.uid (L.demand + 1) (List.range 8) (List.range 32) = p at h1 hframes ht
  have hpb : p.blocks = s.blocks := by rw [h1.rest]; exact hblocks
  have hpcyc : p.cycle = s.cycle := by rw [h1.rest]; exact hcyc
  have hpuid : s.uid < p.uid := by have := h1.grows; omega
  have hblock : ∀ c, p.block c = s.block c := fun c => by unfold State.block; rw [hpb]
  have hsame : (p.warp s.uid).sliceless = W.sliceless := h1.warp.trans (by rw [hself])
  have hxcyc : x.cycle (s.block b).core = p.cycle (s.block b).core := by rw [hpcyc, ← hcyc]; rfl
  have hbegun : Claims.Begun p s.uid L (p.cycle (s.block b).core) := by
    refine ⟨fun l hl => ?_, fun k hk => ?_, ?_⟩
    · have hlane : (p.warp s.uid).lane l =
          { alive := true, pc := L.entry, since := x.cycle (s.block b).core, shadow := L.prot && l % 2 == 1
            frames := ((p.warp s.uid).lane l).frames } := by
        rw [h1.lane, hself, launchWarp_lane _ _ _ _ _ _ _ hl]
      obtain ⟨sf, hsf⟩ := hframes l (List.mem_range.mpr hl) (List.mem_range.mpr (by omega))
      exact ⟨by rw [hlane], by rw [hlane], by rw [hlane], by rw [hlane]; exact hxcyc, by rw [hlane], sf, hsf⟩
    · have e : (p.warp s.uid).s = launchUni L (s.block b).bix wib := by
        have e := congrArg Warp.s hsame; exact e
      show tgetD (p.warp s.uid).s k {} = _
      rw [e]
      exact launchUni_arg L _ _ hk
    · have hwib : (p.warp s.uid).wib = wib := by have e := congrArg Warp.wib hsame; exact e
      have hrole : (p.warp s.uid).role = L.roles.getD wib 0 := by have e := congrArg Warp.role hsame; exact e
      refine ⟨?_, ?_, ?_, ?_, ?_, by rw [hrole, hwib]⟩
      · have e := congrArg Warp.cur hsame; exact e
      · have e := congrArg Warp.fpstat hsame; exact e
      · have e := congrArg Warp.m hsame; exact e
      · have e := congrArg Warp.prio hsame; exact e
      · have e := congrArg Warp.level hsame; exact e
  have hin : p.BegunIn b (s.block b).core L s.uid := by
    refine ⟨hpuid, ?_, ?_, hbegun⟩
    · have e := congrArg Warp.block hsame; exact e
    · have e := congrArg Warp.core hsame; exact e
  subst ht
  refine ⟨hpuid, fun c => ?_, ?_, fun v hv => (h1.others v hv).trans (hne v hv), ?_, hpcyc,
    hin.of_warp rfl (le_refl _) rfl⟩
  · rw [block_updBlock, hpb, hblock, hblock]
    simp only [hb, and_true]
  · show (tget (tupd p.blocks b _) b).isSome
    rw [tget_tupd, if_pos rfl, hpb, Option.isSome_map]
    exact hb
  · show p.grids = _
    rw [h1.rest]
    exact hgrids

/-! ### A block is placed -/

/-- Block b has been placed as block i of a grid: each of its warps has begun (R127, R130). -/
structure State.PlacedBlock (t : State) (b grid i : Nat) (L : LaunchRec) : Prop where
  older : b < t.uid
  grid : (t.block b).grid = grid
  bix : (t.block b).bix = i
  live : (t.block b).live = true
  warps : (t.block b).warps.length = L.warps + 1
  begun : ∀ w ∈ (t.block b).warps, t.BegunIn b (t.block b).core L w

theorem State.PlacedBlock.of_grows {s t : State} {b grid i : Nat} {L : LaunchRec} (h : s.PlacedBlock b grid i L)
    (k : s.Grows t) : t.PlacedBlock b grid i L := by
  have e := k.blocks b h.older
  refine ⟨h.older.trans_le k.uid, by rw [e]; exact h.grid, by rw [e]; exact h.bix, by rw [e]; exact h.live,
    by rw [e]; exact h.warps, fun w hw => ?_⟩
  rw [e] at hw ⊢
  have hb := h.begun w hw
  exact hb.of_warp (k.warps w hb.older) k.uid k.cycle

/-- What a block has while its warps begin one after the other: those that have begun so far. -/
structure State.Filling (s t : State) (b : Nat) (B : Block) (L : LaunchRec) (n : Nat) : Prop where
  grows : s.Grows t
  listed : (tget t.blocks b).isSome
  newer : b < t.uid
  block : ∃ ws, t.block b = { B with warps := ws } ∧ ws.length = n ∧ ∀ w ∈ ws, t.BegunIn b B.core L w

/-- Some warps of a block begin one after the other; none does once one cannot. -/
def startWarps (b grid : Nat) (L : LaunchRec) (is : List Nat) (o : Option State) : Option State :=
  is.foldl (fun o i => match o with
    | none => none
    | some s => State.startWarp s b grid i L) o

theorem startWarps_none (b grid : Nat) (L : LaunchRec) (is : List Nat) : startWarps b grid L is none = none := by
  induction is with
  | nil => rfl
  | cons i is ih => exact ih

theorem startWarps_cons (s : State) (b grid : Nat) (L : LaunchRec) (i : Nat) (is : List Nat) :
    startWarps b grid L (i :: is) (some s) = startWarps b grid L is (s.startWarp b grid i L) := rfl

/-- The warps of a new block begin (R127). -/
theorem startWarps_filling {s t t' : State} {b grid n : Nat} {B : Block} {L : LaunchRec} (hb : s.uid ≤ b)
    (h : s.Filling t b B L n) {is : List Nat} (ht : startWarps b grid L is (some t) = some t') :
    s.Filling t' b B L (n + is.length) := by
  induction is generalizing t n with
  | nil => cases ht; exact h
  | cons i is ih =>
    rw [startWarps_cons] at ht
    cases e : t.startWarp b grid i L with
    | none => rw [e, startWarps_none] at ht; cases ht
    | some u =>
      rw [e] at ht
      rw [List.length_cons, show n + (is.length + 1) = n + 1 + is.length by omega]
      refine ih ?_ ht
      obtain ⟨h1, h2, h3, h4, h5, h6, h7⟩ := startWarp_spec e h.listed
      obtain ⟨ws, hws, hlen, hbegun⟩ := h.block
      have hle : s.uid ≤ t.uid := h.grows.uid
      have hgrows : s.Grows u := by
        refine ⟨hle.trans h1.le, fun c hc => ?_, fun w hw => ?_, h5.trans h.grows.grids, h6.trans h.grows.cycle⟩
        · rw [h2, if_neg (by omega)]
          exact h.grows.blocks c hc
        · rw [h4 w (by omega)]
          exact h.grows.warps w hw
      refine ⟨hgrows, h3, h.newer.trans h1, ws ++ [t.uid], ?_, ?_, fun w hw => ?_⟩
      · rw [h2, if_pos rfl, hws]
      · rw [List.length_append, hlen]
        rfl
      · rcases List.mem_append.mp hw with hw | hw
        · have hold := hbegun w hw
          exact hold.of_warp (h4 w (Nat.ne_of_lt hold.older)) h1.le h6
        · rw [List.mem_singleton.mp hw]
          rw [hws] at h7
          exact h7

/-- Tiles that are zeroed change storage only (R278). -/
theorem zeroTiles_rest (s : State) (core : Nat) (tiles : List Nat) : s.zeroTiles core tiles =
    { s with mem := (s.zeroTiles core tiles).mem, absent := (s.zeroTiles core tiles).absent
             poison := (s.zeroTiles core tiles).poison } := by
  unfold State.zeroTiles
  induction tiles generalizing s with
  | nil => rfl
  | cons t ts ih =>
    rw [List.foldl_cons, ih]
    rfl

/-- A block placed on a core: its record, without warps, in a state in which they begin (R130). -/
theorem placeBlock_eq {s t : State} {grid i core cid : Nat} (h : s.placeBlock grid i core cid = some t) :
    ∃ x B, x.blocks = tset s.blocks s.uid B ∧ x.warps = s.warps ∧ x.grids = s.grids ∧ x.cycle = s.cycle ∧
      x.uid = s.uid + 1 ∧ B.grid = grid ∧ B.bix = i ∧ B.core = core ∧ B.live = true ∧ B.warps = [] ∧
      startWarps s.uid grid (s.grid grid).launch (List.range ((s.grid grid).launch.warps + 1)) (some x) = some t := by
  unfold State.placeBlock at h
  dsimp only [State.take] at h
  split at h
  · cases h
  · next unit _ =>
    generalize hz : State.zeroTiles { s with uid := s.uid + 1 } core _ = z at h
    have hzr : z = { s with uid := s.uid + 1, mem := z.mem, absent := z.absent, poison := z.poison } := by
      rw [← hz]
      exact zeroTiles_rest _ _ _
    refine ⟨_, ?B, ?blocks, ?_, ?_, ?_, ?_, ?_, ?_, ?_, ?_, ?_, h⟩
    case blocks => exact congrArg (fun bs => tset bs s.uid _) (show z.blocks = s.blocks by rw [hzr])
    · show z.warps = s.warps
      rw [hzr]
    · show z.grids = s.grids
      rw [hzr]
    · show z.cycle = s.cycle
      rw [hzr]
      rfl
    · show z.uid = s.uid + 1
      rw [hzr]
    all_goals rfl

/-- A block placed on a core takes the next number, and each of its warps begins (R130, R132). -/
theorem placeBlock_spec {s t : State} {grid i core cid : Nat} (h : s.placeBlock grid i core cid = some t) :
    s.Grows t ∧ t.PlacedBlock s.uid grid i (s.grid grid).launch := by
  obtain ⟨x, B, hblocks, hwarps, hgrids, hcyc, huid, hgrid, hbix, hcore, hlive, hnil, hfold⟩ := placeBlock_eq h
  have hself : x.block s.uid = B := by
    unfold State.block
    rw [hblocks]
    exact tgetD_tset_self _ _ _ _
  have hfill : s.Filling x s.uid B (s.grid grid).launch 0 := by
    refine ⟨⟨by omega, fun c hc => ?_, fun w _ => ?_, hgrids, hcyc⟩, ?_, by omega, [], ?_, rfl, ?_⟩
    · unfold State.block
      rw [hblocks]
      exact tgetD_tset_ne _ _ _ (Nat.ne_of_lt hc)
    · unfold State.warp
      rw [hwarps]
    · rw [hblocks, tget_tset_self]
      rfl
    · rw [hself, ← hnil]
    · exact fun w hw => absurd hw List.not_mem_nil
  obtain ⟨hgrows, -, hnewer, ws, hws, hlen, hbegun⟩ := startWarps_filling (le_refl s.uid) hfill hfold
  rw [Nat.zero_add, List.length_range] at hlen
  refine ⟨hgrows, hnewer, by rw [hws]; exact hgrid, by rw [hws]; exact hbix, by rw [hws]; exact hlive, by rw [hws]; exact hlen,
    fun w hw => ?_⟩
  rw [hws] at hw ⊢
  exact hbegun w hw

/-! ### A cluster is placed -/

/-- Some blocks are placed on cores one after the other; none is once one cannot be. -/
def placeBlocks (grid cid : Nat) (xs : List (Nat × Nat)) (o : Option State) : Option State :=
  xs.foldl (fun o x => match o with
    | none => none
    | some s => State.placeBlock s grid x.1 x.2 cid) o

theorem placeBlocks_none (grid cid : Nat) (xs : List (Nat × Nat)) : placeBlocks grid cid xs none = none := by
  induction xs with
  | nil => rfl
  | cons x xs ih => exact ih

theorem placeBlocks_cons (s : State) (grid cid : Nat) (x : Nat × Nat) (xs : List (Nat × Nat)) :
    placeBlocks grid cid (x :: xs) (some s) = placeBlocks grid cid xs (s.placeBlock grid x.1 x.2 cid) := rfl

/-- Every block of a list that is placed stands in the end (R131). -/
theorem placeBlocks_spec {s t : State} {grid cid : Nat} {xs : List (Nat × Nat)}
    (h : placeBlocks grid cid xs (some s) = some t) :
    s.Grows t ∧ ∀ x ∈ xs, ∃ b, t.PlacedBlock b grid x.1 (s.grid grid).launch := by
  induction xs generalizing s with
  | nil => cases h; exact ⟨.refl _, fun x hx => absurd hx List.not_mem_nil⟩
  | cons x xs ih =>
    rw [placeBlocks_cons] at h
    cases e : s.placeBlock grid x.1 x.2 cid with
    | none => rw [e, placeBlocks_none] at h; cases h
    | some u =>
      rw [e] at h
      obtain ⟨h1, h2⟩ := placeBlock_spec e
      obtain ⟨k1, k2⟩ := ih h
      have hgrid : u.grid grid = s.grid grid := by unfold State.grid; rw [h1.grids]
      rw [hgrid] at k2
      refine ⟨h1.trans k1, fun y hy => ?_⟩
      rcases List.mem_cons.mp hy with rfl | hy
      · exact ⟨s.uid, h2.of_grows k1⟩
      · exact k2 y hy

/-- A state with the blocks, warps, grids and clocks of another, and with numbers taken. -/
theorem grows_of {s t : State} (hb : t.blocks = s.blocks) (hw : t.warps = s.warps) (hg : t.grids = s.grids)
    (hc : t.cycle = s.cycle) (hu : s.uid ≤ t.uid) : s.Grows t :=
  ⟨hu, fun b _ => by unfold State.block; rw [hb], fun w _ => by unfold State.warp; rw [hw], hg, hc⟩

/-- An initial cluster placed on cores: its blocks are placed once it has its segment and its number (R131, R180). -/
theorem placeCluster_eq {s t : State} {grid die : Nat} {bs cores : List Nat} (h : s.placeCluster grid die bs cores = some t) :
    ∃ x cid, s.Grows x ∧ placeBlocks grid cid (bs.zip cores) (some x) = some t := by
  -- The kernel must not evaluate the searches for a number and a segment, nor whether a bank wakes: they are opaque before the
  -- placement is unfolded.
  obtain ⟨rouse, hrouse, hrouse'⟩ : ∃ rouse, (∀ (s : State) key n, s.OnlyDies (rouse s key n)) ∧ State.rouseRange = rouse :=
    ⟨_, rouseRange_onlyDies, rfl⟩
  obtain ⟨number, hnumber⟩ : ∃ number, number = State.freeCid := ⟨_, rfl⟩
  obtain ⟨segment, hsegment⟩ : ∃ segment, segment = State.segmentFit := ⟨_, rfl⟩
  obtain ⟨place, hplace⟩ : ∃ place, State.placeCluster = place := ⟨_, rfl⟩
  rw [hplace] at h
  delta State.placeCluster at hplace
  rw [← hnumber, ← hsegment, hrouse'] at hplace
  subst hplace
  dsimp only [State.take] at h
  generalize 2 ^ 18 * ((s.grid grid).launch.clsize + 1) = size at h
  generalize segment s die size = base at h
  generalize number s die = cid at h
  match base, cid with
  | some base, some cid =>
    refine ⟨_, cid, ?_, h⟩
    have hr := hrouse { s with uid := s.uid + 1 } (dspKey die base) size
    generalize rouse { s with uid := s.uid + 1 } (dspKey die base) size = r at hr
    refine grows_of ?_ ?_ ?_ ?_ ?_
    · show r.blocks = s.blocks
      rw [hr]
    · show r.warps = s.warps
      rw [hr]
    · show r.grids = s.grids
      rw [hr]
    · show r.cycle = s.cycle
      rw [hr]
      rfl
    · show s.uid ≤ r.uid
      rw [hr]
      exact Nat.le_succ _
  | none, _ => cases h
  | some _, none => cases h

/-- A placed cluster has each of its blocks on a core, when there are cores for all (R131). -/
theorem placeCluster_spec {s t : State} {grid die : Nat} {bs cores : List Nat} (h : s.placeCluster grid die bs cores = some t)
    (hlen : bs.length ≤ cores.length) :
    s.Grows t ∧ ∀ i ∈ bs, ∃ b, t.PlacedBlock b grid i (s.grid grid).launch := by
  obtain ⟨x, cid, hx, hplace⟩ := placeCluster_eq h
  obtain ⟨hgrows, hall⟩ := placeBlocks_spec hplace
  have hgrid : x.grid grid = s.grid grid := by unfold State.grid; rw [hx.grids]
  rw [hgrid] at hall
  refine ⟨hx.trans hgrows, fun i hi => ?_⟩
  rw [← List.map_fst_zip hlen] at hi
  obtain ⟨y, hy, rfl⟩ := List.mem_map.mp hi
  exact hall y hy

/-- A chosen die has as many admitting cores as the cluster needs (R131). -/
theorem pickDie_length {s : State} {v n d : Nat} {L : LaunchRec} {cs : List Nat} (h : s.pickDie v n L = some (d, cs)) :
    n ≤ cs.length := by
  have hfold : ∀ (ds : List Nat) (o : Option (Nat × List Nat)), (∀ x, o = some x → n ≤ x.2.length) →
      ∀ x, ds.foldl (fun (o : Option (Nat × List Nat)) d =>
        let cs := (dieCores d).filter (fun c => s.admitsBlock v c L)
        if cs.length < n then o
        else match o with
          | none => some (d, cs)
          | some (_, best) => if cs.length > best.length then some (d, cs) else o) o = some x → n ≤ x.2.length := by
    intro ds
    induction ds with
    | nil => exact fun o h => h
    | cons d ds ih =>
      intro o ho
      refine ih _ fun x hx => ?_
      dsimp only at hx
      split_ifs at hx with hn
      · exact ho x hx
      · split at hx
        · cases hx; exact Nat.not_lt.mp hn
        · split_ifs at hx
          · cases hx; exact Nat.not_lt.mp hn
          · exact ho x hx
  exact hfold (List.range 4) none (fun _ h => by cases h) (d, cs) h

/-- A grid's next initial cluster, once placed: each of its blocks stands (R131). -/
theorem tryPlace_spec {s t : State} {g : Nat} (h : s.tryPlace g = some t) :
    t.cycle = s.cycle ∧ ∀ i ∈ (s.grid g).nextBlocks, ∃ b, t.PlacedBlock b g i (s.grid g).launch := by
  -- The kernel must not evaluate the searches for cores, numbers and segments: both functions stay opaque.
  obtain ⟨place, hplace⟩ : ∃ place, place = State.placeCluster := ⟨_, rfl⟩
  obtain ⟨pick, hpick⟩ : ∃ pick, pick = State.pickDie := ⟨_, rfl⟩
  unfold State.tryPlace at h
  rw [← hplace, ← hpick] at h
  dsimp only at h
  split_ifs at h
  generalize hdie : pick s (s.grid g).vi (s.grid g).nextBlocks.length (s.grid g).launch = die at h
  match die with
  | none => cases h
  | some (d, cs) =>
    dsimp only at h
    generalize hu : place s g d (s.grid g).nextBlocks (cs.take (s.grid g).nextBlocks.length) = u at h
    cases u with
    | none => cases h
    | some u =>
      cases h
      rw [hplace] at hu
      rw [hpick] at hdie
      have hlen : (s.grid g).nextBlocks.length ≤ (cs.take (s.grid g).nextBlocks.length).length := by
        rw [List.length_take]
        exact le_min (le_refl _) (pickDie_length hdie)
      obtain ⟨hgrows, hall⟩ := placeCluster_spec hu hlen
      refine ⟨hgrows.cycle, fun i hi => ?_⟩
      obtain ⟨b, hb⟩ := hall i hi
      exact ⟨b, hb.older, hb.grid, hb.bix, hb.live, hb.warps, fun w hw => (hb.begun w hw).of_warp rfl (le_refl _) rfl⟩

end Sys2Proof.Machine

namespace Sys2Proof.Proofs

open Sys2Proof.Machine Sys2Proof.Claims

/-- Block placement when no restore of the grid can be placed and nothing goes before it (R129). -/
theorem exec_blockPlacement {g : Nat} {s : State} (hr : s.waitingRestore g = none) (hq : s.queueBehind g = false)
    (he : ∀ x ∈ s.grids, x.1 < g → s.queueBehind x.1 = true ∨ s.tryPlace x.1 = none) :
    exec (.blockPlacement g) s = .next ((s.tryPlace g).getD s) := by
  have hany : s.grids.any (fun x => decide (x.1 < g) && (!s.queueBehind x.1 && (s.tryPlace x.1).isSome)) = false := by
    rw [List.any_eq_false]
    intro x hx h
    simp only [Bool.and_eq_true, decide_eq_true_eq, Bool.not_eq_true'] at h
    obtain ⟨hlt, hbehind, hcan⟩ := h
    rcases he x hx hlt with e | e
    · rw [e] at hbehind; cases hbehind
    · rw [e] at hcan; cases hcan
  show execBlockPlacement g s = _
  unfold execBlockPlacement
  rw [hr]
  dsimp only
  rw [hq, hany]
  rfl

/-- The placement of a grid's next initial cluster (R127, R129 to R132). -/
theorem placementClause_holds : placementClause := by
  intro g s hr hq he
  have hx := exec_blockPlacement hr hq he
  refine ⟨fun h => by rw [hx, h]; rfl, fun h => ?_⟩
  obtain ⟨u, hu⟩ := Option.isSome_iff_exists.mp h
  rw [hu] at hx
  refine ⟨u, hx, fun i hi => ?_⟩
  obtain ⟨hcyc, hall⟩ := tryPlace_spec hu
  obtain ⟨b, hb⟩ := hall i hi
  refine ⟨b, hb.grid, hb.bix, hb.live, hb.warps, fun w hw => ?_⟩
  obtain ⟨-, hblock, hcore, hbegun⟩ := hb.begun w hw
  rw [hcyc] at hbegun
  exact ⟨hblock, hcore, hbegun⟩

end Sys2Proof.Proofs
end

section
/-! PROOFS. Restores of saved blocks (R346, R375, R396), and the settlement of the launch events. -/

namespace Sys2Proof.Machine

/-! ### A warp returns -/

/-- A warp has returned to a core (R375): at system privilege, each lane that was unended at the restore vector in a launch
frame. -/
structure Warp.Returned (W : Warp) (core : Nat) (vec : DWord) (alive : BitVec 32) : Prop where
  cur : W.cur = true
  prev : W.prev = false
  saved : W.saved = false
  restoring : W.restoring = true
  onCore : W.core = core
  lanes : ∀ l, alive.getLsbD l = true → (W.lane l).pc = vec ∧ (W.lane l).depth = 1 ∧ (W.lane l).park = .no

/-- What a restore makes of a warp before it has its launch frames: each unended lane at the restore vector (R375). -/
structure ReturnsTo (F : Warp → Warp) (core : Nat) (vec : DWord) : Prop where
  fields : ∀ W, (F W).cur = true ∧ (F W).prev = false ∧ (F W).saved = false ∧ (F W).restoring = true ∧ (F W).core = core
  alive : ∀ W, (F W).alive = W.alive
  lanes : ∀ W l, W.alive.getLsbD l = true → ((F W).lane l).pc = vec ∧ ((F W).lane l).park = .no

/-- An unended lane of a restored warp, but for its frames (R375). -/
def State.returnLane (s : State) (w core l : Nat) (L : Lane) : Lane :=
  { L with
    pc := (s.vi (s.warp w).vi).restvec, since := s.cycle core, park := .no, parkRec := .no, held := false
    preds := maskOf ((List.range 15).filter (fun p =>
      L.preds.getLsbD p && Config.freeBit (s.fresh + (8192 + 16 * l + p)))) |>.setWidth 16 }

/-- A restored warp: its lanes at the restore vector, their launch frames, and registers kept or cleared (R65, R375). -/
theorem restoreWarp_eq (s : State) (w core slot g : Nat) : ∃ (F : Warp → Warp) (k : Nat → Lane → Lane) (n : Nat),
    s.restoreWarp w core slot g = State.updWarp { (s.updWarp w F).launchSlices w g ((s.updWarp w F).warp w).restoreSlices
      (lanesOf ((s.updWarp w F).warp w).alive) with fresh := n } w (fun W => W.updLanes W.alive k) ∧
    ReturnsTo F core (s.vi (s.warp w).vi).restvec ∧
    ∀ l L, ∃ f : Frame → Frame, k l L = { L with frames := L.frames.map f } := by
  refine ⟨_, _, _, rfl, ⟨fun W => ⟨rfl, rfl, rfl, rfl, rfl⟩, fun W => ?_, fun W l hl => ?_⟩, fun l L => ⟨_, rfl⟩⟩
  · exact mask_updLanes W W.alive (f := s.returnLane w core) fun _ _ => rfl
  · have h := lane_updLanes W W.alive (s.returnLane w core) l
    rw [if_pos ⟨hl, isSome_of_mask hl⟩] at h
    exact ⟨congrArg Lane.pc h, congrArg Lane.park h⟩

/-- The slices for which a restored warp takes frames hold every lane that is unended (R171, R373). -/
theorem mem_restoreSlices {W : Warp} {l : Nat} (hl : W.alive.getLsbD l = true) : l / 4 ∈ W.restoreSlices := by
  unfold Warp.restoreSlices
  split_ifs
  · exact List.mem_eraseDups.mpr (List.mem_map_of_mem (mem_lanesOf.mpr hl))
  · have := BitVec.lt_of_getLsbD hl
    exact List.mem_range.mpr (by omega)

/-- A warp that returns: no other warp changes, and outside warps only numbers are taken (R375). -/
theorem restoreWarp_spec (s : State) (w core slot g : Nat) :
    let t := s.restoreWarp w core slot g
    t = { s with warps := t.warps, uid := t.uid, fresh := t.fresh } ∧ (∀ v, v ≠ w → t.warp v = s.warp v) ∧
      (∀ v, (tget t.warps v).isSome = (tget s.warps v).isSome) ∧
      ((tget s.warps w).isSome → (t.warp w).Returned core (s.vi (s.warp w).vi).restvec (s.warp w).alive) := by
  intro t
  obtain ⟨F, k, n, ht, ⟨hfields, halive, hlanes⟩, hk⟩ := restoreWarp_eq s w core slot g
  obtain ⟨h1, h2⟩ := launchSlices_spec (s.updWarp w F) w g ((s.updWarp w F).warp w).restoreSlices
    (lanesOf ((s.updWarp w F).warp w).alive)
  have hself : (tget s.warps w).isSome → (s.updWarp w F).warp w = F (s.warp w) := warp_updWarp_self s F
  have hne : ∀ v, v ≠ w → (s.updWarp w F).warp v = s.warp v := fun v hv => warp_updWarp_ne s F hv
  have hlist : ∀ v, (tget (s.updWarp w F).warps v).isSome = (tget s.warps v).isSome := fun v => isSome_updWarp _ _ _ _
  have hrest : s.updWarp w F = { s with warps := (s.updWarp w F).warps } := rfl
  generalize s.updWarp w F = a at h1 h2 hself hne hlist hrest ht
  generalize a.launchSlices w g (a.warp w).restoreSlices (lanesOf (a.warp w).alive) = p at h1 h2 ht
  have hstate : t = State.updWarp { p with fresh := n } w (fun W => W.updLanes W.alive k) := ht
  have hplist : ∀ v, (tget p.warps v).isSome = (tget s.warps v).isSome := fun v => (h1.listed v).trans (hlist v)
  have hpne : ∀ v, v ≠ w → p.warp v = s.warp v := fun v hv => (h1.others v hv).trans (hne v hv)
  refine ⟨?_, fun v hv => ?_, fun v => ?_, fun hw => ?_⟩
  · rw [hstate]
    rw [h1.rest]
    rw [hrest]
    rfl
  · rw [hstate]
    exact (warp_updWarp_ne { p with fresh := n } _ hv).trans (hpne v hv)
  · rw [hstate]
    exact (isSome_updWarp _ _ _ _).trans (hplist v)
  · have hwarp : t.warp w = (p.warp w).updLanes (p.warp w).alive k := by
      rw [hstate]
      exact warp_updWarp_self { p with fresh := n } _ (by rw [hplist]; exact hw)
    have hsame : (p.warp w).sliceless = (F (s.warp w)).sliceless := by rw [h1.warp, hself hw]
    have hpalive : (p.warp w).alive = (s.warp w).alive := by rw [h1.alive, hself hw, halive]
    have haalive : (a.warp w).alive = (s.warp w).alive := by rw [hself hw, halive]
    obtain ⟨f1, f2, f3, f4, f5⟩ := hfields (s.warp w)
    rw [hwarp]
    refine ⟨?_, ?_, ?_, ?_, ?_, fun l hl => ?_⟩
    · have e := congrArg Warp.cur hsame; exact e.trans f1
    · have e := congrArg Warp.prev hsame; exact e.trans f2
    · have e := congrArg Warp.saved hsame; exact e.trans f3
    · have e := congrArg Warp.restoring hsame; exact e.trans f4
    · have e := congrArg Warp.core hsame; exact e.trans f5
    · have hla : (a.warp w).alive.getLsbD l = true := by rw [haalive]; exact hl
      obtain ⟨sf, hsf⟩ := h2 (by rw [hlist]; exact hw) l (mem_lanesOf.mpr hla) (mem_restoreSlices hla)
      obtain ⟨hpc, hpark⟩ := hlanes (s.warp w) l hl
      obtain ⟨f, hf⟩ := hk l ((p.warp w).lane l)
      have hlane := h1.lane l
      rw [hself hw] at hlane
      have hpl : (p.warp w).alive.getLsbD l = true := by rw [hpalive]; exact hl
      rw [lane_updLanes, if_pos ⟨hpl, isSome_of_mask hpl⟩, hf]
      refine ⟨(congrArg Lane.pc hlane).trans hpc, ?_, (congrArg Lane.park hlane).trans hpark⟩
      show (((p.warp w).lane l).frames.map f).length = 1
      rw [hsf]
      rfl

/-! ### A block returns -/

/-- The warps of a block return one after the other to slots of a core; none does once no slot is free (R375). -/
def returnWarps (b core : Nat) (xs : List (Nat × Nat)) (o : Option State) : Option State :=
  xs.foldl (fun o x => match o with
    | none => none
    | some s => match State.pickSlot s core with
      | none => none
      | some slot => some ((s.restoreWarp x.1 core slot x.2).updBlock b (fun B => { B with released := false }))) o

theorem returnWarps_none (b core : Nat) (xs : List (Nat × Nat)) : returnWarps b core xs none = none := by
  induction xs with
  | nil => rfl
  | cons x xs ih => exact ih

theorem returnWarps_cons (s : State) (b core : Nat) (x : Nat × Nat) (xs : List (Nat × Nat)) :
    returnWarps b core (x :: xs) (some s) = returnWarps b core xs ((s.pickSlot core).map (fun slot =>
      (s.restoreWarp x.1 core slot x.2).updBlock b (fun B => { B with released := false }))) := by
  unfold returnWarps
  rw [List.foldl_cons]
  dsimp only
  cases s.pickSlot core <;> rfl

/-- From s to t, some warps of a block have returned to a core, and blocks have changed only in whether they are released. -/
structure State.WarpsReturn (s t : State) (core : Nat) (ws : List Nat) : Prop where
  vis : t.vis = s.vis
  others : ∀ v, v ∉ ws → t.warp v = s.warp v
  listed : ∀ v, (tget t.warps v).isSome = (tget s.warps v).isSome
  block : ∀ c, t.block c = { s.block c with released := (t.block c).released }
  warps : ∀ w ∈ ws, (tget s.warps w).isSome → (t.warp w).Returned core (s.vi (s.warp w).vi).restvec (s.warp w).alive

/-- One warp returns. -/
theorem restoreWarp_returns (s : State) (w core slot g b : Nat) :
    s.WarpsReturn ((s.restoreWarp w core slot g).updBlock b (fun B => { B with released := false })) core [w] := by
  obtain ⟨h1, h2, h3, h4⟩ := restoreWarp_spec s w core slot g
  generalize s.restoreWarp w core slot g = r at h1 h2 h3 h4
  refine ⟨?_, fun v hv => h2 v (by simpa using hv), h3, fun c => ?_, fun v hv hw => ?_⟩
  · show r.vis = s.vis
    rw [h1]
  · have e : ∀ c, r.block c = s.block c := fun c => by rw [h1]; rfl
    rw [block_updBlock]
    split_ifs with h
    · rw [← h.1, e]
    · rw [e]
  · obtain rfl := List.mem_singleton.mp hv
    exact h4 hw

/-- The warps of a block return (R375). -/
theorem returnWarps_spec {s t : State} {b core : Nat} {xs : List (Nat × Nat)} (hn : (xs.map (·.1)).Nodup)
    (h : returnWarps b core xs (some s) = some t) : s.WarpsReturn t core (xs.map (·.1)) := by
  induction xs generalizing s with
  | nil =>
    cases h
    exact ⟨rfl, fun _ _ => rfl, fun _ => rfl, fun _ => rfl, fun w hw => absurd hw List.not_mem_nil⟩
  | cons x xs ih =>
    rw [returnWarps_cons] at h
    rw [List.map_cons, List.nodup_cons] at hn
    cases e : s.pickSlot core with
    | none => rw [e, Option.map_none, returnWarps_none] at h; cases h
    | some slot =>
      rw [e, Option.map_some] at h
      have h1 := restoreWarp_returns s x.1 core slot x.2 b
      generalize (s.restoreWarp x.1 core slot x.2).updBlock b (fun B => { B with released := false }) = u at h h1
      have k := ih hn.2 h
      have hvi : ∀ v, u.vi v = s.vi v := fun v => by unfold State.vi; rw [h1.vis]
      refine ⟨k.vis.trans h1.vis, fun v hv => ?_, fun v => (k.listed v).trans (h1.listed v), fun c => ?_, fun w hw hl => ?_⟩
      · rw [List.map_cons, List.mem_cons, not_or] at hv
        exact (k.others v hv.2).trans (h1.others v (by simpa using hv.1))
      · rw [k.block c, h1.block c]
      · rcases List.mem_cons.mp hw with rfl | hw
        · rw [k.others _ hn.1]
          exact h1.warps _ (List.mem_singleton.mpr rfl) hl
        · have hne : w ≠ x.1 := fun e => hn.1 (e ▸ hw)
          have hsame := h1.others w (by simpa using hne)
          have hk := k.warps w hw (by rw [h1.listed]; exact hl)
          rw [hsame, hvi] at hk
          exact hk

/-- Reservations given back their units: no warp, block or interface changes (R301, R373). -/
theorem restoreUnits_rest {s t : State} {b core : Nat} (h : s.restoreUnits b core = some t) :
    t = { s with resvs := t.resvs } := by
  unfold State.restoreUnits at h
  generalize (s.blockResvs b).filter (·.2.freed) = xs at h
  have hfold : ∀ (xs : List (Nat × Resv)) (o : Option State), (∀ u, o = some u → u = { s with resvs := u.resvs }) →
      ∀ u, xs.foldl (fun o x => match o with
        | none => none
        | some s =>
          match lowestFit (State.obHeld s core) 2048 (x.2.len + 1) with
          | none => none
          | some n => some { s with resvs := tset s.resvs x.1 { x.2 with base := n, freed := false } }) o = some u →
        u = { s with resvs := u.resvs } := by
    intro xs
    induction xs with
    | nil => exact fun o ho u hu => ho u hu
    | cons x xs ih =>
      intro o ho
      refine ih _ fun u hu => ?_
      cases o with
      | none => cases hu
      | some r =>
        have hr := ho r rfl
        dsimp only at hu
        generalize lowestFit (State.obHeld r core) 2048 (x.2.len + 1) = n at hu
        cases n with
        | none => cases hu
        | some n =>
          cases hu
          rw [hr]
  exact hfold xs (some s) (fun u hu => by cases hu; rfl) t h

/-- A set of cores changed with a restore: no warp, block or interface changes (R346). -/
theorem restoreCommit_rest (s : State) (c core : Nat) : s.restoreCommit c core = { s with
    uid := (s.restoreCommit c core).uid, clusters := (s.restoreCommit c core).clusters
    dies := (s.restoreCommit c core).dies } := by
  unfold State.restoreCommit State.reform
  dsimp only [State.take]
  split_ifs <;> rfl

/-- A block that returns: it has its storage, its warps return, and a move is a commit of its cluster (R346, R375). -/
theorem restoreBlock_eq {s o : State} {b core : Nat} {r : Restore} (h : s.restoreBlock b core r = some o) :
    ∃ x z unit tiles, x.vis = s.vis ∧ x.warps = s.warps ∧ x.blocks = tupd s.blocks b (fun B => { B with
        core := core, unit := unit, bshm := r.bshm, tiles := tiles, saved := false, brecLoaded := false, restore := none }) ∧
      returnWarps b core ((s.block b).warps.zip r.granules) (some x) = some z ∧ (o = z ∨ ∃ c, o = z.restoreCommit c core) := by
  unfold State.restoreBlock at h
  dsimp only at h
  generalize (if (s.block b).keepsShared = true then some (s.block b).unit else s.sharedFit core b r.bshm) = unit at h
  generalize hs1 : s.restoreUnits b core = s1 at h
  match unit, s1 with
  | none, _ => cases h
  | some _, none => cases h
  | some unit, some s1 =>
    dsimp only at h
    have hrest := restoreUnits_rest hs1
    generalize hz : List.foldl _ _ _ = z at h
    cases z with
    | none => cases h
    | some z =>
      refine ⟨_, z, unit, s.restoreTiles b core r.acct, ?_, ?_, ?_, hz, ?_⟩
      · show s1.vis = s.vis
        rw [hrest]
      · show s1.warps = s.warps
        rw [hrest]
      · show tupd s1.blocks b _ = _
        rw [hrest]
      · cases h
        split_ifs
        · exact .inl rfl
        · exact .inr ⟨_, rfl⟩

/-- What a block that has returned to a core shows: its restore is over, and each of its warps has returned (R375). -/
structure State.BlockReturned (s t : State) (b core : Nat) : Prop where
  vis : t.vis = s.vis
  restore : (t.block b).restore = none
  loaded : (t.block b).brecLoaded = false
  onCore : (t.block b).core = core
  warps : ∀ w ∈ (s.block b).warps, (tget s.warps w).isSome →
    (t.warp w).Returned core (s.vi (s.warp w).vi).restvec (s.warp w).alive

/-- A listed block returns (R346, R375). -/
theorem restoreBlock_spec {s o : State} {b core : Nat} {r : Restore} (h : s.restoreBlock b core r = some o)
    (hb : (tget s.blocks b).isSome) (hn : (s.block b).warps.Nodup) (hr : r.granules.length = (s.block b).warps.length) :
    s.BlockReturned o b core := by
  obtain ⟨x, z, unit, tiles, hvis, hwarps, hblocks, hreturn, ho⟩ := restoreBlock_eq h
  have hmap : ((s.block b).warps.zip r.granules).map (·.1) = (s.block b).warps := List.map_fst_zip (le_of_eq hr.symm)
  have hw := returnWarps_spec (by rw [hmap]; exact hn) hreturn
  rw [hmap] at hw
  have hxb : x.block b = { s.block b with
      core := core, unit := unit, bshm := r.bshm, tiles := tiles, saved := false, brecLoaded := false, restore := none } := by
    have e : x.block b = (s.updBlock b (fun B => { B with
      core := core, unit := unit, bshm := r.bshm, tiles := tiles, saved := false, brecLoaded := false
      restore := none })).block b := by
      unfold State.block
      rw [hblocks]
      rfl
    rw [e, block_updBlock, if_pos ⟨rfl, hb⟩]
  have hxw : ∀ w, x.warp w = s.warp w := fun w => by unfold State.warp; rw [hwarps]
  have hxv : ∀ v, x.vi v = s.vi v := fun v => by unfold State.vi; rw [hvis]
  have hsame : o.vis = z.vis ∧ o.warps = z.warps ∧ o.blocks = z.blocks := by
    rcases ho with rfl | ⟨c, rfl⟩
    · exact ⟨rfl, rfl, rfl⟩
    · rw [restoreCommit_rest]
      exact ⟨rfl, rfl, rfl⟩
  obtain ⟨hov, how, hob⟩ := hsame
  have hblock : o.block b = { x.block b with released := (z.block b).released } := by
    have e : o.block b = z.block b := by unfold State.block; rw [hob]
    rw [e, hw.block b]
  have hwarp : ∀ w, o.warp w = z.warp w := fun w => by unfold State.warp; rw [how]
  rw [hxb] at hblock
  refine ⟨hov.trans (hw.vis.trans hvis), by rw [hblock], by rw [hblock], by rw [hblock], fun w hin hl => ?_⟩
  have h1 := hw.warps w hin (by rw [hwarps]; exact hl)
  rw [hxw, hxv] at h1
  rw [hwarp]
  exact h1

/-- An accepted restore that is placed is placed on some core, as its save area says (R346, R375). -/
theorem tryRestore_eq {s o : State} {b t : Nat} (h : s.tryRestore b t = some o) :
    ∃ core, s.restoreBlock b core (s.restoreOf b) = some o := by
  unfold State.tryRestore at h
  dsimp only at h
  generalize (if (s.block b).released = true then (s.restoreCores b t).find? (fun c => s.admitsRestore b c (s.restoreOf b))
    else none) = core at h
  cases core with
  | none => cases h
  | some core =>
    dsimp only at h
    split_ifs at h
    exact ⟨core, h⟩

end Sys2Proof.Machine

namespace Sys2Proof.Proofs

open Sys2Proof.Machine Sys2Proof.Claims

/-- Whether a block is the one that a restore record of an interface names: saved, without a restore, of its save area. -/
def named (s : State) (i area : Nat) (x : Nat × Block) : Bool :=
  s.allSaved x.1 && x.2.restore.isNone && x.2.vi == i && dieOf x.2.core == area / 2 ^ 27 % 4
    && x.2.saveptr.toNat == area % 2 ^ 27

/-- A restore record that names no block completes with status 7 (R396). -/
theorem exec_restoreRecord_unnamed {i q : Nat} {s : State} (h : s.nextEntry = some (i, q))
    (hk : recNum (s.entryBytes i q) 0x18 1 = 1) (hr : restoreReserved (s.entryBytes i q) = false)
    (hf : s.blocks.find? (named s i (recNum (s.entryBytes i q) 0x20 4)) = none) :
    exec .restoreRecord s = .next ((s.passEntry i q).launchResult i q ((s.vi i).queue q).head.toNat 7) := by
  have hf' : (s.passEntry i q).blocks.find? (named (s.passEntry i q) i (recNum (s.entryBytes i q) 0x20 4)) = none := hf
  show execRestoreRecord s = _
  unfold execRestoreRecord
  rw [h]
  dsimp only
  rw [hk, hr]
  unfold named at hf'
  rw [hf']
  rfl

/-- A restore record that names a block which its core may take is accepted, and placed at once if it can be (R346, R375). -/
theorem exec_restoreRecord_named {i q b : Nat} {B : Block} {s : State} (h : s.nextEntry = some (i, q))
    (hk : recNum (s.entryBytes i q) 0x18 1 = 1) (hr : restoreReserved (s.entryBytes i q) = false)
    (hf : s.blocks.find? (named s i (recNum (s.entryBytes i q) 0x20 4)) = some (b, B)) {t : Nat}
    (ht : t = recNum (s.entryBytes i q) 0x24 4 % 2 ^ 7)
    (hcore : t = 0x7F ∨ t < 96 ∧ (s.mustReturn b = false ∨ dieOf B.core * 96 + t = B.core) ∧
      s.inPool i (dieOf B.core * 96 + t) (s.grid B.grid).launch.opclass = true) :
    exec .restoreRecord s = .next
      ((((s.passEntry i q).updBlock b (fun B => { B with restore := some t })).tryRestore b t).getD
        ((s.passEntry i q).updBlock b (fun B => { B with restore := some t }))) := by
  have hf' : (s.passEntry i q).blocks.find? (named (s.passEntry i q) i (recNum (s.entryBytes i q) 0x20 4)) = some (b, B) := hf
  have hmay : (t != 0x7F && (decide (t ≥ 96) || (s.passEntry i q).mustReturn b && dieOf B.core * 96 + t != B.core
      || !(s.passEntry i q).inPool i (dieOf B.core * 96 + t) ((s.passEntry i q).grid B.grid).launch.opclass)) = false := by
    have hpin : (s.passEntry i q).mustReturn b = s.mustReturn b := rfl
    have hgrid : (s.passEntry i q).grid B.grid = s.grid B.grid := rfl
    rw [hpin, hgrid, inPool_passEntry]
    rcases hcore with e | ⟨e1, e2, e3⟩
    · simp [e]
    · rcases e2 with e2 | e2
      · simp [e2, e3, e1]
      · rw [e2] at e3
        simp [e2, e3, e1]
  show execRestoreRecord s = _
  unfold execRestoreRecord
  rw [h]
  dsimp only
  rw [hk, hr, ← ht]
  unfold named at hf'
  rw [hf']
  dsimp only
  rw [hmay]
  rfl

/-- Restore records (R346, R375, R396). -/
theorem restoreClause_holds : restoreClause := by
  intro i q bs s hnext hbs
  subst hbs
  refine ⟨fun hk => ?_, fun hk hr => ⟨fun hno hroom => ?_, fun b B t hf hB hn ht hcore => ?_⟩⟩
  · show execRestoreRecord s = _
    unfold execRestoreRecord
    rw [hnext]
    simp [hk]
  · have hfind : s.blocks.find? (named s i (recNum (s.entryBytes i q) 0x20 4)) = none := by
      refine List.find?_eq_none.mpr fun x hx e => ?_
      simp only [named, Bool.and_eq_true, Option.isNone_iff_eq_none, beq_iff_eq] at e
      obtain ⟨⟨⟨⟨hsaved, hnone⟩, hvi⟩, hdie⟩, hptr⟩ := e
      exact hno x hx hsaved hnone hvi hdie hptr
    obtain ⟨h1, -, h3, -⟩ := launchResult_passEntry hroom ((s.vi i).queue q).head.toNat 7
    exact ⟨_, exec_restoreRecord_unnamed hnext hk hr hfind, h3, h1⟩
  · have hx := exec_restoreRecord_named hnext hk hr hf ht hcore
    obtain ⟨p, hp⟩ : ∃ p, p = (s.passEntry i q).updBlock b (fun B => { B with restore := some t }) := ⟨_, rfl⟩
    rw [← hp] at hx ⊢
    have hsb : s.block b = B := by
      unfold State.block tgetD
      rw [hB]
      rfl
    have hlist : (tget s.blocks b).isSome := by rw [hB]; rfl
    have hpb : p.block b = { B with restore := some t } := by
      rw [hp, block_updBlock]
      refine (if_pos ⟨rfl, hlist⟩).trans ?_
      rw [← hsb]
      rfl
    have hpw : p.warps = s.warps := by rw [hp]; rfl
    have hqueue : (p.vi i).queue q = { (s.vi i).queue q with head := ((s.vi i).queue q).head + 1 } := by
      rw [hp]
      exact passEntry_queue s i q
    have hvec : ∀ v, (p.vi v).restvec = (s.vi v).restvec := fun v => by
      obtain ⟨-, -, -, hvec, -⟩ := passEntry_keeps s i q v
      rw [hp]
      exact hvec
    have hpl : (tget p.blocks b).isSome := by
      rw [hp]
      show (tget (tupd s.blocks b _) b).isSome = true
      rw [tget_tupd, if_pos rfl, Option.isSome_map]
      exact hlist
    clear hp
    cases ho : p.tryRestore b t with
    | none =>
      rw [ho] at hx
      exact ⟨p, hx, hqueue, hpb, hpw⟩
    | some o =>
      rw [ho] at hx
      obtain ⟨core, hrestore⟩ := tryRestore_eq ho
      have hret := restoreBlock_spec hrestore hpl (by rw [hpb]; exact hn) (by simp [State.restoreOf])
      refine ⟨o, hx, ?_, hret.restore, hret.loaded, fun w hw hl => ?_⟩
      · have e : o.vi i = p.vi i := by unfold State.vi; rw [hret.vis]
        rw [e, hqueue]
      · have hwarp : p.warp w = s.warp w := by unfold State.warp; rw [hpw]
        obtain ⟨r1, r2, r3, r4, r5, r6⟩ := hret.warps w (by rw [hpb]; exact hw) (by rw [hpw]; exact hl)
        rw [hwarp, hvec] at r6
        exact ⟨r1, r2, r3, r4, r5.trans hret.onCore.symm, r6⟩

/-- Settles O44: launch records and doorbells, the placement of blocks, the completion of grids, restores and waves. -/
theorem launchEvents : Obligations.LaunchEvents :=
  ⟨recordClause_holds, placementClause_holds, completionClause_holds, restoreClause_holds, waveClause_holds⟩

end Sys2Proof.Proofs
end

section
/-! PROOFS. Lane operations: what the teams of acting lanes give (R141, R145 to R148, R351). -/

namespace Sys2Proof.Proofs

open Sys2Proof.Machine Sys2Proof.Claims

/-! ### Teams -/

/-- The teams of a word's acting lanes are the groups that see each other (R141, R351). -/
theorem teams_eq {s : State} {m : BitVec 32} (hm : m ≠ 0) :
    (s.teams m).filter (fun t => !t.isEmpty) = teamsOf s (lanesOf m) := by
  unfold State.teams teamsOf
  split_ifs
  · rfl
  · simp [lanesOf_ne_nil hm]

/-- A member of a team is one of the lanes, and no lane is a member twice. -/
theorem teamsOf_mem {s : State} {ls team : List Nat} (h : team ∈ teamsOf s ls) : team.Sublist ls := by
  unfold teamsOf at h
  split_ifs at h
  · have hm := (List.mem_filter.mp h).1
    rw [List.mem_pair] at hm
    rcases hm with rfl | rfl <;> exact List.filter_sublist
  · rw [List.mem_singleton.mp h]

theorem teamsOf_ne_nil (s : State) {ls : List Nat} (h : ls ≠ []) : teamsOf s ls ≠ [] := by
  unfold teamsOf
  split_ifs
  · obtain ⟨l, hl⟩ := List.exists_mem_of_ne_nil ls h
    intro e
    have hno := List.filter_eq_nil_iff.mp e
    simp only [List.mem_cons, List.not_mem_nil, or_false, Bool.not_eq_true', Bool.not_eq_false, List.isEmpty_iff,
      forall_eq_or_imp, forall_eq, List.filter_eq_nil_iff, beq_iff_eq] at hno
    have h0 := hno.1 l hl
    have h1 := hno.2 l hl
    omega
  · exact List.cons_ne_nil _ _

/-- Two teams have no member in common. -/
theorem teamsOf_disjoint (s : State) (ls : List Nat) : (teamsOf s ls).Pairwise List.Disjoint := by
  unfold teamsOf
  split_ifs
  · refine List.Pairwise.filter _ (List.pairwise_pair.mpr fun l h0 h1 => ?_)
    have h0 := (List.mem_filter.mp h0).2
    have h1 := (List.mem_filter.mp h1).2
    simp only [beq_iff_eq] at h0 h1
    omega
  · exact List.pairwise_singleton _ _

/-- What a lane operation gives each member of a team goes to registers of that member, and no two results to one register. -/
def OwnResults (c : State → List Nat → Nat → List (Target × Cell)) : Prop :=
  ∀ s team l, ((c s team l).map (·.1)).Nodup ∧ ∀ x ∈ (c s team l).map (·.1), x.of l = true

theorem lane_of_own {x : Target} {k l : Nat} (hk : x.of k = true) (hl : x.of l = true) : k = l := by
  cases x with
  | vec j r | pred j r =>
    rw [← show j = k from by simpa [Target.of] using hk]
    simpa [Target.of] using hl
  | uni r => cases hk

/-- The results of all teams are no two for one register. -/
theorem teamResults_nodup {c : State → List Nat → Nat → List (Target × Cell)} (hc : OwnResults c) (s : State) {ls : List Nat}
    (hn : ls.Nodup) :
    ((teamsOf s ls).flatMap (fun team => team.flatMap (fun l => (c s team l).map (·.1)))).Nodup := by
  have hown : ∀ (team : List Nat) (x : Target), x ∈ team.flatMap (fun l => (c s team l).map (·.1)) → ∃ l ∈ team, x.of l = true :=
    fun team x hx => by
      obtain ⟨l, hl, hx⟩ := List.mem_flatMap.mp hx
      exact ⟨l, hl, (hc s team l).2 x hx⟩
  refine List.nodup_flatMap.mpr ⟨fun team ht => List.nodup_flatMap.mpr ⟨fun l _ => (hc s team l).1, ?_⟩, ?_⟩
  · exact (hn.sublist (teamsOf_mem ht)).imp fun {a b} hab x hxa hxb =>
      hab (lane_of_own ((hc s team a).2 x hxa) ((hc s team b).2 x hxb))
  · refine (teamsOf_disjoint s ls).imp fun {A B} hAB x hA hB => ?_
    obtain ⟨a, ha, hxa⟩ := hown A x hA
    obtain ⟨b, hb, hxb⟩ := hown B x hB
    exact hAB ha (lane_of_own hxa hxb ▸ hb)

/-- A lane operation (R141) is a gang word of what its teams give, when each member's results are its own and fit its frame. -/
theorem gangWord_team {i : Instr} {h : Hdr} {u : Uses} {f g : GangFn} {c : State → List Nat → Nat → List (Target × Cell)}
    (he : ∀ s, exec i s = .next (s.teamWord h u g)) (hfg : ∀ (s : State) (team : List Nat), s.wp.Quiet → g s team = f s team)
    (hf : ∀ s team, (f s team).1 = team.flatMap (c s team)) (hc : OwnResults c)
    (hx : ∀ (s : State) (m : BitVec 32), s.Acts h u m → ∀ team l, m.getLsbD l = true → ∀ r ∈ c s team l, r.1.kept = true →
      s.Writable s.w r.1) : GangWord i h u (teamFn f) := by
  intro _ s m a hu hm
  have hres : (teamFn f s (lanesOf m)).1 = (teamsOf s (lanesOf m)).flatMap (fun team => team.flatMap (c s team)) := by
    simp only [teamFn, List.flatMap_map, hf]
  have hexec : exec i s = .next (s.settle h m u false (teamFn f s (lanesOf m)).1 (teamFn f s (lanesOf m)).2) := by
    have hg : g s = f s := funext fun team => hfg s team a.quiet
    rw [he, State.teamWord, admit_eq a false (by simp), teams_eq hm, hg]
    rfl
  obtain ⟨h1, h2⟩ := settle_kept a hu (teamFn f s (lanesOf m)).1 (teamFn f s (lanesOf m)).2 (fun r hr hk => by
    rw [hres] at hr
    obtain ⟨team, ht, hr⟩ := List.mem_flatMap.mp hr
    obtain ⟨l, hl, hr⟩ := List.mem_flatMap.mp hr
    exact hx s m a team l (mem_lanesOf.mp ((teamsOf_mem ht).subset hl)) r hr hk)
  rw [show (fun r : Target × Cell => r.1.kept) = Target.kept ∘ Prod.fst from rfl, ← List.filter_map] at h1 h2
  refine ⟨_, hexec, h1, h2 (List.Nodup.filter _ ?_)⟩
  rw [hres]
  simpa only [List.map_flatMap] using teamResults_nodup hc s (lanesOf_nodup m)

/-! ### What the members get -/

theorem predResult_targets (l p : Nat) (v bad : Bool) : (predResult l p v bad).map (·.1) = [.pred l p] := rfl

/-- One predicate of a member. -/
theorem ownResults_pred {c : State → List Nat → Nat → List (Target × Cell)} {p : Nat}
    (h : ∀ s team l, ∃ v bad, c s team l = predResult l p v bad) : OwnResults c := fun s team l => by
  obtain ⟨v, bad, e⟩ := h s team l
  rw [e, predResult_targets]
  exact ⟨List.nodup_singleton _, fun x hx => List.mem_singleton.mp hx ▸ beq_self_eq_true l⟩

/-- A vector register or pair of a member, and a predicate. -/
theorem ownResults_vec_pred {c : State → List Nat → Nat → List (Target × Cell)} {r n p : Nat}
    (h : ∀ s team l, ∃ v bad b pbad, c s team l = vecResult l r n v bad ++ predResult l p b pbad) : OwnResults c :=
  fun s team l => by
    obtain ⟨v, bad, b, pbad, e⟩ := h s team l
    rw [e, List.map_append, predResult_targets, vecResult_targets]
    split_ifs <;> simp [Target.of]

/-- One value, in a vector register or pair of every member. -/
theorem ownResults_vec {c : State → List Nat → Nat → List (Target × Cell)} {r n : Nat}
    (h : ∀ s team l, ∃ v bad, c s team l = vecResult l r n v bad) : OwnResults c := fun s team l => by
  obtain ⟨v, bad, e⟩ := h s team l
  rw [e]
  exact ⟨vecResult_nodup l r n v bad, fun x hx => by
    obtain ⟨y, hy, rfl⟩ := List.mem_map.mp hx
    exact vecResult_own l r n v bad y hy⟩

theorem predResult_writable {s : State} {w l p : Nat} {v bad : Bool} :
    ∀ x ∈ predResult l p v bad, x.1.kept = true → s.Writable w x.1 := fun x hx hk => by
  rw [List.mem_singleton.mp hx] at hk ⊢
  exact of_decide_eq_true (p := p < 15) hk

/-- A member's result fits its frame: the words on lanes name their destination among their registers (R15). -/
theorem dst_writable {s : State} {h : Hdr} {u : Uses} {m : BitVec 32} {t : Tri} {l : Nat} {v : BitVec 64} {bad : Bool}
    (a : s.Acts h u m) (hu : u.writes = [(t.d.toNat, Opd.count t.ty .vT)]) (hl : m.getLsbD l = true) :
    ∀ x ∈ vecResult l t.d.toNat (Opd.count t.ty .vT) v bad, s.Writable s.w x.1 :=
  vecResult_writable (count_pos t.ty) (a.fits_of_mem (r := (t.d.toNat, Opd.count t.ty .vT)) hl (by simp [hu]))

theorem dst_pred_writable {s : State} {h : Hdr} {u : Uses} {m : BitVec 32} {t : Tri} {l p : Nat} {v : BitVec 64}
    {bad b pbad : Bool} (a : s.Acts h u m) (hu : u.writes = [(t.d.toNat, Opd.count t.ty .vT)]) (hl : m.getLsbD l = true) :
    ∀ x ∈ vecResult l t.d.toNat (Opd.count t.ty .vT) v bad ++ predResult l p b pbad, x.1.kept = true →
      s.Writable s.w x.1 := fun x hx hk =>
  (List.mem_append.mp hx).elim (dst_writable a hu hl x) fun hx => predResult_writable x hx hk

/-! ### `vote` and `ballot` -/

/-- The lanes in which a predicate operand is true, and whether it is poisoned in one (R145). -/
theorem truths_quiet {s : State} (hq : s.wp.Quiet) (team : List Nat) (p : BitVec 8) (inv : Bool) :
    s.truths team p.toNat inv = (truthOf s p inv team, taintOf s p team) := by
  simp only [State.truths, truthOf, taintOf, readP_src hq]

/-- The four votes (R145). -/
theorem voteOf_eq (mode c n : Nat) : voteOf mode c n = match mode with
    | 0 => decide (c = n)
    | 1 => decide (c ≥ 1)
    | 2 => decide (c = 0 ∨ c = n)
    | _ => decide (2 * c > n) := by
  rcases mode with _ | _ | _ | mode
  · rfl
  · rfl
  · show (c == 0 || c == n) = decide (c = 0 ∨ c = n)
    rw [Bool.decide_or]
    rfl
  · rfl

theorem vote_word (t : Tri) : GangWord (.vote t) t.h {} (teamFn (voteFn t)) := by
  refine gangWord_team (fun _ => rfl) (fun s team hq => ?_) (fun _ _ => rfl)
    (ownResults_pred fun _ _ _ => ⟨_, _, rfl⟩) fun _ _ _ _ _ _ => predResult_writable
  dsimp only
  rw [truths_quiet hq]
  simp only [voteOf_eq]
  rfl

theorem ballot_word (t : Tri) : GangWord (.ballot t) t.h {} (ballotFn t) := by
  refine gangWord_of_settle (fun s m a hm => ?_) (fun s ls r hr _ => uniResult_writable s s.w t.d.toNat 1 _ _ r hr)
    (fun s ls => uniResult_nodup t.d.toNat 1 _ _)
  refine congrArg Host.Outcome.next ((admit_eq a false (by simp) _).trans ?_)
  rw [teams_eq hm]
  obtain ⟨team, rest, e⟩ := List.exists_cons_of_ne_nil (teamsOf_ne_nil s (lanesOf_ne_nil hm))
  unfold ballotFn
  rw [e]
  dsimp only
  rw [truths_quiet a.quiet]
  rfl

/-! ### `shfl`, `bcast` and `redux` -/

/-- The source lane of each mode (R146). -/
theorem shflSource_eq (mode e l b : Nat) : shflSource mode e l b = shflFrom mode e l b := by
  rcases mode with _ | _ | _ | mode
  · rfl
  · rfl
  · rfl
  · have hs : 0 < 2 ^ e := Nat.two_pow_pos e
    have hl : l % 2 ^ e < 2 ^ e := Nat.mod_lt l hs
    have hle : l % 2 ^ e ≤ l := Nat.mod_le l _
    show l - l % 2 ^ e + (b % 2 ^ e + 2 ^ e - l % 2 ^ e) % 2 ^ e = (((l : Int) - ((l : Int) % ((2 ^ e : Nat) : Int)) +
      (((b : Int) % ((2 ^ e : Nat) : Int)) - ((l : Int) % ((2 ^ e : Nat) : Int))).emod ((2 ^ e : Nat) : Int))).toNat
    generalize 2 ^ e = n at hs hl hle ⊢
    have hmod : (((b : Int) % (n : Int)) - ((l : Int) % (n : Int))).emod (n : Int) =
        (((b % n + n - l % n) % n : Nat) : Int) := by
      rw [Int.natCast_mod, Nat.cast_sub (by omega), Nat.cast_add, Int.natCast_mod, Int.natCast_mod, add_sub_right_comm,
        Int.add_emod_right]
      rfl
    rw [hmod, ← Int.natCast_mod, ← Nat.cast_sub hle, ← Nat.cast_add, Int.toNat_natCast]

theorem shfl_word (t : Tri) : GangWord (.shfl t) t.h (shflUses t) (teamFn (shflFn t)) := by
  refine gangWord_team (fun _ => rfl) (fun s team hq => ?_) (fun _ _ => rfl)
    (ownResults_vec_pred fun _ _ _ => ⟨_, _, _, _, rfl⟩) fun _ _ a _ _ hl => dst_pred_writable a rfl hl
  dsimp only
  simp only [State.opA, operand_quiet hq, shflSource_eq]
  rfl

theorem bcast_word (t : Tri) : GangWord (.bcast t) t.h (moveUses t []) (teamFn (bcastFn t)) := by
  refine gangWord_team (fun _ => rfl) (fun s team hq => ?_) (fun _ _ => rfl)
    (ownResults_vec_pred fun _ _ _ => ⟨_, _, _, _, rfl⟩) fun _ _ a _ _ hl => dst_pred_writable a rfl hl
  dsimp only
  simp only [State.opA, operand_quiet hq]
  rfl

theorem redux_word (t : Tri) : GangWord (.redux t) t.h (moveUses t []) (teamFn (reduxFn t)) := by
  refine gangWord_team (fun _ => rfl) (fun s team hq => ?_) (fun _ _ => rfl)
    (ownResults_vec fun _ _ _ => ⟨_, _, rfl⟩) fun _ _ a _ _ hl r hr _ => dst_writable a rfl hl r hr
  dsimp only
  have h : State.opA s t = fun l => src s l t.ty .vT false t.a := funext fun l => operand_quiet hq ..
  rw [h]
  rfl

/-- Settles O9: what the teams of acting lanes determine together goes to registers of their members, or of `ballot` to a
uniform register. -/
theorem laneOperations : Obligations.LaneOperations := fun t =>
  ⟨vote_word t, ballot_word t, shfl_word t, bcast_word t, redux_word t⟩

end Sys2Proof.Proofs
end

section
/-! PROOFS. `wait` and its events: what lanes leave when they go on with a register written, and when they park (R117, R149 to
R151, R198). -/

namespace Sys2Proof.Machine

/-! ### What warps keep of their operations -/

/-- From s to t, nothing but what warp w has outstanding, has yet to show and has accepted has changed. -/
structure State.OnlyNotes (s t : State) (w : Nat) : Prop where
  rest : t = { s with warps := t.warps }
  others : ∀ v, v ≠ w → t.warp v = s.warp v
  warp : t.warp w =
    { s.warp w with longs := (t.warp w).longs, late := (t.warp w).late, syncs := (t.warp w).syncs }
  listed : (tget t.warps w).isSome = (tget s.warps w).isSome

theorem State.OnlyNotes.refl (s : State) (w : Nat) : s.OnlyNotes s w := ⟨rfl, fun _ _ => rfl, rfl, rfl⟩

theorem State.OnlyNotes.trans {s t u : State} {w : Nat} (h : s.OnlyNotes t w) (k : t.OnlyNotes u w) : s.OnlyNotes u w where
  rest := by rw [k.rest, h.rest]
  others v hv := (k.others v hv).trans (h.others v hv)
  warp := by rw [k.warp, h.warp]
  listed := k.listed.trans h.listed

theorem onlyNotes_updWarp (s : State) (w : Nat) {f : Warp → Warp}
    (hf : ∀ W, f W = { W with longs := (f W).longs, late := (f W).late, syncs := (f W).syncs }) :
    s.OnlyNotes (s.updWarp w f) w where
  rest := rfl
  others v hv := warp_updWarp_ne s f hv
  warp := by
    rw [warp_updWarp]
    split_ifs
    · exact hf _
    · rfl
  listed := isSome_updWarp _ _ _ _

theorem accept_onlyNotes (s : State) (w : Nat) (ls : List Nat) (ws : Waits) : s.OnlyNotes (s.accept w ls ws) w := by
  unfold State.accept
  split
  · exact .refl s w
  · exact onlyNotes_updWarp s w fun _ => rfl

theorem State.OnlyNotes.lane {s t : State} {w : Nat} (h : s.OnlyNotes t w) (l : Nat) :
    (t.warp w).lane l = (s.warp w).lane l := by rw [h.warp]; rfl

theorem State.OnlyNotes.blockOf {s t : State} {w : Nat} (h : s.OnlyNotes t w) :
    t.block (t.warp w).block = s.block (s.warp w).block := by rw [h.warp, h.rest]; rfl

theorem State.OnlyNotes.goOnOf {s t : State} {w : Nat} (h : s.OnlyNotes t w) : t.goOnOf w = s.goOnOf w := by
  funext L
  unfold State.goOnOf
  rw [h.warp, h.rest]
  rfl

/-- No register read sees what a warp keeps of its operations. -/
theorem State.OnlyNotes.reads {s t : State} {w : Nat} (h : s.OnlyNotes t w) (v : Nat) (x : Target) :
    t.reads v x = s.reads v x := by
  have hb : t.blocks = s.blocks := by rw [h.rest]
  by_cases hv : v = w
  · subst hv
    exact reads_congr hb (by rw [h.warp]) (by rw [h.warp]) (fun l => by rw [h.lane]) x
  · exact reads_congr hb (by rw [h.others v hv]) (by rw [h.others v hv]) (fun l => by rw [h.others v hv]) x

/-! ### A vector register of one lane -/

/-- A register of a lane's current frame written (R16). -/
def Lane.putReg (L : Lane) (r : Nat) (c : Cell) : Lane :=
  { L with frames := setFrameReg L.frames (resolve L.frames 0 r).1 (resolve L.frames 0 r).2 c }

theorem setVreg_alone {s : State} {w : Nat} (h : (s.block (s.warp w).block).shares = []) (l r : Nat) (c : Cell) :
    s.setVreg w l r c = s.updWarp w (·.updLane l (·.putReg r c)) := by
  unfold State.setVreg
  rw [sharedAt_none h]
  rfl

/-- A vector register written, whatever the warp has outstanding (R61): the notes of its operations change first. -/
theorem writeVec_split (s : State) (w l r : Nat) (c : Cell) :
    ∃ t, s.OnlyNotes t w ∧ s.writeTarget w (.vec l r) c = t.setVreg w l r c := by
  have hcontest : s.OnlyNotes (s.contest w (.vec l r)) w := by
    unfold State.contest
    split_ifs
    · exact .refl s w
    · exact onlyNotes_updWarp s w fun _ => rfl
  refine ⟨_, hcontest.trans ?_, rfl⟩
  split_ifs
  · exact .refl _ w
  · exact onlyNotes_updWarp _ w fun _ => rfl

/-- A parked lane leaves its `wait` with an outcome in its destination (R151). -/
theorem waitEnd_spec {s : State} {w l dst : Nat} (hw : (tget s.warps w).isSome)
    (ha : (s.block (s.warp w).block).shares = []) (hd : dst < 8 * ((s.warp w).lane l).top.g) (conds : List WaitCond)
    (v : Word) (bad : Bool) :
    let u := s.waitEnd w l dst conds v bad
    Claims.Woken s u w l ∧ u.reads w (.vec l dst) = ⟨v, bad⟩ ∧ (∀ x, x ≠ .vec l dst → u.reads w x = s.reads w x) ∧
      u.mem = s.mem := by
  intro u
  obtain ⟨t, hnote, hwrite⟩ := writeVec_split s w l dst ⟨v, bad⟩
  have hset := setVreg_onlyRegs (s := t) (by rw [hnote.listed, hw]) l dst ⟨v, bad⟩ (by rw [hnote.lane]; exact hd)
    (by rw [hnote.blockOf]; exact ha)
  have hlisted : (tget (t.setVreg w l dst ⟨v, bad⟩).warps w).isSome := by
    rw [setVreg_alone (by rw [hnote.blockOf]; exact ha), isSome_updWarp, hnote.listed, hw]
  obtain ⟨honly, hread⟩ := hset
  have hu : u = ((t.setVreg w l dst ⟨v, bad⟩).accept w [l] (s.condWaits conds)).wake w l := by
    show State.waitEnd s w l dst conds v bad = _
    unfold State.waitEnd
    rw [hwrite]
  have hacc := accept_onlyNotes (t.setVreg w l dst ⟨v, bad⟩) w [l] (s.condWaits conds)
  generalize t.setVreg w l dst ⟨v, bad⟩ = p at honly hread hlisted hacc hu
  generalize p.accept w [l] (s.condWaits conds) = q at hacc hu
  have hwq : (tget q.warps w).isSome := by rw [hacc.listed, hlisted]
  obtain ⟨hwake, hlane⟩ := wakes_spec (s := q) hwq (List.nodup_singleton l)
  have hreads : ∀ x, u.reads w x = p.reads w x := fun x => by
    rw [hu]
    exact (wakes_reads (s := q) hwq (List.nodup_singleton l) w x).trans (hacc.reads w x)
  have hgo : (u.warp w).lane l = p.goOnOf w ((p.warp w).lane l) := by
    rw [hu, ← hacc.goOnOf, ← hacc.lane]
    exact (hlane l).trans (if_pos (List.mem_singleton_self l))
  refine ⟨?_, (hreads _).trans hread, fun x hx => ?_, ?_⟩
  · obtain ⟨h1, h2, h3, h4⟩ := woken_of_onlyRegs honly hgo
    unfold Claims.Woken
    rw [h1, h2, h3, h4, hnote.warp, hnote.rest]
    exact ⟨rfl, rfl, rfl, rfl⟩
  · rw [hreads, honly.regs x (by simpa using hx), hnote.reads]
  · have hm : u.mem = q.mem := by rw [hu]; rfl
    rw [hm, hacc.rest, honly.rest, hnote.rest]

/-! ### Conditions -/

theorem waitResult_eq (all : Bool) (hs : List Bool) {timeout : Bool} (h : combine all hs = true ∨ timeout = true) :
    waitResult all hs timeout = BitVec.ofNat 32 (heldBits hs + if combine all hs then 0 else 16) := by
  unfold waitResult
  cases hc : combine all hs with
  | true => simp
  | false => simp [h.resolve_left (by simp [hc])]

theorem cellAt_alone {s : State} {w : Nat} (h : (s.block (s.warp w).block).shares = []) (l r : Nat) :
    s.cellAt w l r = none := by
  unfold State.cellAt
  rw [sharedAt_none h]

/-- In a block without shares no lane waits for a cell that will never be filled (R159). -/
theorem orphaned_alone {s : State} {w : Nat} (h : (s.block (s.warp w).block).shares = []) (l : Nat) (conds : List WaitCond) :
    conds.any (s.orphaned w l) = false := by
  refine List.any_eq_false.mpr fun c _ => ?_
  unfold State.orphaned
  cases c <;> simp [cellAt_alone h]

end Sys2Proof.Machine

namespace Sys2Proof.Proofs

open Sys2Proof.Machine Sys2Proof.Claims

/-! ### WAIT_RELEASE and WAIT_TIMEOUT -/

theorem wait_release {w l dst : Nat} {conds : List WaitCond} {all bad : Bool} {deadline : Option Nat} {s : State}
    (hp : ((s.warp w).lane l).park = .wait conds all deadline dst bad) (hd : dst < 8 * ((s.warp w).lane l).top.g)
    (ha : (s.block (s.warp w).block).shares = []) (hn : NoNotice s w) :
    ∃ u, exec (.waitRelease w l) s = .next u ∧
      if combine all (conds.map (s.condHolds w l)) then
        Woken s u w l ∧ u.reads w (.vec l dst) = ⟨BitVec.ofNat 32 (heldBits (conds.map (s.condHolds w l))), bad⟩ ∧
          (∀ x, x ≠ .vec l dst → u.reads w x = s.reads w x) ∧ u.mem = s.mem
      else u = s := by
  have hw := (listed_of_park (s := s) (w := w) (l := l) (by rw [hp]; simp)).1
  have hx : exec (.waitRelease w l) s = .next (if combine all (conds.map (s.condHolds w l)) then
      s.waitEnd w l dst conds (waitResult all (conds.map (s.condHolds w l)) false) bad else s) := by
    show execWaitRelease w l s = _
    unfold execWaitRelease
    simp only [sweep_unnoticed hn, hp, orphaned_alone ha]
    rfl
  refine ⟨_, hx, ?_⟩
  split_ifs
  · exact waitEnd_spec hw ha hd conds _ bad
  · rfl

theorem wait_timeout {w l dst d : Nat} {conds : List WaitCond} {all bad : Bool} {s : State}
    (hp : ((s.warp w).lane l).park = .wait conds all (some d) dst bad) (hd : dst < 8 * ((s.warp w).lane l).top.g)
    (ha : (s.block (s.warp w).block).shares = []) (hn : NoNotice s w) :
    ∃ u, exec (.waitTimeout w l) s = .next u ∧
      if s.refTick < d then u = s
      else Woken s u w l ∧ (∀ x, x ≠ .vec l dst → u.reads w x = s.reads w x) ∧ u.mem = s.mem ∧
        u.reads w (.vec l dst) = ⟨BitVec.ofNat 32 (heldBits (conds.map (s.condHolds w l)) +
          if combine all (conds.map (s.condHolds w l)) then 0 else 16), bad⟩ := by
  have hw := (listed_of_park (s := s) (w := w) (l := l) (by rw [hp]; simp)).1
  have hx : exec (.waitTimeout w l) s = .next (if s.refTick < d then s
      else s.waitEnd w l dst conds (waitResult all (conds.map (s.condHolds w l)) true) bad) := by
    show execWaitTimeout w l s = _
    unfold execWaitTimeout
    simp only [sweep_unnoticed hn, hp]
  refine ⟨_, hx, ?_⟩
  by_cases hr : s.refTick < d
  · rw [if_pos hr, if_pos hr]
  · rw [if_neg hr, if_neg hr, waitResult_eq _ _ (.inr rfl)]
    obtain ⟨h1, h2, h3, h4⟩ := waitEnd_spec hw ha hd conds _ bad
    exact ⟨h1, h3, h4, h2⟩

end Sys2Proof.Proofs
end

section
/-! PROOFS. `wait` as a word: lane by lane, each goes on with its outcome or parks (R149 to R151). -/

namespace Sys2Proof.Machine

/-! ### Masks of ready lanes -/

/-- A change of some lanes that gives none of them a property takes just them out of its mask. -/
theorem mask_updLanes_off (W : Warp) (m : BitVec 32) {f : Nat → Lane → Lane} {p : Lane → Bool}
    (h : ∀ l L, p (f l L) = false) (l : Nat) :
    ((W.updLanes m f).mask p).getLsbD l = true ↔ m.getLsbD l = false ∧ (W.mask p).getLsbD l = true := by
  have hmem : ∀ L, (l, L) ∈ (W.updLanes m f).lanes ↔ ∃ K, (l, K) ∈ W.lanes ∧ (if m.getLsbD l then f l K else K) = L := by
    intro L
    simp only [Warp.updLanes, tmap, List.mem_map, Prod.mk.injEq, Prod.exists]
    exact ⟨fun ⟨k, K, hK, e, e'⟩ => ⟨K, e ▸ hK, e ▸ e'⟩, fun ⟨K, hK, e⟩ => ⟨l, K, hK, rfl, e⟩⟩
  simp only [mem_mask, hmem]
  cases m.getLsbD l <;> simp [h]

/-- A word completes (R72): the ready lanes of its gang stand at the next word, and no other lane has changed. -/
theorem finish_ready {s : State} {h : Hdr} (hw : (tget s.warps s.w).isSome) (hq : s.wp.Quiet) (hu : s.Unheld h) :
    State.OnlyLanes s (s.finish h) ∧ ∀ l, ((s.finish h).warp s.w).lane l =
      if (s.wp.mask Lane.ready &&& s.cur.lanes).getLsbD l = true ∧ (tget s.wp.lanes l).isSome then
        (s.wp.lane l).standAt (afterWord h s.cur.pc) (s.cyc + 1) else s.wp.lane l := by
  have hgo := goto_onlyLanes hw (s.wp.mask Lane.ready &&& s.cur.lanes) (afterWord h s.cur.pc)
  have e : s.finish h = s.goto (s.wp.mask Lane.ready &&& s.cur.lanes) (afterWord h s.cur.pc) :=
    close_quiet (hgo.quiet hq) (hgo.unheld hu)
  rw [e]
  exact ⟨hgo, goto_lane hw _ _⟩

/-! ### Lanes that wait -/

section
variable (s t : State) (h : Hdr) (d : Nat) (goes : Nat → Bool) (cell : Nat → Cell) (park : Nat → Park)

/-- From s to t, the lanes listed have come to what `wait` makes of them (R149): those that go on have their cell in register
d, the others are parked; nothing else has changed but what lanes have accepted. -/
structure State.Waited (done : List Nat) : Prop where
  rest : t = { s with warps := t.warps }
  others : ∀ v, v ≠ s.w → t.warp v = s.warp v
  listed : (tget t.warps s.w).isSome
  warp : t.warp s.w = { s.wp with lanes := (t.warp s.w).lanes, syncs := (t.warp s.w).syncs }
  todo : ∀ l, l ∉ done → (t.warp s.w).lane l = s.wp.lane l
  went : ∀ l ∈ done, goes l = true →
    (t.warp s.w).lane l = { s.wp.lane l with frames := ((t.warp s.w).lane l).frames } ∧ t.reads s.w (.vec l d) = cell l
  parked : ∀ l ∈ done, goes l = false →
    (t.warp s.w).lane l = (s.wp.lane l).parkAt (park l) (afterWord h s.cur.pc) (safeTag h) ∧
      ((t.warp s.w).mask Lane.ready).getLsbD l = false
  regs : ∀ x, (∀ l ∈ done, goes l = true → x ≠ .vec l d) → t.reads s.w x = s.reads s.w x

end

section
variable {s t : State} {h : Hdr} {d : Nat} {goes : Nat → Bool} {cell : Nat → Cell} {park : Nat → Park} {done : List Nat}

theorem State.Waited.refl (hw : (tget s.warps s.w).isSome) : s.Waited s h d goes cell park [] where
  rest := rfl
  others _ _ := rfl
  listed := hw
  warp := rfl
  todo _ _ := rfl
  went _ hl := absurd hl List.not_mem_nil
  parked _ hl := absurd hl List.not_mem_nil
  regs _ _ := rfl

theorem State.Waited.w (k : s.Waited t h d goes cell park done) : t.w = s.w := by rw [k.rest]; rfl

theorem State.Waited.wp (k : s.Waited t h d goes cell park done) : t.wp = t.warp s.w := congrArg t.warp k.w

theorem State.Waited.quiet (k : s.Waited t h d goes cell park done) (hq : s.wp.Quiet) : (t.warp s.w).Quiet := by
  rw [k.warp]; exact ⟨hq.longs, hq.late⟩

theorem State.Waited.alone (k : s.Waited t h d goes cell park done) (ha : (s.block s.wp.block).shares = []) :
    (t.block (t.warp s.w).block).shares = [] := by
  rw [k.warp, k.rest]; exact ha

/-- One more lane goes on, with its cell written and what it accepts (R151, R198). -/
theorem State.Waited.goOn (k : s.Waited t h d goes cell park done) (hq : s.wp.Quiet) (ha : (s.block s.wp.block).shares = [])
    {a : Nat} (hn : a ∉ done) (hg : goes a = true) (hd : d < 8 * (s.wp.lane a).top.g) (ws : Waits) :
    s.Waited ((t.writeTarget t.w (.vec a d) (cell a)).accept t.w [a] ws) h d goes cell park (done ++ [a]) := by
  have hqt := k.quiet hq
  have hat := k.alone ha
  have hlane := k.todo a hn
  obtain ⟨honly, hread⟩ := setVreg_onlyRegs k.listed a d (cell a) (by rw [hlane]; exact hd) hat
  have hset := setVreg_alone hat a d (cell a)
  rw [k.w, writeTarget_quiet hqt]
  change State.OnlyRegs t (t.putTarget s.w (.vec a d) (cell a)) _ _ at honly
  change (t.putTarget s.w (.vec a d) (cell a)).reads _ _ = _ at hread
  change t.putTarget s.w (.vec a d) (cell a) = _ at hset
  have hself : (t.putTarget s.w (.vec a d) (cell a)).warp s.w = (t.warp s.w).updLane a (·.putReg d (cell a)) := by
    rw [hset]; exact warp_updWarp_self t _ k.listed
  have hlisted : (tget (t.putTarget s.w (.vec a d) (cell a)).warps s.w).isSome := by
    rw [hset, isSome_updWarp]; exact k.listed
  generalize t.putTarget s.w (.vec a d) (cell a) = p at honly hread hself hlisted
  have hacc := accept_onlyNotes p s.w [a] ws
  have hsync := (accept_onlySyncs p s.w [a] ws).warp s.w
  generalize p.accept s.w [a] ws = u at hacc hsync
  have hne : ∀ l, l ≠ a → (u.warp s.w).lane l = (t.warp s.w).lane l := fun l hl => by
    rw [hacc.lane, hself, lane_updLane, if_neg hl]
  have hregs : ∀ x, x ≠ .vec a d → u.reads s.w x = t.reads s.w x := fun x hx => by
    rw [hacc.reads, honly.regs x (by simpa using hx)]
  have hdone : ∀ l, l ∈ done ++ [a] ↔ l ∈ done ∨ l = a := fun l => by simp
  refine ⟨by rw [hacc.rest, honly.rest, k.rest], fun v hv => ?_, by rw [hacc.listed, hlisted], ?_, fun l hl => ?_,
    fun l hl hgl => ?_, fun l hl hgl => ?_, fun x hx => ?_⟩
  · rw [hacc.others v hv, honly.others v hv, k.others v hv]
  · rw [hsync, hself, k.warp]; rfl
  · rw [hdone, not_or] at hl
    rw [hne l hl.2, k.todo l hl.1]
  · by_cases hla : l = a
    · subst hla
      refine ⟨?_, by rw [hacc.reads, hread]⟩
      rw [hacc.lane, hself, lane_updLane_self, hlane]
      rfl
    · rw [hne l hla, hregs _ fun e => hla (Target.vec.inj e).1]
      exact k.went l (((hdone l).mp hl).resolve_right hla) hgl
  · have hla : l ≠ a := fun e => by rw [e, hg] at hgl; cases hgl
    obtain ⟨h1, h2⟩ := k.parked l (((hdone l).mp hl).resolve_right hla) hgl
    refine ⟨by rw [hne l hla, h1], ?_⟩
    have hm : (u.warp s.w).mask Lane.ready = (p.warp s.w).mask Lane.ready := by rw [hacc.warp]; rfl
    rw [hm, hself, mask_updLane _ a (f := (·.putReg d (cell a))) (p := Lane.ready) (fun _ => rfl) rfl, h2]
  · rw [hregs x (hx a ((hdone a).mpr (.inr rfl)) hg), k.regs x fun l hl => hx l ((hdone l).mpr (.inl hl))]

/-- One more lane parks (R117). -/
theorem State.Waited.parkLane (k : s.Waited t h d goes cell park done) {a : Nat} (hn : a ∉ done) (hg : goes a = false)
    (hp : (park a).on = true) (ha : a < 32) (hr : (s.wp.lane a).ready = true) :
    s.Waited (t.parkLanes (maskOf [a]) h (fun _ => park a)) h d goes cell park (done ++ [a]) := by
  have hcur : t.cur = s.cur := by rw [k.rest]
  have hbit : ∀ l, (maskOf [a]).getLsbD l = true ↔ l = a := fun l => by
    rw [getLsbD_maskOf]
    simp only [Bool.and_eq_true, decide_eq_true_eq, List.contains_iff_mem, List.mem_singleton]
    exact ⟨And.right, fun e => ⟨e ▸ ha, e⟩⟩
  let f : Nat → Lane → Lane := fun _ L => L.parkAt (park a) (afterWord h s.cur.pc) (safeTag h)
  have he : t.parkLanes (maskOf [a]) h (fun _ => park a) = t.updWarp s.w (·.updLanes (maskOf [a]) f) := by
    unfold State.parkLanes
    rw [hcur, k.w]
    rfl
  rw [he]
  have hself : (t.updWarp s.w (·.updLanes (maskOf [a]) f)).warp s.w = (t.warp s.w).updLanes (maskOf [a]) f :=
    warp_updWarp_self t _ k.listed
  have hlane : ∀ l, ((t.warp s.w).updLanes (maskOf [a]) f).lane l =
      if l = a then (s.wp.lane a).parkAt (park a) (afterWord h s.cur.pc) (safeTag h) else (t.warp s.w).lane l := by
    intro l
    have htodo := k.todo a hn
    have hsome : (tget (t.warp s.w).lanes a).isSome := isSome_of_ready (by rw [htodo]; exact hr)
    rw [lane_updLanes]
    by_cases hl : l = a
    · subst hl
      rw [if_pos ⟨(hbit l).mpr rfl, hsome⟩, if_pos rfl, ← htodo]
    · rw [if_neg fun e => hl ((hbit l).mp e.1), if_neg hl]
  have hfile : ∀ l, (((t.warp s.w).updLanes (maskOf [a]) f).lane l).file = ((t.warp s.w).lane l).file := fun l => by
    rw [lane_updLanes]
    split_ifs <;> rfl
  have hlanes := onlyLanes_updWarp (s := t) (by rw [k.w]; exact k.listed) (f := (·.updLanes (maskOf [a]) f)) fun _ => rfl
  rw [k.w] at hlanes
  have hreads : ∀ x, (t.updWarp s.w (·.updLanes (maskOf [a]) f)).reads s.w x = t.reads s.w x :=
    onlyLanes_reads hlanes (fun l => by rw [k.w, hself, hfile, k.wp]) s.w
  have hoff : ∀ l L, (f l L).ready = false := fun l L => by simp [f, Lane.parkAt, Lane.ready, hp]
  have hmask := mask_updLanes_off (t.warp s.w) (maskOf [a]) hoff
  have hdone : ∀ l, l ∈ done ++ [a] ↔ l ∈ done ∨ l = a := fun l => by simp
  refine ⟨by rw [k.rest]; rfl, fun v hv => ?_, by rw [isSome_updWarp]; exact k.listed, ?_, fun l hl => ?_,
    fun l hl hgl => ?_, fun l hl hgl => ?_, fun x hx => ?_⟩
  · rw [warp_updWarp_ne _ _ hv, k.others v hv]
  · rw [hself, k.warp]; rfl
  · rw [hdone, not_or] at hl
    rw [hself, hlane, if_neg hl.2, k.todo l hl.1]
  · have hla : l ≠ a := fun e => by rw [e, hg] at hgl; cases hgl
    rw [hself, hlane, if_neg hla, hreads]
    exact k.went l (((hdone l).mp hl).resolve_right hla) hgl
  · rw [hself, hlane, Bool.eq_false_iff, ne_eq, hmask]
    by_cases hla : l = a
    · subst hla
      rw [if_pos rfl]
      exact ⟨rfl, fun e => Bool.eq_false_iff.mp e.1 ((hbit l).mpr rfl)⟩
    · obtain ⟨h1, h2⟩ := k.parked l (((hdone l).mp hl).resolve_right hla) hgl
      rw [if_neg hla]
      exact ⟨h1, fun e => Bool.eq_false_iff.mp h2 e.2⟩
  · rw [hreads, k.regs x fun l hl => hx l ((hdone l).mpr (.inl hl))]
end

section
variable {s : State} {h : Hdr} {u : Uses} {m : BitVec 32} {d : Nat} {goes : Nat → Bool} {cell : Nat → Cell} {park : Nat → Park}

/-- Every acting lane comes to what `wait` makes of it (R149), when each does in the state that those before it have left. -/
theorem waitLanes_waited (a : s.Acts h u m) (hd : (d, 1) ∈ u.reads ++ u.writes) (hp : ∀ l, (park l).on = true)
    {f : State → Nat → State}
    (hf : ∀ t done l, s.Waited t h d goes cell park done → ∃ ws, f t l = if goes l then
      (t.writeTarget t.w (.vec l d) (cell l)).accept t.w [l] ws else t.parkLanes (maskOf [l]) h (fun _ => park l)) :
    s.Waited ((lanesOf m).foldl f s) h d goes cell park (lanesOf m) := by
  have hfold : ∀ (ls done : List Nat) (t : State), (done ++ ls).Nodup → (∀ l ∈ ls, m.getLsbD l = true) →
      s.Waited t h d goes cell park done → s.Waited (ls.foldl f t) h d goes cell park (done ++ ls) := by
    intro ls
    induction ls with
    | nil => exact fun done t _ _ k => by simpa using k
    | cons l ls ih =>
      intro done t hn hm k
      have hl := hm l List.mem_cons_self
      have hout : l ∉ done := fun e => (List.nodup_append.mp hn).2.2 l e l List.mem_cons_self rfl
      rw [List.append_cons] at hn ⊢
      refine ih _ _ hn (fun k hk => hm k (List.mem_cons_of_mem _ hk)) ?_
      obtain ⟨ws, e⟩ := hf t done l k
      rw [e]
      split_ifs with hg
      · exact k.goOn a.quiet a.alone hout hg (a.fits_of_mem hl hd) ws
      · exact k.parkLane hout (by simpa using hg) (hp l) (BitVec.lt_of_getLsbD hl) (a.ready l (a.inGang hl))
  exact hfold (lanesOf m) [] s (lanesOf_nodup m) (fun l => mem_lanesOf.mp) (.refl a.warp)

/-- The gang of a `wait` once each acting lane has come to what it makes of it (R72, R149): those that go on stand at the next
word with their cells, the others are parked. -/
theorem State.Waited.finish {t : State} (k : s.Waited t h d goes cell park (lanesOf m)) (hi : s.Issues) (hq : s.wp.Quiet)
    (hm : ∀ l, m.getLsbD l = true → s.cur.lanes.getLsbD l = true) (hu : s.Unheld h) :
    let v := t.finish h
    (∀ w, w ≠ s.w → v.warp w = s.warp w) ∧ v.mem = s.mem ∧
      (∀ l, m.getLsbD l = true → if goes l = true then
          v.reads s.w (.vec l d) = cell l ∧ ((v.warp s.w).lane l).pc = afterWord h s.cur.pc
        else Claims.ParkedAt s v h l (park l)) ∧
      ∀ x, (∀ l, m.getLsbD l = true → goes l = true → x ≠ .vec l d) → v.reads s.w x = s.reads s.w x := by
  intro v
  have hun : t.Unheld h := by
    unfold State.Unheld
    rw [k.wp, k.warp, k.rest]
    exact hu
  obtain ⟨ho, hl⟩ := finish_ready (s := t) (h := h) (by rw [k.w]; exact k.listed) (by rw [k.wp]; exact k.quiet hq) hun
  have hreads : ∀ x, v.reads s.w x = t.reads s.w x := onlyLanes_reads ho (fun l => by rw [hl]; split_ifs <;> rfl) s.w
  rw [k.wp, k.w] at hl
  have hregs : ∀ x, (∀ l, m.getLsbD l = true → goes l = true → x ≠ .vec l d) → v.reads s.w x = s.reads s.w x :=
    fun x hx => by rw [hreads]; exact k.regs x fun l hl => hx l (mem_lanesOf.mp hl)
  refine ⟨fun w hw => ?_, ?_, fun l hml => ?_, hregs⟩
  · rw [ho.others w (by rw [k.w]; exact hw), k.others w hw]
  · have e : t.mem = s.mem := by rw [k.rest]
    exact (congrArg State.mem ho.rest).trans e
  · split_ifs with hg
    · obtain ⟨h1, h2⟩ := k.went l (mem_lanesOf.mpr hml) hg
      have hr : ((t.warp s.w).lane l).ready = true := by rw [h1]; exact hi.ready l (hm l hml)
      have hcur : t.cur = s.cur := by rw [k.rest]
      have hin : ((t.warp s.w).mask Lane.ready &&& t.cur.lanes).getLsbD l = true := by
        rw [BitVec.getLsbD_and, getLsbD_mask (BitVec.lt_of_getLsbD hml) (isSome_of_ready hr) hr, hcur, hm l hml]
        rfl
      refine ⟨by rw [hreads, h2], ?_⟩
      rw [hl, if_pos ⟨hin, isSome_of_ready hr⟩, hcur]
      rfl
    · obtain ⟨h1, h2⟩ := k.parked l (mem_lanesOf.mpr hml) (by simpa using hg)
      unfold Claims.ParkedAt
      rw [hl, if_neg (by rw [BitVec.getLsbD_and, h2]; simp), h1]
      exact ⟨rfl, rfl, rfl, fun r => hregs _ fun k hk hgk e => hg ((Target.vec.inj e).1 ▸ hgk)⟩

end

end Sys2Proof.Machine
end

section
/-! PROOFS. `wait`: its conditions, and the word from its issue on (R149 to R151). -/

namespace Sys2Proof.Machine

/-! ### Conditions and descriptors -/

/-- A condition of `wait` looks at no warp, in a block that shares no granules (R150). -/
theorem condHolds_congr {s t : State} {w : Nat} (h : t = { s with warps := t.warps })
    (hs : (s.block (s.warp w).block).shares = []) (ht : (t.block (t.warp w).block).shares = []) (l : Nat) (c : WaitCond) :
    t.condHolds w l c = s.condHolds w l c := by
  cases c with
  | full r =>
    simp only [State.condHolds, cellAt_alone hs, cellAt_alone ht]
  | _ => rw [h]; rfl

theorem condsOf_ok (cs : List WaitCond) : condsOf (cs.map .ok) = cs := by
  unfold condsOf
  rw [List.filterMap_map]
  exact List.filterMap_some

theorem causesOf_ok (cs : List WaitCond) : causesOf (cs.map .ok) = [] := by
  unfold causesOf
  rw [List.filterMap_map]
  exact List.filterMap_eq_nil_iff.mpr fun _ _ => rfl

/-- Descriptors of channels and of registers name no operand (R150). -/
theorem waitCond_operandless {d : Word} (h : d.toNat / 2 ^ 28 = 1 ∨ d.toNat / 2 ^ 28 = 4) (s : State) (w l : Nat) (x y : Word) :
    s.waitCond w l d x = s.waitCond w l d y := by
  unfold State.waitCond
  rcases h with h | h <;> simp only [h]

/-- `wait` reads the operand of each descriptor that names one (R150). -/
theorem mem_waitReads {ds : List Word} {b k : Nat} {d : Word} (h : ds[k]? = some d) :
    (waitReads ds b).contains (b + k, 1) = true ∨ d.toNat / 2 ^ 28 = 1 ∨ d.toNat / 2 ^ 28 = 4 := by
  by_cases hd : d.toNat / 2 ^ 28 = 1 ∨ d.toNat / 2 ^ 28 = 4
  · exact .inr hd
  · refine .inl (List.contains_iff_mem.mpr (List.mem_map.mpr ⟨(d, k), List.mem_filter.mpr ⟨?_, ?_⟩, rfl⟩))
    · exact List.mem_zipIdx_iff_getElem?.mpr (by simpa using h)
    · simpa [not_or] using hd

/-- Every operand that `wait` reads is one of those from its field B on (R150). -/
theorem waitReads_fit {ds : List Word} {b n : Nat} (hn : ds.length ≤ n) {r : Nat × Nat} (h : r ∈ waitReads ds b) :
    r.1 + r.2 ≤ b + n := by
  obtain ⟨⟨d, k⟩, hk, rfl⟩ := List.mem_map.mp h
  have hlt := List.snd_lt_of_mem_zipIdx (List.mem_of_mem_filter hk)
  simp only at hlt ⊢
  omega

end Sys2Proof.Machine

namespace Sys2Proof.Proofs

open Sys2Proof.Machine Sys2Proof.Claims

/-! ### `wait` -/

/-- The descriptors of a `wait` (R150). -/
def waitDescs (s : State) (t : Tri) : List Word :=
  (List.range (t.sub.toNat % 4 + 1)).map (fun k => (s.reads s.w (.uni (t.a.toNat + k))).val)

/-- What a `wait` goes by, besides its conditions, is clean (R349), and nothing but its conditions holds it up (R257). -/
structure WaitActs (s : State) (t : Tri) (m : BitVec 32) (cs : Nat → List WaitCond) : Prop where
  acts : s.Acts t.h ⟨[(t.b.toNat, t.sub.toNat % 4 + 1)], [(t.d.toNat, 1)], false⟩ m
  wanted : Wanted s m
  steady : s.committing s.w = false
  operands : CleanData s m t.b.toNat (t.sub.toNat % 4 + 1)
  descs : ∀ k, k < t.sub.toNat % 4 + 1 → (s.reads s.w (.uni (t.a.toNat + k))).bad = false
  limit : t.sub.getLsbD 3 = true → (s.reads s.w (.uni t.c.toNat)).bad = false
  conds : ∀ l, m.getLsbD l = true → (List.range (t.sub.toNat % 4 + 1)).map (fun k =>
    s.waitCond s.w l (s.reads s.w (.uni (t.a.toNat + k))).val (s.reads s.w (.vec l (t.b.toNat + k))).val) =
      (cs l).map .ok

/-- The descriptors of a `wait` in a lane, each with the operand that it names (R150). -/
def waitPairs (s : State) (t : Tri) (l : Nat) : List (Cell × Cell) :=
  (List.range (t.sub.toNat % 4 + 1)).map (fun k => (s.reads s.w (.uni (t.a.toNat + k)),
    if (waitReads (waitDescs s t) t.b.toNat).contains (t.b.toNat + k, 1) then s.reads s.w (.vec l (t.b.toNat + k)) else {}))

theorem WaitActs.pairs_clean {s : State} {t : Tri} {m : BitVec 32} {cs : Nat → List WaitCond} (a : WaitActs s t m cs) {l : Nat}
    (hl : m.getLsbD l = true) {p : Cell × Cell} (hp : p ∈ waitPairs s t l) : p.1.bad = false ∧ p.2.bad = false := by
  obtain ⟨k, hk, rfl⟩ := List.mem_map.mp hp
  have hk := List.mem_range.mp hk
  refine ⟨a.descs k hk, ?_⟩
  dsimp only
  split_ifs
  · exact a.operands l hl k hk
  · rfl

/-- The conditions of a lane are those that its descriptors give for the registers that they name. -/
theorem WaitActs.pairs_conds {s : State} {t : Tri} {m : BitVec 32} {cs : Nat → List WaitCond} (a : WaitActs s t m cs) {l : Nat}
    (hl : m.getLsbD l = true) :
    (waitPairs s t l).map (fun p => s.waitCond s.w l p.1.val p.2.val) = (cs l).map .ok := by
  rw [← a.conds l hl, waitPairs, List.map_map]
  refine List.map_congr_left fun k hk => ?_
  have hk := List.mem_range.mp hk
  dsimp only [Function.comp]
  split_ifs with hin
  · rfl
  · have hget : (waitDescs s t)[k]? = some (s.reads s.w (.uni (t.a.toNat + k))).val := by
      simp [waitDescs, hk]
    exact waitCond_operandless ((mem_waitReads (b := t.b.toNat) hget).resolve_left hin) _ _ _ _ _

/-- A lane goes on at once when its combination holds, or with a timeout of 0 (R149, R151). -/
def waitGoes (s : State) (t : Tri) (cs : Nat → List WaitCond) (l : Nat) : Bool :=
  combine (t.sub.getLsbD 2) ((cs l).map (s.condHolds s.w l)) ||
    t.sub.getLsbD 3 && (s.reads s.w (.uni t.c.toNat)).val == 0

/-- What a lane that goes on at once receives (R151). -/
def waitCell (s : State) (t : Tri) (cs : Nat → List WaitCond) (l : Nat) : Cell :=
  ⟨waitResult (t.sub.getLsbD 2) ((cs l).map (s.condHolds s.w l))
    (t.sub.getLsbD 3 && (s.reads s.w (.uni t.c.toNat)).val == 0), false⟩

/-- How a lane that does not go on at once parks (R151). -/
def waitPark (s : State) (t : Tri) (cs : Nat → List WaitCond) (l : Nat) : Park :=
  .wait (cs l) (t.sub.getLsbD 2) (if t.sub.getLsbD 3 then
    some (s.refTick + (s.reads s.w (.uni t.c.toNat)).val.toNat) else none) t.d.toNat false

/-- A lane at `wait`, from the state that the lanes before it have left (R149). -/
def waitStep (t : Tri) (limit : Word) (cs : Nat → List WaitCond) (s : State) (l : Nat) : State :=
  let hs := (cs l).map (s.condHolds s.w l)
  let now := t.sub.getLsbD 3 && limit == 0
  if combine (t.sub.getLsbD 2) hs || now then
    (s.writeTarget s.w (.vec l t.d.toNat) ⟨waitResult (t.sub.getLsbD 2) hs now, false⟩).accept s.w [l] (s.condWaits (cs l))
  else s.parkLanes (maskOf [l]) t.h (fun _ => .wait (cs l) (t.sub.getLsbD 2)
    (if t.sub.getLsbD 3 then some (s.refTick + limit.toNat) else none) t.d.toNat false)

/-- The operands that the descriptors name fit the frames that all operands fit. -/
theorem WaitActs.reading {s : State} {t : Tri} {m : BitVec 32} {cs : Nat → List WaitCond} (a : WaitActs s t m cs) :
    s.Acts t.h ⟨waitReads (waitDescs s t) t.b.toNat, [(t.d.toNat, 1)], false⟩ m where
  toIssues := a.acts.toIssues
  quiet := a.acts.quiet
  alone := a.acts.alone
  live := a.acts.live
  clean := a.acts.clean
  acting := a.acts.acting
  fits l hl := by
    have hf := a.acts.fits l hl
    unfold Lane.fits at hf ⊢
    rw [List.all_eq_true] at hf ⊢
    intro r hr
    rcases List.mem_append.mp hr with hr | hr
    · have h1 := waitReads_fit (n := t.sub.toNat % 4 + 1) (by simp [waitDescs]) hr
      have h2 := hf (t.b.toNat, t.sub.toNat % 4 + 1) (by simp)
      simp only [decide_eq_true_eq] at h2 ⊢
      omega
    · exact hf r (List.mem_append_right _ hr)

/-- From its issue on, `wait` takes its acting lanes in turn (R149, R150). -/
theorem exec_wait {s : State} {t : Tri} {m : BitVec 32} {cs : Nat → List WaitCond} (a : WaitActs s t m cs) :
    exec (.wait t) s = .next (((lanesOf m).foldl (waitStep t (s.reads s.w (.uni t.c.toNat)).val cs) s).finish t.h) := by
  have hq := a.acts.quiet
  show execWait t s = _
  unfold execWait
  extract_lets n all ds reads u unfit timed
  have hunfit : unfit = 0 := lanesWhere_zero fun l hl => by
    have hf := a.acts.fits l hl
    simp only [List.cons_append, List.nil_append] at hf
    simp only [a.acts.live l hl, n, hf, Bool.and_self, Bool.not_true]
  have hds : ds = (List.range n).map (fun k => s.reads s.w (.uni (t.a.toNat + k))) :=
    List.map_congr_left fun k _ => readS_quiet hq _ k
  have hreads : reads = waitReads (waitDescs s t) t.b.toNat := by
    simp only [reads, hds, List.map_map]
    rfl
  have ha : s.Acts t.h u m := by
    simp only [u, hreads]
    exact a.reading
  rw [if_neg (by simp [hunfit]), admit_eq ha false (by simp), reclaimFirst_undoomed a.wanted]
  extract_lets limit xs taint badAddr cs' failing cells now last
  have hlimit : limit = s.reads s.w (.uni t.c.toNat) := readS_quiet hq _ 8
  have hzip : ∀ l, ds.zip (xs l) = waitPairs s t l := fun l => by
    have hx : ∀ k, s.readV s.w l (t.b.toNat + k) (16 + k) = s.reads s.w (.vec l (t.b.toNat + k)) := fun k =>
      readV_quiet (w := s.w) hq _ _ _
    simp only [hds, xs, hx, hreads, List.zip_map']
    rfl
  have hclean : ∀ l, m.getLsbD l = true → taint l = false := fun l hl => by
    have h1 : ds.any (·.bad) = false := List.any_eq_false.mpr fun c hc => by
      rw [hds] at hc
      obtain ⟨k, hk, rfl⟩ := List.mem_map.mp hc
      simp [a.descs k (List.mem_range.mp hk)]
    have h2 : (timed && limit.bad) = false := by
      rw [hlimit]
      cases ht : timed
      · rfl
      · exact a.limit ht
    have h3 : (xs l).any (·.bad) = false := List.any_eq_false.mpr fun c hc => by
      obtain ⟨k, hk, rfl⟩ := List.mem_map.mp hc
      have hread := readV_quiet (w := s.w) hq l (t.b.toNat + k) (16 + k)
      split_ifs
      · rw [hread, Bool.not_eq_true]
        exact a.operands l hl k (List.mem_range.mp hk)
      · simp
    simp only [taint, h1, h2, h3, Bool.or_false]
  have hbad : (lanesOf m).any badAddr = false := List.any_eq_false.mpr fun l hl => by
    simp only [badAddr, hzip, Bool.not_eq_true, List.any_eq_false]
    intro p hp
    obtain ⟨h1, h2⟩ := a.pairs_clean (mem_lanesOf.mp hl) hp
    simp [h1, h2]
  have hcs : cs' = (lanesOf m).map (fun l => (l, (cs l).map .ok)) := List.map_congr_left fun l hl => by
    rw [hzip, a.pairs_conds (mem_lanesOf.mp hl)]
  have hfail : ∀ c, failing c = 0 := fun c => by
    have hnone : cs'.filter (fun x => (causesOf x.2).contains c) = [] := by
      rw [hcs]
      refine List.filter_eq_nil_iff.mpr fun x hx => ?_
      obtain ⟨l, -, rfl⟩ := List.mem_map.mp hx
      simp [causesOf_ok]
    simp only [failing, hnone]
    rfl
  have hcells : cells = s := emptyCells_alone a.acts.alone m _
  rw [if_neg (by simp [hbad]), a.steady, Bool.and_false, if_neg Bool.false_ne_true]
  rw [hfail, hfail, hfail, if_neg (by simp), if_neg (by simp), if_neg (by simp)]
  have hlast : last = (lanesOf m).foldl (waitStep t (s.reads s.w (.uni t.c.toNat)).val cs) s := by
    simp only [last, hcells, hcs, List.foldl_map, condsOf_ok]
    refine List.foldl_ext _ _ s fun p l hl => ?_
    simp only [hclean l (mem_lanesOf.mp hl), now, hlimit]
    rfl
  rw [hlast]

/-- Where only lanes at `wait` have come to what it makes of them, conditions stand as before. -/
theorem waited_condHolds {s t : State} {h : Hdr} {d : Nat} {goes : Nat → Bool} {cell : Nat → Cell} {park : Nat → Park}
    {done : List Nat} (k : s.Waited t h d goes cell park done) (ha : (s.block s.wp.block).shares = []) (l : Nat) :
    t.condHolds s.w l = s.condHolds s.w l :=
  funext fun c => condHolds_congr k.rest ha (k.alone ha) l c

theorem WaitActs.waited {s : State} {t : Tri} {m : BitVec 32} {cs : Nat → List WaitCond} (a : WaitActs s t m cs) :
    s.Waited ((lanesOf m).foldl (waitStep t (s.reads s.w (.uni t.c.toNat)).val cs) s) t.h t.d.toNat (waitGoes s t cs)
      (waitCell s t cs) (waitPark s t cs) (lanesOf m) := by
  refine waitLanes_waited a.acts (by simp) (fun l => rfl) fun p done l k => ⟨p.condWaits (cs l), ?_⟩
  have htick : p.refTick = s.refTick := by rw [k.rest]; rfl
  simp only [waitStep, waitGoes, waitCell, waitPark, k.w, waited_condHolds k a.acts.alone l, htick]

/-- `wait` (R149 to R151). -/
theorem wait_completes {s : State} {t : Tri} {m : BitVec 32} {cs : Nat → List WaitCond} (a : WaitActs s t m cs)
    (hu : s.Unheld t.h) :
    ∃ u, exec (.wait t) s = .next u ∧ (∀ v, v ≠ s.w → u.warp v = s.warp v) ∧ u.mem = s.mem ∧
      (∀ l, m.getLsbD l = true → if waitGoes s t cs l = true then
          u.reads s.w (.vec l t.d.toNat) = waitCell s t cs l ∧ ((u.warp s.w).lane l).pc = afterWord t.h s.cur.pc
        else ParkedAt s u t.h l (waitPark s t cs l)) ∧
      ∀ x, (∀ l, m.getLsbD l = true → x ≠ .vec l t.d.toNat) → u.reads s.w x = s.reads s.w x := by
  obtain ⟨h1, h2, h3, h4⟩ := a.waited.finish a.acts.toIssues a.acts.quiet (fun l => a.acts.inGang) hu
  exact ⟨_, exec_wait a, h1, h2, h3, fun x hx => h4 x fun l hl _ => hx l hl⟩

/-- Settles O23: the gang is the fold of its lanes, each of which goes on or parks, and the events go by the conditions of
the parked lane. -/
theorem waitWords : Obligations.WaitWords := by
  unfold Obligations.WaitWords
  refine ⟨?_, fun w l dst conds all bad deadline s hp hf ha hn => ?_⟩
  · rintro t s m cs _ rfl hwf ha hu hwant hsteady hops hdescs hlimit hconds
    obtain ⟨u, hx, h1, h2, h3, h4⟩ := wait_completes ⟨ha, hwant, hsteady, hops, hdescs, hlimit, hconds⟩ hu
    refine ⟨u, hx, h1, h2, fun l hl => ?_, h4⟩
    have hlane := h3 l hl
    show if waitGoes s t cs l = true then _ else _
    by_cases hg : waitGoes s t cs l = true
    · rw [if_pos hg] at hlane ⊢
      rw [hlane.1, waitCell, waitResult_eq _ _ ((Bool.or_eq_true _ _).mp hg)]
      exact ⟨rfl, hlane.2⟩
    · rw [if_neg hg] at hlane ⊢
      exact hlane
  · have hd : dst < 8 * ((s.warp w).lane l).top.g := by
      simp only [Lane.fits, List.all_cons, List.all_nil, Bool.and_true, decide_eq_true_eq] at hf
      omega
    refine ⟨wait_release hp hd ha hn, ?_⟩
    rintro d rfl
    exact wait_timeout hp hd ha hn

end Sys2Proof.Proofs
end

section
/-! PROOFS. Barriers: what arrivals make of a generation, and what barrier words leave (R152 to R155, R230). -/

namespace Sys2Proof.Machine

/-! ### Barriers as a table -/

theorem barOf_barPut (bs : List (BarName × Bar)) (n k : BarName) (b : Bar) :
    Machine.barOf (barPut bs n b) k = if k = n then b else Machine.barOf bs k := by
  induction bs with
  | nil => by_cases h : k = n <;> simp [barPut, Machine.barOf, h, Ne.symm]
  | cons x bs ih =>
    obtain ⟨j, c⟩ := x
    unfold barPut
    by_cases hj : j = n
    · subst hj
      rw [if_pos rfl]
      by_cases hk : k = j
      · simp [Machine.barOf, hk]
      · simp [Machine.barOf, hk, Ne.symm hk]
    · rw [if_neg hj]
      unfold Machine.barOf
      by_cases hk : j = k
      · subst hk
        rw [if_pos rfl, if_neg hj, if_pos rfl]
      · rw [if_neg hk, if_neg hk]
        exact ih

theorem bar_setBar (s : State) (n k : BarName) (b : Bar) : (s.setBar n b).bar k = if k = n then b else s.bar k :=
  barOf_barPut s.bars n k b

/-- From s to t, nothing but barrier n and the scores between cores has changed. -/
structure State.OnlyBar (s t : State) (n : BarName) : Prop where
  rest : t = { s with bars := t.bars, dies := t.dies }
  others : ∀ k, k ≠ n → t.bar k = s.bar k

theorem State.OnlyBar.refl (s : State) (n : BarName) : s.OnlyBar s n := ⟨rfl, fun _ _ => rfl⟩

theorem State.OnlyBar.trans {s t u : State} {n : BarName} (h : s.OnlyBar t n) (k : t.OnlyBar u n) : s.OnlyBar u n where
  rest := by rw [k.rest, h.rest]
  others j hj := (k.others j hj).trans (h.others j hj)

theorem setBar_onlyBar (s : State) (n : BarName) (b : Bar) : s.OnlyBar (s.setBar n b) n where
  rest := rfl
  others k hk := by rw [bar_setBar, if_neg hk]

theorem scoreBarrier_onlyBar (s : State) (n : BarName) (cs : List Nat) : s.OnlyBar (s.scoreBarrier n cs) n := by
  unfold State.scoreBarrier
  split_ifs
  · exact .refl s n
  · exact ⟨rfl, fun _ _ => rfl⟩

theorem barOpen_onlyBar (s : State) (n : BarName) (grid : Nat) : s.OnlyBar (s.barOpen n grid) n := by
  unfold State.barOpen
  dsimp only
  split_ifs
  · exact .refl s n
  · exact setBar_onlyBar s n _

theorem barCheck_onlyBar (s : State) (n : BarName) : s.OnlyBar (s.barCheck n) n := by
  unfold State.barCheck
  dsimp only
  split_ifs
  · exact (scoreBarrier_onlyBar s n _).trans (setBar_onlyBar _ n _)
  · exact .refl s n

theorem barArrive_onlyBar (s : State) (n : BarName) (ts : List Nat) : s.OnlyBar (s.barArrive n ts) n :=
  (setBar_onlyBar s n _).trans (barCheck_onlyBar _ n)

/-- A barrier once the completion of its generation has been looked for (R152). -/
theorem barCheck_bar (s : State) (n : BarName) : (s.barCheck n).bar n =
    if (s.bar n).arrived.length = s.barMem n ∧ (s.bar n).pend = 0 ∧ ((s.bar n).opened = true ∨ (s.bar n).arrived ≠ []) then
      { s.bar n with gen := (s.bar n).gen + 1, arrived := [], opened := false, members := [], came := [] }
    else s.bar n := by
  unfold State.barCheck
  simp only [Bool.and_eq_true, beq_iff_eq, Bool.or_eq_true, Bool.not_eq_true', List.isEmpty_eq_false_iff, and_assoc]
  split_ifs
  · rw [bar_setBar, if_pos rfl]
  · rfl

/-- MEM of a barrier goes by its members alone (R152). -/
theorem barMem_setBar (s : State) {n : BarName} {b : Bar} (h : b.members = (s.bar n).members) :
    (s.setBar n b).barMem n = s.barMem n := by
  unfold State.barMem
  rw [bar_setBar, if_pos rfl, h]
  rfl

/-- Arrivals make of a barrier what the specification says (R152, R154, R155). -/
theorem barArrive_bar (s : State) (n : BarName) (ts : List Nat) : (s.barArrive n ts).bar n = Claims.arrived s n ts := by
  unfold State.barArrive
  rw [barCheck_bar, bar_setBar, if_pos rfl, barMem_setBar s]
  · unfold Claims.arrived
    simp only [beq_iff_eq]
    rfl
  · rfl

section
variable {s t : State} {n : BarName}

theorem State.OnlyBar.warps (o : s.OnlyBar t n) : t.warps = s.warps := by rw [o.rest]

theorem State.OnlyBar.cur (o : s.OnlyBar t n) : t.cur = s.cur := by rw [o.rest]

theorem State.OnlyBar.w (o : s.OnlyBar t n) : t.w = s.w := congrArg Issue.warp o.cur

theorem State.OnlyBar.mem (o : s.OnlyBar t n) : t.mem = s.mem := by rw [o.rest]

theorem State.OnlyBar.warp (o : s.OnlyBar t n) (v : Nat) : t.warp v = s.warp v := by rw [o.rest]; rfl

theorem State.OnlyBar.wp (o : s.OnlyBar t n) : t.wp = s.wp := by rw [o.rest]; rfl

theorem State.OnlyBar.cyc (o : s.OnlyBar t n) : t.cyc = s.cyc := by rw [o.rest]; rfl

theorem State.OnlyBar.reads (o : s.OnlyBar t n) (v : Nat) (x : Target) : t.reads v x = s.reads v x := by
  rw [o.rest]; cases x <;> rfl

/-- A word may act as well once a barrier has changed. -/
theorem State.OnlyBar.acts {h : Hdr} {u : Uses} {m : BitVec 32} (o : s.OnlyBar t n) (a : s.Acts h u m) : t.Acts h u m := by
  rw [o.rest]
  exact ⟨⟨a.warp, a.ready⟩, a.quiet, a.alone, a.fits, a.live, a.clean, a.acting⟩

theorem State.OnlyBar.unheld {h : Hdr} (o : s.OnlyBar t n) (hu : s.Unheld h) : t.Unheld h := by
  rw [o.rest]; exact hu

theorem State.OnlyBar.steps {u : State} {h : Hdr} {xs : List Target} (o : s.OnlyBar t n) (k : Claims.Steps t u h xs) :
    Claims.Steps s u h xs := by
  obtain ⟨h1, h2, h3, h4, h5⟩ := k
  rw [o.w] at h1 h2 h3 h4 h5
  rw [o.wp] at h3 h5
  rw [o.cur, o.cyc] at h4
  rw [o.cur] at h5
  exact ⟨fun v hv => (h1 v hv).trans (o.warp v), fun x hx => (h2 x hx).trans (o.reads _ x), h3, h4, h5⟩

theorem State.OnlyBar.parkedAt {u : State} {h : Hdr} {l : Nat} {p : Park} (o : s.OnlyBar t n)
    (k : Claims.ParkedAt t u h l p) : Claims.ParkedAt s u h l p := by
  obtain ⟨h1, h2, h3, h4⟩ := k
  rw [o.w] at h1 h2 h3 h4
  rw [o.cur] at h2
  rw [o.wp] at h3
  exact ⟨h1, h2, h3, fun r => (h4 r).trans (o.reads _ _)⟩

end

/-! ### Gangs go on -/

/-- A word that has written its registers and completed has stepped to the next word (R72). -/
theorem State.Completed.steps {s t : State} {h : Hdr} {xs : List Target} (k : s.Completed t h xs 0) (hi : s.Issues) :
    Claims.Steps s t h xs where
  others := k.others
  regs := k.regs
  flags := k.flags.trans (if_pos rfl)
  next l hl := by
    obtain ⟨h1, h2⟩ := k.next l hl
    exact ⟨h1, h2, (congrArg Lane.ready (k.lane l)).trans (hi.ready l hl)⟩
  stay := k.stay

/-- The gang of a word that nothing holds up steps to the next word (R72). -/
theorem finish_steps {s : State} {h : Hdr} (hi : s.Issues) (hq : s.wp.Quiet) (hu : s.Unheld h) :
    s.finish h = { s with warps := (s.finish h).warps } ∧ Claims.Steps s (s.finish h) h [] := by
  obtain ⟨ho, hl⟩ := finish_spec hi hq hu
  refine ⟨ho.rest, ho.others, fun x _ => onlyLanes_reads ho (fun l => ?_) s.w x, by rw [ho.warp],
    fun l hc => ?_, fun l hc => ?_⟩
  · rw [hl]; split_ifs <;> rfl
  · rw [hl, if_pos hc]; exact ⟨rfl, rfl, hi.ready l hc⟩
  · rw [hl, if_neg (by simp [hc])]; exact ⟨rfl, rfl⟩

/-- Lanes wait for a generation of a barrier while it lasts, and otherwise go on (R154). -/
theorem parkBarrier_spec {s : State} {h : Hdr} {m : BitVec 32} (a : s.Acts h {} m) (hu : s.Unheld h) (n : BarName)
    (tok : BitVec 16) (sync : Bool) :
    let u := s.parkBarrier h m n tok sync
    u = { s with warps := u.warps } ∧ (∀ x, u.reads s.w x = s.reads s.w x) ∧
      ∀ l, m.getLsbD l = true → if (s.bar n).gen = tok then Claims.ParkedAt s u h l (.barrier n tok sync)
        else ((u.warp s.w).lane l).pc = afterWord h s.cur.pc ∧ ((u.warp s.w).lane l).ready = true := by
  intro u
  by_cases hg : (s.bar n).gen = tok
  · have hu' : u = (s.parkLanes m h (fun _ => .barrier n tok sync)).finish h := if_neg (by simp [hg])
    obtain ⟨ho, hl⟩ := parkLanes_finish (p := fun _ => .barrier n tok sync) a.toIssues a.quiet hu (fun l => a.inGang) fun _ => rfl
    rw [← hu'] at ho hl
    have hreads : ∀ x, u.reads s.w x = s.reads s.w x := onlyLanes_reads ho (fun l => by
      rw [hl]
      split_ifs <;> rfl) s.w
    refine ⟨ho.rest, hreads, fun l hml => ?_⟩
    rw [if_pos hg]
    unfold Claims.ParkedAt
    rw [hl, if_pos hml]
    exact ⟨rfl, rfl, rfl, fun r => hreads _⟩
  · have hu' : u = (s.accept s.w (lanesOf m) ((s.bar n).released tok)).finish h := if_pos (by simp [hg])
    have hn := accept_onlyNotes s s.w (lanesOf m) ((s.bar n).released tok)
    have hlong := (accept_onlySyncs s s.w (lanesOf m) ((s.bar n).released tok)).warp s.w
    generalize s.accept s.w (lanesOf m) ((s.bar n).released tok) = p at hn hlong hu'
    have hcur : p.cur = s.cur := by rw [hn.rest]
    have hw : p.w = s.w := congrArg Issue.warp hcur
    have hwp : p.wp = p.warp s.w := congrArg p.warp hw
    have hready : ∀ l, p.cur.lanes.getLsbD l = true → (p.wp.lane l).ready = true := fun l hl => by
      rw [hwp, hn.lane]; exact a.ready l (hcur ▸ hl)
    obtain ⟨hrest, hstep⟩ := finish_steps (s := p) (h := h) ⟨by rw [hw, hn.listed]; exact a.warp, hready⟩
      (by rw [hwp, hlong]; exact ⟨a.quiet.longs, a.quiet.late⟩)
      (by unfold State.Unheld; rw [hwp, hlong, hn.rest]; exact hu)
    rw [← hu'] at hrest hstep
    refine ⟨by rw [hrest, hn.rest], fun x => ?_, fun l hml => ?_⟩
    · have := hstep.regs x List.not_mem_nil
      rw [hw] at this
      exact this.trans (hn.reads _ x)
    · rw [if_neg hg]
      obtain ⟨h1, -, h3⟩ := hstep.next l (by rw [hcur]; exact a.inGang hml)
      rw [hw] at h1 h3
      rw [hcur] at h1
      exact ⟨h1, h3⟩

end Sys2Proof.Machine

namespace Sys2Proof.Proofs

open Sys2Proof.Machine Sys2Proof.Claims

/-! ### Barrier words -/

/-- A word that names its cluster by a current handle goes on while no commit is under way (R228, R231). -/
theorem withHandle_current {s : State} {reg : Nat} (hq : s.wp.Quiet) (hb : (s.reads s.w (.uni reg)).bad = false)
    (hc : s.committing s.w = false) (ho : s.handleOk s.w (s.reads s.w (.uni reg)).val = true) (h : Hdr) (m : BitVec 32)
    (k : State → State) : s.withHandle h m reg k = k s := by
  have hv : s.readS s.w reg 32 = s.reads s.w (.uni reg) := readS_quiet hq _ 32
  unfold State.withHandle
  rw [hv]
  simp only [hb, hc, ho, Bool.not_true, Bool.false_eq_true, if_false]

/-- A barrier word that may act passes its checks (R154, R231). -/
theorem barWord_eq {s : State} {t : Tri} {m m' : BitVec 32} {joins : Bool} (a : s.Acts t.h {} m)
    (r : BarReady s t m' joins) (k : State → BitVec 32 → State) : s.barWord t joins k = k s m := by
  have hwave : (decide (barScope t ≥ 2) && s.wp.wave) = false := by
    by_cases h : 2 ≤ t.sub.toNat % 8
    · rw [r.wave h, Bool.and_false]
    · simp [barScope, h]
  have hmine : (decide (barScope t ≥ 3) && joins && (s.bar (s.barOf t)).opened && (s.bar (s.barOf t)).owner != s.wp.grid) =
      false := by
    by_cases h : 3 ≤ t.sub.toNat % 8
    · cases hj : joins
      · simp
      · rcases r.mine h hj with e | e <;> simp [e]
    · simp [barScope, h]
  have hgo : (if decide (barScope t ≥ 2) && s.wp.wave then s.trapOpen cBarrier m
      else if decide (barScope t ≥ 3) && joins && (s.bar (s.barOf t)).opened && (s.bar (s.barOf t)).owner != s.wp.grid then
        s.trapOpen cBarrier m
      else k s m) = k s m := by
    rw [hwave, hmine, if_neg Bool.false_ne_true, if_neg Bool.false_ne_true]
  unfold State.barWord
  rw [admit_eq a false (by simp)]
  simp only [beq_iff_eq]
  by_cases h2 : barScope t = 2
  · obtain ⟨hbad, hsteady, hok⟩ := r.cluster h2
    rw [if_pos h2, withHandle_current a.quiet hbad hsteady hok]
    exact hgo
  · rw [if_neg h2]
    exact hgo

/-- Threads none of which has arrived arrive (R154). -/
theorem arrive_eq {s : State} {t : Tri} {m : BitVec 32}
    (hn : ∀ l, m.getLsbD l = true → threadNo s.w l ∉ (s.bar (s.barOf t)).arrived) (k : State → BitVec 16 → State) :
    s.arrive t m k = k ((s.barOpen (s.barOf t) s.wp.grid).barArrive (s.barOf t) (s.threads (s.visible m)))
      ((s.barOpen (s.barOf t) s.wp.grid).bar (s.barOf t)).gen := by
  have hnone : (lanesOf m).filter (fun l => (s.bar (s.barOf t)).arrived.contains (threadNo s.w l)) = [] :=
    List.filter_eq_nil_iff.mpr fun l hl => by simpa using hn l (mem_lanesOf.mp hl)
  have ho := barOpen_onlyBar s (s.barOf t) s.wp.grid
  have hts : ∀ p : State, s.OnlyBar p (s.barOf t) → p.threads (p.visible m) = s.threads (s.visible m) := fun p o => by
    unfold State.threads State.visible
    rw [o.w, o.wp]
  unfold State.arrive
  simp only [hnone, List.isEmpty_nil, Bool.not_true, Bool.false_eq_true, if_false, hts _ ho]

/-- What arrivals leave, from before their barrier was opened. -/
theorem opened_arrived (s : State) (n : BarName) (grid : Nat) (ts : List Nat) :
    s.OnlyBar ((s.barOpen n grid).barArrive n ts) n ∧
      ((s.barOpen n grid).barArrive n ts).bar n = arrived (s.barOpen n grid) n ts :=
  ⟨(barOpen_onlyBar s n grid).trans (barArrive_onlyBar _ n ts), barArrive_bar _ n ts⟩

theorem barArrive_completes {t : Tri} {s : State} {m : BitVec 32} (a : s.Acts t.h {} m) (hu : s.Unheld t.h)
    (r : BarReady s t m true) (hn : ∀ l, m.getLsbD l = true → threadNo s.w l ∉ (s.bar (s.barOf t)).arrived) :
    let n := s.barOf t
    let o := s.barOpen n s.wp.grid
    ∃ u, exec (.barArrive t) s = .next u ∧ Steps s u t.h [.uni t.d.toNat] ∧ u.mem = s.mem ∧
      u.reads s.w (.uni t.d.toNat) = ⟨(o.bar n).gen.setWidth 32, false⟩ ∧
      u.bar n = arrived o n (s.threads (s.visible m)) ∧ ∀ k, k ≠ n → u.bar k = s.bar k := by
  intro n o
  obtain ⟨ho, hbar⟩ := opened_arrived s n s.wp.grid (s.threads (s.visible m))
  have hx : exec (.barArrive t) s = .next ((((o.barArrive n (s.threads (s.visible m))).writeTarget
      (o.barArrive n (s.threads (s.visible m))).w (.uni t.d.toNat) ⟨(o.bar n).gen.setWidth 32, false⟩)).finish t.h) := by
    refine congrArg Host.Outcome.next ((barWord_eq a r _).trans ?_)
    rw [r.member, if_neg Bool.false_ne_true, arrive_eq hn]
  refine ⟨_, hx, ?_⟩
  generalize o.barArrive n (s.threads (s.visible m)) = p at ho hbar
  obtain ⟨hc, hread⟩ := writeUni_completed (ho.acts a).toIssues (ho.acts a).quiet (ho.acts a).alone (ho.unheld hu) t.d.toNat
    ⟨(o.bar n).gen.setWidth 32, false⟩
  have hsteps := ho.steps (hc.steps (ho.acts a).toIssues)
  have hrest := hc.rest
  generalize (p.writeTarget p.w (.uni t.d.toNat) ⟨(o.bar n).gen.setWidth 32, false⟩).finish t.h = u at hread hsteps hrest ⊢
  rw [ho.w] at hread
  have hb : ∀ k, u.bar k = p.bar k := fun k => by rw [hrest]; rfl
  exact ⟨hsteps, by rw [hrest]; exact ho.mem, hread, (hb n).trans hbar, fun k hk => (hb k).trans (ho.others k hk)⟩

theorem barSync_completes {t : Tri} {s : State} {m : BitVec 32} (a : s.Acts t.h {} m) (hu : s.Unheld t.h)
    (r : BarReady s t m true) (hd : Wanted s m)
    (hn : ∀ l, m.getLsbD l = true → threadNo s.w l ∉ (s.bar (s.barOf t)).arrived) :
    let n := s.barOf t
    let o := s.barOpen n s.wp.grid
    ∃ u, exec (.barSync t) s = .next u ∧ u.mem = s.mem ∧ u.bar n = arrived o n (s.threads (s.visible m)) ∧
      (∀ k, k ≠ n → u.bar k = s.bar k) ∧ (∀ x, u.reads s.w x = s.reads s.w x) ∧
      ∀ l, m.getLsbD l = true → if (u.bar n).gen = (o.bar n).gen then
          ParkedAt s u t.h l (.barrier n (o.bar n).gen true)
        else ((u.warp s.w).lane l).pc = afterWord t.h s.cur.pc ∧ ((u.warp s.w).lane l).ready = true := by
  intro n o
  obtain ⟨ho, hbar⟩ := opened_arrived s n s.wp.grid (s.threads (s.visible m))
  have hname : (o.barArrive n (s.threads (s.visible m))).barOf t = n := by rw [ho.rest]; rfl
  have hx : exec (.barSync t) s = .next ((o.barArrive n (s.threads (s.visible m))).parkBarrier t.h m n (o.bar n).gen true) := by
    refine congrArg Host.Outcome.next ((barWord_eq a r _).trans ?_)
    rw [reclaimFirst_undoomed hd, r.member, if_neg Bool.false_ne_true, arrive_eq hn]
    exact congrArg (fun k => State.parkBarrier _ t.h m k _ true) hname
  refine ⟨_, hx, ?_⟩
  generalize o.barArrive n (s.threads (s.visible m)) = p at ho hbar
  obtain ⟨hrest, hreads, hlanes⟩ := parkBarrier_spec (ho.acts a) (ho.unheld hu) n (o.bar n).gen true
  generalize p.parkBarrier t.h m n (o.bar n).gen true = u at hrest hreads hlanes ⊢
  have hb : ∀ k, u.bar k = p.bar k := fun k => by rw [hrest]; rfl
  rw [ho.w] at hreads hlanes
  refine ⟨by rw [hrest]; exact ho.mem, (hb n).trans hbar, fun k hk => (hb k).trans (ho.others k hk),
    fun x => (hreads x).trans (ho.reads _ x), fun l hl => ?_⟩
  have hlane := hlanes l hl
  rw [hb n]
  split_ifs at hlane ⊢
  · exact ho.parkedAt hlane
  · rw [ho.cur] at hlane
    exact hlane

theorem barWait_eq {t : Tri} {s : State} {m : BitVec 32} (a : s.Acts t.h {} m)
    (r : BarReady s t 0 false) (hd : Wanted s m) (hv : (s.reads s.w (.uni t.a.toNat)).val.toNat < 2 ^ 16) :
    exec (.barWait t) s = .next
      (s.parkBarrier t.h m (s.barOf t) ((s.reads s.w (.uni t.a.toNat)).val.setWidth 16) false) := by
  have hx : s.readS s.w t.a.toNat 0 = s.reads s.w (.uni t.a.toNat) := readS_quiet a.quiet _ 0
  have hhigh : (s.reads s.w (.uni t.a.toNat)).val.extractLsb' 16 16 = 0 := by
    apply BitVec.eq_of_toNat_eq
    rw [BitVec.extractLsb'_toNat, Nat.shiftRight_eq_div_pow, Nat.div_eq_of_lt hv]
    rfl
  refine congrArg Host.Outcome.next ((barWord_eq a r _).trans ?_)
  rw [reclaimFirst_undoomed hd]
  simp only [hx, hhigh, bne_self_eq_false, Bool.false_eq_true, if_false]

theorem barExpect_completes {t : Tri} {s : State} {m : BitVec 32} (a : s.Acts t.h {} m) (hu : s.Unheld t.h)
    (r : BarReady s t 0 true) :
    let n := s.barOf t
    let o := s.barOpen n s.wp.grid
    (o.bar n).pend + (s.reads s.w (.uni t.a.toNat)).val.toNat < 2 ^ 40 →
    ∃ u, exec (.barExpect t) s = .next u ∧ Steps s u t.h [] ∧ u.mem = s.mem ∧
      u.bar n = { o.bar n with pend := (o.bar n).pend + (s.reads s.w (.uni t.a.toNat)).val.toNat } ∧
      ∀ k, k ≠ n → u.bar k = s.bar k := by
  intro n o hv
  have hread : s.readS s.w t.a.toNat 0 = s.reads s.w (.uni t.a.toNat) := readS_quiet a.quiet _ 0
  let b : Bar := { o.bar n with pend := (o.bar n).pend + (s.reads s.w (.uni t.a.toNat)).val.toNat }
  have hx : exec (.barExpect t) s = .next ((o.setBar n b).finish t.h) := by
    refine congrArg Host.Outcome.next ((barWord_eq a r _).trans ?_)
    dsimp only
    rw [hread]
    exact if_neg (Nat.not_le.mpr hv)
  have ho : s.OnlyBar (o.setBar n b) n := (barOpen_onlyBar s n _).trans (setBar_onlyBar o n b)
  have hbar : (o.setBar n b).bar n = b := by rw [bar_setBar, if_pos rfl]
  refine ⟨_, hx, ?_⟩
  generalize o.setBar n b = p at ho hbar
  obtain ⟨hrest, hsteps⟩ := finish_steps (ho.acts a).toIssues (ho.acts a).quiet (ho.unheld hu)
  generalize p.finish t.h = u at hrest hsteps ⊢
  have hb : ∀ k, u.bar k = p.bar k := fun k => by rw [hrest]; rfl
  exact ⟨ho.steps hsteps, by rw [hrest]; exact ho.mem, (hb n).trans hbar, fun k hk => (hb k).trans (ho.others k hk)⟩

/-- BARRIER_WAITER_RELEASE (R154). -/
theorem barrier_release {w l : Nat} {n : BarName} {tok : BitVec 16} {sync : Bool} {s : State}
    (hp : ((s.warp w).lane l).park = .barrier n tok sync) (hn : NoNotice s w) :
    ∃ u, exec (.barrierWaiterRelease w l) s = .next u ∧
      if (s.bar n).gen = tok then u = s
      else Woken s u w l ∧ (∀ v x, u.reads v x = s.reads v x) ∧ u.mem = s.mem := by
  have hw := (listed_of_park (s := s) (w := w) (l := l) (by rw [hp]; simp)).1
  have hx : exec (.barrierWaiterRelease w l) s = .next (if (s.bar n).gen = tok then s
      else (s.accept w [l] ((s.bar n).released tok)).wake w l) := by
    show execBarrierWaiterRelease w l s = _
    unfold execBarrierWaiterRelease
    simp only [sweep_unnoticed hn, hp, beq_iff_eq]
  refine ⟨_, hx, ?_⟩
  split_ifs
  · rfl
  · have hacc := accept_onlyNotes s w [l] ((s.bar n).released tok)
    generalize s.accept w [l] ((s.bar n).released tok) = p at hacc ⊢
    have hwp : (tget p.warps w).isSome := by rw [hacc.listed, hw]
    obtain ⟨hwake, hlane⟩ := wakes_spec (s := p) hwp (List.nodup_singleton l)
    have hgo : ((p.wake w l).warp w).lane l = s.goOnOf w ((s.warp w).lane l) := by
      rw [← hacc.goOnOf, ← hacc.lane]
      exact (hlane l).trans (if_pos (List.mem_singleton_self l))
    refine ⟨woken_of_goOn hgo, fun v x => ?_, ?_⟩
    · exact (wakes_reads (s := p) hwp (List.nodup_singleton l) v x).trans (hacc.reads v x)
    · have hm : (p.wake w l).mem = p.mem := rfl
      rw [hm, hacc.rest]

/-- Settles O24: a barrier word changes one barrier and moves or parks its gang. -/
theorem barrierWords : Obligations.BarrierWords := by
  unfold Obligations.BarrierWords
  refine ⟨?_, fun w l n tok sync s hp hn => barrier_release hp hn⟩
  rintro t s m _ _ a hu - rfl rfl
  refine ⟨fun _ r hn => barArrive_completes a hu r hn, fun _ r hd hn => barSync_completes a hu r hd hn,
    fun _ r hd hv => ?_, fun _ r hv => barExpect_completes a hu r hv⟩
  obtain ⟨h1, h2, h3⟩ := parkBarrier_spec a hu (s.barOf t) ((s.reads s.w (.uni t.a.toNat)).val.setWidth 16) false
  exact ⟨_, barWait_eq a r hd hv, h1, h2, h3⟩

end Sys2Proof.Proofs
end

section
/-! PROOFS. Launch frames and the exchange of a block: `rgive`, `rclaim` and RCLAIM_GRANT (R156, R157). -/

namespace Sys2Proof.Machine

/-! ### Launch frames -/

theorem tget_filter_key {α : Type} (t : Table α) (q : Nat → Bool) (i : Nat) :
    tget (t.filter (fun p => q p.1)) i = if q i then tget t i else none := by
  induction t with
  | nil => simp [tget]
  | cons p t ih =>
    obtain ⟨k, v⟩ := p
    rw [List.filter_cons]
    by_cases hk : k = i
    · subst hk
      cases hq : q k
      · simpa [hq] using ih
      · simp [tget]
    · cases hq : q k <;> simpa [tget, hk] using ih

theorem launch_setLaunch {L : Lane} (h : L.frames ≠ []) (φ : Frame → Frame) : (L.setLaunch φ).launch = φ L.launch := by
  obtain ⟨fs, f, hf⟩ : ∃ fs f, L.frames = fs ++ [f] := ⟨_, _, (List.dropLast_append_getLast h).symm⟩
  unfold Lane.setLaunch Lane.launch
  simp only [hf, List.mapIdx_concat, List.getLastD_concat, List.length_append, List.length_singleton, beq_self_eq_true, if_true]

theorem frames_of_depth_one {L : Lane} (h : L.depth = 1) : L.frames = [L.launch] := by
  obtain ⟨f, hf⟩ := List.length_eq_one_iff.mp h
  unfold Lane.launch
  rw [hf]
  rfl

/-- The launch frames of a warp, each changed. -/
def Warp.relaunch (W : Warp) (φ : Nat → Frame → Frame) : Warp :=
  { W with lanes := tmap W.lanes (fun l L => L.setLaunch (φ l)) }

theorem lane_relaunch (W : Warp) (φ : Nat → Frame → Frame) (l : Nat) : (W.relaunch φ).lane l = (W.lane l).setLaunch (φ l) := by
  unfold Warp.relaunch Warp.lane tgetD
  rw [tget_tmap]
  cases tget W.lanes l <;> rfl

theorem mask_relaunch (W : Warp) (φ : Nat → Frame → Frame) {p : Lane → Bool} (h : ∀ l L, p (L.setLaunch (φ l)) = p L) :
    (W.relaunch φ).mask p = W.mask p := by
  unfold Warp.relaunch Warp.mask tmap
  rw [List.filter_map, List.map_map]
  exact congrArg (fun q => maskOf ((W.lanes.filter q).map Prod.fst)) (funext fun x => h x.1 x.2)

/-- A launch frame of g granules: registers beyond them are lost (R157). -/
def Frame.sized (g : Nat) (f : Frame) : Frame := { f with g := g, regs := f.regs.filter (fun r => r.1 < 8 * g) }

theorem regs_sized {g r : Nat} (h : r < 8 * g) (f : Frame) : tgetD (f.sized g).regs r {} = tgetD f.regs r {} := by
  unfold Frame.sized tgetD
  rw [tget_filter_key f.regs (fun k => decide (k < 8 * g)), if_pos (by simpa using h)]

theorem lane_resize (W : Warp) (g l : Nat) : (W.resize g).lane l = (W.lane l).setLaunch (Frame.sized g) :=
  lane_relaunch W (fun _ => Frame.sized g) l

/-- A register of a lane at frame depth 1, where no share holds it (R158). -/
theorem read_launch {s : State} {w l r : Nat} (hd : ((s.warp w).lane l).depth = 1)
    (hs : shareCell (s.block (s.warp w).block).shares w l r = none) :
    s.reads w (.vec l r) = tgetD ((s.warp w).lane l).launch.regs r {} := by
  have hf := frames_of_depth_one hd
  have hat : s.sharedAt w l r = none := by
    simp only [State.sharedAt, hf]
    exact hs
  simp only [State.reads, State.vreg, hat, Lane.frameReg, hf]
  rfl

/-- A register of a lane at frame depth 1 that a share holds (R158). -/
theorem read_shared {s : State} {w l r k c : Nat} (hd : ((s.warp w).lane l).depth = 1)
    (hs : shareCell (s.block (s.warp w).block).shares w l r = some (k, c)) {h : Share}
    (hk : tget (s.block (s.warp w).block).shares k = some h) : s.reads w (.vec l r) = tgetD h.cells c {} := by
  have hf := frames_of_depth_one hd
  have hat : s.sharedAt w l r = some (k, c) := by
    simp only [State.sharedAt, hf]
    exact hs
  have hget : tgetD (s.block (s.warp w).block).shares k ⟨0, 0, 0, 0, 0, false, [], [], []⟩ = h := by rw [tgetD, hk]; rfl
  simp only [State.reads, State.vreg, hat, hget]

/-! ### Words on a whole warp -/

/-- From s to p, the gang being issued still stands as it stood; only lanes and slices of its warp, other warps and blocks
may have changed. -/
structure State.Poised (s p : State) : Prop where
  rest : p = { s with warps := p.warps, blocks := p.blocks }
  listed : (tget p.warps s.w).isSome
  warp : p.warp s.w = { s.wp with lanes := (p.warp s.w).lanes, slices := (p.warp s.w).slices }
  ready : ∀ l, s.cur.lanes.getLsbD l = true → ((p.warp s.w).lane l).ready = true

/-- A state in which the issuing warp has other launch frames is poised. -/
theorem relaunch_poised {s p : State} {φ : Nat → Frame → Frame} (hi : s.Issues)
    (hr : p = { s with warps := p.warps, blocks := p.blocks }) (hl : (tget p.warps s.w).isSome)
    (hw : p.warp s.w = { s.wp.relaunch φ with slices := (p.warp s.w).slices }) : s.Poised p where
  rest := hr
  listed := hl
  warp := by rw [hw]; rfl
  ready l hg := by
    rw [hw]
    show ((s.wp.relaunch φ).lane l).ready = true
    rw [lane_relaunch]
    exact hi.ready l hg

/-- The gang of a poised state goes on (R72): its lanes stand at the next word with their frames, and nothing else
changes. -/
theorem State.Poised.finish {s p : State} {h : Hdr} (k : s.Poised p) (hq : s.wp.Quiet) (hu : s.Unheld h) :
    let u := p.finish h
    u = { p with warps := u.warps } ∧ (∀ v, v ≠ s.w → u.warp v = p.warp v) ∧ Claims.Onward s u h ∧
      (∀ l, ((u.warp s.w).lane l).frames = ((p.warp s.w).lane l).frames) ∧ ∀ v x, u.reads v x = p.reads v x := by
  have hcur : p.cur = s.cur := by rw [k.rest]
  have hw : p.w = s.w := congrArg Issue.warp hcur
  have hwp : p.wp = p.warp s.w := congrArg p.warp hw
  have hcyc : p.cyc = s.cyc := by
    unfold State.cyc
    rw [hwp, k.warp, k.rest]
    rfl
  obtain ⟨ho, hl⟩ := finish_spec (s := p) (h := h) ⟨by rw [hw]; exact k.listed, fun l hl => by
    rw [hwp]; exact k.ready l (hcur ▸ hl)⟩ (by rw [hwp, k.warp]; exact ⟨hq.longs, hq.late⟩)
    (by unfold State.Unheld; rw [hwp, k.warp, k.rest]; exact hu)
  have hreads := onlyLanes_reads ho fun l => by
    rw [hl]; split_ifs <;> rfl
  rw [hw, hcur, hcyc, hwp] at hl
  refine ⟨ho.rest, fun v hv => ho.others v (by rw [hw]; exact hv), fun l hg => ?_, fun l => ?_, hreads⟩
  · rw [hl, if_pos hg]
    exact ⟨rfl, rfl⟩
  · rw [hl]
    split_ifs <;> rfl

theorem launch_of_frames {L K : Lane} (h : L.frames = K.frames) : L.launch = K.launch := by
  unfold Lane.launch
  rw [h]

/-- Without registers to look up, shared cells let every lane go (R159). -/
theorem admitCells_idle (s : State) (m : BitVec 32) (k : State → BitVec 32 → State) : s.admitCells m {} k = k s m := by
  have hnone : ∀ q : CellWait → Bool, q .go = false →
      ((lanesOf m).map (fun l => (l, s.cellWait s.w l [] []))).filter (fun x => q x.2) = [] := fun q hq =>
    List.filter_eq_nil_iff.mpr fun x hx => by
      obtain ⟨l, -, rfl⟩ := List.mem_map.mp hx
      exact Bool.eq_false_iff.mp hq
  have horphan := hnone (fun c => decide (c = .orphan)) rfl
  have hstop := hnone (fun c => c != .go) rfl
  have hregs : regsOf [] = [] := rfl
  unfold State.admitCells
  by_cases hs : s.sharing
  · simp only [hs, hregs, Bool.not_true, Bool.false_eq_true, if_false, Bool.false_and, horphan, hstop, List.map_nil,
      List.foldl_nil]
    simpa [maskOf] using congrArg (k s) (BitVec.and_allOnes (x := m))
  · simp [hs]

/-- A word on a whole warp acts in every lane of the gang (R156). -/
theorem granuleWord_eq {s : State} {h : Hdr} (a : Claims.WholeWarp s h) (k : State → BitVec 32 → State) :
    s.granuleWord h k = k s s.cur.lanes := by
  have hg : s.guards h = (s.cur.lanes, false) := by
    unfold State.guards
    rw [a.guard.1, a.guard.2]
    rfl
  have hunfit : s.lanesWhere s.cur.lanes (fun _ L => !(L.liveFits h.live && L.fits (([] : List (Nat × Nat)) ++ []))) = 0 :=
    lanesWhere_zero fun l hl => by rw [a.live l hl]; rfl
  have hdeep : (lanesOf s.cur.lanes).any (fun l => (s.wp.lane l).depth != 1) = false :=
    List.any_eq_false.mpr fun l hl => by simp [a.depth l (mem_lanesOf.mp hl)]
  unfold State.granuleWord State.vet State.admitAs
  simp only [hunfit, hg, admitCells_idle, a.all, hdeep]
  simp

end Sys2Proof.Machine
end

section
/-! PROOFS. Gangs that park and gangs that are woken after launch frames have changed; granules that move (R117, R157). -/

namespace Sys2Proof.Machine

/-! ### A gang parks -/

/-- A warp once the gang of a state has parked in it with a request. -/
def State.gangWarp (s : State) (h : Hdr) (r : Req) : Warp :=
  { s.wp.updLanes s.cur.lanes (fun _ L => L.parkAt (.gang s.uid) (afterWord h s.cur.pc) (safeTag h)) with
    gangs := tset s.wp.gangs s.uid ⟨s.cur.lanes, r, s.cur.pc, s.cyc, []⟩ }

theorem parkGang_spec {s : State} (hw : (tget s.warps s.w).isSome) (h : Hdr) (r : Req) :
    let p := s.parkGang s.cur.lanes h r
    p = { s with warps := p.warps, uid := s.uid + 1 } ∧ (tget p.warps s.w).isSome ∧ p.warp s.w = s.gangWarp h r ∧
      ∀ v, v ≠ s.w → p.warp v = s.warp v := by
  let g : Warp → Warp := fun W => { W with gangs := tset W.gangs s.uid ⟨s.cur.lanes, r, s.cur.pc, s.cyc, []⟩ }
  have hlanes := warp_updWarp_self { s with uid := s.uid + 1 }
    (·.updLanes s.cur.lanes (fun _ L => L.parkAt (.gang s.uid) (afterWord h s.cur.pc) (safeTag h))) hw
  exact ⟨rfl, (isSome_updWarp _ _ _ _).trans ((isSome_updWarp _ _ _ _).trans hw),
    (warp_updWarp_self _ g ((isSome_updWarp _ _ _ _).trans hw)).trans (congrArg g hlanes),
    fun v hv => (warp_updWarp_ne _ _ hv).trans (warp_updWarp_ne _ _ hv)⟩

/-- The lanes of a parked gang are parked at its word; the others are as they were. -/
theorem gangWarp_lane {s : State} (hi : s.Issues) (h : Hdr) (r : Req) (l : Nat) : (s.gangWarp h r).lane l =
    if s.cur.lanes.getLsbD l = true then (s.wp.lane l).parkAt (.gang s.uid) (afterWord h s.cur.pc) (safeTag h)
    else s.wp.lane l :=
  (lane_updLanes s.wp s.cur.lanes (fun _ L => L.parkAt (.gang s.uid) (afterWord h s.cur.pc) (safeTag h)) l).trans
    (if_congr ⟨And.left, fun e => ⟨e, isSome_of_ready (hi.ready l e)⟩⟩ rfl rfl)

/-- No lane of a parked gang is ready. -/
theorem gangWarp_unready (s : State) (h : Hdr) (r : Req) (l : Nat) :
    ((s.gangWarp h r).mask Lane.ready &&& s.cur.lanes).getLsbD l = false := by
  refine Bool.eq_false_iff.mpr fun e => ?_
  rw [BitVec.getLsbD_and, Bool.and_eq_true] at e
  have hoff := (mask_updLanes_off s.wp s.cur.lanes
    (f := fun _ L => L.parkAt (.gang s.uid) (afterWord h s.cur.pc) (safeTag h)) (p := Lane.ready)
    (fun l L => by simp [Lane.parkAt, Lane.ready, Park.on]) l).mp e.1
  rw [hoff.1] at e
  cases e.2

/-- A gang parks with its request (R117): nothing but its lanes and the warp's list of gangs has changed. -/
theorem parkGang_parks {s : State} {h : Hdr} (hi : s.Issues) (hq : s.wp.Quiet) (hu : s.Unheld h) (r : Req) :
    Claims.GangParks s ((s.parkGang s.cur.lanes h r).finish h) h s.cur.lanes r := by
  obtain ⟨hrest, hlisted, hself, hothers⟩ := parkGang_spec hi.warp h r
  generalize s.parkGang s.cur.lanes h r = p at hrest hlisted hself hothers ⊢
  have hcur : p.cur = s.cur := by rw [hrest]
  have hw : p.w = s.w := congrArg Issue.warp hcur
  have hwp : p.wp = s.gangWarp h r := (congrArg p.warp hw).trans hself
  obtain ⟨ho, hl⟩ := finish_ready (s := p) (h := h) (by rw [hw]; exact hlisted) (by rw [hwp]; exact ⟨hq.longs, hq.late⟩)
    (by unfold State.Unheld; rw [hwp, hrest]; exact hu)
  have hstay : ∀ l, ((p.finish h).warp p.w).lane l = p.wp.lane l := fun l => by
    rw [hl, hwp, hcur, gangWarp_unready]
    exact if_neg fun e => Bool.false_ne_true e.1
  have hreads : ∀ x, (p.finish h).reads s.w x = s.reads s.w x := fun x => by
    refine (onlyLanes_reads ho (fun l => by rw [hstay]) s.w x).trans (reads_congr (by rw [hrest]) ?_ ?_ (fun l => ?_) x)
    · rw [hself]; rfl
    · rw [hself]; rfl
    · rw [hself, gangWarp_lane hi]
      split_ifs <;> rfl
  have hwarp := ho.warp
  rw [hw, hwp] at hstay hwarp
  refine ⟨⟨s.uid, [], ?_, fun l hlm => ⟨?_, ?_, ?_, fun r => hreads _⟩⟩, hreads, fun v hv => ?_, ?_⟩
  · rw [hwarp]; exact tget_tset_self _ _ _
  iterate 3
    rw [hstay, gangWarp_lane hi, if_pos hlm]
    rfl
  · rw [ho.others v (by rw [hw]; exact hv), hothers v hv]
  · rw [ho.rest, hrest]

/-! ### Changes of launch frames -/

/-- From s to t, nothing but launch frames, slices and blocks has changed. -/
structure State.Relaunched (s t : State) : Prop where
  rest : t = { s with warps := t.warps, blocks := t.blocks }
  keeps : s.KeepsGangs t
  core : ∀ w, (t.warp w).core = (s.warp w).core
  priv : ∀ w, (t.warp w).cur = (s.warp w).cur
  held : ∀ w l, ((t.warp w).lane l).heldMask = ((s.warp w).lane l).heldMask

theorem State.Relaunched.refl (s : State) : s.Relaunched s :=
  ⟨rfl, .refl s, fun _ => rfl, fun _ => rfl, fun _ _ => rfl⟩

theorem State.Relaunched.trans {s t u : State} (h : s.Relaunched t) (k : t.Relaunched u) : s.Relaunched u where
  rest := by rw [k.rest, h.rest]
  keeps := h.keeps.trans k.keeps
  core w := (k.core w).trans (h.core w)
  priv w := (k.priv w).trans (h.priv w)
  held w l := (k.held w l).trans (h.held w l)

theorem relaunched_updBlock (s : State) (b : Nat) (f : Block → Block) : s.Relaunched (s.updBlock b f) :=
  ⟨rfl, keepsGangs_of_warps rfl, fun _ => rfl, fun _ => rfl, fun _ _ => rfl⟩

theorem relaunched_updWarp (s : State) (w : Nat) {f : Warp → Warp} {φ : Warp → Nat → Frame → Frame}
    (h : ∀ W, f W = { W.relaunch (φ W) with slices := (f W).slices }) : s.Relaunched (s.updWarp w f) where
  rest := rfl
  keeps := keepsGangs_updWarp_of s w (fun W => by rw [h]; rfl)
    (fun W id => by
      rw [h]
      exact mask_relaunch W (φ W) (p := fun L => decide (L.park = .gang id)) fun _ _ => rfl)
    (fun W l => by
      rw [h]
      show ((W.relaunch (φ W)).lane l).next = _
      rw [lane_relaunch]
      rfl)
  core v := by rw [warp_updWarp]; split_ifs with e; exacts [by rw [h, e.1]; rfl, rfl]
  priv v := by rw [warp_updWarp]; split_ifs with e; exacts [by rw [h, e.1]; rfl, rfl]
  held v l := by
    rw [warp_updWarp]
    split_ifs with e
    · rw [h, e.1]
      show (((s.warp w).relaunch (φ (s.warp w))).lane l).heldMask = _
      rw [lane_relaunch]
      rfl
    · rfl

/-- A gang that is served after launch frames have changed goes on (R117, R157, R160). -/
theorem State.Relaunched.woken {s t : State} {w : Nat} (k : s.Relaunched t) (hw : (tget s.warps w).isSome) (id : Nat) :
    Claims.GangWoken s (t.wakeGang w id) w id := by
  obtain ⟨-, h1, h2⟩ := wakeGang_spec (s := t) (w := w) (by rw [k.keeps.listed, hw]) id
  refine ⟨h1, fun l hl => ?_⟩
  unfold Claims.Woken
  rw [h2, k.keeps.parked, if_pos hl]
  refine ⟨rfl, k.keeps.next w l, ?_, ?_⟩
  · show t.cycle (t.warp w).core + 1 = _
    rw [k.core, k.rest]
    rfl
  · show ((t.requested (t.warp w).core && !(t.warp w).cur) && ((t.warp w).lane l).heldMask.getLsbD 0) = _
    rw [k.core, k.priv, k.held, k.rest]
    rfl

/-! ### Blocks of woken gangs -/

/-- The shares of a block, each changed, list the keys that they listed. -/
theorem shares_tmap_block (s : State) (a b : Nat) (g : Nat → Share → Share) :
    let t := s.updBlock a (fun B => { B with shares := tmap B.shares g })
    (t.block b).exchange = (s.block b).exchange ∧
      ∀ k, tget (s.block b).shares k = none → tget (t.block b).shares k = none := by
  intro t
  rw [block_updBlock]
  split_ifs with e
  · rw [e.1]
    exact ⟨rfl, fun k hk => by rw [tget_tmap, hk]; rfl⟩
  · exact ⟨rfl, fun _ hk => hk⟩

/-- Cells that are emptied move no granules and begin no shares (R159). -/
theorem emptyShared_block (s : State) (w : Nat) (ls rs : List Nat) (b : Nat) :
    ((s.emptyShared w ls rs).block b).exchange = (s.block b).exchange ∧
      ∀ k, tget (s.block b).shares k = none → tget ((s.emptyShared w ls rs).block b).shares k = none := by
  have hfold : ∀ (ls : List Nat) (ws : State → Nat → Waits) (s : State),
      (ls.foldl (fun s l => s.accept w [l] (ws s l)) s).blocks = s.blocks := by
    intro ls ws
    induction ls with
    | nil => exact fun _ => rfl
    | cons l ls ih => exact fun s => (ih _).trans (by dsimp only; rw [(accept_onlyNotes s w [l] (ws s l)).rest])
  have hemptied : ∀ (q : State) (a : Nat) (g : Nat → Share → Share), q.blocks = s.blocks →
      ((q.updBlock a (fun B => { B with shares := tmap B.shares g })).block b).exchange = (s.block b).exchange ∧
        ∀ k, tget (s.block b).shares k = none →
          tget ((q.updBlock a (fun B => { B with shares := tmap B.shares g })).block b).shares k = none := fun q a g hq => by
    have hb : s.block b = q.block b := by unfold State.block; rw [hq]
    rw [hb]
    exact shares_tmap_block q a b g
  unfold State.emptyShared
  dsimp only
  split_ifs
  · exact ⟨rfl, fun _ h => h⟩
  · exact hemptied _ _ _ (hfold ls _ s)

/-- A gang that goes on moves no granules and begins no shares. -/
theorem wakeGang_block (s : State) (w id b : Nat) :
    ((s.wakeGang w id).block b).exchange = (s.block b).exchange ∧
      ∀ k, tget (s.block b).shares k = none → tget ((s.wakeGang w id).block b).shares k = none := by
  have hwake : ∀ (ls : List Nat) (s : State), (ls.foldl (fun s l => s.wake w l) s).blocks = s.blocks := by
    intro ls
    induction ls with
    | nil => exact fun _ => rfl
    | cons l ls ih => exact fun s => ih (s.wake w l)
  have hb : (s.wakeGang w id).block b = (s.emptyShared w (lanesOf ((s.warp w).gangLanes id))
      (((tget (s.warp w).gangs id).map (·.reads)).getD [])).block b := by
    unfold State.wakeGang State.block
    dsimp only
    rw [hwake]
    rfl
  rw [hb]
  exact emptyShared_block s w _ _ b

end Sys2Proof.Machine
end

section
/-! PROOFS. `rgive`, `rclaim` and RCLAIM_GRANT (R156, R157). -/

namespace Sys2Proof.Machine

/-- Granules taken from the exchange change launch frames, slices and blocks only. -/
theorem claimGranules_relaunched (s : State) (w n : Nat) : s.Relaunched (s.claimGranules w n) :=
  (relaunched_updBlock s _ _).trans
    (relaunched_updWarp _ w (φ := fun _ _ => Frame.sized ((s.warp w).launchG + n)) fun _ => rfl)

theorem resized_warp {s : State} {w : Nat} (hw : (tget s.warps w).isSome) (g : Nat) {t : State}
    (ht : t.warps = (s.updWarp w (·.resize g)).warps) : t.warp w = (s.warp w).resize g := by
  rw [← warp_updWarp_self s (·.resize g) hw]
  unfold State.warp
  rw [ht]

/-- The gang goes on with launch frames of another size: registers that remain keep their contents (R157). -/
theorem resize_finish {s t : State} {h : Hdr} (a : Claims.WholeWarp s h) (hs : (s.block s.wp.block).shares = [])
    (g : Nat) (hr : t = { s with warps := t.warps, blocks := t.blocks })
    (ht : t.warps = (s.updWarp s.w (·.resize g)).warps) (hts : (t.block s.wp.block).shares = []) :
    let u := t.finish h
    Claims.Onward s u h ∧ Claims.HasGranules u s.w s.cur.lanes g ∧
      (u.block s.wp.block).exchange = (t.block s.wp.block).exchange ∧ u.mem = s.mem ∧
      (∀ v, v ≠ s.w → u.warp v = s.warp v) ∧
      ∀ l r, s.cur.lanes.getLsbD l = true → r < 8 * g → u.reads s.w (.vec l r) = s.reads s.w (.vec l r) := by
  intro u
  have hself := resized_warp a.warp g ht
  obtain ⟨hrest, hothers, hon, hframes, hreads⟩ := (relaunch_poised (φ := fun _ => Frame.sized g) a.toIssues hr
    (by rw [ht, isSome_updWarp]; exact a.warp) (by rw [hself]; rfl)).finish a.quiet a.unheld
  have hlane : ∀ l, (t.warp s.w).lane l = (s.wp.lane l).setLaunch (Frame.sized g) := fun l => by
    rw [hself]; exact lane_resize _ _ _
  have hdepth : ∀ l, s.cur.lanes.getLsbD l = true → ((t.warp s.w).lane l).depth = 1 := fun l hl => by
    rw [hlane]
    exact (List.length_mapIdx ..).trans (a.depth l hl)
  have hlaunch : ∀ l, s.cur.lanes.getLsbD l = true → ((t.warp s.w).lane l).launch = (s.wp.lane l).launch.sized g :=
    fun l hl => by
      rw [hlane]
      exact launch_setLaunch (by rw [frames_of_depth_one (a.depth l hl)]; simp) _
  refine ⟨hon, fun l hl => ?_, ?_, ?_, fun v hv => ?_, fun l r hl hlt => ?_⟩
  · rw [launch_of_frames (hframes l), hlaunch l hl]
    rfl
  · show ((t.finish h).block s.wp.block).exchange = _
    rw [hrest]
    rfl
  · show (t.finish h).mem = s.mem
    rw [hrest, hr]
  · rw [hothers v hv, ← warp_updWarp_ne s (·.resize g) hv]
    unfold State.warp
    rw [ht]
  · have hblock : (t.warp s.w).block = s.wp.block := by rw [hself]; rfl
    rw [hreads, read_launch (hdepth l hl) (by rw [hblock, hts]; rfl), hlaunch l hl, regs_sized hlt]
    exact (read_launch (s := s) (w := s.w) (a.depth l hl) (by show shareCell (s.block s.wp.block).shares _ _ _ = _; rw [hs]; rfl)).symm

/-! ### Claims of a block -/

theorem mem_insertGang (x y : Nat × Nat × Nat) (ys : List (Nat × Nat × Nat)) : x ∈ insertGang y ys ↔ x = y ∨ x ∈ ys := by
  induction ys with
  | nil => simp [insertGang]
  | cons z zs ih =>
    unfold insertGang
    split_ifs
    · simp
    · simp only [List.mem_cons, ih]
      tauto

theorem mem_sorted {x : Nat × Nat × Nat} {ys : List (Nat × Nat × Nat)} (h : x ∈ ys.foldr insertGang []) : x ∈ ys := by
  induction ys with
  | nil => exact h
  | cons y ys ih => exact List.mem_cons.mpr (((mem_insertGang x y _).mp h).imp id ih)

/-- A claim belongs to a warp that exists. -/
theorem listed_of_claim {s : State} {b id w n : Nat} (h : (id, w, n) ∈ s.claimsOf b) : (tget s.warps w).isSome := by
  obtain ⟨⟨v, W⟩, hv, hx⟩ := List.mem_flatMap.mp (mem_sorted h)
  obtain ⟨g, -, hg⟩ := List.mem_filterMap.mp hx
  have hw : v = w := by
    split at hg
    · split_ifs at hg
      exact congrArg (fun p => p.2.1) (Option.some.inj hg)
    · cases hg
  subst hw
  exact isSome_of_mem (List.mem_of_mem_filter hv)

end Sys2Proof.Machine

namespace Sys2Proof.Proofs

open Sys2Proof.Machine Sys2Proof.Claims

/-! ### Granules that move -/

theorem rgive_completes {t : Tri} {s : State} (a : WholeWarp s t.h) (hs : (s.block s.wp.block).shares = [])
    (hb : (tget s.blocks s.wp.block).isSome) (hn : t.sub.toNat % 64 < s.wp.launchG) :
    let n := t.sub.toNat % 64
    let g := s.wp.launchG
    ∃ u, exec (.rgive t) s = .next u ∧ Onward s u t.h ∧ HasGranules u s.w s.cur.lanes (g - n) ∧
      (u.block s.wp.block).exchange = (s.block s.wp.block).exchange + n ∧ u.mem = s.mem ∧
      (∀ v, v ≠ s.w → u.warp v = s.warp v) ∧
      ∀ l r, s.cur.lanes.getLsbD l = true → r < 8 * (g - n) → u.reads s.w (.vec l r) = s.reads s.w (.vec l r) := by
  intro n g
  let p := (s.updWarp s.w (·.resize (g - n))).updBlock s.wp.block (fun B => { B with exchange := B.exchange + n })
  have hx : exec (.rgive t) s = .next (p.finish t.h) := by
    refine congrArg Host.Outcome.next ((granuleWord_eq a _).trans ?_)
    have hbad : (decide (t.sub.toNat % 64 ≥ s.wp.launchG) || s.shares.any (fun x => x.2.importer == s.w ||
        x.2.exporter == s.w && meets (s.wp.launchG - t.sub.toNat % 64) (t.sub.toNat % 64) x.2.first x.2.n)) = false := by
      rw [State.shares, hs]
      simpa using hn
    exact if_neg (Bool.eq_false_iff.mp hbad)
  have hblock : p.block s.wp.block = { s.block s.wp.block with exchange := (s.block s.wp.block).exchange + n } :=
    (block_updBlock _ _ _ _).trans (if_pos ⟨rfl, hb⟩)
  obtain ⟨h1, h2, h3, h4, h5, h6⟩ := resize_finish a hs (g - n) (t := p) rfl rfl (by rw [hblock]; exact hs)
  exact ⟨_, hx, h1, h2, by rw [h3, hblock], h4, h5, h6⟩

theorem rclaim_completes {t : Tri} {s : State} (a : WholeWarp s t.h) (hs : (s.block s.wp.block).shares = [])
    (hb : (tget s.blocks s.wp.block).isSome) (hd : Wanted s s.cur.lanes)
    (hg : s.wp.launchG + t.sub.toNat % 64 ≤ 32) (hc : s.claimsOf s.wp.block = []) :
    let n := t.sub.toNat % 64
    let g := s.wp.launchG
    ∃ u, exec (.rclaim t) s = .next u ∧
      if n ≤ (s.block s.wp.block).exchange then
        Onward s u t.h ∧ HasGranules u s.w s.cur.lanes (g + n) ∧ u.mem = s.mem ∧
        (u.block s.wp.block).exchange = (s.block s.wp.block).exchange - n ∧
        ∀ l r, s.cur.lanes.getLsbD l = true → r < 8 * (g + n) → u.reads s.w (.vec l r) = s.reads s.w (.vec l r)
      else GangParks s u t.h s.cur.lanes (.rclaim n) := by
  intro n g
  have hx : exec (.rclaim t) s = .next (if n ≤ (s.block s.wp.block).exchange then (s.claimGranules s.w n).finish t.h
      else (s.parkGang s.cur.lanes t.h (.rclaim n)).finish t.h) := by
    refine congrArg Host.Outcome.next ((granuleWord_eq a _).trans ?_)
    have hbad : (decide (s.wp.launchG + t.sub.toNat % 64 > 32) || s.shares.any (fun x => x.2.importer == s.w)) = false := by
      rw [State.shares, hs]
      simpa using hg
    rw [reclaimFirst_undoomed hd]
    refine (if_neg (Bool.eq_false_iff.mp hbad)).trans ?_
    rw [hc]
    simp only [List.isEmpty_nil, Bool.and_true, decide_eq_true_eq]
    rfl
  refine ⟨_, hx, ?_⟩
  split_ifs with hle
  · have hblock : (s.claimGranules s.w n).block s.wp.block =
        { s.block s.wp.block with exchange := (s.block s.wp.block).exchange - n } :=
      (block_updBlock s s.wp.block s.wp.block _).trans (if_pos ⟨rfl, hb⟩)
    obtain ⟨h1, h2, h3, h4, -, h6⟩ := resize_finish a hs (g + n) (t := s.claimGranules s.w n) rfl rfl (by rw [hblock]; exact hs)
    exact ⟨h1, h2, h4, by rw [h3, hblock], h6⟩
  · exact parkGang_parks a.toIssues a.quiet a.unheld _

theorem rclaimGrant_serves {b id w n : Nat} {rest : List (Nat × Nat × Nat)} {s : State}
    (hc : s.claimsOf b = (id, w, n) :: rest) (hw : (s.warp w).block = b) (hb : (tget s.blocks b).isSome)
    (hn : ∀ g ∈ s.claimsOf b, NoNotice s g.2.1) :
    ∃ u, exec (.rclaimGrant b) s = .next u ∧
      if n ≤ (s.block b).exchange then
        GangWoken s u w id ∧ (u.block b).exchange = (s.block b).exchange - n ∧ u.mem = s.mem ∧
          ∀ l, ((s.warp w).lane l).frames ≠ [] → ((u.warp w).lane l).launch.g = (s.warp w).launchG + n
      else u = s := by
  have hlisted : (tget s.warps w).isSome := listed_of_claim (by rw [hc]; exact List.mem_cons_self)
  have hsweep : (s.claimsOf b).foldl (fun s g => s.sweep g.2.1) s = s :=
    List.foldl_map.symm.trans (sweeps_unnoticed fun v hv => by
      obtain ⟨g, hg, rfl⟩ := List.mem_map.mp hv
      exact hn g hg)
  have hx : exec (.rclaimGrant b) s = .next (if n ≤ (s.block b).exchange then (s.claimGranules w n).wakeGang w id else s) := by
    show execRclaimGrant b s = _
    unfold execRclaimGrant
    rw [hsweep]
    dsimp only
    rw [hc]
  refine ⟨_, hx, ?_⟩
  split_ifs
  · have hself : (s.claimGranules w n).warp w = (s.warp w).resize ((s.warp w).launchG + n) := resized_warp hlisted _ rfl
    obtain ⟨-, -, hlane⟩ := wakeGang_spec (s := s.claimGranules w n) (w := w)
      (by rw [(claimGranules_relaunched s w n).keeps.listed, hlisted]) id
    refine ⟨(claimGranules_relaunched s w n).woken hlisted id, ?_, wakeGang_mem _ w id, fun l hf => ?_⟩
    · rw [(wakeGang_block _ w id b).1]
      exact congrArg Block.exchange ((block_updBlock s (s.warp w).block b _).trans (by rw [hw, if_pos ⟨rfl, hb⟩]))
    · have hframes : ((((s.claimGranules w n).wakeGang w id).warp w).lane l).frames =
          (((s.claimGranules w n).warp w).lane l).frames := by
        rw [hlane]; split_ifs <;> rfl
      rw [launch_of_frames hframes, hself, lane_resize, launch_setLaunch hf]
      rfl
  · rfl

/-- Settles O25: a warp's launch frames are all of the new size, with the registers that they still hold, and its gang goes
on or parks. -/
theorem granuleMoves : Obligations.GranuleMoves := by
  unfold Obligations.GranuleMoves
  refine ⟨?_, fun b id w n rest s hc hw hb hn => rclaimGrant_serves hc hw hb hn⟩
  rintro t s _ _ a hs rfl rfl - - hb hd
  exact ⟨fun _ hn => rgive_completes a hs hb hn, fun _ hg hc => rclaim_completes a hs hb hd hg hc⟩

end Sys2Proof.Proofs
end

section
/-! PROOFS. Shares of granules: their cells, and how they begin and end (R158 to R160). -/

namespace Sys2Proof.Machine

/-! ### Cells of a share -/

/-- A register after some have been written: what every write to it brings, or what it held. -/
theorem tgetD_setCells {α : Type} (κ : α → Nat) (v : α → Cell) {x : Nat} {c : Cell} {ks : List α} {t : Table Cell}
    (hv : ∀ k ∈ ks, κ k = x → v k = c) (h : (∃ k ∈ ks, κ k = x) ∨ tgetD t x {} = c) :
    tgetD (ks.foldl (fun t k => setCell t (κ k) (v k)) t) x {} = c := by
  induction ks generalizing t with
  | nil => exact h.resolve_left fun ⟨_, hk, _⟩ => List.not_mem_nil hk
  | cons k ks ih =>
    refine ih (fun j hj => hv j (List.mem_cons_of_mem _ hj)) ?_
    rw [tgetD_setCell]
    by_cases hk : x = κ k
    · rw [if_pos hk]
      exact .inr (hv k List.mem_cons_self hk.symm)
    · rw [if_neg hk]
      refine h.imp (fun ⟨j, hj, e⟩ => ⟨j, (List.mem_cons.mp hj).resolve_left fun e' => hk ?_, e⟩) id
      rw [← e, e']

/-- The keys of the cells of a share of n granules. -/
def shareKeys (n : Nat) : List (Nat × Nat) := (List.range 32).flatMap (fun l => (List.range (8 * n)).map (fun r => (l, r)))

theorem mem_shareKeys {n : Nat} {k : Nat × Nat} : k ∈ shareKeys n ↔ k.1 < 32 ∧ k.2 < 8 * n := by
  obtain ⟨l, r⟩ := k
  simp [shareKeys]

/-- A cell of a share that begins holds its register (R158). -/
theorem shareCells_cell (W : Warp) (first : Nat) {n l r : Nat} (full : Bool) (hn : n ≤ 32) (hl : l < 32) (hr : r < 8 * n) :
    tgetD (W.shareCells first n full).1 (l * 256 + r) {} = tgetD (W.lane l).launch.regs (8 * first + r) {} := by
  refine tgetD_setCells (fun k : Nat × Nat => k.1 * 256 + k.2) (fun k => tgetD (W.lane k.1).launch.regs (8 * first + k.2) {})
    (ks := shareKeys n) (fun k hk e => ?_) (.inl ⟨(l, r), mem_shareKeys.mpr ⟨hl, hr⟩, rfl⟩)
  have hk := (mem_shareKeys.mp hk).2
  have h1 : k.1 = l := by omega
  have h2 : k.2 = r := by omega
  rw [h1, h2]

/-- The cells of a share begin all full or all empty (R158). -/
theorem shareCells_full (W : Warp) (first : Nat) {n l r : Nat} (full : Bool) (hl : l < 32) (hr : r < 8 * n) :
    (W.shareCells first n full).2.contains (l * 256 + r) = full := by
  cases full with
  | false => rfl
  | true => exact List.contains_iff_mem.mpr (List.mem_map.mpr ⟨(l, r), mem_shareKeys.mpr ⟨hl, hr⟩, rfl⟩)

/-- Where the only share of a block holds a register of its exporter (R158). -/
theorem shareCell_exporter {k w : Nat} {h : Share} (he : h.exporter = w) (hi : h.importer ≠ w) (l r : Nat) :
    shareCell [(k, h)] w l r =
      if 8 * h.first ≤ r ∧ r < 8 * h.first + 8 * h.n then some (k, l * 256 + (r - 8 * h.first)) else none := by
  have hrange : h.first * 8 ≤ r ∧ r < (h.first + h.n) * 8 ↔ 8 * h.first ≤ r ∧ r < 8 * h.first + 8 * h.n := by omega
  simp [shareCell, he, hi, hrange, Nat.mul_comm]

theorem listed_of_frames {s : State} {w l : Nat} (h : ((s.warp w).lane l).frames ≠ []) : (tget s.warps w).isSome := by
  cases e : tget s.warps w with
  | some W => rfl
  | none =>
    have hl : ((s.warp w).lane l).frames = [] := by simp [State.warp, Warp.lane, tgetD, e]
    exact absurd hl h

/-! ### A share ends -/

/-- The launch frame of an exporter's lane with the contents of the cells that it shared (R160). -/
def Frame.unshared (h : Share) (l : Nat) (f : Frame) : Frame :=
  { f with regs := (List.range (8 * h.n)).foldl (fun t r => setCell t (8 * h.first + r) (tgetD h.cells (l * 256 + r) {})) f.regs }

theorem regs_unshared_in (h : Share) (l : Nat) (f : Frame) {r : Nat} (hr : 8 * h.first ≤ r ∧ r < 8 * h.first + 8 * h.n) :
    tgetD (f.unshared h l).regs r {} = tgetD h.cells (l * 256 + (r - 8 * h.first)) {} := by
  refine tgetD_setCells (8 * h.first + ·) (fun r => tgetD h.cells (l * 256 + r) {}) (fun k _ e => ?_)
    (.inl ⟨r - 8 * h.first, List.mem_range.mpr (by omega), by omega⟩)
  rw [← e, Nat.add_sub_cancel_left]

theorem regs_unshared_out (h : Share) (l : Nat) (f : Frame) {r : Nat} (hr : ¬(8 * h.first ≤ r ∧ r < 8 * h.first + 8 * h.n)) :
    tgetD (f.unshared h l).regs r {} = tgetD f.regs r {} := by
  refine tgetD_setCells (8 * h.first + ·) (fun r => tgetD h.cells (l * 256 + r) {}) (fun k hk e => ?_) (.inr rfl)
  have := List.mem_range.mp hk
  omega

/-- The launch frame of an importer's lane without the granules that it imported (R160). -/
def Frame.shrunk (n : Nat) (f : Frame) : Frame := { f with g := f.g - n }

theorem endShare_eq (s : State) (b k : Nat) (h : Share) : s.endShare b k h =
    ((s.updBlock b (fun B => { B with shares := tdel B.shares k })).updWarp h.importer
      (·.relaunch fun _ => Frame.shrunk h.n)).updWarp h.exporter (·.relaunch (Frame.unshared h)) := rfl

theorem endShare_relaunched (s : State) (b k : Nat) (h : Share) : s.Relaunched (s.endShare b k h) := by
  rw [endShare_eq]
  exact (relaunched_updBlock s b _).trans ((relaunched_updWarp _ h.importer (φ := fun _ _ => Frame.shrunk h.n) fun _ => rfl).trans
    (relaunched_updWarp _ h.exporter (φ := fun _ => Frame.unshared h) fun _ => rfl))

theorem endShare_block {s : State} {b : Nat} (hb : (tget s.blocks b).isSome) (k : Nat) (h : Share) :
    ((s.endShare b k h).block b).shares = tdel (s.block b).shares k :=
  congrArg Block.shares ((block_updBlock s b b _).trans (if_pos ⟨rfl, hb⟩))

theorem endShare_exporter {s : State} {h : Share} (hw : (tget s.warps h.exporter).isSome) (hi : h.importer ≠ h.exporter)
    (b k : Nat) : (s.endShare b k h).warp h.exporter = (s.warp h.exporter).relaunch (Frame.unshared h) := by
  rw [endShare_eq]
  refine (warp_updWarp_self _ _ ((isSome_updWarp _ _ _ _).trans hw)).trans ?_
  rw [warp_updWarp_ne _ _ hi.symm]

theorem endShare_importer {s : State} {h : Share} (hw : (tget s.warps h.importer).isSome) (hi : h.importer ≠ h.exporter)
    (b k : Nat) : (s.endShare b k h).warp h.importer = (s.warp h.importer).relaunch (fun _ => Frame.shrunk h.n) := by
  rw [endShare_eq, warp_updWarp_ne _ _ hi]
  exact warp_updWarp_self (s.updBlock b _) _ hw

end Sys2Proof.Machine

namespace Sys2Proof.Proofs

open Sys2Proof.Machine Sys2Proof.Claims

/-! ### `rshare` -/

/-- The share that an `rshare` begins (R158). -/
def shareOf (t : Tri) (s : State) (i : Nat) : Share :=
  let c := s.wp.shareCells (t.a.toNat / 8) (t.sub.toNat % 64) (t.sub.getLsbD 6)
  ⟨s.w, i, t.a.toNat / 8, t.sub.toNat % 64, (s.warp i).launchG, t.sub.getLsbD 6, c.1, c.2, []⟩

/-- The state of an `rshare` before its gang goes on. -/
def shared (t : Tri) (s : State) (i : Nat) : State :=
  (s.updWarp i (·.relaunch fun _ f => { f with g := (s.warp i).launchG + t.sub.toNat % 64 })).updBlock s.wp.block
    (fun B => { B with shares := tset B.shares s.wp.wib (shareOf t s i) })

theorem exec_rshare {t : Tri} {s : State} {i : Nat} (a : WholeWarp s t.h) (hs : (s.block s.wp.block).shares = [])
    (hwave : s.wp.wave = false) (hin : s.warpIn s.wp.block t.b.toNat = some i) (hi : i ≠ s.w)
    (hlive : (s.warp i).live = true) (hfit : t.a.toNat / 8 + t.sub.toNat % 64 ≤ s.wp.launchG)
    (hroom : (s.warp i).launchG + t.sub.toNat % 64 ≤ 32) : exec (.rshare t) s = .next ((shared t s i).finish t.h) := by
  refine congrArg Host.Outcome.next ((granuleWord_eq a _).trans ?_)
  have hbad : (i == s.w || !(s.warp i).live || decide (t.a.toNat / 8 + t.sub.toNat % 64 > s.wp.launchG) ||
      decide ((s.warp i).launchG + t.sub.toNat % 64 > 32) ||
      s.shares.any (fun x => x.2.exporter == s.w || x.2.importer == i)) = false := by
    rw [State.shares, hs, hlive]
    simpa [hi] using ⟨hfit, hroom⟩
  dsimp only
  rw [hwave, if_neg Bool.false_ne_true, hin]
  exact if_neg (Bool.eq_false_iff.mp hbad)

theorem rshare_completes {t : Tri} {s : State} {i : Nat} (a : WholeWarp s t.h) (hs : (s.block s.wp.block).shares = [])
    (hb : (tget s.blocks s.wp.block).isSome) (hi : i ≠ s.w) (hroom : (s.warp i).launchG + t.sub.toNat % 64 ≤ 32) :
    let u := (shared t s i).finish t.h
    Onward s u t.h ∧ u.mem = s.mem ∧ (u.block s.wp.block).shares = [(s.wp.wib, shareOf t s i)] ∧
      (∀ l r, s.cur.lanes.getLsbD l = true → u.reads s.w (.vec l r) = s.reads s.w (.vec l r)) ∧
      ∀ l, ((s.warp i).lane l).frames ≠ [] → ((u.warp i).lane l).launch.g = (s.warp i).launchG + t.sub.toNat % 64 := by
  have hself : (shared t s i).warp s.w = s.wp := warp_updWarp_ne s _ hi.symm
  have hshares : ((shared t s i).block s.wp.block).shares = [(s.wp.wib, shareOf t s i)] := by
    refine (congrArg Block.shares ((block_updBlock _ _ _ _).trans (if_pos ⟨rfl, hb⟩))).trans ?_
    show tset (s.block s.wp.block).shares s.wp.wib (shareOf t s i) = _
    rw [hs]
    rfl
  have hpoised : s.Poised (shared t s i) :=
    ⟨rfl, (isSome_updWarp _ _ _ _).trans a.warp, by rw [hself], fun l hl => by rw [hself]; exact a.ready l hl⟩
  obtain ⟨hrest, hothers, hon, -, hreads⟩ := hpoised.finish a.quiet a.unheld
  refine ⟨hon, ?_, ?_, fun l r hl => ?_, fun l hf => ?_⟩
  · rw [hrest]; rfl
  · refine Eq.trans ?_ hshares
    rw [hrest]
    rfl
  · rw [hreads]
    have hread : s.reads s.w (.vec l r) = tgetD (s.wp.lane l).launch.regs r {} := read_launch (a.depth l hl) (by
      show shareCell (s.block s.wp.block).shares s.w l r = none
      rw [hs]; rfl)
    have hcell : shareCell [(s.wp.wib, shareOf t s i)] s.w l r =
        if 8 * (t.a.toNat / 8) ≤ r ∧ r < 8 * (t.a.toNat / 8) + 8 * (t.sub.toNat % 64) then
          some (s.wp.wib, l * 256 + (r - 8 * (t.a.toNat / 8))) else none := shareCell_exporter rfl hi l r
    have hblock : ((shared t s i).block ((shared t s i).warp s.w).block).shares = [(s.wp.wib, shareOf t s i)] := by
      rw [hself, hshares]
    by_cases hr : 8 * (t.a.toNat / 8) ≤ r ∧ r < 8 * (t.a.toNat / 8) + 8 * (t.sub.toNat % 64)
    · rw [if_pos hr] at hcell
      rw [read_shared (h := shareOf t s i) (by rw [hself]; exact a.depth l hl) (by rw [hblock]; exact hcell)
        (by rw [hblock]; simp [tget]), hread]
      refine (shareCells_cell s.wp (t.a.toNat / 8) (t.sub.getLsbD 6) (by omega) (BitVec.lt_of_getLsbD hl) (by omega)).trans ?_
      rw [Nat.add_sub_cancel' hr.1]
    · rw [if_neg hr] at hcell
      rw [read_launch (by rw [hself]; exact a.depth l hl) (by rw [hblock]; exact hcell), hread, hself]
  · rw [hothers i hi]
    have himp : (shared t s i).warp i = (s.warp i).relaunch fun _ f => { f with g := (s.warp i).launchG + t.sub.toNat % 64 } :=
      warp_updWarp_self s _ (listed_of_frames hf)
    rw [himp, lane_relaunch, launch_setLaunch hf]

/-! ### `runshare` -/

theorem exec_runshare {t : Tri} {s : State} {k : Nat} {h : Share} (a : WholeWarp s t.h) (hd : Wanted s s.cur.lanes)
    (hs : (s.block s.wp.block).shares = [(k, h)]) (he : h.exporter = s.w) (hi : (s.warp h.importer).wib = t.b.toNat) :
    exec (.runshare t) s = .next (if s.shareBusy k h then (s.parkGang s.cur.lanes t.h (.runshare k)).finish t.h
      else (s.endShare s.wp.block k h).finish t.h) := by
  refine congrArg Host.Outcome.next ((granuleWord_eq a _).trans ?_)
  rw [reclaimFirst_undoomed hd]
  have hfind : s.shares.find? (fun x => x.2.exporter == s.w && (s.warp x.2.importer).wib == t.b.toNat) = some (k, h) := by
    rw [State.shares, hs]
    simp [he, hi]
  rw [hfind]

theorem unshare_completes {t : Tri} {s : State} {k : Nat} {h : Share} (a : WholeWarp s t.h)
    (hb : (tget s.blocks s.wp.block).isSome) (hs : (s.block s.wp.block).shares = [(k, h)]) (he : h.exporter = s.w)
    (hi : h.importer ≠ s.w) :
    let u := (s.endShare s.wp.block k h).finish t.h
    Onward s u t.h ∧ u.mem = s.mem ∧ (u.block s.wp.block).shares = [] ∧
      (∀ l r, s.cur.lanes.getLsbD l = true → u.reads s.w (.vec l r) = s.reads s.w (.vec l r)) ∧
      ∀ l, ((s.warp h.importer).lane l).frames ≠ [] →
        ((u.warp h.importer).lane l).launch.g = ((s.warp h.importer).lane l).launch.g - h.n := by
  have hie : h.importer ≠ h.exporter := by rw [he]; exact hi
  have hself : (s.endShare s.wp.block k h).warp s.w = s.wp.relaunch (Frame.unshared h) := by
    have e := endShare_exporter (s := s) (h := h) (by rw [he]; exact a.warp) hie s.wp.block k
    rw [he] at e
    exact e
  have hshares : ((s.endShare s.wp.block k h).block s.wp.block).shares = [] := by
    rw [endShare_block hb, hs]
    simp [tdel]
  have hchange := endShare_relaunched s s.wp.block k h
  have himp := fun hw => endShare_importer (s := s) (h := h) hw hie s.wp.block k
  generalize s.endShare s.wp.block k h = p at hself hshares hchange himp
  have hpoised : s.Poised p :=
    relaunch_poised (φ := Frame.unshared h) a.toIssues hchange.rest (by rw [hchange.keeps.listed]; exact a.warp)
      (by rw [hself])
  obtain ⟨hrest, hothers, hon, -, hreads⟩ := hpoised.finish a.quiet a.unheld
  refine ⟨hon, ?_, ?_, fun l r hl => ?_, fun l hf => ?_⟩
  · rw [hrest, hchange.rest]
  · refine Eq.trans ?_ hshares
    rw [hrest]
    rfl
  · have hdepth : ((p.warp s.w).lane l).depth = 1 := by
      rw [hself, lane_relaunch]
      exact (List.length_mapIdx ..).trans (a.depth l hl)
    have hlaunch : ((p.warp s.w).lane l).launch = (s.wp.lane l).launch.unshared h l := by
      rw [hself, lane_relaunch]
      exact launch_setLaunch (by rw [frames_of_depth_one (a.depth l hl)]; simp) _
    have hblock : (p.block (p.warp s.w).block).shares = [] := by rw [hself]; exact hshares
    have hcell := shareCell_exporter (k := k) he hi l r
    rw [← hs] at hcell
    rw [hreads, read_launch hdepth (by rw [hblock]; rfl), hlaunch]
    by_cases hr : 8 * h.first ≤ r ∧ r < 8 * h.first + 8 * h.n
    · rw [if_pos hr] at hcell
      rw [regs_unshared_in h l _ hr]
      refine (read_shared (s := s) (a.depth l hl) hcell ?_).symm
      show tget (s.block s.wp.block).shares k = some h
      rw [hs]
      simp [tget]
    · rw [if_neg hr] at hcell
      rw [regs_unshared_out h l _ hr]
      exact (read_launch (s := s) (a.depth l hl) hcell).symm
  · rw [hothers _ hi, himp (listed_of_frames hf), lane_relaunch, launch_setLaunch hf]
    rfl

theorem shareClause_holds : shareClause := by
  refine ⟨?_, ?_⟩
  · rintro t s _ i - a - hs hb rfl hwave hin hi hlive hfit hroom -
    obtain ⟨h1, h2, h3, h4, h5⟩ := rshare_completes a hs hb hi hroom
    exact ⟨_, exec_rshare a hs hwave hin hi hlive hfit hroom, h1, h2,
      ⟨_, h3, rfl, rfl, rfl, rfl, rfl, fun l r hl hr => shareCells_full s.wp (t.a.toNat / 8) _ hl hr⟩, h4, h5⟩
  · rintro t s k h - a - hb hd hs he hi hwib - -
    refine ⟨_, exec_runshare a hd hs he hwib, ?_⟩
    split_ifs
    · exact parkGang_parks a.toIssues a.quiet a.unheld _
    · exact unshare_completes a hb hs he hi

/-! ### What goes on once a share or a cell lets it -/

/-- A lane that issues its word again changes alone (R159). -/
theorem retry_spec {s : State} {w l : Nat} (hw : (tget s.warps w).isSome) :
    (((s.retry w l).warp w).lane l) =
      { (s.warp w).lane l with park := .no, since := s.cycle (s.warp w).core + 1 } := by
  unfold State.retry
  rw [warp_updWarp_self s _ hw, lane_updLane, if_pos rfl]

theorem shareEventClause_holds : shareEventClause := by
  refine ⟨fun w id k s hreq hb hn => ?_, fun w l r key k read full ended s hp hc hn => ?_⟩
  · have hw := listed_of_reqOf hreq
    have hx : exec (.runshareResume w id) s = execRunshareResume w id s := rfl
    unfold execRunshareResume at hx
    simp only [sweep_unnoticed hn, hreq] at hx
    refine ⟨_, hx, ?_⟩
    cases hk : tget (s.block (s.warp w).block).shares k with
    | none => exact (State.Relaunched.refl s).woken hw id
    | some h =>
      dsimp only
      split_ifs
      · rfl
      · refine ⟨(endShare_relaunched s _ k h).woken hw id, (wakeGang_block _ w id _).2 k ?_⟩
        rw [endShare_block hb]
        exact tget_tdel_self _ _
  · have hw := (listed_of_park (s := s) (w := w) (l := l) (by rw [hp]; simp)).1
    have hx : exec (.sharedCellWake w l) s = .next (if full = read ∨ ended = true then s.retry w l else s) := by
      show execSharedCellWake w l s = _
      unfold execSharedCellWake
      simp only [sweep_unnoticed hn, hp, hc, Bool.or_eq_true, beq_iff_eq]
    refine ⟨_, hx, ?_⟩
    split_ifs
    · rw [retry_spec hw]
      exact ⟨rfl, rfl, rfl, rfl⟩
    · rfl

/-- Settles O26: a share moves the contents of registers into cells and back, and events serve what waits for it. -/
theorem granuleShares : Obligations.GranuleShares := ⟨shareClause_holds, shareEventClause_holds⟩

end Sys2Proof.Proofs
end

section
/-! PROOFS. Accesses at their homes: what a performed access leaves, and the lanes that go on after it (R176, R190, R387). -/

namespace Sys2Proof.Machine

/-! ### Lanes whose accesses have performed -/

/-- Lanes of a warp that go on, some of them named twice: each goes on as it would alone (R117). -/
theorem wakes_all {s : State} {w : Nat} (hw : (tget s.warps w).isSome) (ls : List Nat) :
    let t := ls.foldl (fun s l => s.wake w l) s
    s.LanesOf t w ∧ ∀ l, (t.warp w).lane l = if l ∈ ls then s.goOnOf w ((s.warp w).lane l) else (s.warp w).lane l := by
  induction ls generalizing s with
  | nil => exact ⟨.refl s w, fun l => by simp⟩
  | cons a ls ih =>
    have h := lanesOf_updLane s w a (s.goOnOf w)
    obtain ⟨h1, h2⟩ := ih (s := s.wake w a) (h.listed.trans hw)
    refine ⟨h.trans h1, fun l => (h2 l).trans ?_⟩
    rw [show (s.wake w a).goOnOf w = s.goOnOf w from goOnOf_congr h, wake_eq, warp_updWarp_self s _ hw, lane_updLane]
    by_cases hl : l = a
    · subst hl
      rw [if_pos rfl, if_pos List.mem_cons_self]
      split_ifs <;> rfl
    · simp [hl]

/-- After accesses have performed, lanes of the warp go on, and nothing else changes; a lane that no other access holds
goes on (R117, R176). -/
theorem releaseAccess_spec {s : State} {w : Nat} (hw : (tget s.warps w).isSome) :
    s.LanesOf (s.releaseAccess w) w ∧ (∀ v x, (s.releaseAccess w).reads v x = s.reads v x) ∧
      ∀ l k, ((s.warp w).lane l).park = .access k → ((s.warp w).lane l).shadow = false →
        (∀ x ∈ (s.warp w).accs, x.2.lane = l → x.2.parked = false) →
        (((s.releaseAccess w).warp w).lane l).park = .no ∧
          (((s.releaseAccess w).warp w).lane l).pc = ((s.warp w).lane l).next := by
  obtain ⟨h1, h2⟩ := wakes_all hw (((s.warp w).lanes.filter (fun x => match x.2.park with
    | .access k => !(s.warp w).accs.any (fun y => y.2.parked && y.2.word == k &&
        (y.2.lane == x.1 || x.2.shadow && y.2.lane + 1 == x.1))
    | _ => false)).map (·.1))
  refine ⟨h1, h1.reads (fun l => ?_), fun l k hp hs ha => ?_⟩
  · rw [h2]
    split_ifs <;> rfl
  · have hl : (l, (s.warp w).lane l) ∈ (s.warp w).lanes := by
      obtain ⟨L, hL⟩ := Option.isSome_iff_exists.mp (Proofs.listed_of_park (fun e => by rw [e] at hp; cases hp)).2
      have e : (s.warp w).lane l = L := by unfold Warp.lane tgetD; rw [hL]; rfl
      rw [e]
      exact mem_of_tget hL
    have hgo := h2 l
    rw [if_pos (List.mem_map.mpr ⟨_, List.mem_filter.mpr ⟨hl, ?_⟩, rfl⟩)] at hgo
    · exact ⟨congrArg Lane.park hgo, congrArg Lane.pc hgo⟩
    · simp only [hp, hs, Bool.false_and, Bool.or_false, Bool.not_eq_true', List.any_eq_false]
      rintro ⟨i, y⟩ hy
      simp only [Bool.and_eq_true, beq_iff_eq]
      rintro ⟨⟨hpk, -⟩, hyl⟩
      rw [ha _ hy hyl] at hpk
      cases hpk

/-! ### What performing leaves as it is -/

/-- From s to t, an access of warp w performs: no block and no other warp has changed, and of the warp itself only its
outstanding results and what it has seen of releases. -/
structure State.AtHome (s t : State) (w : Nat) : Prop where
  blocks : t.blocks = s.blocks
  others : ∀ v, v ≠ w → t.warp v = s.warp v
  warp : t.warp w = { s.warp w with longs := (t.warp w).longs, seen := (t.warp w).seen }
  listed : (tget t.warps w).isSome = (tget s.warps w).isSome

theorem State.AtHome.refl (s : State) (w : Nat) : s.AtHome s w := ⟨rfl, fun _ _ => rfl, rfl, rfl⟩

theorem State.AtHome.trans {s t u : State} {w : Nat} (h : s.AtHome t w) (k : t.AtHome u w) : s.AtHome u w where
  blocks := k.blocks.trans h.blocks
  others v hv := (k.others v hv).trans (h.others v hv)
  warp := by rw [k.warp, h.warp]
  listed := k.listed.trans h.listed

/-- A change outside blocks and warps. -/
theorem atHome_of_warps {s t : State} (w : Nat) (hb : t.blocks = s.blocks) (hw : t.warps = s.warps) :
    s.AtHome t w := by
  have e : ∀ v, t.warp v = s.warp v := fun v => by unfold State.warp; rw [hw]
  exact ⟨hb, fun v _ => e v, by rw [e], by rw [hw]⟩

theorem State.AtHome.reads {s t : State} {w : Nat} (h : s.AtHome t w) (v : Nat) (x : Target) : t.reads v x = s.reads v x := by
  by_cases hv : v = w
  · subst hv
    exact reads_congr h.blocks (by rw [h.warp]) (by rw [h.warp]) (fun l => by rw [h.warp]; rfl) x
  · exact reads_congr h.blocks (by rw [h.others v hv]) (by rw [h.others v hv]) (fun l => by rw [h.others v hv]) x

/-- Scores count an access and change nothing that it reads or writes (R186). -/
theorem scoreAccess_onlyDies (s : State) (w : Nat) (a : Access) (wr : Bool) : s.OnlyDies (s.scoreAccess w a wr) := by
  unfold State.scoreAccess State.scoreLine
  split_ifs <;> rfl

theorem notice_spec (s : State) (w : Nat) (a : Access) : s.AtHome (s.notice w a) w ∧
    s.notice w a = { s with warps := (s.notice w a).warps } ∧ ((s.notice w a).warp w).longs = (s.warp w).longs := by
  unfold State.notice
  split
  · exact ⟨.refl s w, rfl, rfl⟩
  · refine ⟨⟨rfl, fun v hv => warp_updWarp_ne s _ hv, ?_, isSome_updWarp _ _ _ _⟩, rfl, ?_⟩ <;>
    · rw [warp_updWarp]
      split_ifs <;> rfl

/-- What bytes carry is kept apart from them (R198). -/
theorem bear_rest (s : State) (rs : List Rel) : s.bear rs = { s with rels := (s.bear rs).rels } := by
  unfold State.bear
  split <;> rfl

theorem overwrite_rest (s : State) (key size : Nat) (rmw : Bool) :
    s.overwrite key size rmw = { s with rels := (s.overwrite key size rmw).rels } := by
  unfold State.overwrite
  split_ifs <;> rfl

theorem carry_rest (s : State) (w : Nat) (a : Access) (rmw : Bool) :
    s.carry w a rmw = { s with rels := (s.carry w a rmw).rels } := by
  unfold State.carry State.carryFences
  dsimp only
  rw [bear_rest, bear_rest (s.overwrite _ _ _), overwrite_rest]

/-! ### Results that become known -/

/-- A destination once some results have become known, one after the other. -/
def learnInto (d : Dest) (rs : List (Target × Cell)) : Dest :=
  rs.foldl (fun d r => if d.tgt = r.1 then { d with val := some r.2 } else d) d

/-- Results for no two of one destination: each destination holds the one for it. -/
theorem learnInto_learned {rs : List (Target × Cell)} (h : (rs.map (·.1)).Nodup) (d : Dest) :
    learnInto d rs = Claims.learned rs d := by
  induction rs generalizing d with
  | nil => rfl
  | cons r rs ih =>
    obtain ⟨t, c⟩ := r
    rw [List.map_cons, List.nodup_cons] at h
    have hstep : learnInto d ((t, c) :: rs) = learnInto (if d.tgt = t then { d with val := some c } else d) rs := rfl
    rw [hstep, ih h.2]
    by_cases ht : d.tgt = t
    · have hnone : rs.find? (fun r => r.1 == d.tgt) = none := by
        refine List.find?_eq_none.mpr fun r hr e => h.1 ?_
        rw [← ht, ← eq_of_beq e]
        exact List.mem_map.mpr ⟨r, hr, rfl⟩
      rw [if_pos ht, Claims.learned, Claims.learned, List.find?_cons_of_pos (by simp [ht]), hnone]
    · rw [if_neg ht, Claims.learned, Claims.learned, List.find?_cons_of_neg (by simpa using Ne.symm ht)]

/-- Results reach the destinations of their long operation (R60). -/
theorem learnAll_spec {s : State} {w : Nat} (hw : (tget s.warps w).isSome) (op : Nat) (rs : List (Target × Cell)) (f : Flags) :
    s.AtHome (s.learnAll w op rs f) w ∧ (s.learnAll w op rs f).mem = s.mem ∧ ∀ o, tget (s.warp w).longs op = some o →
      ∃ o', tget ((s.learnAll w op rs f).warp w).longs op = some o' ∧
        o'.dests = o.dests.map (learnInto · rs) ∧ o'.waits = o.waits := by
  unfold State.learnAll
  induction rs generalizing s with
  | nil => exact ⟨.refl s w, rfl, fun o ho => ⟨o, ho, by simp [learnInto], rfl⟩⟩
  | cons r rs ih =>
    have hl : s.AtHome (s.learn w op r.1 r.2 f) w :=
      ⟨rfl, fun v hv => warp_updWarp_ne s _ hv, by unfold State.learn; rw [warp_updWarp_self s _ hw], isSome_updWarp _ _ _ _⟩
    obtain ⟨h1, hm, h2⟩ := ih (s := s.learn w op r.1 r.2 f) (hl.listed.trans hw)
    refine ⟨hl.trans h1, hm, fun o ho => ?_⟩
    obtain ⟨o', ho', hd, hwt⟩ := h2 _ (show tget ((s.learn w op r.1 r.2 f).warp w).longs op = some _ by
      unfold State.learn
      rw [warp_updWarp_self s _ hw, tget_tupd, if_pos rfl, ho]
      rfl)
    refine ⟨o', ho', hd.trans ?_, hwt⟩
    rw [List.map_map]
    rfl

/-- An access of warp w has performed with `u` known or written at its home: it is outstanding no more, no register has changed,
and its lane goes on when it was parked for this access alone (R176, R190). -/
theorem performAccess_spec {s u : State} {w id : Nat} {a : Access} (hw : (tget s.warps w).isSome)
    (he : s.perform w id a = u.endAccess w id) (h : s.AtHome u w) :
    let t := s.performAccess w id a
    Claims.Performed s t w [id] ∧ t.mem = u.mem ∧ (t.warp w).longs = (u.warp w).longs ∧
      ((∀ x ∈ (s.warp w).accs, x.1 ≠ id → x.2.lane = a.lane → x.2.parked = false) →
        ((s.warp w).lane a.lane).shadow = false → ((s.warp w).lane a.lane).park = .access a.word →
        ((t.warp w).lane a.lane).park = .no ∧ ((t.warp w).lane a.lane).pc = ((s.warp w).lane a.lane).next) := by
  intro t
  have hu : (tget u.warps w).isSome := h.listed.trans hw
  have ht : t = (u.endAccess w id).releaseAccess w := congrArg (State.releaseAccess · w) he
  have hew : (u.endAccess w id).warp w = { u.warp w with accs := tdel (u.warp w).accs id } := warp_updWarp_self u _ hu
  obtain ⟨h1, h2, h3⟩ := releaseAccess_spec (s := u.endAccess w id) (w := w) ((isSome_updWarp _ _ _ _).trans hu)
  rw [← ht] at h1 h2 h3
  have hlane : ∀ l, ((u.endAccess w id).warp w).lane l = (s.warp w).lane l := fun l => by rw [hew, h.warp]; rfl
  refine ⟨⟨fun v x => ?_, fun v hv => ?_, fun i => ?_⟩, h1.mem, by rw [h1.warp, hew], fun ha hs hp => ?_⟩
  · have hf : ∀ v, (((u.endAccess w id).warp v).block = (u.warp v).block ∧ ((u.endAccess w id).warp v).s = (u.warp v).s) ∧
        ∀ l, (((u.endAccess w id).warp v).lane l).file = ((u.warp v).lane l).file := by
      intro v
      by_cases hv : v = w
      · rw [hv, hew]; exact ⟨⟨rfl, rfl⟩, fun _ => rfl⟩
      · rw [show (u.endAccess w id).warp v = u.warp v from warp_updWarp_ne u _ hv]; exact ⟨⟨rfl, rfl⟩, fun _ => rfl⟩
    rw [h2, ← h.reads]
    exact reads_congr (s := u) (t := u.endAccess w id) rfl (hf v).1.1 (hf v).1.2 (hf v).2 x
  · exact ((h1.others v hv).trans (warp_updWarp_ne u _ hv)).trans (h.others v hv)
  · rw [h1.warp, hew, h.warp]
    split_ifs with hi
    · rw [List.mem_singleton.mp hi]
      exact tget_tdel_self _ _
    · exact tget_tdel_ne _ (fun e => hi (List.mem_singleton.mpr e))
  · have hgo := h3 a.lane a.word (by rw [hlane]; exact hp) (by rw [hlane]; exact hs) (fun x hx hxl => by
      rw [hew, h.warp] at hx
      have hx' := List.mem_filter.mp hx
      exact ha x hx'.1 (by simpa using hx'.2) hxl)
    rw [hlane] at hgo
    exact hgo

/-- Results for no two of one destination reach a warp's long operation. -/
theorem receives_of_learnAll {s t u : State} {w : Nat} (hu : (tget u.warps w).isSome) {op : Nat} {rs : List (Target × Cell)}
    {f : Flags} (hn : (rs.map (·.1)).Nodup) (hl : (u.warp w).longs = (s.warp w).longs)
    (ht : (t.warp w).longs = ((u.learnAll w op rs f).warp w).longs) : Claims.Receives s t w op rs := by
  intro o ho
  obtain ⟨-, -, h⟩ := learnAll_spec hu op rs f
  obtain ⟨o', ho', hd, hwt⟩ := h o (hl ▸ ho)
  refine ⟨o', ht ▸ ho', hd.trans ?_, hwt⟩
  rw [funext (learnInto_learned hn)]

/-! ### What each kind of access leaves at its home -/

/-- A load takes its bytes, and its results become known (R190, R215). -/
theorem perform_load {s : State} {w id : Nat} {a : Access} (hw : (tget s.warps w).isSome) {sg : Bool} {r op : Nat}
    (hk : a.kind = .load sg r op) : ∃ u, s.perform w id a = u.endAccess w id ∧ s.AtHome u w ∧ u.mem = s.mem ∧
      ∀ t : State, (t.warp w).longs = (u.warp w).longs →
        Claims.Receives s t w op (vecResult a.lane r (if a.size == 8 then 2 else 1)
          (loadValue a.size sg (s.num a.key a.size)) (s.tainted a.key a.size)) := by
  have hd := scoreAccess_onlyDies s w a false
  have h1 : s.AtHome (s.scoreAccess w a false) w :=
    atHome_of_warps w (by rw [show s.scoreAccess w a false = _ from hd]) (by rw [show s.scoreAccess w a false = _ from hd])
  obtain ⟨h2, hr, hl⟩ := notice_spec (s.scoreAccess w a false) w a
  have hn : (s.scoreAccess w a false).notice w a = { s with
      dies := (s.scoreAccess w a false).dies, warps := ((s.scoreAccess w a false).notice w a).warps } := by
    rw [hr, show s.scoreAccess w a false = _ from hd]
  have hbad : ((s.scoreAccess w a false).notice w a).tainted a.key a.size = s.tainted a.key a.size := by rw [hn]; rfl
  have hu := (h1.trans h2).listed.trans hw
  have hlearn := learnAll_spec hu op (vecResult a.lane r (if a.size == 8 then 2 else 1)
    (loadValue a.size sg (s.num a.key a.size)) (s.tainted a.key a.size)) 0
  refine ⟨_, ?_, (h1.trans h2).trans hlearn.1, hlearn.2.1.trans (by rw [hn]),
    fun t ht => receives_of_learnAll hu (vecResult_nodup _ _ _ _ _) (hl.trans ?_) ht⟩
  · unfold State.perform
    rw [hk]
    dsimp only
    rw [hbad]
    rfl
  · rw [show s.scoreAccess w a false = _ from hd]
    rfl

/-- A reading of a presence bit becomes known (R176, R217). -/
theorem perform_presence {s : State} {w id : Nat} {a : Access} (hw : (tget s.warps w).isSome) {p op : Nat}
    (hk : a.kind = .presence p op) : ∃ u, s.perform w id a = u.endAccess w id ∧ s.AtHome u w ∧ u.mem = s.mem ∧
      ∀ t : State, (t.warp w).longs = (u.warp w).longs →
        Claims.Receives s t w op [(.pred a.lane p, ⟨if s.absent.contains (a.key / 64) then 0 else 1, false⟩)] := by
  obtain ⟨h3, hm3, -⟩ := learnAll_spec hw op (predResult a.lane p (!s.lineAbsent (lineOf a.key)) false) 0
  have hcell : predResult a.lane p (!s.lineAbsent (lineOf a.key)) false =
      [(.pred a.lane p, ⟨if s.absent.contains (a.key / 64) then 0 else 1, false⟩)] := by
    unfold predResult State.lineAbsent lineOf
    cases s.absent.contains (a.key / 64) <;> rfl
  rw [hcell] at h3 hm3
  refine ⟨_, ?_, h3, hm3, fun t ht => receives_of_learnAll hw (by simp) rfl ht⟩
  unfold State.perform
  rw [hk]
  dsimp only
  rw [hcell]

/-- A fence moves no byte (R198, R227). -/
theorem perform_fence {s : State} {w id : Nat} {a : Access} {sc : Bool} (hk : a.kind = .fence sc) :
    ∃ u, s.perform w id a = u.endAccess w id ∧ s.AtHome u w ∧ u.mem = s.mem := by
  refine ⟨if sc && !s.settled (s.pendingOf w a.lane a.seq) then
    { s with rels := s.rels ++ [⟨a.point w, 0, 0, s.pendingOf w a.lane a.seq⟩] } else s, ?_, ?_, ?_⟩
  · unfold State.perform
    rw [hk]
  · split_ifs
    exacts [atHome_of_warps w rfl rfl, .refl s w]
  · split_ifs <;> rfl

/-- Bytes that a thread may write are written as they are given (R167, R262). -/
theorem storeBytes_storable {s : State} {key : Nat} (hk : Claims.Storable s key) (vi die cix : Nat) (bs : List Byte)
    (bad : Bool) : (s.storeBytes vi die cix key bs bad).mem = putBytes s.mem key bs ∧
      (s.storeBytes vi die cix key bs bad).blocks = s.blocks ∧ (s.storeBytes vi die cix key bs bad).warps = s.warps := by
  obtain ⟨hv, hb⟩ := hk
  unfold State.storeBytes
  rw [hv, hb]
  simp only [Bool.false_eq_true, if_false]
  split_ifs <;> exact ⟨rfl, rfl, rfl⟩

/-- A store's bytes stand in memory (R190, R215). -/
theorem perform_store {s : State} {w id : Nat} {a : Access} {v : BitVec 64} {bad : Bool} (hk : a.kind = .store v bad)
    (hs : Claims.Storable s a.key) : ∃ u, s.perform w id a = u.endAccess w id ∧ s.AtHome u w ∧
      u.mem = putBytes s.mem a.key (leBytes a.size v.toNat) := by
  obtain ⟨hm, hb, hw⟩ := storeBytes_storable hs (s.warp w).vi (dieOf (s.warp w).core) (cixOf (s.warp w).core)
    (leBytes a.size v.toNat) bad
  generalize hx : s.storeBytes (s.warp w).vi (dieOf (s.warp w).core) (cixOf (s.warp w).core) a.key (leBytes a.size v.toNat) bad
    = x at hm hb hw
  have hd : (x.carry w a false).scoreAccess w a true =
      { x with rels := (x.carry w a false).rels, dies := ((x.carry w a false).scoreAccess w a true).dies } := by
    rw [show (x.carry w a false).scoreAccess w a true = _ from scoreAccess_onlyDies _ _ _ _, carry_rest]
  refine ⟨(x.carry w a false).scoreAccess w a true, ?_, ?_, (congrArg State.mem hd).trans hm⟩
  · unfold State.perform
    rw [hk, ← hx]
  · exact atHome_of_warps w ((congrArg State.blocks hd).trans hb) ((congrArg State.warps hd).trans hw)

/-- A byte of a little-endian number (R4). -/
theorem leBytes_getD (n v i : Nat) (h : i < n) : (leBytes n v).getD i emptyByte = BitVec.ofNat 8 (v / 256 ^ i) := by
  induction n generalizing v i with
  | zero => omega
  | succ n ih =>
    unfold leBytes
    cases i with
    | zero => simp
    | succ i =>
      rw [List.getD_cons_succ, ih _ _ (by omega), Nat.div_div_eq_div_mul, pow_succ']

/-! ### Banks at a home -/

/-- The bank of an awake byte has no wake to begin (R169). -/
theorem rouseKey_awake {s : State} {key : Nat} (h : s.awake key = true) : s.rouseKey key = s := by
  unfold State.rouseKey State.rouse
  split_ifs with hk
  · have hn : (s.die (key / 2 ^ 60 % 2 ^ 40)).gated.filter
        (fun g => within (key % 2 ^ 60) (g.1, g.1 + g.2)) = [] := by
      rw [List.filter_eq_nil_iff]
      intro g hg e
      unfold State.awake State.asleep at h
      simp only [hk, Bool.true_and, Bool.not_eq_true', Bool.or_eq_false_iff, List.any_eq_false] at h
      exact h.1 g hg e
    rw [hn]
    rfl
  · rfl

theorem rouseKey_onlyDies (s : State) (key : Nat) : s.OnlyDies (s.rouseKey key) := by
  unfold State.rouseKey
  split_ifs
  exacts [rouse_rest s _ _, .refl s]

/-- Waking a bank changes no commit (R169, R188). -/
theorem rouse_commits (s : State) (die a d : Nat) : ((s.rouse die a).die d).commits = (s.die d).commits := by
  unfold State.rouse
  dsimp only
  split_ifs
  · rfl
  · rw [die_updDie]
    split_ifs with h
    · rw [h]
    · rfl

theorem rouse_rehousedSince (s : State) (die a key seq : Nat) :
    (s.rouse die a).rehousedSince key seq = s.rehousedSince key seq := by
  unfold State.rouse
  dsimp only
  split_ifs
  · rfl
  · exact rehousing_updDie { s with uid := seq } die
      (f := fun d => { d with
        gated := d.gated.filter (fun g => !within a (g.1, g.1 + g.2))
        waking := d.waking ++ ((s.die die).gated.filter (fun g => within a (g.1, g.1 + g.2))).map
          (fun g => (g.1, g.2, s.now + 594000)) }) (fun _ => rfl) key

/-- A fence, which reaches no bank, may perform while one begins to wake (R169). -/
theorem mayPerform_rouse {s : State} {w die b : Nat} {a : Access} {sc : Bool} (hk : a.kind = .fence sc) :
    (s.rouse die b).mayPerform w a = s.mayPerform w a := by
  have hc := rouse_commits s die b
  have hr := rouse_rehousedSince s die b a.key a.seq
  rw [rouse_rest] at hc hr ⊢
  have hi : ∀ p q, State.inclusive { s with dies := (s.rouse die b).dies } p q = s.inclusive p q := fun p q => by
    unfold State.inclusive State.acrossCommit
    simp only [hc]
    rfl
  have ht : ∀ p rs, State.takesIn { s with dies := (s.rouse die b).dies } p rs = s.takesIn p rs := fun p rs => by
    unfold State.takesIn
    simp only [hi]
    rfl
  unfold State.mayPerform State.acquireReady State.reachable
  simp only [hk, ht, hr]
  rfl

end Sys2Proof.Machine

namespace Sys2Proof.Proofs

open Sys2Proof.Machine Sys2Proof.Claims

/-- The bank of an access that may perform: where a wake begins at all, the access is a fence, which may perform still. -/
theorem rouse_of_mayPerform {s : State} {w : Nat} {a : Access} (hm : s.mayPerform w a = true)
    (hr : match a.kind with | .rmw _ _ _ => False | _ => True) :
    s.rouseKey a.key = s ∨ ∃ sc, a.kind = .fence sc := by
  have hreach : s.reachable a = true := by
    unfold State.mayPerform at hm
    simp only [Bool.and_eq_true] at hm
    exact hm.1.1.2
  unfold State.reachable at hreach
  rw [Bool.and_eq_true] at hreach
  cases hk : a.kind with
  | fence sc => exact .inr ⟨sc, rfl⟩
  | rmw x reg op => rw [hk] at hr; exact hr.elim
  | load sg r op => rw [hk] at hreach; exact .inl (rouseKey_awake ((Bool.and_eq_true _ _).mp hreach.2).2)
  | store v bad => rw [hk] at hreach; exact .inl (rouseKey_awake hreach.2)
  | presence p op => rw [hk] at hreach; exact .inl (rouseKey_awake hreach.2)

/-- What the statement says of the access by its kind, of a state that the event leaves. -/
def KindLeaves (s t : State) (w : Nat) (a : Access) : Prop :=
  match a.kind with
  | .load sg r op =>
    Receives s t w op (vecResult a.lane r (if a.size == 8 then 2 else 1) (loadValue a.size sg (s.num a.key a.size))
      (s.tainted a.key a.size)) ∧ t.mem = s.mem
  | .presence p op =>
    Receives s t w op [(.pred a.lane p, ⟨if s.absent.contains (a.key / 64) then 0 else 1, false⟩)] ∧ t.mem = s.mem
  | .store v _ => ∀ k, t.byte k =
      if a.key ≤ k ∧ k < a.key + a.size then BitVec.ofNat 8 (v.toNat / 256 ^ (k - a.key)) else s.byte k
  | _ => t.mem = s.mem

theorem perform_leaves {s : State} {w id : Nat} {a : Access} (hw : (tget s.warps w).isSome)
    (hr : match a.kind with | .rmw _ _ _ => False | _ => True)
    (hs : match a.kind with | .store _ _ => Storable s a.key | _ => True) :
    ∃ u, s.perform w id a = u.endAccess w id ∧ s.AtHome u w ∧
      ∀ t : State, t.mem = u.mem → (t.warp w).longs = (u.warp w).longs → KindLeaves s t w a := by
  unfold KindLeaves
  cases hk : a.kind with
  | rmw x reg op => rw [hk] at hr; exact hr.elim
  | load sg r op =>
    obtain ⟨u, he, h, hm, hl⟩ := perform_load (id := id) hw hk
    exact ⟨u, he, h, fun t htm htl => ⟨hl t htl, htm.trans hm⟩⟩
  | presence p op =>
    obtain ⟨u, he, h, hm, hl⟩ := perform_presence (id := id) hw hk
    exact ⟨u, he, h, fun t htm htl => ⟨hl t htl, htm.trans hm⟩⟩
  | fence sc =>
    obtain ⟨u, he, h, hm⟩ := perform_fence (s := s) (w := w) (id := id) hk
    exact ⟨u, he, h, fun t htm _ => htm.trans hm⟩
  | store v bad =>
    rw [hk] at hs
    obtain ⟨u, he, h, hm⟩ := perform_store (w := w) (id := id) hk hs
    refine ⟨u, he, h, fun t htm _ k => ?_⟩
    show cellGet t.mem k = _
    rw [htm, hm, cellGet_putBytes, Laws.leBytes_length]
    split_ifs with hin
    · exact leBytes_getD _ _ _ (by omega)
    · rfl

/-- An access that is no atomic performs when its event comes (R176, R387). -/
theorem exec_loadPresenceResume {s : State} {w id : Nat} {a : Access} (ha : tget (s.warp w).accs id = some a)
    (hm : s.mayPerform w a = true) (hr : match a.kind with | .rmw _ _ _ => False | _ => True) (hp : a.parked = true)
    (hn : NoNotice s w) : exec (.loadPresenceResume w id) s = .next (s.performAccess w id a) := by
  show execLoadPresenceResume w id s = _
  unfold execLoadPresenceResume
  rw [sweep_unnoticed hn]
  dsimp only
  rw [ha]
  cases hk : a.kind <;> simp_all

@[inherit_doc exec_loadPresenceResume]
theorem exec_memoryAccessPerform {s : State} {w id : Nat} {a : Access} (ha : tget (s.warp w).accs id = some a)
    (hm : s.mayPerform w a = true) (hr : match a.kind with | .rmw _ _ _ => False | _ => True) (hp : a.parked = false) :
    ∃ t, (t = s ∨ s.OnlyDies t ∧ ∃ sc, a.kind = .fence sc) ∧
      exec (.memoryAccessPerform w id) s = .next (t.performAccess w id a) := by
  obtain ⟨t, ht⟩ : ∃ t, t = if a.size != 0 then s.rouseKey a.key else s := ⟨_, rfl⟩
  have hcase : t = s ∨ s.OnlyDies t ∧ ∃ sc, a.kind = .fence sc := by
    rw [ht]
    split_ifs
    · exact (rouse_of_mayPerform hm hr).imp_right fun h => ⟨rouseKey_onlyDies s a.key, h⟩
    · exact .inl rfl
  have hmt : t.mayPerform w a = true := by
    rcases hcase with h | ⟨-, sc, hk⟩
    · rw [h, hm]
    · rw [ht]
      unfold State.rouseKey
      split_ifs
      exacts [(mayPerform_rouse hk).trans hm, hm, hm]
  refine ⟨t, hcase, ?_⟩
  show execMemoryAccessPerform w id s = _
  unfold execMemoryAccessPerform
  rw [ha]
  dsimp only
  rw [← ht]
  cases hk : a.kind <;> simp_all

/-- Dies are nothing that a performed access is said to leave. -/
theorem performed_of_onlyDies {s t u : State} {w : Nat} {ids : List Nat} (h : s.OnlyDies t) (hp : Performed t u w ids) :
    Performed s u w ids := by
  unfold State.OnlyDies at h
  rw [h] at hp
  exact hp

/-- Settles O13: performing leaves the access's result or its bytes and ends it, and then the lanes that nothing else holds go
on. -/
theorem accessesPerform : Obligations.AccessesPerform := by
  intro w id a s ha hm hr hs hn
  have hw : (tget s.warps w).isSome := by
    unfold State.warp tgetD at ha
    cases e : tget s.warps w with
    | none => rw [e] at ha; cases ha
    | some W => rfl
  cases hp : a.parked with
  | true =>
    obtain ⟨u, he, h, hk⟩ := perform_leaves (id := id) hw hr hs
    obtain ⟨h1, h2, h3, h4⟩ := performAccess_spec hw he h
    exact ⟨_, exec_loadPresenceResume ha hm hr hp (hn hp), h1, hk _ h2 h3, fun _ => h4⟩
  | false =>
    obtain ⟨t, ht, hx⟩ := exec_memoryAccessPerform ha hm hr hp
    refine ⟨_, hx, ?_⟩
    rcases ht with rfl | ⟨hd, sc, hk⟩
    · obtain ⟨u, he, h, hk⟩ := perform_leaves (id := id) hw hr hs
      obtain ⟨h1, h2, h3, -⟩ := performAccess_spec hw he h
      exact ⟨h1, hk _ h2 h3, fun e => by cases e⟩
    · have hwt : (tget t.warps w).isSome := by rw [show t = _ from hd]; exact hw
      obtain ⟨u, he, h, hm⟩ := perform_fence (s := t) (w := w) (id := id) hk
      obtain ⟨h1, h2, -, -⟩ := performAccess_spec hwt he h
      refine ⟨performed_of_onlyDies hd h1, ?_, fun e => by cases e⟩
      rw [hk]
      rw [show t = _ from hd] at hm
      exact h2.trans hm

end Sys2Proof.Proofs
end

section
/-! PROOFS. Scope words: handles, freezes and queries (R183, R232 to R235), and what a word does to other parts of the machine
before its gang goes on. -/

namespace Sys2Proof.Machine

/-! ### A gang that stands while other parts change -/

/-- From s to p the gang being issued still stands as it stood: clocks, requests, shares and every other warp are as they were,
and of its own warp only freezes, references and what lanes have accepted may differ. -/
structure State.Staged (s p : State) : Prop where
  cur : p.cur = s.cur
  listed : (tget p.warps s.w).isSome
  others : ∀ v, v ≠ s.w → p.warp v = s.warp v
  warp : p.warp s.w = { s.wp with
    freeze := (p.warp s.w).freeze, freezeCid := (p.warp s.w).freezeCid
    syncs := (p.warp s.w).syncs, refs := (p.warp s.w).refs }
  shares : ∀ b, (p.block b).shares = (s.block b).shares
  clock : p.now = s.now ∧ p.groups = s.groups ∧ p.cores = s.cores

section
variable {s p : State}

/-- A change outside warps, clocks and blocks, or of a block's parts other than its shares. -/
theorem staged_of_warps (hi : s.Issues) (hc : p.cur = s.cur) (hw : p.warps = s.warps)
    (hb : ∀ b, (p.block b).shares = (s.block b).shares) (ht : p.now = s.now ∧ p.groups = s.groups ∧ p.cores = s.cores) :
    s.Staged p := by
  have e : ∀ v, p.warp v = s.warp v := fun v => by unfold State.warp; rw [hw]
  exact ⟨hc, by rw [hw]; exact hi.warp, fun v _ => e v, by rw [e]; rfl, hb, ht⟩

theorem State.Staged.w (k : s.Staged p) : p.w = s.w := congrArg Issue.warp k.cur

theorem State.Staged.wp (k : s.Staged p) : p.wp = p.warp s.w := congrArg p.warp k.w

theorem State.Staged.cyc (k : s.Staged p) : p.cyc = s.cyc := by
  obtain ⟨hn, hg, -⟩ := k.clock
  unfold State.cyc State.cycle State.group
  rw [k.wp, k.warp, hn, hg]

theorem State.Staged.issues (k : s.Staged p) (hi : s.Issues) : p.Issues where
  warp := by rw [k.w]; exact k.listed
  ready l hl := by
    rw [k.cur] at hl
    rw [k.wp, k.warp]
    exact hi.ready l hl

theorem State.Staged.quiet (k : s.Staged p) (hq : s.wp.Quiet) : p.wp.Quiet := by
  rw [k.wp, k.warp]
  exact ⟨hq.longs, hq.late⟩

theorem State.Staged.unheld {h : Hdr} (k : s.Staged p) (hu : s.Unheld h) : p.Unheld h := by
  obtain ⟨-, -, hc⟩ := k.clock
  unfold State.Unheld State.requested State.core
  rw [k.wp, k.warp, hc]
  exact hu

theorem State.Staged.alone (k : s.Staged p) (ha : (s.block s.wp.block).shares = []) :
    (p.block p.wp.block).shares = [] := by
  rw [k.wp, k.warp, k.shares]
  exact ha

/-- Registers of the issuing warp read as they did. -/
theorem State.Staged.reads (k : s.Staged p) (ha : (s.block s.wp.block).shares = []) (x : Target) :
    p.reads s.w x = s.reads s.w x := by
  cases x with
  | vec l r =>
    have hp : (p.block (p.warp s.w).block).shares = [] := by rw [← k.wp]; exact k.alone ha
    show p.vreg s.w l r = s.vreg s.w l r
    rw [vreg_eq hp, vreg_eq (w := s.w) ha, k.warp]
    rfl
  | pred l q => simp only [State.reads]; rw [k.warp]; rfl
  | uni r => simp only [State.reads]; rw [k.warp]; rfl

/-- A gang that steps on after other parts have changed has stepped (R72). -/
theorem State.Staged.steps {u : State} {h : Hdr} {xs : List Target} (k : s.Staged p)
    (ha : (s.block s.wp.block).shares = []) (hs : Claims.Steps p u h xs) : Claims.Steps s u h xs := by
  have hfp : p.wp.fpstat = s.wp.fpstat := by rw [k.wp, k.warp]
  have hl : ∀ l, p.wp.lane l = s.wp.lane l := fun l => by rw [k.wp, k.warp]; rfl
  obtain ⟨h1, h2, h3, h4, h5⟩ := hs
  rw [k.w] at h1 h2 h3 h4 h5
  rw [hfp] at h3
  rw [k.cur, k.cyc] at h4
  rw [k.cur] at h5
  exact ⟨fun v hv => (h1 v hv).trans (k.others v hv), fun x hx => (h2 x hx).trans (k.reads ha x), h3, h4,
    fun l hc => by rw [← hl]; exact h5 l hc⟩

/-- The gang goes on after other parts have changed: outside its own warp's lanes everything is as it was before (R72). -/
theorem State.Staged.finish {h : Hdr} (k : s.Staged p) (hi : s.Issues) (hq : s.wp.Quiet)
    (ha : (s.block s.wp.block).shares = []) (hu : s.Unheld h) :
    p.finish h = { p with warps := (p.finish h).warps } ∧ Claims.Steps s (p.finish h) h [] ∧
      ((p.finish h).warp s.w).rest = (p.warp s.w).rest := by
  obtain ⟨ho, -⟩ := finish_spec (k.issues hi) (k.quiet hq) (k.unheld hu)
  obtain ⟨hr, hs⟩ := finish_steps (k.issues hi) (k.quiet hq) (k.unheld hu)
  refine ⟨hr, k.steps ha hs, ?_⟩
  have hw := ho.warp
  rw [k.w] at hw
  rw [hw, k.wp]
  rfl

/-- The gang writes a uniform register and goes on after other parts have changed (R72). -/
theorem State.Staged.writeUni {h : Hdr} (k : s.Staged p) (hi : s.Issues) (hq : s.wp.Quiet)
    (ha : (s.block s.wp.block).shares = []) (hu : s.Unheld h) (r : Nat) (c : Cell) :
    let u := (p.writeTarget s.w (.uni r) c).finish h
    u = { p with warps := u.warps } ∧ Claims.Steps s u h [.uni r] ∧ u.reads s.w (.uni r) = c := by
  obtain ⟨hc, hr⟩ := Proofs.writeUni_completed (k.issues hi) (k.quiet hq) (k.alone ha) (k.unheld hu) r c
  rw [k.w] at hc hr
  exact ⟨hc.rest, k.steps ha (hc.steps (k.issues hi)), hr⟩

end

/-- A word that leaves a long operation outstanding has stepped on (R60, R72). -/
theorem State.GoesOn.steps {s t : State} {h : Hdr} (k : s.GoesOn t h) (hi : s.Issues) : Claims.Steps s t h [] where
  others := k.others
  regs x _ := k.regs x
  flags := k.fpstat
  next l hl := by
    obtain ⟨h1, h2⟩ := k.next l hl
    exact ⟨h1, h2, (congrArg Lane.ready (k.lane l)).trans (hi.ready l hl)⟩
  stay l hl := by rw [k.stay l hl]; exact ⟨rfl, rfl⟩

end Sys2Proof.Machine

namespace Sys2Proof.Proofs

open Sys2Proof.Machine Sys2Proof.Claims

/-! ### The scope words -/

/-- `scope.get` completes with the handle of its scope, when no commit holds it up (R183, R233). -/
theorem scopeGet_completes {t : Tri} {s : State} {m : BitVec 32} (a : s.Acts t.h {} m) (hu : s.Unheld t.h)
    (hc : t.sub.toNat % 8 = 2 → s.committing s.w = false) :
    ∃ u, exec (.scopeGet t) s = .next u ∧ u = { s with warps := u.warps } ∧ Steps s u t.h [.uni t.d.toNat] ∧
      u.reads s.w (.uni t.d.toNat) = ⟨BitVec.ofNat 32 ((if t.sub.toNat % 8 = 2 then
        (s.cluster (s.clusterOf s.w)).gen.toNat * 2 ^ 16 + s.clusterOf s.w % 1024 else 0) +
          dieOf s.wp.core * 2 ^ 14 + t.sub.toNat % 8 * 2 ^ 11), false⟩ := by
  have hfree : (t.sub.toNat % 8 == 2 && s.committing s.w) = false := by
    by_cases h : t.sub.toNat % 8 = 2
    · rw [hc h, Bool.and_false]
    · simp [h]
  refine ⟨_, ?_, (staged_of_warps a.toIssues rfl rfl (fun _ => rfl) ⟨rfl, rfl, rfl⟩).writeUni a.toIssues a.quiet a.alone hu
    t.d.toNat _⟩
  show execScopeGet t s = _
  unfold execScopeGet
  rw [admit_eq a false (by simp)]
  simp only [hfree, Bool.false_eq_true, if_false]
  congr 4
  unfold scopeHandle
  by_cases h : t.sub.toNat % 8 = 2
  · simp only [h, beq_self_eq_true, if_true]
    congr 1
    omega
  · simp [h]

/-- A freeze count of the issuing warp changes, and its gang goes on (R234). -/
theorem freeze_finish {s : State} {h : Hdr} {m : BitVec 32} (a : s.Acts h {} m) (hu : s.Unheld h) (n cid : Nat) :
    let u := (s.updWarp s.w (fun W => { W with freeze := n, freezeCid := cid })).finish h
    u = { s with warps := u.warps } ∧ Steps s u h [] ∧
      (u.warp s.w).rest = { s.wp.rest with freeze := n, freezeCid := cid } := by
  have hself := warp_updWarp_self s (fun W : Warp => { W with freeze := n, freezeCid := cid }) a.warp
  have k : s.Staged (s.updWarp s.w (fun W => { W with freeze := n, freezeCid := cid })) :=
    ⟨rfl, (isSome_updWarp _ _ _ _).trans a.warp, fun v hv => warp_updWarp_ne s _ hv, by rw [hself]; rfl, fun _ => rfl,
      rfl, rfl, rfl⟩
  obtain ⟨h1, h2, h3⟩ := k.finish a.toIssues a.quiet a.alone hu
  refine ⟨h1, h2, h3.trans ?_⟩
  rw [hself]
  rfl

/-- `scope.freeze` and `scope.thaw` of a current handle count (R234). -/
theorem freezeWords_count {t : Tri} {s : State} {m : BitVec 32} {v : Word} (a : s.Acts t.h {} m) (hu : s.Unheld t.h)
    (hv : s.reads s.w (.uni t.a.toNat) = ⟨v, false⟩) (hc : s.committing s.w = false) (ho : s.handleOk s.w v = true) :
    (s.wp.freeze < 255 → (s.wp.freeze = 0 ∨ s.wp.freezeCid = v.toNat % 1024) →
      ∃ u, exec (.scopeFreeze t) s = .next u ∧ u = { s with warps := u.warps } ∧ Steps s u t.h [] ∧
        (u.warp s.w).rest = { s.wp.rest with freeze := s.wp.freeze + 1, freezeCid := v.toNat % 1024 }) ∧
    (0 < s.wp.freeze → s.wp.freezeCid = v.toNat % 1024 →
      ∃ u, exec (.scopeThaw t) s = .next u ∧ u = { s with warps := u.warps } ∧ Steps s u t.h [] ∧
        (u.warp s.w).rest = { s.wp.rest with freeze := s.wp.freeze - 1 }) := by
  have hread : s.readS s.w t.a.toNat 32 = ⟨v, false⟩ := (readS_quiet (w := s.w) a.quiet _ _).trans hv
  refine ⟨fun hlt hcid => ⟨_, ?_, freeze_finish a hu (s.wp.freeze + 1) (v.toNat % 1024)⟩, fun hpos hcid => ?_⟩
  · have hok : (s.wp.freeze == 255 || decide (s.wp.freeze > 0) && s.wp.freezeCid != v.toNat % 1024) = false := by
      rcases hcid with e | e
      · simp [e]
      · simp [e, Nat.ne_of_lt hlt]
    show execScopeFreeze t s = _
    unfold execScopeFreeze
    rw [admit_eq a false (by simp), withHandle_current a.quiet (by rw [hv]) hc (by rw [hv]; exact ho)]
    simp only [hread, hok, Bool.false_eq_true, if_false]
    rw [updWarp_congr (s := s) (w := s.w) (f := fun W : Warp => { W with freeze := W.freeze + 1, freezeCid := v.toNat % 1024 })
      (g := fun W => { W with freeze := s.wp.freeze + 1, freezeCid := v.toNat % 1024 }) rfl]
  · have hok : (s.wp.freeze == 0 || s.wp.freezeCid != v.toNat % 1024) = false := by
      simp [hcid, Nat.ne_of_gt hpos]
    obtain ⟨h1, h2, h3⟩ := freeze_finish a hu (s.wp.freeze - 1) s.wp.freezeCid
    refine ⟨_, ?_, h1, h2, h3⟩
    show execScopeThaw t s = _
    unfold execScopeThaw
    rw [admit_eq a false (by simp), withHandle_current a.quiet (by rw [hv]) hc (by rw [hv]; exact ho)]
    simp only [hread, hok, Bool.false_eq_true, if_false]
    rw [updWarp_congr (s := s) (w := s.w) (f := fun W : Warp => { W with freeze := W.freeze - 1 })
      (g := fun W => { W with freeze := s.wp.freeze - 1, freezeCid := s.wp.freezeCid }) rfl]

/-- `scope.query` leaves its four results outstanding (R60, R235). -/
theorem scopeQuery_outstanding {t : Tri} {s : State} {m : BitVec 32} {v : Cell} (a : s.Acts t.h {} m) (hu : s.Unheld t.h)
    (hv : s.reads s.w (.uni t.a.toNat) = v) :
    ∃ u, exec (.scopeQuery t) s = .next u ∧ Steps s u t.h [] ∧
      u = { s with warps := u.warps, uid := s.uid + 1, fresh := s.fresh + 16384 } ∧
      (u.warp s.w).longs = [(s.uid, ⟨(List.range 4).map (fun i => ⟨.uni (t.d.toNat + i),
        some ⟨if i = 3 then (s.queryScope v.val).2
          else BitVec.ofNat 32 ((s.queryScope v.val).1 / 2 ^ (32 * i)), v.bad⟩, false⟩), 0, 0⟩)] := by
  have hread : s.readS s.w t.a.toNat 0 = v := (readS_quiet (w := s.w) a.quiet _ _).trans hv
  obtain ⟨ds, hds⟩ : ∃ ds, ds = (List.range 4).map (fun i => (⟨.uni (t.d.toNat + i),
    some ⟨if i = 3 then (s.queryScope v.val).2
      else BitVec.ofNat 32 ((s.queryScope v.val).1 / 2 ^ (32 * i)), v.bad⟩, false⟩ : Dest)) := ⟨_, rfl⟩
  rw [← hds]
  have hmem : (⟨.uni (t.d.toNat + 0), some ⟨BitVec.ofNat 32 ((s.queryScope v.val).1 / 2 ^ (32 * 0)), v.bad⟩, false⟩ : Dest) ∈ ds := by
    rw [hds]
    exact List.mem_map.mpr ⟨0, by simp, rfl⟩
  obtain ⟨h1, h2, h3⟩ := pend_finish a hu 0 hmem rfl
  refine ⟨_, ?_, h1.steps a.toIssues, h2, (congrArg Warp.longs h3 :)⟩
  show execScopeQuery t s = _
  unfold execScopeQuery
  rw [admit_eq a false (by simp)]
  simp only [hread]
  rw [hds]
  rfl

/-- Settles O27: each word's checks pass, and it writes its handle, its count or a long operation, and its gang goes on. -/
theorem scopeWords : Obligations.ScopeWords := by
  intro t s m c a hu hc
  subst hc
  refine ⟨fun _ => scopeGet_completes a hu, fun v hv hcm ho => ?_, fun _ v => scopeQuery_outstanding a hu⟩
  obtain ⟨h1, h2⟩ := freezeWords_count a hu hv hcm ho
  exact ⟨fun _ => h1, fun _ => h2⟩

end Sys2Proof.Proofs
end

section
/-! PROOFS. A `btake` that goes on in a block with shared register cells (R159, R237). -/

namespace Sys2Proof.Proofs

open Sys2Proof.Machine Sys2Proof.Claims

/-! ### A parked `btake` whose block stands after a later one in the table of blocks -/

/-- The lane 0 of a warp of block 3, parked with its `btake`. -/
def takerWarp : Warp :=
  { core := 0, slot := 0, grid := 0, vi := 0, block := 3
    gangs := [(1, ⟨1, .btake 0 0, 0, 0, []⟩)]
    lanes := [(0, { alive := true, park := .gang 1 })] }

/-- A block of core 0 with a group of shared registers that holds nothing. -/
def sharingBlock : Block :=
  { grid := 0, vi := 0, bix := 0, core := 0, cid := 0, warps := [0], shares := [(0, ⟨0, 0, 0, 0, 0, false, [], [], []⟩)] }

/-- The buffer 0 of block 3 is pending to core 0, whose warp 0 is parked for it; block 5 is listed before block 3. -/
def takerParked : State :=
  { State.reset with
    warps := [(0, takerWarp)]
    blocks := [(5, sharingBlock), (3, sharingBlock)]
    buffers := [⟨0, none, 0, 3, []⟩] }

/-- The resume lists block 3 a second time, before block 5. -/
theorem takerParked_lists {u : State} (h : exec (.btakeResume 0 1) takerParked = .next u) :
    u.blocks ≠ (takerParked.takeBuf 0 3 0 0 0 1).blocks := by
  have hp : (match exec (.btakeResume 0 1) takerParked with
    | .next t => decide (t.blocks ≠ (takerParked.takeBuf 0 3 0 0 0 1).blocks)
    | _ => false) = true := by decide +kernel
  rw [h] at hp
  exact of_decide_eq_true hp

/-- Refutes O28: BTAKE_RESUME is to leave the blocks as the taking of the buffer does, but as the gang goes on it empties the
shared cells that its word has read, which writes the entry of its block again; in a table of blocks that is out of its order
that is a second entry. -/
theorem not_bufferWords : ¬ Obligations.BufferWords := by
  rintro ⟨-, h⟩
  obtain ⟨u, hu, hp⟩ := h 0 1 0 0 takerParked (by decide +kernel) (by decide +kernel)
    (by
      intro x hx _ _
      obtain rfl := List.mem_singleton.mp hx
      decide +kernel)
    (by
      intro g hg
      obtain rfl := Option.some.inj hg
      rfl)
  rw [if_pos (by decide +kernel)] at hp
  obtain ⟨-, -, -, hblocks⟩ := hp
  exact takerParked_lists hu hblocks

end Sys2Proof.Proofs
end

section
/-! PROOFS. Copy words: a copy that passes its checks enters its queue, or its lanes park until it can (R244, R250, R289 to
R294). -/

namespace Sys2Proof.Machine

/-! ### Lanes that park with a request -/

/-- The issuing warp once the lanes of m have parked with a request. -/
def State.readingWarp (s : State) (m : BitVec 32) (h : Hdr) (r : Req) (reads : List Nat) : Warp :=
  { s.wp.updLanes m (fun _ L => L.parkAt (.gang s.uid) (afterWord h s.cur.pc) (safeTag h)) with
    gangs := tset s.wp.gangs s.uid ⟨m, r, s.cur.pc, s.cyc, reads⟩ }

theorem parkReading_spec {s : State} (hw : (tget s.warps s.w).isSome) (m : BitVec 32) (h : Hdr) (r : Req) (reads : List Nat) :
    let p := s.parkReading m h r reads
    p = { s with warps := p.warps, uid := s.uid + 1 } ∧ (tget p.warps s.w).isSome ∧
      p.warp s.w = s.readingWarp m h r reads ∧ ∀ v, v ≠ s.w → p.warp v = s.warp v := by
  let g : Warp → Warp := fun W => { W with gangs := tset W.gangs s.uid ⟨m, r, s.cur.pc, s.cyc, reads⟩ }
  have hlanes := warp_updWarp_self { s with uid := s.uid + 1 }
    (·.updLanes m (fun _ L => L.parkAt (.gang s.uid) (afterWord h s.cur.pc) (safeTag h))) hw
  exact ⟨rfl, (isSome_updWarp _ _ _ _).trans ((isSome_updWarp _ _ _ _).trans hw),
    (warp_updWarp_self _ g ((isSome_updWarp _ _ _ _).trans hw)).trans (congrArg g hlanes),
    fun v hv => (warp_updWarp_ne _ _ hv).trans (warp_updWarp_ne _ _ hv)⟩

section
variable {s : State} {m : BitVec 32} (hi : s.Issues) (hm : ∀ l, m.getLsbD l = true → s.cur.lanes.getLsbD l = true)
include hi hm

theorem readingWarp_lane (h : Hdr) (r : Req) (reads : List Nat) (l : Nat) : (s.readingWarp m h r reads).lane l =
    if m.getLsbD l = true then (s.wp.lane l).parkAt (.gang s.uid) (afterWord h s.cur.pc) (safeTag h) else s.wp.lane l :=
  (lane_updLanes s.wp m (fun _ L => L.parkAt (.gang s.uid) (afterWord h s.cur.pc) (safeTag h)) l).trans
    (if_congr ⟨And.left, fun e => ⟨e, isSome_of_ready (hi.ready l (hm l e))⟩⟩ rfl rfl)

/-- Lanes of a gang park with a request and the rest of it goes on (R117): no register and no other warp has changed. -/
theorem parkReading_parks {h : Hdr} (hq : s.wp.Quiet) (hu : s.Unheld h) (r : Req) (reads : List Nat) :
    Claims.GangParks s ((s.parkReading m h r reads).finish h) h m r := by
  obtain ⟨hrest, hlisted, hself, hothers⟩ := parkReading_spec hi.warp m h r reads
  generalize s.parkReading m h r reads = p at hrest hlisted hself hothers ⊢
  have hcur : p.cur = s.cur := by rw [hrest]
  have hw : p.w = s.w := congrArg Issue.warp hcur
  have hwp : p.wp = s.readingWarp m h r reads := (congrArg p.warp hw).trans hself
  obtain ⟨ho, hl⟩ := finish_ready (s := p) (h := h) (by rw [hw]; exact hlisted) (by rw [hwp]; exact ⟨hq.longs, hq.late⟩)
    (by unfold State.Unheld; rw [hwp, hrest]; exact hu)
  have hstay : ∀ l, m.getLsbD l = true → ((p.finish h).warp p.w).lane l = p.wp.lane l := fun l hlm => by
    rw [hl]
    refine if_neg fun e => ?_
    have hon := e.1
    rw [BitVec.getLsbD_and, Bool.and_eq_true, hwp] at hon
    have hoff := (mask_updLanes_off s.wp m
      (f := fun _ L => L.parkAt (.gang s.uid) (afterWord h s.cur.pc) (safeTag h)) (p := Lane.ready)
      (fun l L => by simp [Lane.parkAt, Lane.ready, Park.on]) l).mp hon.1
    rw [hoff.1] at hlm
    cases hlm
  have hreads : ∀ x, (p.finish h).reads s.w x = s.reads s.w x := fun x => by
    refine (onlyLanes_reads ho (fun l => by rw [hl]; split_ifs <;> rfl) s.w x).trans
      (reads_congr (by rw [hrest]) ?_ ?_ (fun l => ?_) x)
    · rw [hself]; rfl
    · rw [hself]; rfl
    · rw [hself, readingWarp_lane hi hm]
      split_ifs <;> rfl
  have hwarp := ho.warp
  rw [hw, hwp] at hstay hwarp
  refine ⟨⟨s.uid, reads, ?_, fun l hlm => ⟨?_, ?_, ?_, fun r => hreads _⟩⟩, hreads, fun v hv => ?_, ?_⟩
  · rw [hwarp]; exact tget_tset_self _ _ _
  iterate 3
    rw [hstay l hlm, readingWarp_lane hi hm, if_pos hlm]
    rfl
  · rw [ho.others v (by rw [hw]; exact hv), hothers v hv]
  · rw [ho.rest, hrest]

end

/-! ### A copy that enters its queue -/

/-- Gated banks that begin to wake leave the overflow areas of the records where they are (R169, R244). -/
theorem futArea_rouseRange (s : State) (key n d : Nat) : ((s.rouseRange key n).die d).futArea = (s.die d).futArea := by
  unfold State.rouseRange
  split_ifs
  · rfl
  · dsimp only
    generalize (s.die _).gated.filter _ = gs
    induction gs generalizing s with
    | nil => rfl
    | cons g gs ih =>
      rw [List.foldl_cons, ih, die_updDie]
      split_ifs with e
      · rw [e]
      · rfl

theorem futScan_congr {s t : State} (hf : t.futs = s.futs) (ha : ∀ d, (t.die d).futArea = (s.die d).futArea) (die n i : Nat) :
    t.futScan die n i = s.futScan die n i := by
  induction n generalizing i with
  | zero => rfl
  | succ n ih =>
    have hfut : ∀ f, t.fut f = s.fut f := fun f => by unfold State.fut; rw [hf]
    have hlimit : t.futLimit die = s.futLimit die := by unfold State.futLimit; rw [ha]
    unfold State.futScan
    rw [hlimit, hfut, ih]

theorem futFind_congr {s t : State} (hf : t.futs = s.futs) (ha : ∀ d, (t.die d).futArea = (s.die d).futArea) (die : Nat) :
    t.futFind die = s.futFind die := by
  unfold State.futFind
  rw [hf, futScan_congr hf ha]

/-- The gated banks that a copy uses begin to wake (R169). -/
def State.roused (s : State) (c : Copy) : State := c.chipRanges.foldl (fun s r => s.rouseRange r.1 r.2) s

theorem roused_onlyDies (s : State) (c : Copy) : s.OnlyDies (s.roused c) :=
  onlyDies_foldl (f := fun (s : State) (r : Nat × Nat) => s.rouseRange r.1 r.2)
    (fun s r => rouseRange_onlyDies s r.1 r.2) c.chipRanges s

theorem futArea_roused (s : State) (c : Copy) (d : Nat) : ((s.roused c).die d).futArea = (s.die d).futArea := by
  unfold State.roused
  induction c.chipRanges generalizing s with
  | nil => rfl
  | cons r rs ih => rw [List.foldl_cons, ih, futArea_rouseRange]

/-- A copy as its queue holds it: with its number, its record, and what its lanes release (R197, R294). -/
def Copy.queued (c : Copy) (s : State) (f : Nat) : Copy :=
  { c with seq := s.uid, fut := f, waits := s.releases c.warp (lanesOf c.lanes) }

/-- The state once a copy has taken its entry and its record, before its handle is written (R244, R250, R294). -/
def State.withCopy (s : State) (c : Copy) (f : Nat) : State :=
  { s with
    dies := (s.roused c).dies
    uid := s.uid + 1
    futs := tmod s.futs f {} (fun r => { r with st := .run, count := 1, value := 0, kind := .copy, op := s.uid })
    copies := tset s.copies s.uid (c.queued s f)
    absent := c.lines ++ s.absent.filter (fun l => !c.lines.contains l)
    warps := tupd s.warps c.warp (fun W => { W with refs := W.refs ++ [(f, true, c.lanes)] }) }

/-- A copy with a record to take enters its queue, and its handle is written (R294). -/
theorem copyEnter_eq {s : State} {c : Copy} {f : Nat} (ha : c.atoms = []) (hf : s.futFind (dieOf c.core) = some f)
    (dst : Nat) : s.copyEnter c dst =
      (s.withCopy c f).writeTarget c.warp (.uni dst) ⟨futHandle f (s.fut f).gen, false⟩ := by
  have hd := roused_onlyDies s c
  have hfind : (s.roused c).futFind (dieOf c.core) = some f :=
    (futFind_congr (by rw [hd]) (futArea_roused s c) _).trans hf
  unfold State.copyEnter
  extract_lets c' x
  have hx : x = s.roused c := rfl
  have hnext : State.futFind { x with uid := x.uid + 1 } (dieOf c.core) = some f :=
    (futFind_congr (by rfl) (fun _ => by rfl) _).trans (hx ▸ hfind)
  clear_value x
  have hatoms : (!c'.atoms.isEmpty) = false := by
    rw [show c'.atoms = [] from ha]
    rfl
  have hx' : x = { s with dies := (s.roused c).dies } := hx.trans hd
  have hgen : ((State.futTake { x with uid := x.uid + 1 } f .copy x.uid).fut f).gen = (s.fut f).gen :=
    (congrArg Fut.gen (fut_updFut_self _ f _)).trans (by rw [hx']; rfl)
  simp only [State.take, hatoms, Bool.false_eq_true, if_false, show dieOf c'.core = dieOf c.core from rfl, hnext, hgen]
  rw [hx']
  rfl

/-- The gang of a copy stands as it stood once the copy has taken its entry. -/
theorem withCopy_staged {s : State} {c : Copy} (hi : s.Issues) (hw : c.warp = s.w) (f : Nat) : s.Staged (s.withCopy c f) where
  cur := rfl
  listed := by
    rw [← hw]
    exact (isSome_updWarp s _ _ _).trans (hw ▸ hi.warp)
  others v hv := warp_updWarp_ne s _ (hw ▸ hv)
  warp := by
    rw [show (s.withCopy c f).warp s.w = (s.updWarp c.warp _).warp s.w from rfl, hw, warp_updWarp_self s _ hi.warp]
    rfl
  shares _ := rfl
  clock := ⟨rfl, rfl, rfl⟩

theorem withCopy_fut (s : State) (c : Copy) (f : Nat) : (s.withCopy c f).fut f =
    { s.fut f with st := .run, count := 1, value := 0, kind := .copy, op := s.uid } := fut_updFut_self s f _

/-- Every line that a copy will write is absent once the copy has taken its entry (R176). -/
theorem withCopy_absent (s : State) {c : Copy} (f : Nat) {k j : Nat} (hd : c.dst = .chip k) (hj : j < c.total) :
    (s.withCopy c f).lineAbsent ((k + j) / 64) = true := by
  have hin : (k + j) / 64 ∈ c.lines := by
    unfold Copy.lines linesIn
    rw [hd]
    exact List.mem_map.mpr ⟨(k + j) / 64 - k / 64, List.mem_range.mpr (by omega), by omega⟩
  exact List.contains_iff_mem.mpr (List.mem_append.mpr (.inl hin))

end Sys2Proof.Machine

namespace Sys2Proof.Proofs

open Sys2Proof.Machine Sys2Proof.Claims

/-! ### The copy words -/

theorem admitWhole_eq {s : State} {h : Hdr} {u : Uses} {m : BitVec 32} (a : s.Acts h u m)
    (k : State → BitVec 32 → State) : s.admitWhole h u k = k s m :=
  admitAs_eq a _ false (by simp) k

/-- The addresses that a gather or scatter reads from its lanes are clean, and those of its descriptor (R290). -/
theorem laneVals_desc {t : Tri} {s : State} {m : BitVec 32} {form : Nat} (hq : s.wp.Quiet)
    (hd : lists form = true → CleanData s m t.b.toNat 2) :
    ∃ vs, (if lists form = true then s.laneVals m 2 t.b.toNat 16 else ([], false)) = (vs, false) ∧
      (if lists form = true then (lanesOf m).map (fun l => (valOf vs l).toNat) else []) = (descOf s t form m).vas := by
  cases hl : lists form with
  | false => exact ⟨[], rfl, by rw [descOf, hl]; rfl⟩
  | true =>
    refine ⟨_, laneVals_clean hq (by omega) (hd hl) 16, ?_⟩
    rw [descOf, hl]
    exact List.map_congr_left fun l h => by rw [valOf_map h]

/-- A copy word that passes its checks goes on with its copy (R289, R293). -/
theorem xferWord_issues {t : Tri} {form : Nat} {s : State} {m : BitVec 32} {d : Desc} {c : Copy}
    (a : s.Acts t.h ⟨if lists form then [(t.b.toNat, 2)] else [], [], false⟩ m) (hprot : s.prot = false)
    (hshadow : ∀ l, m.getLsbD l = true → (s.wp.lane l).shadow = false)
    (hd : d = descOf s t form m) (hc : c = copyOf s d m)
    (hclean : ∀ k, k < 8 → (s.reads s.w (.uni (t.a.toNat + k))).bad = false)
    (hdata : lists form = true → CleanData s m t.b.toNat 2)
    (hdesc : s.badDesc t d = false) (hfill : s.badFill d = false) (hsides : (s.sides d).1 = [])
    (hbar : d.ctl 23 1 = 1 → d.ctl 24 3 = 2 → (s.reads s.w (.uni t.c.toNat)).bad = false ∧ s.committing s.w = false ∧
      s.handleOk s.w (s.reads s.w (.uni t.c.toNat)).val = true)
    (hover : s.overlap c = none) (hrefs : s.wp.refs.length < 4096) :
    s.xferWord t form = s.copyIssue t.h c t.d.toNat (regsOf (if lists form then [(t.b.toNat, 2)] else [])) := by
  have hws : (List.range 8).map (fun k => s.readS s.w (t.a.toNat + k) k) =
      (List.range 8).map (fun k => s.reads s.w (.uni (t.a.toNat + k))) :=
    List.map_congr_left fun k _ => readS_quiet a.quiet _ _
  have hbad : ((List.range 8).map (fun k => s.reads s.w (.uni (t.a.toNat + k)))).any (·.bad) = false := by
    rw [List.any_map, List.any_eq_false]
    exact fun k hk => by simpa using hclean k (List.mem_range.mp hk)
  have hvis : s.visible m = lanesOf m :=
    List.filter_eq_self.mpr fun l hl => by rw [hshadow l (mem_lanesOf.mp hl)]; rfl
  obtain ⟨vs, hvs, hvas⟩ := laneVals_desc a.quiet hdata
  have hh : s.readS s.w t.c.toNat 16 = s.reads s.w (.uni t.c.toNat) := readS_quiet a.quiet _ _
  have hlists : (form == 3 || form == 4) = lists form := rfl
  unfold State.xferWord
  rw [admitWhole_eq (by rw [hlists]; exact a)]
  simp only [hws, hbad, hvis, hlists, hvs, hh]
  have hdd : (⟨form, ((List.range 8).map (fun k => s.reads s.w (.uni (t.a.toNat + k)))).map (·.val),
      (descOf s t form m).vas⟩ : Desc) = d := by rw [hd]; simp [descOf]
  have hcopy : (⟨s.wp.core, if (d.ctl 27 1 == 1) = true then d.ctl 28 4 else schedOf s.wp.slot, 0, s.wp.vi, s.wp.grid,
      s.wp.block, s.w, m, (s.sides d).2.1, (s.sides d).2.2, d.total, s.fillOf d, 0, [], [], 0, s.descBar d, s.cur.pc, [], 0,
      false, false, [], false, false, 0, [], []⟩ : Copy) = c := by
    rw [hc]
    simp only [copyOf, beq_iff_eq]
  rw [hvas, hdd, hcopy]
  obtain ⟨h1, h2, h3⟩ : (d.ctl 23 1 == 1 && d.ctl 24 3 == 2 && (s.reads s.w (.uni t.c.toNat)).bad) = false ∧
      (d.ctl 23 1 == 1 && d.ctl 24 3 == 2 && s.committing s.w) = false ∧
      (d.ctl 23 1 == 1 && d.ctl 24 3 == 2 && !s.handleOk s.w (s.reads s.w (.uni t.c.toNat)).val) = false := by
    by_cases hn : d.ctl 23 1 = 1 ∧ d.ctl 24 3 = 2
    · obtain ⟨g1, g2, g3⟩ := hbar hn.1 hn.2
      simp [g1, g2, g3]
    · simp [hn]
  have hroom : s.refsFull s.w 1 = false := by
    rw [State.refsFull, decide_eq_false_iff_not]
    exact Nat.not_lt.mpr hrefs
  simp only [hdesc, hfill, hsides, hover, hroom, h1, h2, h3, check, Bool.or_false, Option.isSome_none, Bool.false_eq_true,
    if_false, List.append_nil, firstFail, List.foldl_nil, Option.isNone_none, Bool.true_and, State.passing]
  exact compare_agree (mismatch_unprotected hprot m _) _

theorem copyForm_exec {i : Instr} {t : Tri} {form : Nat} (h : copyForm i = some (t, form)) (s : State) :
    exec i s = .next (s.xferWord t form) := by
  unfold copyForm at h
  split at h <;> cases h <;> rfl

/-- A copy with an entry and a record enters its queue (R244, R250, R294). -/
theorem copyIssue_enters {s : State} {h : Hdr} {u : Uses} {m : BitVec 32} (a : s.Acts h u m) (hu : s.Unheld h) {c : Copy}
    (hw : c.warp = s.w) (hatoms : c.atoms = []) (hused : s.queueUsed c.core c.queue < 32) {f : Nat}
    (hf : s.futFind (dieOf c.core) = some f) (dst : Nat) (rs : List Nat) :
    let x := s.copyIssue h c dst rs
    x = { s.withCopy c f with warps := x.warps } ∧ Steps s x h [.uni dst] ∧
      x.reads s.w (.uni dst) = ⟨futHandle f (s.fut f).gen, false⟩ ∧ (x.warp s.w).refs = s.wp.refs ++ [(f, true, c.lanes)] := by
  have hready : s.copyReady c = true := by simp [State.copyReady, hused, hf]
  have e : s.copyIssue h c dst rs =
      ((s.withCopy c f).writeTarget s.w (.uni dst) ⟨futHandle f (s.fut f).gen, false⟩).finish h := by
    unfold State.copyIssue
    rw [if_pos hready, emptyCells_alone a.alone, copyEnter_eq hatoms hf, hw]
  dsimp only
  rw [e]
  have k := withCopy_staged a.toIssues hw f
  obtain ⟨h1, h2, h3⟩ := k.writeUni a.toIssues a.quiet a.alone hu dst ⟨futHandle f (s.fut f).gen, false⟩
  obtain ⟨hdone, -⟩ := writeUni_completed (k.issues a.toIssues) (k.quiet a.quiet) (k.alone a.alone) (k.unheld hu) dst
    ⟨futHandle f (s.fut f).gen, false⟩
  have hrest := hdone.warp
  rw [k.w] at hrest
  refine ⟨h1, h2, h3, (congrArg Warp.refs hrest :).trans ?_⟩
  rw [show (s.withCopy c f).warp s.w = (s.updWarp c.warp _).warp s.w from rfl, hw, warp_updWarp_self s _ a.warp]
  rfl

/-- A copy for which an entry or a record lacks parks its lanes (R244, R250). -/
theorem copyIssue_parks {s : State} {h : Hdr} {u : Uses} {m : BitVec 32} (a : s.Acts h u m) (hu : s.Unheld h) {c : Copy}
    (hm : c.lanes = m) (hatoms : c.atoms = [])
    (hfull : ¬ (s.queueUsed c.core c.queue < 32 ∧ (s.futFind (dieOf c.core)).isSome)) (dst : Nat) (rs : List Nat) :
    GangParks s (s.copyIssue h c dst rs) h m (.copyRoom c dst) := by
  have hready : ¬ s.copyReady c = true := by simpa [State.copyReady, hatoms] using hfull
  unfold State.copyIssue
  rw [if_neg hready, hm]
  exact parkReading_parks a.toIssues (fun l hl => a.inGang hl) a.quiet hu _ _

/-- Settles O33: the word's checks pass, so that its copy takes the entry and the record that are free, or its lanes park. -/
theorem copyWords : Obligations.CopyWords := by
  intro i t form f s m d c hi _ a hu hprot hshadow hd hc hclean hdata hdesc hfill hsides hbar hover hrefs
  have hex : exec i s = .next (s.copyIssue t.h c t.d.toNat (regsOf (if lists form then [(t.b.toNat, 2)] else []))) := by
    rw [copyForm_exec hi, xferWord_issues a hprot hshadow hd hc hclean hdata hdesc hfill hsides hbar hover hrefs]
  have hcw : c.warp = s.w ∧ c.lanes = m ∧ c.atoms = [] := by rw [hc]; exact ⟨rfl, rfl, rfl⟩
  obtain ⟨hw, hm, hatoms⟩ := hcw
  refine ⟨_, hex, ?_⟩
  generalize regsOf (if lists form then [(t.b.toNat, 2)] else []) = rs
  by_cases hroom : s.queueUsed c.core c.queue < 32 ∧ (s.futFind (dieOf c.core)).isSome
  · obtain ⟨hused, hsome⟩ := hroom
    obtain ⟨g, hg⟩ := Option.isSome_iff_exists.mp hsome
    obtain ⟨hrest, hsteps, hread, hrefs'⟩ := copyIssue_enters a hu hw hatoms hused hg t.d.toNat rs
    refine ⟨by rw [hrest]; rfl, ?_⟩
    split_ifs with hfree
    · obtain rfl : g = f := Option.some.inj (hg.symm.trans hfree.2)
      refine ⟨hsteps, ?_, ?_, ?_, hread, by rw [hrefs', hm], fun k n hk _ j hj hn => ?_⟩
      · rw [hrest, ← hw, ← hm]
        exact tget_tset_self _ _ _
      · rw [hrest]
        exact congrArg Fut.st (withCopy_fut s c g)
      · rw [hrest]
        exact congrArg Fut.count (withCopy_fut s c g)
      · rw [hrest, hn]
        exact withCopy_absent s g hk hj
    · intro hlack
      rw [hg] at hlack
      exact absurd hlack (by simp; omega)
  · have hp := copyIssue_parks a hu hm hatoms hroom t.d.toNat rs
    refine ⟨hp.mem, ?_⟩
    rw [if_neg fun h => hroom ⟨h.1, by rw [h.2]; rfl⟩]
    exact fun _ => hp

end Sys2Proof.Proofs
end

section
/-! PROOFS. The regrouping of clusters and the banks of the die scratchpad (R169, R186 to R188). -/

namespace Sys2Proof.Machine

/-! ### The moves of a proposal -/

/-- A move that Parallax may propose on a die (R186): a core of one cluster of a grid, drawn to another of the same grid at
least twice as strongly and by 64 more. -/
def State.Drawn (s : State) (die : Nat) (m : Regroup) : Prop :=
  ∃ g X Y c, X ∈ s.clustersOf die g ∧ Y ∈ s.clustersOf die g ∧ X.1 = m.x ∧ Y.1 = m.y ∧ X.1 ≠ Y.1 ∧
    m.core = die * 96 + c ∧ c < 96 ∧ c ∈ X.2 ∧ 2 ≤ X.2.length ∧ Y.2.length ≤ 15 ∧
    2 * (s.die die).pull c X.2 + 64 ≤ (s.die die).pull c Y.2

/-- No cluster is in two moves. -/
def Regroup.apart (p q : Regroup) : Prop := p.x ≠ q.x ∧ p.x ≠ q.y ∧ p.y ≠ q.x ∧ p.y ≠ q.y

/-- A proposal for a die (R186). -/
def State.Proposed (s : State) (die : Nat) (ms : List Regroup) : Prop :=
  (∀ m ∈ ms, s.Drawn die m) ∧ ms.Pairwise Regroup.apart

/-- One core of one cluster adds at most one move (R186). -/
theorem propose_proposed {s : State} {die g c : Nat} {X : Nat × List Nat} {ms : List Regroup} (hc : c < 96)
    (hX : X ∈ s.clustersOf die g) (hin : c ∈ X.2) (hms : s.Proposed die ms) :
    s.Proposed die ((s.die die).propose die (s.clustersOf die g) ms c X) := by
  unfold Die.propose
  split
  · exact hms
  · next Y hY =>
    obtain ⟨hYin, hne⟩ := List.mem_filter.mp (mem_of_firstBy hY)
    dsimp only
    split_ifs with hgo
    · simp only [Bool.and_eq_true, decide_eq_true_eq, ge_iff_le, Bool.not_eq_true', List.any_eq_false, Bool.or_eq_true,
        beq_iff_eq, not_or] at hgo
      obtain ⟨⟨⟨⟨hpull, hroom⟩, htwo⟩, hx⟩, hy⟩ := hgo
      obtain ⟨hdrawn, hapart⟩ := hms
      refine ⟨fun m hm => ?_, List.pairwise_append.mpr ⟨hapart, List.pairwise_singleton _ _, fun p hp q hq => ?_⟩⟩
      · rcases List.mem_append.mp hm with h | h
        · exact hdrawn m h
        · obtain rfl := List.mem_singleton.mp h
          exact ⟨g, X, Y, c, hX, hYin, rfl, rfl, fun e => by simp [e] at hne, rfl, hc, hin, htwo, hroom, hpull⟩
      · obtain rfl := List.mem_singleton.mp hq
        exact ⟨(hx p hp).1, (hy p hp).1, (hx p hp).2, (hy p hp).2⟩
    · exact hms

/-- A fold whose steps keep a property keeps it. -/
theorem foldl_keeps {α β : Type} {P : β → Prop} {f : β → α → β} {xs : List α} (h : ∀ b, ∀ a ∈ xs, P b → P (f b a)) {b : β}
    (hb : P b) : P (xs.foldl f b) :=
  List.foldlRecOn xs f hb fun b hb a ha => h b a ha hb

theorem proposeGrid_proposed {s : State} {die g : Nat} {ms : List Regroup} (hms : s.Proposed die ms) :
    s.Proposed die (s.proposeGrid die ms g) := by
  unfold State.proposeGrid
  dsimp only
  split_ifs
  · exact hms
  · refine foldl_keeps (fun ms c hc h => foldl_keeps (fun ms X hX h => ?_) h) hms
    obtain ⟨hX, hin⟩ := List.mem_filter.mp hX
    exact propose_proposed (List.mem_range.mp hc) hX (List.contains_iff_mem.mp hin) h

/-- The moves that a die gets at the end of an interval (R186, R187). -/
def State.newMoves (s : State) (die : Nat) : List Regroup :=
  (((s.grids.filter (fun g => !g.2.done)).map (·.1)).foldl (s.proposeGrid die) []).map s.signMove

theorem newMoves_proposed (s : State) (die : Nat) : s.Proposed die (s.newMoves die) := by
  obtain ⟨hdrawn, hapart⟩ : s.Proposed die (((s.grids.filter (fun g => !g.2.done)).map (·.1)).foldl (s.proposeGrid die) []) :=
    foldl_keeps (fun ms g _ h => proposeGrid_proposed h) ⟨by simp, .nil⟩
  refine ⟨fun m hm => ?_, List.pairwise_map.mpr hapart⟩
  obtain ⟨n, hn, rfl⟩ := List.mem_map.mp hm
  exact hdrawn n hn

/-- The end of an interval for a die (R187). -/
def State.closeInterval (s t : State) (die : Nat) : State :=
  if (s.die die).scores.isEmpty && (s.die die).moves.isEmpty && (s.newMoves die).isEmpty then t
  else t.updDie die (fun d => { d with scores := [], moves := (s.newMoves die).zipIdx.map (fun m => (m.2, m.1)) })

theorem closeInterval_die (s t : State) (die d : Nat) (h : t.die die = s.die die) : (s.closeInterval t die).die d =
    if d = die then
      { s.die die with scores := [], moves := (s.newMoves die).zipIdx.map (fun m => (m.2, m.1)) }
    else t.die d := by
  unfold State.closeInterval
  split_ifs with hnone hd hd
  · simp only [Bool.and_eq_true, List.isEmpty_iff] at hnone
    obtain ⟨⟨hs, hm⟩, hn⟩ := hnone
    rw [hd, hn, h]
    conv_lhs => rw [show s.die die = { s.die die with scores := (s.die die).scores, moves := (s.die die).moves } from rfl]
    rw [hs, hm]
    rfl
  · rfl
  · rw [hd, die_updDie_self, h]
  · rw [die_updDie, if_neg hd]

/-- The end of an interval for some dies, each of which it reaches once. -/
theorem closeIntervals_die {s : State} {ds : List Nat} (hn : ds.Nodup) (t : State) (h : ∀ d ∈ ds, t.die d = s.die d) :
    s.OnlyDies t → s.OnlyDies (ds.foldl s.closeInterval t) ∧ ∀ d, (ds.foldl s.closeInterval t).die d =
      if d ∈ ds then { s.die d with scores := [], moves := (s.newMoves d).zipIdx.map (fun m => (m.2, m.1)) } else t.die d := by
  induction ds generalizing t with
  | nil => exact fun ho => ⟨ho, fun d => rfl⟩
  | cons a ds ih =>
    intro ho
    obtain ⟨ha, hn⟩ := List.nodup_cons.mp hn
    have hstep := closeInterval_die s t a (h := h a List.mem_cons_self)
    have honly : t.OnlyDies (s.closeInterval t a) := by
      unfold State.closeInterval
      split_ifs
      · exact .refl t
      · exact onlyDies_updDie t _ _
    obtain ⟨h1, h2⟩ := ih hn (s.closeInterval t a) (fun d hd => by
      rw [hstep, if_neg (fun e : d = a => ha (e ▸ hd))]
      exact h d (List.mem_cons_of_mem _ hd)) (ho.trans honly)
    refine ⟨h1, fun d => (h2 d).trans ?_⟩
    rw [hstep]
    by_cases e : d = a
    · subst e
      rw [if_neg ha, if_pos rfl, if_pos List.mem_cons_self]
    · simp [e]

/-! ### Words that waited for a commit -/

/-- From s to t only warps have changed, and a lane that is parked was so, as it is. -/
structure State.Unparks (s t : State) : Prop where
  rest : t = { s with warps := t.warps }
  parked : ∀ v, ∀ x ∈ (t.warp v).lanes, x.2.park ≠ .no → x ∈ (s.warp v).lanes

theorem State.Unparks.refl (s : State) : s.Unparks s := ⟨rfl, fun _ _ hx _ => hx⟩

theorem State.Unparks.trans {s t u : State} (h : s.Unparks t) (k : t.Unparks u) : s.Unparks u where
  rest := by rw [k.rest, h.rest]
  parked v x hx hp := h.parked v x (k.parked v x hx hp) hp

theorem State.Unparks.foldl {α : Type} {f : State → α → State} (h : ∀ (s : State) a, s.Unparks (f s a)) (xs : List α)
    (s : State) : s.Unparks (xs.foldl f s) := by
  induction xs generalizing s with
  | nil => exact .refl s
  | cons a xs ih => exact (h s a).trans (ih _)

/-- Where no notice has arrived, none has after lanes have gone on (R257). -/
theorem State.Unparks.noNotice {s t : State} (h : s.Unparks t) {v : Nat} (hn : Claims.NoNotice s v) :
    Claims.NoNotice t v := by
  intro x hx ha hp
  have hd : t.laneDoomed x.2 = s.laneDoomed x.2 := by rw [h.rest]; rfl
  rw [hd]
  exact hn x (h.parked v x hx hp) ha hp

theorem unparks_updWarp (s : State) (w : Nat) {f : Warp → Warp}
    (hf : ∀ W, ∀ x ∈ (f W).lanes, x.2.park ≠ .no → x ∈ W.lanes) : s.Unparks (s.updWarp w f) where
  rest := rfl
  parked v x hx hp := by
    rw [warp_updWarp] at hx
    split_ifs at hx with h
    · obtain ⟨rfl, -⟩ := h
      exact hf _ x hx hp
    · exact hx

theorem mem_of_mem_tset {α : Type} {t : Table α} {i : Nat} {a : α} {x : Nat × α} (h : x ∈ tset t i a) :
    x = (i, a) ∨ x ∈ t := by
  induction t with
  | nil => exact .inl (List.mem_singleton.mp h)
  | cons p t ih =>
    obtain ⟨k, v⟩ := p
    unfold tset at h
    split_ifs at h
    · exact (List.mem_cons.mp h).imp id (List.mem_cons_of_mem _)
    · exact (List.mem_cons.mp h)
    · rcases List.mem_cons.mp h with h | h
      · exact .inr (h ▸ List.mem_cons_self)
      · exact (ih h).imp id (List.mem_cons_of_mem _)

theorem retry_unparks (s : State) (w l : Nat) : s.Unparks (s.retry w l) :=
  unparks_updWarp s w fun W x hx hp => by
    rcases mem_of_mem_tset hx with rfl | h
    · exact absurd rfl hp
    · exact h

theorem retryGang_unparks (s : State) (w id : Nat) : s.Unparks (s.retryGang w id) :=
  (unparks_updWarp s w (f := fun W => { W with gangs := tdel W.gangs id }) fun _ _ hx _ => hx).trans
    (.foldl (fun s l => retry_unparks s w l) _ _)

/-- Words that waited for a commit are issued again (R188). -/
theorem retryCommit_unparks {s : State} {w : Nat} (hn : Claims.NoNotice s w) : s.Unparks (s.retryCommit w) := by
  unfold State.retryCommit
  rw [sweep_unnoticed hn]
  exact .foldl (f := fun (s : State) (g : Nat × Gang) => s.retryGang w g.1) (fun s g => retryGang_unparks s w g.1) _ s

theorem retryCommits_unparks {s : State} {ws : List Nat} (hn : ∀ w ∈ ws, Claims.NoNotice s w) :
    s.Unparks (ws.foldl State.retryCommit s) := by
  induction ws generalizing s with
  | nil => exact .refl s
  | cons w ws ih =>
    have h := retryCommit_unparks (hn w List.mem_cons_self)
    exact h.trans (ih fun v hv => h.noNotice (hn v (List.mem_cons_of_mem _ hv)))

/-! ### The end of a commit -/

/-- A block after a move (R188, step 2). -/
def Block.moved (B : Block) (r : Regroup) : Block :=
  if B.live && !B.wave && B.core == r.core && B.cid == r.x && B.serial == r.xs then { B with cid := r.y, serial := r.ys } else B

theorem moveBlocks_block (s : State) (die : Nat) (r : Regroup) (b : Nat) :
    tget (s.moveBlocks die r).blocks b = (tget s.blocks b).map (·.moved r) :=
  tget_tmap s.blocks (fun _ B => B.moved r) b

theorem moveBlocks_die (s : State) (die : Nat) (r : Regroup) (d : Nat) : (s.moveBlocks die r).die d = s.die d := rfl

/-- The second cluster of a move is in its next generation. -/
theorem moveBlocks_gen {s : State} {die : Nat} {r : Regroup} (hxy : clusterNo die r.y ≠ clusterNo die r.x) :
    ((s.moveBlocks die r).cluster (clusterNo die r.y)).gen = (s.cluster (clusterNo die r.y)).gen + 1 := by
  refine (congrArg Cluster.gen (cluster_updCluster_self _ (clusterNo die r.y) _)).trans ?_
  exact congrArg (fun k : Cluster => k.gen + 1)
    ((cluster_updCluster _ (clusterNo die r.x) (clusterNo die r.y) _).trans (if_neg hxy))

/-- The commit of a move has ended, before its clusters are looked at (R188): the move is under way no more, and when its two
clusters are still those that it was proposed for, the blocks of its core have moved. -/
def State.commitEnded (s : State) (die : Nat) (r : Regroup) : State :=
  let s' := s.updDie die (fun d => { d with commit := d.commit.filter (· != r) })
  if s'.moveStands die r = true then
    (State.moveBlocks { s' with uid := s.uid + 1 } die r).updDie die (fun d => { d with commits := d.commits ++
      [(r.began, s.uid, ((s.cluster (clusterNo die r.x)).members ++ (s.cluster (clusterNo die r.y)).members).map
        (· + die * 96))] })
  else s'

section
variable (s : State) (die : Nat) (r : Regroup)

theorem commitEnded_rest : s.commitEnded die r = { s with
    dies := (s.commitEnded die r).dies, uid := (s.commitEnded die r).uid
    blocks := (s.commitEnded die r).blocks, clusters := (s.commitEnded die r).clusters } := by
  unfold State.commitEnded
  dsimp only
  split_ifs <;> rfl

theorem commitEnded_commit : ((s.commitEnded die r).die die).commit = (s.die die).commit.filter (· != r) := by
  have h := die_updDie_self s die (fun d => { d with commit := d.commit.filter (· != r) })
  unfold State.commitEnded
  dsimp only
  split_ifs
  · rw [die_updDie_self]
    exact congrArg Die.commit h
  · rw [h]

/-- The blocks of the core move from the one cluster to the other (R188, step 2). -/
theorem commitEnded_block {b : Nat} {B : Block} (hb : tget s.blocks b = some B) : tget (s.commitEnded die r).blocks b = some
    (if (s.updDie die (fun d => { d with commit := d.commit.filter (· != r) })).moveStands die r = true ∧ B.live = true ∧
        B.wave = false ∧ B.core = r.core ∧ B.cid = r.x ∧ B.serial = r.xs then { B with cid := r.y, serial := r.ys } else B) := by
  unfold State.commitEnded
  dsimp only
  by_cases hm : (s.updDie die (fun d => { d with commit := d.commit.filter (· != r) })).moveStands die r = true
  · rw [if_pos hm]
    refine (moveBlocks_block _ die r b).trans ?_
    rw [show State.blocks { s.updDie die _ with uid := s.uid + 1 } = s.blocks from rfl, hb]
    simp [hm, and_assoc, Block.moved]
  · rw [if_neg hm, if_neg (fun e => hm e.1)]
    exact hb

/-- A move whose two clusters still stand brings a generation of the second and is kept as ended (R181, R188, R205). -/
theorem commitEnded_moved (hxy : clusterNo die r.y ≠ clusterNo die r.x)
    (hm : (s.updDie die (fun d => { d with commit := d.commit.filter (· != r) })).moveStands die r = true) :
    ((s.commitEnded die r).cluster (clusterNo die r.y)).gen = (s.cluster (clusterNo die r.y)).gen + 1 ∧
      ((s.commitEnded die r).die die).commits = (s.die die).commits ++
        [(r.began, s.uid, ((s.cluster (clusterNo die r.x)).members ++ (s.cluster (clusterNo die r.y)).members).map
          (· + die * 96))] := by
  unfold State.commitEnded
  dsimp only
  rw [if_pos hm, die_updDie_self]
  refine ⟨?_, ?_⟩
  · exact moveBlocks_gen hxy
  · have h := die_updDie_self s die (fun d => { d with commit := d.commit.filter (· != r) })
    rw [moveBlocks_die, show State.die { s.updDie die _ with uid := s.uid + 1 } die = (s.updDie die _).die die from rfl, h]

end

/-- A cluster that ends frees its barriers (R181, R230); nothing else changes but the cluster. -/
theorem clusterCheck_rest (s : State) (c : Nat) :
    s.clusterCheck c = { s with bars := (s.clusterCheck c).bars, clusters := (s.clusterCheck c).clusters } := by
  unfold State.clusterCheck
  dsimp only
  split_ifs <;> rfl

theorem clusterCheck_cluster {s : State} {c d : Nat} (h : d ≠ c) : (s.clusterCheck c).cluster d = s.cluster d := by
  unfold State.clusterCheck
  dsimp only
  split_ifs
  · rfl
  · exact (cluster_updCluster _ _ _ _).trans (if_neg h)

end Sys2Proof.Machine

namespace Sys2Proof.Proofs

open Sys2Proof.Machine Sys2Proof.Claims

/-- The end of an interval: each die's scores are cleared and its moves are those of the new proposal (R186, R187). -/
theorem intervalClause_holds : intervalClause := by
  intro s
  by_cases hdue : s.fabric / 65536 ≤ s.interval
  · refine ⟨s, ?_, ?_⟩
    · show execParallaxIntervalEnd s = _
      unfold execParallaxIntervalEnd
      rw [if_pos hdue]
    · rw [if_pos hdue]
  · obtain ⟨hrest, hdie⟩ := closeIntervals_die (s := s) (List.nodup_range (n := 4)) s (fun _ _ => rfl) (.refl s)
    refine ⟨{ (List.range 4).foldl s.closeInterval s with interval := s.interval + 1 }, ?_, ?_⟩
    · show execParallaxIntervalEnd s = _
      unfold execParallaxIntervalEnd
      rw [if_neg hdue]
      rfl
    · rw [if_neg hdue]
      refine ⟨by rw [hrest], fun d hd => ?_⟩
      have e := hdie d
      rw [if_pos (List.mem_range.mpr hd)] at e
      obtain ⟨hdrawn, hapart⟩ := newMoves_proposed s d
      rw [show State.die { (List.range 4).foldl s.closeInterval s with interval := s.interval + 1 } d = _ from e]
      refine ⟨rfl, rfl, fun p hp => ?_, List.pairwise_map.mpr ?_⟩
      · obtain ⟨m, hm, rfl⟩ := List.mem_map.mp hp
        exact hdrawn m.1 (List.fst_mem_of_mem_zipIdx hm)
      · rw [← List.zipIdx_map_fst 0 (s.newMoves d)] at hapart
        exact List.pairwise_map.mp hapart

/-! ### Banks -/

/-- The bytes of a range taken out of a list of cells read as zero (R169). -/
theorem cellGet_filter (m : List Host.Cell) (q : Nat → Bool) (k : Nat) :
    cellGet (m.filter (fun c => q c.1)) k = if q k then cellGet m k else 0 := by
  induction m with
  | nil => simp [cellGet, emptyByte]
  | cons c m ih =>
    obtain ⟨a, v⟩ := c
    by_cases ha : a = k
    · subst ha
      cases hq : q a with
      | true => simp [hq, cellGet]
      | false => simp [hq, ih]
    · cases hq : q a with
      | true => simp [hq, cellGet, ha, ih]
      | false => simp [hq, cellGet, ha, ih]

/-- A bank wakes; a bank in which nothing lives is gated (R169). -/
theorem bankClause_holds : bankClause := by
  refine ⟨fun die base s => ?_, fun die base len s hdie hlen htop hbase hmod hgated hwaking => ?_⟩
  · by_cases hnone : (s.die die).waking = []
    · refine ⟨s, ?_, by rw [hnone]; rfl, rfl, rfl, fun _ _ => rfl⟩
      show execScratchpadBankWake die base s = _
      unfold execScratchpadBankWake
      rw [if_pos (by rw [hnone]; rfl)]
    · refine ⟨s.updDie die (fun d => { d with waking := d.waking.filter (fun g => g.1 != base) }), ?_, ?_, ?_, rfl, ?_⟩
      · show execScratchpadBankWake die base s = _
        unfold execScratchpadBankWake
        rw [if_neg (by simpa using hnone)]
      · rw [die_updDie_self]
      · rw [die_updDie_self]
      · exact fun d hd => by rw [die_updDie, if_neg hd]
  · have hguard : (decide (die ≥ 4) || len == 0 || decide (base + len > 2 ^ 27) || base % 64 != 0 || len % 64 != 0 ||
        s.bankUsed die base len || (s.die die).gated.any (fun g => meets g.1 g.2 base len) ||
        (s.die die).waking.any (fun g => meets g.1 g.2.1 base len)) = s.bankUsed die base len := by
      rw [hgated, hwaking]
      simp [hbase, hmod, show ¬ 4 ≤ die by omega, show len ≠ 0 by omega, show ¬ 134217728 < base + len by omega]
    refine ⟨_, rfl, ?_⟩
    simp only [hguard]
    split_ifs with hused
    · rfl
    · refine ⟨by rw [die_updDie_self]; rfl, fun k => ?_⟩
      refine (cellGet_filter s.mem (fun a => !within a (dspKey die base, dspKey die base + len)) k).trans ?_
      have hin : within k (dspKey die base, dspKey die base + len) =
          decide (dspKey die base ≤ k ∧ k < dspKey die base + len) := (Bool.decide_and _ _).symm
      by_cases hk : dspKey die base ≤ k ∧ k < dspKey die base + len
      · rw [decide_eq_true hk] at hin
        simp [hin, hk]
      · rw [decide_eq_false hk] at hin
        rw [if_neg hk, if_pos (by rw [hin]; rfl)]
        rfl

/-! ### Commits -/

/-- A move begins to commit when its two clusters let it (R187, R188, R228). -/
theorem regroupCommit_begins {die k : Nat} {r : Regroup} {s : State} (hr : tget (s.die die).moves k = some r) :
    ∃ u, exec (.regroupCommit die k) s = .next u ∧
      if s.moveStands die r = true ∧ s.commitFree (clusterNo die r.x) = true ∧ s.commitFree (clusterNo die r.y) = true
      then u = { s with dies := u.dies, uid := s.uid + 1 } ∧
        (u.die die).commit = (s.die die).commit ++ [{ r with began := s.uid }] ∧ tget (u.die die).moves k = none ∧
        (∀ j, j ≠ k → tget (u.die die).moves j = tget (s.die die).moves j) ∧ ∀ d, d ≠ die → u.die d = s.die d
      else u = s := by
  have hexec : exec (.regroupCommit die k) s = .next (if !s.moveFree die r then s
      else State.updDie { s with uid := s.uid + 1 } die (fun d =>
        { d with moves := tdel d.moves k, commit := d.commit ++ [{ r with began := s.uid }] })) := by
    show execRegroupCommit die k s = _
    unfold execRegroupCommit
    rw [hr]
    rfl
  have hfree : s.moveFree die r = true ↔ s.moveStands die r = true ∧ s.commitFree (clusterNo die r.x) = true ∧
      s.commitFree (clusterNo die r.y) = true := by
    simp only [State.moveFree, Bool.and_eq_true, and_assoc]
  refine ⟨_, hexec, ?_⟩
  by_cases hgo : s.moveFree die r = true
  · have hself := die_updDie_self { s with uid := s.uid + 1 } die (fun d =>
        { d with moves := tdel d.moves k, commit := d.commit ++ [{ r with began := s.uid }] })
    rw [if_pos (hfree.mp hgo), if_neg (by simp [hgo]), hself]
    exact ⟨rfl, rfl, tget_tdel_self _ _, fun j hj => tget_tdel_ne _ hj, fun d hd => (die_updDie _ _ _ _).trans (if_neg hd)⟩
  · rw [if_neg fun e => hgo (hfree.mpr e), if_pos (by simpa using hgo)]

/-- What ends a commit (R188): the move, the check of its first cluster, and the words that waited for it. -/
theorem exec_regroupCommitEnd {die : Nat} {s : State} {r : Regroup} (hr : (s.die die).commit.find? s.commitDrained = some r) :
    exec (.regroupCommitEnd die) s = .next (((s.warps.filter (fun w => s.clusterOf w.1 == clusterNo die r.x ||
      s.clusterOf w.1 == clusterNo die r.y)).map (·.1)).foldl State.retryCommit
        ((s.commitEnded die r).clusterCheck (clusterNo die r.x))) := by
  show execRegroupCommitEnd die s = _
  unfold execRegroupCommitEnd State.commitEnded
  rw [hr]
  dsimp only
  by_cases hm : (s.updDie die (fun d => { d with commit := d.commit.filter (· != r) })).moveStands die r = true
  · rw [if_neg (by simp [hm]), if_pos hm]
    rfl
  · rw [if_pos (by simpa using hm), if_neg hm]

theorem clusterNo_ne {die x y : Nat} (h : x ≠ y) : clusterNo die y ≠ clusterNo die x := by
  unfold clusterNo
  omega

/-- A commit begins when its clusters let it, and ends with the blocks of its core moved (R187, R188, R228). -/
theorem commitClause_holds : commitClause := by
  refine ⟨fun die k r s hr => regroupCommit_begins hr, fun die s s' => ⟨fun hnone => ?_, ?_⟩⟩
  · show execRegroupCommitEnd die s = _
    unfold execRegroupCommitEnd
    rw [hnone]
  · intro r hr hxy _ _ hs' hn
    subst hs'
    obtain ⟨hrest, hcheck⟩ : _ ∧ _ := ⟨commitEnded_rest s die r, clusterCheck_rest (s.commitEnded die r) (clusterNo die r.x)⟩
    have hnotice : ∀ w ∈ (s.warps.filter (fun w => s.clusterOf w.1 == clusterNo die r.x ||
        s.clusterOf w.1 == clusterNo die r.y)).map (·.1),
        NoNotice ((s.commitEnded die r).clusterCheck (clusterNo die r.x)) w := by
      intro w hw
      obtain ⟨x, hx, rfl⟩ := List.mem_map.mp hw
      obtain ⟨-, hx⟩ := List.mem_filter.mp hx
      rw [hcheck, hrest]
      exact hn x.1 (by simpa using hx)
    obtain ⟨hu, -⟩ := retryCommits_unparks hnotice
    refine ⟨_, exec_regroupCommitEnd hr, ?_⟩
    generalize List.foldl State.retryCommit _ _ = u at hu
    have hdie : u.die die = (s.commitEnded die r).die die := by rw [hu, hcheck]; rfl
    refine ⟨by rw [hu, hcheck, hrest], by rw [hdie, commitEnded_commit], fun hm => ?_, fun b B hb => ?_⟩
    · have hne := clusterNo_ne (die := die) hxy
      have hcluster : u.cluster (clusterNo die r.y) = (s.commitEnded die r).cluster (clusterNo die r.y) := by
        rw [hu]
        exact clusterCheck_cluster hne
      rw [hdie, hcluster]
      exact commitEnded_moved s die r hne hm
    · rw [hu, hcheck]
      exact commitEnded_block s die r hb

/-- Settles O45: intervals, commits and banks, each by its own clause. -/
theorem parallaxAndBankEvents : Obligations.ParallaxAndBankEvents :=
  ⟨intervalClause_holds, commitClause_holds, bankClause_holds⟩

end Sys2Proof.Proofs
end

section
/-! PROOFS. The life of a copy: its chunks start and land, and it completes or stops (R176, R195, R196, R248, R253 to R255,
R259). -/

namespace Sys2Proof.Machine

/-! ### Pieces of a range -/

/-- A byte lies in a piece. -/
def inPiece (a : Nat) (p : Nat × Nat) : Prop := p.1 ≤ a ∧ a < p.1 + p.2

section
variable {m k n : Nat} (hm : 0 < m)
include hm

/-- The pieces of a range that is cut lie in it, and none is empty. -/
theorem cutAt_within {p : Nat × Nat} (hp : p ∈ cutAt m (k, n)) : k ≤ p.1 ∧ 0 < p.2 ∧ p.1 + p.2 ≤ k + n := by
  unfold cutAt rowRuns at hp
  split_ifs at hp with hn
  · cases hp
  · obtain ⟨i, hi, rfl⟩ := List.mem_map.mp hp
    have hi := List.mem_range.mp hi
    dsimp only at hi
    have hn : 0 < n := Nat.pos_of_ne_zero fun e => hn (by simp [e])
    have hr : (k / m + i) * m ≤ k + n - 1 := (Nat.le_div_iff_mul_le hm).mp (by
      have := Nat.div_le_div_right (c := m) (show k ≤ k + n - 1 by omega)
      omega)
    have hk : k < (k / m + i + 1) * m :=
      lt_of_lt_of_le (by rw [Nat.succ_mul]; exact Nat.lt_div_mul_add hm)
        (Nat.mul_le_mul_right m (show k / m + 1 ≤ k / m + i + 1 by omega))
    have hstep : (k / m + i + 1) * m = (k / m + i) * m + m := Nat.succ_mul _ _
    dsimp only
    omega

/-- The pieces of a range that is cut hold every byte of it. -/
theorem cutAt_covers {a : Nat} (ha : inPiece a (k, n)) : ∃ p ∈ cutAt m (k, n), inPiece a p := by
  obtain ⟨hlo, hhi⟩ := ha
  dsimp only at hlo hhi
  have hr : a / m * m ≤ a := Nat.div_mul_le_self a m
  have hr' : a < (a / m + 1) * m := by rw [Nat.succ_mul]; exact Nat.lt_div_mul_add hm
  have hle : k / m ≤ a / m := Nat.div_le_div_right hlo
  have hge : a / m ≤ (k + n - 1) / m := Nat.div_le_div_right (by omega)
  unfold cutAt rowRuns
  rw [if_neg (by simp; omega)]
  refine ⟨_, List.mem_map.mpr ⟨a / m - k / m, List.mem_range.mpr (by dsimp only; omega), rfl⟩, ?_⟩
  dsimp only [inPiece]
  rw [show k / m + (a / m - k / m) = a / m by omega]
  omega

end

/-! ### Bytes that land -/

/-- From s to t, nothing but bytes, their poison and what they carry has changed. -/
def State.OnlyBytes (s t : State) : Prop := t = { s with mem := t.mem, poison := t.poison, rels := t.rels }

theorem State.OnlyBytes.trans {s t u : State} (h : s.OnlyBytes t) (k : t.OnlyBytes u) : s.OnlyBytes u := by
  unfold State.OnlyBytes at *
  rw [k, h]

/-- From s to t, some pieces hold the bytes that v gives, and every other byte is as it was. -/
structure State.Landed (s t : State) (v : Nat → Byte) (ps : List (Nat × Nat)) : Prop where
  rest : s.OnlyBytes t
  within : ∀ a, ∀ p ∈ ps, inPiece a p → t.byte a = v a
  beside : ∀ a, (∀ p ∈ ps, ¬ inPiece a p) → t.byte a = s.byte a

/-- Pieces land one after the other. -/
theorem landed_foldl {f : State → Nat × Nat → State} {s : State} {v : Nat → Byte} {ps : List (Nat × Nat)}
    (h : ∀ t, s.OnlyBytes t → ∀ p ∈ ps, t.Landed (f t p) v [p]) : s.Landed (ps.foldl f s) v ps := by
  suffices hgo : ∀ t, s.OnlyBytes t → t.Landed (ps.foldl f t) v ps from hgo s rfl
  induction ps with
  | nil => exact fun t _ => ⟨rfl, by simp, fun _ _ => rfl⟩
  | cons p ps ih =>
    intro t ht
    have h1 := h t ht p List.mem_cons_self
    have h2 := ih (fun t ht q hq => h t ht q (List.mem_cons_of_mem _ hq)) (f t p) (ht.trans h1.rest)
    refine ⟨h1.rest.trans h2.rest, fun a q hq ha => ?_, fun a ha => ?_⟩
    · by_cases hin : ∃ q ∈ ps, inPiece a q
      · obtain ⟨q, hq, ha⟩ := hin
        exact h2.within a q hq ha
      · have hout : ∀ q ∈ ps, ¬ inPiece a q := fun q hq ha => hin ⟨q, hq, ha⟩
        rcases List.mem_cons.mp hq with rfl | hq
        · exact (h2.beside a hout).trans (h1.within a q List.mem_cons_self ha)
        · exact absurd ha (hout q hq)
    · exact (h2.beside a fun q hq => ha q (List.mem_cons_of_mem _ hq)).trans
        (h1.beside a fun q hq => ha q (by rw [List.mem_singleton.mp hq]; exact List.mem_cons_self))

/-- The pieces of a range that is cut make up the range. -/
theorem State.Landed.whole {s t : State} {v : Nat → Byte} {m k n : Nat} (hm : 0 < m) (h : s.Landed t v (cutAt m (k, n))) :
    s.Landed t v [(k, n)] where
  rest := h.rest
  within a p hp ha := by
    rw [List.mem_singleton.mp hp] at ha
    obtain ⟨q, hq, ha⟩ := cutAt_covers hm ha
    exact h.within a q hq ha
  beside a ha := h.beside a fun p hp hin => by
    obtain ⟨h1, -, h3⟩ := cutAt_within hm hp
    obtain ⟨h4, h5⟩ := hin
    exact ha _ List.mem_cons_self ⟨by dsimp only; omega, by dsimp only; omega⟩

/-- Bytes taken out of the middle of a list. -/
theorem getD_part (bs : List Byte) {i j n : Nat} (h : j < n) : ((bs.drop i).take n).getD j 0 = bs.getD (i + j) 0 := by
  simp [List.getD_eq_getElem?_getD, h]

/-- Every byte of a range may be written (R167, R262). -/
def State.Lands (s : State) (k n : Nat) : Prop := ∀ i, i < n → Claims.Storable s (k + i) ∧ s.underStack (k + i) = false

theorem State.Lands.part {s t : State} {k n k' n' : Nat} (h : s.Lands k n) (ht : s.OnlyBytes t) (hlo : k ≤ k')
    (hhi : k' + n' ≤ k + n) : t.Lands k' n' := by
  intro i hi
  have e := h (k' - k + i) (by omega)
  rw [show k + (k' - k + i) = k' + i by omega] at e
  rw [ht]
  exact e

/-- The bytes of a line that may be written land (R190, R253). -/
theorem landLine_landed {s : State} {c : Copy} {k : Nat} {bs : List Byte} (hk : 2 ^ 100 ≤ k) (hpos : 0 < bs.length)
    (h : s.Lands k bs.length) (bad : List Bool) {v : Nat → Byte} (hv : ∀ i, i < bs.length → v (k + i) = bs.getD i 0) :
    s.Landed (s.landLine c k bs bad) v [(k, bs.length)] := by
  have hbound : s.boundLine k = false := (h 0 hpos).1.2
  unfold State.landLine
  rw [hbound, if_neg Bool.false_ne_true, if_neg (Nat.not_lt.mpr hk)]
  refine (landed_foldl fun t ht p hp => ?_).whole (m := 8) (by omega)
  obtain ⟨h1, h2, h3⟩ := cutAt_within (by omega) hp
  obtain ⟨hstore, hstack⟩ := (h.part ht h1 h3) 0 h2
  obtain ⟨hvoid, hbound⟩ := hstore
  rw [Nat.add_zero] at hstack hvoid hbound
  have hwrite : (if t.underStack p.1 = true then t else t.storeBytes c.vi (dieOf c.core) (cixOf c.core) p.1
      ((bs.drop (p.1 - k)).take p.2) (((bad.drop (p.1 - k)).take p.2).any id)) =
      t.write p.1 ((bs.drop (p.1 - k)).take p.2) (((bad.drop (p.1 - k)).take p.2).any id) := by
    unfold State.storeBytes
    rw [hstack, hvoid, hbound, if_neg (show ¬ p.1 < 2 ^ 100 by omega)]
    rfl
  rw [hwrite]
  have hbyte : ∀ a, (t.write p.1 ((bs.drop (p.1 - k)).take p.2) (((bad.drop (p.1 - k)).take p.2).any id)).byte a =
      if p.1 ≤ a ∧ a < p.1 + p.2 then v a else t.byte a := by
    intro a
    refine (cellGet_putBytes t.mem p.1 a _).trans ?_
    have hlen : ((bs.drop (p.1 - k)).take p.2).length = p.2 := by simp; omega
    rw [hlen]
    refine if_ctx_congr Iff.rfl (fun ha => ?_) fun _ => rfl
    rw [show emptyByte = (0 : Byte) from rfl, getD_part bs (by omega), ← hv _ (by omega)]
    congr 1
    omega
  refine ⟨rfl, fun a q hq ha => ?_, fun a ha => ?_⟩
  · rw [List.mem_singleton.mp hq] at ha
    exact (hbyte a).trans (if_pos ha)
  · exact (hbyte a).trans (if_neg (ha p List.mem_cons_self))

/-- The bytes of a chunk land in the one range that it writes. -/
theorem landBytes_landed {s : State} (c : Copy) {k n : Nat} {bs : List Byte} (hlen : bs.length = n) (hk : 2 ^ 100 ≤ k)
    (h : s.Lands k n) (bad : List Bool) : s.Landed (s.landBytes c [(k, n)] bs bad) (fun a => bs.getD (a - k) 0) [(k, n)] := by
  show s.Landed ((cutAt 64 (k, n)).foldl _ s) _ _
  refine (landed_foldl fun t ht p hp => ?_).whole (m := 64) (by omega)
  obtain ⟨h1, h2, h3⟩ := cutAt_within (by omega) hp
  have hl : ((bs.drop (p.1 - k)).take p.2).length = p.2 := by simp; omega
  have hline := landLine_landed (c := c) (show 2 ^ 100 ≤ p.1 by omega) (bs := (bs.drop (p.1 - k)).take p.2)
    (by rw [hl]; exact h2) (by rw [hl]; exact h.part ht h1 h3) ((bad.drop (p.1 - k)).take p.2) (v := fun a => bs.getD (a - k) 0)
    (fun i hi => by
      rw [hl] at hi
      rw [getD_part bs hi]
      congr 1
      omega)
  rw [hl] at hline
  have hover := overwrite_rest (t.landLine c p.1 ((bs.drop (p.1 - k)).take p.2) ((bad.drop (p.1 - k)).take p.2)) p.1 p.2 false
  have hmem : (State.overwrite (t.landLine c p.1 ((bs.drop (p.1 - k)).take p.2) ((bad.drop (p.1 - k)).take p.2))
      p.1 p.2 false).byte = (t.landLine c p.1 ((bs.drop (p.1 - k)).take p.2) ((bad.drop (p.1 - k)).take p.2)).byte := by
    rw [hover]
    rfl
  refine ⟨hline.rest.trans (by rw [hover]; rfl), fun a q hq ha => ?_, fun a ha => ?_⟩
  · exact (congrFun hmem a).trans (hline.within a q (by rw [List.mem_singleton.mp hq]; simp) ha)
  · exact (congrFun hmem a).trans (hline.beside a fun q hq => ha q (by rw [List.mem_singleton.mp hq]; simp))

/-! ### Presence, barriers and logs -/

theorem setPresence_absent {s : State} {ls : List Nat} {x : Nat} :
    x ∈ (s.setPresence ls).absent ↔ x ∈ s.absent ∧ x ∉ ls := by
  show x ∈ s.absent.filter (fun l => !ls.contains l) ↔ _
  simp

/-- The lines that a copy that ends early has yet to write are present (R176, R254, R259). -/
theorem copyLines_absent {s : State} {c : Copy} {x : Nat} :
    x ∈ (s.copyLines c).absent ↔ x ∈ s.absent ∧ ¬ (x ∈ c.lines ∧ c.owes x = true) := by
  have hfilter : (x ∈ c.lines ∧ c.owes x = true) ↔ x ∈ c.lines.filter c.owes := List.mem_filter.symm
  rw [hfilter]
  unfold State.copyLines
  split
  · next hnil => simp [hnil]
  · exact setPresence_absent

theorem copyLines_rest (s : State) (c : Copy) :
    s.copyLines c = { s with absent := (s.copyLines c).absent, warps := (s.copyLines c).warps } := by
  unfold State.copyLines
  split <;> rfl

/-- An entry of the error log stands in memory and changes no other part of the machine (R397, R399). -/
theorem errLog_rest (s : State) (vi code die cix : Nat) (bix : Word) (addr : Nat) :
    s.errLog vi code die cix bix addr = { s with
      mem := (s.errLog vi code die cix bix addr).mem, poison := (s.errLog vi code die cix bix addr).poison
      vis := (s.errLog vi code die cix bix addr).vis, sent := (s.errLog vi code die cix bix addr).sent } := by
  unfold State.errLog State.errEntry
  dsimp only
  split_ifs
  · rfl
  · rw [(msix_spec _ _ _).1]
    rfl

/-- From s to t, nothing but bytes, interfaces, messages, barriers and scores has changed. -/
def State.OnlyLogged (s t : State) : Prop :=
  t = { s with mem := t.mem, poison := t.poison, vis := t.vis, sent := t.sent, bars := t.bars, dies := t.dies }

theorem State.OnlyLogged.trans {s t u : State} (h : s.OnlyLogged t) (k : t.OnlyLogged u) : s.OnlyLogged u := by
  unfold State.OnlyLogged at *
  rw [k, h]

theorem State.OnlyBar.onlyLogged {s t : State} {n : BarName} (h : s.OnlyBar t n) : s.OnlyLogged t := by
  unfold State.OnlyLogged
  rw [h.rest]

theorem errLog_onlyLogged (s : State) (vi code die cix : Nat) (bix : Word) (addr : Nat) :
    s.OnlyLogged (s.errLog vi code die cix bix addr) := by
  unfold State.OnlyLogged
  rw [errLog_rest]

/-- A landing at a barrier (R155). -/
theorem barLand_onlyLogged (s : State) (n : BarName) (vi bytes : Nat) (ws : Waits) :
    s.OnlyLogged (s.barLand n vi bytes ws) := by
  unfold State.barLand
  dsimp only
  split_ifs
  · exact (errLog_onlyLogged s _ _ _ _ _ _).trans ((setBar_onlyBar _ n _).trans (barCheck_onlyBar _ n)).onlyLogged
  · exact ((setBar_onlyBar _ n _).trans (barCheck_onlyBar _ n)).onlyLogged

/-- A landing of bytes that a barrier still expects takes them off its PEND (R155). -/
theorem barLand_pend {s : State} {n : BarName} {vi bytes : Nat} {ws : Waits} (h : bytes ≤ (s.bar n).pend) :
    (s.barLand n vi bytes ws).mem = s.mem ∧ ((s.barLand n vi bytes ws).bar n).pend = (s.bar n).pend - bytes := by
  have hpend : (s.barRelease (s.bar n) ws).pend = (s.bar n).pend := rfl
  unfold State.barLand
  dsimp only
  rw [hpend, if_neg (Nat.not_lt.mpr h)]
  refine ⟨by rw [((setBar_onlyBar _ n _).trans (barCheck_onlyBar _ n)).rest], ?_⟩
  rw [barCheck_bar, bar_setBar, if_pos rfl]
  split_ifs <;> rfl

/-- What a copy has written leaves the PEND of the barrier that it names (R155). -/
def State.landAtBar (s : State) (c : Copy) (bytes : Nat) : State :=
  match c.bar with
  | some n => s.barLand n c.vi bytes c.waits
  | none => s

theorem landAtBar_onlyLogged (s : State) (c : Copy) (bytes : Nat) : s.OnlyLogged (s.landAtBar c bytes) := by
  unfold State.landAtBar
  split
  · exact barLand_onlyLogged _ _ _ _ _
  · rfl

theorem landAtBar_pend {s : State} {c : Copy} {bytes : Nat} (h : ∀ b, c.bar = some b → bytes ≤ (s.bar b).pend) :
    (s.landAtBar c bytes).mem = s.mem ∧
      ∀ b, c.bar = some b → ((s.landAtBar c bytes).bar b).pend = (s.bar b).pend - bytes := by
  unfold State.landAtBar
  cases hb : c.bar with
  | none => exact ⟨rfl, fun b e => by cases e⟩
  | some n =>
    obtain ⟨h1, h2⟩ := barLand_pend (vi := c.vi) (ws := c.waits) (h n hb)
    exact ⟨h1, fun b e => by cases e; exact h2⟩

/-! ### A copy that ends early -/

theorem State.OnlyLogged.absent {s t : State} (h : s.OnlyLogged t) : t.absent = s.absent := by rw [h]
theorem State.OnlyLogged.copies {s t : State} (h : s.OnlyLogged t) : t.copies = s.copies := by rw [h]
theorem State.OnlyLogged.futs {s t : State} (h : s.OnlyLogged t) : t.futs = s.futs := by rw [h]

theorem copyCut_eq {s : State} {id : Nat} {c : Copy} (hc : tget s.copies id = some c) : s.copyCut id =
    if (c.code == 0 || c.cut || !c.flying.isEmpty) = true then s
    else (State.copyLines { s with copies := tset s.copies id { c with cut := true } } c).landAtBar c
      (c.total - c.landedBytes) := by
  unfold State.copyCut
  rw [hc]
  rfl

/-- A copy that has not failed is not cut short. -/
theorem copyCut_running {s : State} {id : Nat} {c : Copy} (hc : tget s.copies id = some c) (h : c.code = 0) :
    s.copyCut id = s := by
  rw [copyCut_eq hc, if_pos (by simp [h])]

/-- No line becomes absent as a copy is cut short; with its last chunk landed a failed copy owes no line (R176, R254). -/
theorem copyCut_absent {s : State} {id : Nat} {c : Copy} (hc : tget s.copies id = some c) :
    (∀ x ∈ (s.copyCut id).absent, x ∈ s.absent) ∧ (c.code ≠ 0 → c.cut = false → c.flying = [] →
      ∀ x ∈ c.lines, c.owes x = true → x ∉ (s.copyCut id).absent) := by
  rw [copyCut_eq hc]
  split_ifs with hstay
  · refine ⟨fun _ hx => hx, fun hcode hcut hfly => ?_⟩
    simp [hcode, hcut, hfly] at hstay
  · rw [(landAtBar_onlyLogged _ _ _).absent]
    exact ⟨fun x hx => (copyLines_absent.mp hx).1, fun _ _ _ x hx ho hin => (copyLines_absent.mp hin).2 ⟨hx, ho⟩⟩

/-! ### A chunk that lands -/

/-- What Parallax counts changes dies alone (R186). -/
theorem scoreBytes_onlyDies (s : State) (core : Nat) (rs : List (Nat × Nat)) (wr : Bool) :
    s.OnlyDies (s.scoreBytes core rs wr) := by
  unfold State.scoreBytes
  refine onlyDies_foldl (fun s line => ?_) _ s
  unfold State.scoreLine
  dsimp only
  split_ifs <;> rfl

/-- A copy once a chunk of it has landed. -/
def Copy.withLanded (c : Copy) (chunk : Nat) : Copy :=
  { c with flying := c.flying.filter (fun g => g.chunk != chunk), landed := c.landed ++ [chunk] }

/-- The state once the bytes of a chunk have landed and its lines are present, before its barrier hears of it. -/
def State.withChunk (s : State) (id : Nat) (c : Copy) (f : Flight) : State :=
  let s := ((s.landBytes c f.dst f.bytes f.bad).landScales c f).scoreBytes c.core f.dst true
  State.landLines { s with copies := tset s.copies id (c.withLanded f.chunk) } id f.chunk

section
variable {s : State} {id : Nat} {c : Copy} {f : Flight}

/-- A chunk that may land on chip lands whole, its barrier hears of it, and a copy that has failed is cut short (R253 to
R255). -/
theorem exec_copyChunkLanding (hc : tget s.copies id = some c) (hf : c.flying.find? (fun g => g.chunk == f.chunk) = some f)
    (hon : c.dst.off = false) (hcopies : (((s.landBytes c f.dst f.bytes f.bad).landScales c f).scoreBytes c.core f.dst
      true).copies = s.copies) : exec (.copyChunkLanding id f.chunk) s = .next (
      if (!s.mayWrite c f || f.dst.any (fun p => s.rehousing p.1 || !s.awake p.1)) = true then s
      else ((s.withChunk id c f).landAtBar c (c.chunkSpan f.chunk).2).copyCut id) := by
  show execCopyChunkLanding id f.chunk s = _
  unfold execCopyChunkLanding State.withChunk State.landAtBar tupd
  rw [hc]
  simp only [hf, hon, Bool.false_and, Bool.false_eq_true, if_false, hcopies, hc]
  rfl

theorem landScales_none (s : State) (f : Flight) (hfill : c.fill = none) : s.landScales c f = s := by
  unfold State.landScales State.resvFor
  rw [hfill]

/-- The bytes of a chunk land in the one range that it writes, and what Parallax counts is in dies alone. -/
theorem landed_chunk {k n : Nat} (hfill : c.fill = none) (hdst : f.dst = [(k, n)]) (hlen : f.bytes.length = n)
    (hk : 2 ^ 100 ≤ k) (h : s.Lands k n) :
    let x := ((s.landBytes c f.dst f.bytes f.bad).landScales c f).scoreBytes c.core f.dst true
    x = { s with mem := x.mem, poison := x.poison, rels := x.rels, dies := x.dies } ∧
      ∀ a, x.byte a = if k ≤ a ∧ a < k + n then f.bytes.getD (a - k) 0 else s.byte a := by
  intro x
  have hl := landBytes_landed c hlen hk h f.bad
  have hx : x = (s.landBytes c f.dst f.bytes f.bad).scoreBytes c.core f.dst true := by
    show State.scoreBytes (State.landScales _ c f) c.core f.dst true = _
    rw [landScales_none _ _ hfill]
  have ho := scoreBytes_onlyDies (s.landBytes c f.dst f.bytes f.bad) c.core f.dst true
  rw [← hx, hdst] at ho
  refine ⟨by rw [ho, hl.rest], fun a => ?_⟩
  have hbyte : x.byte a = (s.landBytes c [(k, n)] f.bytes f.bad).byte a := by rw [ho]; rfl
  rw [hbyte]
  split_ifs with ha
  · exact hl.within a _ List.mem_cons_self ha
  · exact hl.beside a fun p hp hin => ha (by rw [List.mem_singleton.mp hp] at hin; exact hin)

theorem landLines_eq (hc : tget s.copies id = some c) {k : Nat} (hd : c.dst = .chip k) (chunk : Nat) :
    s.landLines id chunk = s.setPresence ((linesIn (k + (c.chunkSpan chunk).1) (c.chunkSpan chunk).2).filter
      (fun l => !c.owes l)) := by
  unfold State.landLines
  rw [hc]
  simp only [hd]

theorem off_eq_false {x : Side} (h : x.off = false) : ∃ k, x = .chip k := by
  cases x with
  | chip k => exact ⟨k, rfl⟩
  | rows | elems | peer => cases h

/-- What a chunk that lands leaves before its barrier hears of it: its bytes, its copy with one chunk more landed, and the
lines in which the copy has no more to write (R176, R253). -/
theorem withChunk_spec {k n : Nat} (hon : c.dst.off = false) (hfill : c.fill = none)
    (hdst : f.dst = [(k, n)]) (hlen : f.bytes.length = n) (hk : 2 ^ 100 ≤ k) (h : s.Lands k n) :
    let u := s.withChunk id c f
    tget u.copies id = some (c.withLanded f.chunk) ∧ u.bars = s.bars ∧
      (∀ a, u.byte a = if k ≤ a ∧ a < k + n then f.bytes.getD (a - k) 0 else s.byte a) ∧
      ∀ x k', c.dst = .chip k' → x ∈ linesIn (k' + 4096 * f.chunk) (c.chunkSpan f.chunk).2 →
        (c.withLanded f.chunk).owes x = false → x ∉ u.absent := by
  obtain ⟨hrest, hbyte⟩ := landed_chunk (c := c) hfill hdst hlen hk h
  obtain ⟨k', hk'⟩ := off_eq_false hon
  generalize hx : ((s.landBytes c f.dst f.bytes f.bad).landScales c f).scoreBytes c.core f.dst true = x at hrest hbyte
  have hself : tget (State.copies { x with copies := tset x.copies id (c.withLanded f.chunk) }) id = some (c.withLanded f.chunk) :=
    tget_tset_self _ _ _
  have hu : s.withChunk id c f = State.setPresence { x with copies := tset x.copies id (c.withLanded f.chunk) }
      ((linesIn (k' + (c.chunkSpan f.chunk).1) (c.chunkSpan f.chunk).2).filter (fun l => !(c.withLanded f.chunk).owes l)) := by
    unfold State.withChunk
    rw [hx]
    exact landLines_eq hself hk' f.chunk
  intro u
  refine ⟨?_, ?_, fun a => ?_, fun y k₂ hk₂ hy ho hin => ?_⟩
  · show tget (s.withChunk id c f).copies id = _
    rw [hu]
    exact hself
  · show (s.withChunk id c f).bars = _
    rw [hu, hrest]
    rfl
  · show (s.withChunk id c f).byte a = _
    rw [hu]
    exact hbyte a
  · obtain rfl : k' = k₂ := by
      rw [hk'] at hk₂
      exact Side.chip.inj hk₂
    change y ∈ (s.withChunk id c f).absent at hin
    rw [hu] at hin
    exact (setPresence_absent.mp hin).2 (List.mem_filter.mpr ⟨hy, by rw [ho]; rfl⟩)

end

/-! ### Copies that complete or stop -/

theorem cancelFault_onlyLogged (s : State) (vi token : Nat) : s.OnlyLogged (s.cancelFault vi token) := by
  unfold State.cancelFault
  split
  · rfl
  · dsimp only
    split <;> rfl

theorem cancelFaults_onlyLogged (vi : Nat) (fs : List (Nat × Nat)) (s : State) :
    s.OnlyLogged (fs.foldl (fun s f => s.cancelFault vi f.2) s) := by
  induction fs generalizing s with
  | nil => rfl
  | cons f fs ih => exact (cancelFault_onlyLogged s vi f.2).trans (ih _)

/-- What a block that has ended held for a copy returns: reservations and B slots (R302, R304). -/
theorem copyGone_rest (s : State) (b : Nat) :
    s.copyGone b = { s with resvs := (s.copyGone b).resvs, cores := (s.copyGone b).cores } := by
  unfold State.copyGone State.freeMatrix
  dsimp only
  split_ifs <;> rfl

theorem copyGone_fut (s : State) (b f : Nat) : (s.copyGone b).fut f = s.fut f := by
  rw [copyGone_rest]
  rfl

theorem futComplete_copies (s : State) (f : Nat) (v : DWord) : (s.futComplete f v).copies = s.copies := by
  unfold State.futComplete
  split <;> rfl

/-- The state once a doomed copy has left its queue, before its record is freed (R259). -/
def State.stopped (s : State) (id : Nat) (c : Copy) : State :=
  c.faults.foldl (fun s f => s.cancelFault c.vi f.2)
    (if c.cut = true then { s with copies := tdel s.copies id }
      else (State.copyLines { s with copies := tdel s.copies id } c).landAtBar c (c.total - c.landedBytes))

theorem copyStop_eq {s : State} {id : Nat} {c : Copy} (hc : tget s.copies id = some c) (hatoms : c.atoms = []) :
    s.copyStop id = (s.stopped id c).futRelease c.fut := by
  unfold State.copyStop State.stopped State.landAtBar
  rw [hc]
  simp only [hatoms, List.isEmpty_nil, if_true] <;> rfl

/-- A doomed copy that has stopped is in no queue, and owes no line (R176, R259). -/
theorem stopped_spec (s : State) (id : Nat) (c : Copy) : tget (s.stopped id c).copies id = none ∧
    (s.stopped id c).futs = s.futs ∧ (c.cut = false → ∀ x ∈ c.lines, c.owes x = true → x ∉ (s.stopped id c).absent) := by
  unfold State.stopped
  split_ifs with hcut
  · have h := cancelFaults_onlyLogged c.vi c.faults { s with copies := tdel s.copies id }
    exact ⟨by rw [h.copies]; exact tget_tdel_self _ _, h.futs, fun e => by rw [hcut] at e; cases e⟩
  · have h := (landAtBar_onlyLogged (State.copyLines { s with copies := tdel s.copies id } c) c (c.total - c.landedBytes)).trans
      (cancelFaults_onlyLogged c.vi c.faults _)
    refine ⟨?_, ?_, fun _ x hx ho hin => ?_⟩
    · rw [h.copies, copyLines_rest]
      exact tget_tdel_self _ _
    · rw [h.futs, copyLines_rest]
    · rw [h.absent] at hin
      exact (copyLines_absent.mp hin).2 ⟨hx, ho⟩

/-! ### A chunk that starts -/

/-- From s to t, nothing but dies and the number of what comes next has changed. -/
def State.OnlyAsked (s t : State) : Prop := t = { s with dies := t.dies, uid := t.uid }

theorem askWalk_onlyAsked (s : State) (die : Nat) (w : Walk) : s.OnlyAsked (s.askWalk die w) := by
  unfold State.askWalk
  split_ifs <;> rfl

/-- A page that is asked of a die's MMU is in its list of walks (R392). -/
theorem askWalk_asked (s : State) (die : Nat) (w : Walk) :
    ∃ x ∈ ((s.askWalk die w).die die).walks, x.2.va / 4096 = w.va / 4096 ∧ x.2.who = w.who := by
  unfold State.askWalk
  split_ifs with h
  · obtain ⟨x, hx, e⟩ := List.any_eq_true.mp h
    simp only [Bool.and_eq_true, beq_iff_eq] at e
    exact ⟨x, hx, e.2, e.1⟩
  · refine ⟨(s.uid, w), ?_, rfl, rfl⟩
    simp only [State.take, die_updDie_self]
    exact mem_of_tget (tget_tset_self _ _ _)

/-- Some pages are asked for, one after the other: the last one is in the list of walks. -/
theorem askWalks_asked {die : Nat} {g : Piece → Walk} {ps : List Piece} (hps : ps ≠ []) (s : State) :
    s.OnlyAsked (ps.foldl (fun s p => s.askWalk die (g p)) s) ∧
      ∃ x ∈ ((ps.foldl (fun s p => s.askWalk die (g p)) s).die die).walks, ∃ p ∈ ps,
        x.2.va / 4096 = (g p).va / 4096 ∧ x.2.who = (g p).who := by
  have honly : ∀ (ps : List Piece) (s : State), s.OnlyAsked (ps.foldl (fun s p => s.askWalk die (g p)) s) := by
    intro ps
    induction ps with
    | nil => exact fun s => rfl
    | cons p ps ih =>
      intro s
      have h1 := askWalk_onlyAsked s die (g p)
      have h2 := ih (s.askWalk die (g p))
      unfold State.OnlyAsked at *
      rw [List.foldl_cons, h2, h1]
  refine ⟨honly ps s, ?_⟩
  obtain ⟨qs, p, rfl⟩ := (List.eq_nil_or_concat ps).resolve_left hps
  rw [List.concat_eq_append, List.foldl_append]
  obtain ⟨x, hx, h1, h2⟩ := askWalk_asked (qs.foldl (fun s p => s.askWalk die (g p)) s) die (g p)
  exact ⟨x, hx, p, by simp, h1, h2⟩

/-- The bytes of a piece as they stand, each with its poison, those under a stack as zeros (R167, R348). -/
def State.pieceCells (s : State) (p : Piece) : List (Byte × Bool) :=
  match p.look with
  | .key k => (List.range p.n).map (fun i =>
      if s.underStack (k + i) then (0, false) else (s.byte (k + i), s.poison.contains (unitOf (k + i))))
  | _ => []

theorem zipIdx_map_range {α : Type} (g : Nat → α) (n : Nat) :
    ((List.range n).map g).zipIdx = (List.range n).map (fun i => (g i, i)) := by
  refine List.ext_getElem (by simp) fun i h1 h2 => ?_
  simp

/-- While no HBM line has an error, reading changes nothing (R347). -/
theorem readPieces_sound {s : State} (h : s.hbmErr = []) (ps : List Piece) :
    s.readPieces ps = (s, ps.flatMap s.pieceCells) := by
  have hread : ∀ k n, s.readOff k n =
      (s, (List.range n).map (fun i => (s.byte (k + i), s.poison.contains (unitOf (k + i))))) := by
    intro k n
    unfold State.readOff
    rw [h]
    rfl
  unfold State.readPieces
  suffices hgo : ∀ acc, ps.foldl (fun (a : State × List (Byte × Bool)) p => match p.look with
      | .key k =>
        let (t, bs) := a.1.readOff k p.n
        (t, a.2 ++ bs.zipIdx.map (fun b => if t.underStack (k + b.2) then (0, false) else b.1))
      | _ => a) (s, acc) = (s, acc ++ ps.flatMap s.pieceCells) from hgo []
  induction ps with
  | nil => simp
  | cons p ps ih =>
    intro acc
    rw [List.foldl_cons, List.flatMap_cons, ← List.append_assoc, ← ih]
    congr 1
    unfold State.pieceCells
    cases p.look with
    | key k => simp [hread, zipIdx_map_range, Function.comp_def]
    | miss => simp
    | bad => simp

/-- A copy changed after dies have. -/
theorem copies_tupd {s x : State} {id : Nat} {c : Copy} (hc : tget s.copies id = some c) (hx : s.OnlyDies x)
    (f : Copy → Copy) : { x with copies := tupd x.copies id f } = { s with dies := x.dies, copies := tset s.copies id (f c) } := by
  rw [hx]
  unfold tupd
  simp only [hc]

/-- The pieces of the next chunk of a copy: those of its source, its destination and its scale stream (R253). -/
def State.nextSrc (s : State) (c : Copy) : List Piece :=
  s.sidePieces c c.src false (4096 * c.next) (min 4096 (c.total - 4096 * c.next))
@[inherit_doc State.nextSrc] def State.nextDst (s : State) (c : Copy) : List Piece :=
  s.sidePieces c c.dst true (4096 * c.next) (min 4096 (c.total - 4096 * c.next))
@[inherit_doc State.nextSrc] def State.nextPieces (s : State) (c : Copy) : List Piece :=
  s.nextSrc c ++ s.nextDst c ++ s.streamPieces c c.next

/-- The keys and counts of some translated pieces. -/
def keysOf (ps : List Piece) : List (Nat × Nat) := ps.filterMap (fun p => match p.look with | .key k => some (k, p.n) | _ => none)

/-- The next chunk of a copy in flight, with the bytes as they now stand (R253). -/
def State.nextFlight (s : State) (c : Copy) : Flight :=
  { chunk := c.next
    bytes := ((s.nextSrc c).flatMap s.pieceCells).map (·.1), bad := ((s.nextSrc c).flatMap s.pieceCells).map (·.2)
    dst := keysOf (s.nextDst c)
    scales := (s.chunkScales c c.next ((s.streamPieces c c.next).flatMap s.pieceCells)).1
    ports := s.cxlPorts (s.nextPieces c) }

/-- How far a delta stream is read once the next chunk has started (R295). -/
def State.nextDelta (s : State) (c : Copy) : Delta :=
  (s.chunkScales c c.next ((s.streamPieces c c.next).flatMap s.pieceCells)).2

/-- A copy once its next chunk is in flight. -/
def Copy.withFlight (c : Copy) (f : Flight) (dl : Delta) : Copy :=
  { c with next := c.next + 1, flying := c.flying ++ [f], fill := c.fill.map (fun x => { x with delta := dl }) }

theorem sidePieces_src (s : State) (c : Copy) :
    s.sidePieces c c.src false (4096 * c.next) (min 4096 (c.total - 4096 * c.next)) = s.nextSrc c := rfl

theorem sidePieces_dst (s : State) (c : Copy) :
    s.sidePieces c c.dst true (4096 * c.next) (min 4096 (c.total - 4096 * c.next)) = s.nextDst c := rfl

theorem pieces_next (s : State) (c : Copy) : s.nextSrc c ++ s.nextDst c ++ s.streamPieces c c.next = s.nextPieces c := rfl

theorem find_bad {ps : List Piece} (h : ∀ p ∈ ps, p.look ≠ .bad) : ps.find? (fun p => p.look == .bad) = none :=
  List.find?_eq_none.mpr fun p hp e => h p hp (eq_of_beq e)

section
variable {s : State} {id : Nat} {c : Copy} (hc : tget s.copies id = some c) (hmay : s.chunkMay id c = true)
  (hgood : ∀ p ∈ s.nextPieces c, p.look ≠ .bad)
include hc hmay hgood

/-- Pages that the TLB does not hold are asked of the die's MMU (R392). -/
theorem exec_copyChunkStart_miss (hmiss : (s.nextPieces c).filter (fun p => p.look == .miss) ≠ []) :
    exec (.copyChunkStart id) s = .next (((s.nextPieces c).filter (fun p => p.look == .miss)).foldl
      (fun s p => s.askWalk (dieOf c.core) ⟨c.vi, p.va, p.write, false, .copy id c.next p.write⟩) s) := by
  show execCopyChunkStart id s = _
  unfold execCopyChunkStart
  rw [hc]
  simp only [hmay, Copy.chunkSpan, sidePieces_src, sidePieces_dst, pieces_next, find_bad hgood, Bool.not_true,
    Bool.false_eq_true, if_false]
  exact congrArg Host.Outcome.next (if_pos (by simpa using hmiss))

/-- A chunk whose pages are all translated, whose source is present and whose ports are up is put in flight (R253, R254). -/
theorem exec_copyChunkStart_go (hgo : ∀ p ∈ s.nextPieces c, p.look ≠ .miss ∧ s.pieceFree p = true)
    (hpresent : ∀ p ∈ s.nextSrc c ++ s.streamPieces c c.next, s.sourcePresent id p = true)
    (hup : ∀ d ∈ s.cxlPorts (s.nextPieces c), (s.die d).cxlUp = true) (hsound : s.hbmErr = []) :
    exec (.copyChunkStart id) s = .next { s with
      dies := (s.scoreBytes c.core (keysOf (s.nextSrc c)) false).dies
      copies := tset s.copies id (c.withFlight (s.nextFlight c) (s.nextDelta c)) } := by
  have hmiss : (s.nextPieces c).filter (fun p => p.look == .miss) = [] :=
    List.filter_eq_nil_iff.mpr fun p hp e => (hgo p hp).1 (eq_of_beq e)
  have hfree : (!(s.nextSrc c ++ s.streamPieces c c.next).all (s.sourcePresent id) ||
      !(s.nextPieces c).all s.pieceFree) = false := by
    rw [List.all_eq_true.mpr hpresent, List.all_eq_true.mpr fun p hp => (hgo p hp).2]
    rfl
  have hports : (s.cxlPorts (s.nextPieces c)).any (fun d => !(s.die d).cxlUp) = false :=
    List.any_eq_false.mpr fun d hd => by simp [hup d hd]
  show execCopyChunkStart id s = _
  unfold execCopyChunkStart
  rw [hc]
  simp only [hmay, Copy.chunkSpan, sidePieces_src, sidePieces_dst, pieces_next, find_bad hgood, hmiss, hfree, hports,
    readPieces_sound hsound, Bool.not_true, List.isEmpty_nil, Bool.false_eq_true, if_false]
  exact congrArg Host.Outcome.next (copies_tupd hc (scoreBytes_onlyDies s c.core (keysOf (s.nextSrc c)) false)
    (fun x => { x with
      next := c.next + 1, flying := x.flying ++ [s.nextFlight c]
      fill := x.fill.map (fun y => { y with delta := s.nextDelta c }) }))

end

end Sys2Proof.Machine

namespace Sys2Proof.Proofs

open Sys2Proof.Machine Sys2Proof.Claims

/-! ### Landings -/

/-- A chunk that may land leaves its bytes, its lines and its barrier as the specification says (R155, R176, R253 to R255). -/
theorem chunkLandClause_holds : chunkLandClause := by
  intro id c f s k n hc hf hon hfill hdst hlen hk hstore hbar
  obtain ⟨hrest, -⟩ := landed_chunk (c := c) hfill hdst hlen hk hstore
  obtain ⟨hcopy, hbars, hbyte, habsent⟩ := withChunk_spec (id := id) hon hfill hdst hlen hk hstore
  refine ⟨_, exec_copyChunkLanding hc hf hon (by rw [hrest]), ?_⟩
  have hguard : (!s.mayWrite c f || f.dst.any (fun p => s.rehousing p.1 || !s.awake p.1)) = true ↔
      s.mayWrite c f = false ∨ s.rehousing k = true ∨ s.awake k = false := by
    rw [hdst]
    simp
  rw [if_congr hguard rfl rfl]
  split_ifs with hstay
  · rfl
  · have hlog := landAtBar_onlyLogged (s.withChunk id c f) c (c.chunkSpan f.chunk).2
    have hbar' : ∀ b, (s.withChunk id c f).bar b = s.bar b := fun b => by unfold State.bar; rw [hbars]
    obtain ⟨hmem, hpend⟩ := landAtBar_pend (s := s.withChunk id c f) (c := c) (bytes := (c.chunkSpan f.chunk).2)
      (fun b hb => by rw [hbar']; exact hbar b hb)
    have hcopy' : tget ((s.withChunk id c f).landAtBar c (c.chunkSpan f.chunk).2).copies id = some (c.withLanded f.chunk) := by
      rw [hlog.copies, hcopy]
    obtain ⟨hfew, hcut⟩ := copyCut_absent hcopy'
    refine ⟨fun x k' hk' hx ho hin => ?_, fun hcode => ?_, fun hcode hwhole hfly x hx ho => ?_⟩
    · have hin := hfew x hin
      rw [hlog.absent] at hin
      exact habsent x k' hk' hx ho hin
    · rw [copyCut_running hcopy' hcode]
      refine ⟨fun a => ?_, hcopy', fun b hb => by rw [hpend b hb, hbar']⟩
      exact (congrArg (cellGet · a) hmem).trans (hbyte a)
    · refine hcut hcode hwhole ?_ x hx ho
      show c.flying.filter (fun g => g.chunk != f.chunk) = []
      rw [hfly]
      simp

/-! ### Ends -/

/-- A copy whose chunks have all landed completes its future in its turn (R197, R248, R254, R255). -/
theorem copyCompletion_ends {id : Nat} {c : Copy} {s : State} (hc : tget s.copies id = some c) (hatoms : c.atoms = [])
    (hdoomed : c.doomed = false) (hfaults : c.faults = []) (hall : c.allLanded = true) (hahead : s.ahead c = [])
    (hsettled : s.settled c.waits = true) : ∃ u, exec (.copyCompletion id) s = .next u ∧ tget u.copies id = none ∧
      u.mem = s.mem ∧ u.fut c.fut = match (s.fut c.fut).st with
        | .run | .fault => { s.fut c.fut with st := .done, value := BitVec.ofNat 64 (c.landed.length * 2 ^ 32 + c.code) }
        | .doom => { s.fut c.fut with st := .free, gen := nextGen (s.fut c.fut).gen, count := 0, value := 0 }
        | _ => s.fut c.fut := by
  have hexec : exec (.copyCompletion id) s = .next ((State.futComplete { s with copies := tdel s.copies id } c.fut
      (statusWord c.landed.length c.code)).copyGone c.block) := by
    show execCopyCompletion id s = _
    unfold execCopyCompletion
    rw [hc]
    simp [hatoms, hdoomed, hfaults, hall, hahead, hsettled]
  obtain ⟨-, hmem, hfut⟩ := futComplete_spec { s with copies := tdel s.copies id } c.fut (statusWord c.landed.length c.code)
  refine ⟨_, hexec, ?_, ?_, ?_⟩
  · rw [copyGone_rest]
    exact (congrArg (tget · id) (futComplete_copies _ _ _)).trans (tget_tdel_self _ _)
  · rw [copyGone_rest]
    exact hmem
  · rw [copyGone_fut, hfut]
    rfl

/-- A copy ends as the specification says (R197, R245, R248, R254, R255, R259). -/
theorem copyEndClause_holds : copyEndClause := by
  refine fun id c s hc => ⟨fun hwait => ?_, fun hatoms hdoomed hfaults hall hahead hsettled =>
    copyCompletion_ends hc hatoms hdoomed hfaults hall hahead hsettled, fun hwait => ?_, fun hatoms hdoomed hfly => ?_⟩
  · show execCopyCompletion id s = _
    unfold execCopyCompletion
    rw [hc]
    dsimp only
    rw [if_pos]
    rcases hwait with h | h | h | h | h <;> simp [h]
  · show execDoomedCopyStop id s = _
    unfold execDoomedCopyStop
    rw [hc]
    dsimp only
    rw [if_pos]
    rcases hwait with h | h <;> simp [h]
  · have hexec : exec (.doomedCopyStop id) s = .next (((s.stopped id c).futRelease c.fut).copyGone c.block) := by
      show execDoomedCopyStop id s = _
      unfold execDoomedCopyStop
      rw [hc]
      simp [hdoomed, hfly, copyStop_eq hc hatoms]
    obtain ⟨hgone, hfuts, habsent⟩ := stopped_spec s id c
    have hfut : (((s.stopped id c).futRelease c.fut).copyGone c.block).fut c.fut =
        { s.fut c.fut with st := .free, gen := nextGen (s.fut c.fut).gen, count := 0, value := 0 } := by
      rw [copyGone_fut]
      refine (fut_updFut_self (s.stopped id c) c.fut _).trans ?_
      rw [show (s.stopped id c).fut c.fut = s.fut c.fut by unfold State.fut; rw [hfuts]]
    refine ⟨_, hexec, ?_, by rw [hfut], by rw [hfut], fun hcut x hx ho => ?_⟩
    · rw [copyGone_rest]
      exact hgone
    · rw [copyGone_rest]
      exact habsent hcut x hx ho

/-! ### Starts -/

/-- The bytes that a chunk takes are those of its source's pieces, those under a stack as zeros (R167). -/
theorem nextFlight_bytes (s : State) (c : Copy) : (s.nextFlight c).bytes = (s.nextSrc c).flatMap (fun p => match p.look with
    | .key k => (List.range p.n).map (fun i => if s.underStack (k + i) then 0 else s.byte (k + i))
    | _ => []) := by
  refine List.map_flatMap.trans (List.flatMap_congr fun p _ => ?_)
  unfold State.pieceCells
  cases p.look with
  | key k =>
    refine List.map_map.trans (List.map_congr_left fun i _ => ?_)
    dsimp only [Function.comp]
    split_ifs <;> rfl
  | miss => rfl
  | bad => rfl

/-- A chunk starts, or asks for its pages, as the specification says (R167, R196, R253, R254, R392). -/
theorem chunkStartClause_holds : chunkStartClause := by
  intro id c s src dst stream hc hsrc hdst hstream
  subst hsrc hdst hstream
  refine ⟨fun hmay => ?_, fun hmay hgood => ⟨fun hmiss => ?_, fun hgo hpresent hup hsound => ?_⟩⟩
  · show execCopyChunkStart id s = _
    unfold execCopyChunkStart
    rw [hc]
    simp only [hmay, Bool.not_false, if_true]
  · have hsome : (s.nextPieces c).filter (fun p => p.look == .miss) ≠ [] := by
      obtain ⟨p, hp, e⟩ := hmiss
      exact List.ne_nil_of_mem (List.mem_filter.mpr ⟨hp, by simp [e]⟩)
    obtain ⟨honly, x, hx, p, hp, hva, hwho⟩ := askWalks_asked (die := dieOf c.core)
      (g := fun p => ⟨c.vi, p.va, p.write, false, .copy id c.next p.write⟩) hsome s
    obtain ⟨hp, hlook⟩ := List.mem_filter.mp hp
    exact ⟨_, exec_copyChunkStart_miss hc hmay hgood hsome, by rw [honly], by rw [honly], x, hx, p, hp,
      eq_of_beq hlook, hva, hwho⟩
  · exact ⟨_, s.nextFlight c, s.nextDelta c, exec_copyChunkStart_go hc hmay hgood hgo hpresent hup hsound, rfl,
      tget_tset_self _ _ _, fun j hj => tget_tset_ne _ _ hj, rfl, nextFlight_bytes s c, rfl⟩

/-- Settles O46: starts, landings and ends of copies, each by its own clause. -/
theorem copyEvents : Obligations.CopyEvents := ⟨chunkStartClause_holds, chunkLandClause_holds, copyEndClause_holds⟩

end Sys2Proof.Proofs
end

section
/-! PROOFS. Package reset, bring-up, recovery and attestation (R181, R419 to R423). -/

namespace Sys2Proof.Machine

/-! ### Firmware slots -/

/-- A key digest is fused and not revoked (R419). -/
theorem holds_iff (b : Boot) (d : BitVec 256) :
    b.holds d = true ↔ ∃ i, i < 4 ∧ b.digests[i]? = some d ∧ b.revoked.getLsbD i = false := by
  simp only [Boot.holds, List.any_eq_true, Prod.exists, List.mk_mem_zipIdx_iff_getElem?, List.getElem?_take,
    Bool.and_eq_true, beq_iff_eq, Bool.not_eq_true']
  constructor
  · rintro ⟨x, i, hx, rfl, hr⟩
    split_ifs at hx with hi
    exact ⟨i, hi, hx, hr⟩
  · rintro ⟨i, hi, hx, hr⟩
    exact ⟨d, i, by rw [if_pos hi]; exact hx, rfl, hr⟩

/-- A slot with no reason against it is accepted (R419). -/
theorem slotFail_eq_zero (s : State) (b : Bool) : s.slotFail b = 0 ↔ Claims.Accepted s b := by
  have hacc : Claims.Accepted s b ↔ s.boot.holds (digestBits (sha256 (s.slotBytes b 0x30 32))) = true ∧
      ¬ s.slotNum b 0x04 4 < s.boot.minSvn.toNat ∧
      Config.slhVerify (s.slotBytes b 0x30 32) (s.slotBytes b 0x00 0x50) (s.slotBytes b 0x50 7856) = true ∧
      sha256 (s.slotBody b) = s.slotBytes b 0x10 32 := by
    rw [holds_iff, Nat.not_lt]
    rfl
  rw [hacc]
  unfold State.slotFail
  dsimp only
  split_ifs with h1 h2 h3 h4 <;> simp_all

/-- A reason against a slot is one of four (R420). -/
theorem slotFail_range (s : State) (b : Bool) (h : s.slotFail b ≠ 0) : 1 ≤ s.slotFail b ∧ s.slotFail b ≤ 4 := by
  unfold State.slotFail at h ⊢
  dsimp only at h ⊢
  split_ifs at h ⊢
  iterate 4 exact ⟨by decide, by decide⟩
  exact absurd rfl h

/-- Verification takes the first slot that is accepted, or leaves recovery (R419, R420). -/
theorem verify_verifies (s : State) : Claims.Verifies s s.verify := by
  have hA := slotFail_eq_zero s false
  have hB := slotFail_eq_zero s true
  unfold State.verify
  dsimp only
  split_ifs with ha hb
  · have ha := hA.mp (eq_of_beq ha)
    exact ⟨rfl, rfl, rfl, rfl, fun _ => ⟨rfl, rfl, rfl⟩, fun h => absurd ha h, fun h => absurd ha h⟩
  · have hna : s.slotFail false ≠ 0 := fun e => ha (by simp [e])
    have hb := hB.mp (eq_of_beq hb)
    obtain ⟨h1, h2⟩ := slotFail_range s false hna
    exact ⟨rfl, rfl, rfl, rfl, fun h => absurd (hA.mpr h) hna, fun _ _ => ⟨rfl, rfl, h1, h2⟩, fun _ h => absurd hb h⟩
  · have hna : s.slotFail false ≠ 0 := fun e => ha (by simp [e])
    have hnb : s.slotFail true ≠ 0 := fun e => hb (by simp [e])
    obtain ⟨h1, h2⟩ := slotFail_range s true hnb
    exact ⟨rfl, rfl, rfl, rfl, fun h => absurd (hA.mpr h) hna, fun _ h => absurd (hB.mpr h) hnb, fun _ _ => ⟨rfl, rfl, h1, h2⟩⟩

/-! ### Digests -/

theorem beBytes_length (n x : Nat) : (beBytes n x).length = n := by
  unfold beBytes
  rw [List.length_reverse, Laws.leBytes_length]

theorem shaRound_length (h : List Word) (kw : Word × Word) : (shaRound h kw).length = h.length := by
  unfold shaRound
  split <;> rfl

theorem shaBlock_length (h : List Word) (bs : List Byte) : (shaBlock h bs).length = h.length := by
  have hfold : ∀ (ks : List (Word × Word)) (h : List Word), (ks.foldl shaRound h).length = h.length := by
    intro ks
    induction ks with
    | nil => exact fun _ => rfl
    | cons k ks ih => exact fun h => (ih _).trans (shaRound_length h k)
  unfold shaBlock
  rw [List.length_map, List.length_zip, hfold, Nat.min_self]

theorem shaBlocks_length (n : Nat) (bs : List Byte) (h : List Word) : (shaBlocks n bs h).length = h.length := by
  induction n generalizing bs h with
  | zero => rfl
  | succ n ih => exact (ih _ _).trans (shaBlock_length h _)

/-- A SHA-256 digest has 32 bytes. -/
theorem sha256_length (bs : List Byte) : (sha256 bs).length = 32 := by
  have hinit : shaInit.length = 8 := by
    unfold shaInit
    rw [List.length_map]
    decide +kernel
  unfold sha256
  simp only [List.length_flatMap, beBytes_length, List.map_const', List.sum_replicate, shaBlocks_length, hinit]
  rfl

end Sys2Proof.Machine

namespace Sys2Proof.Proofs

open Sys2Proof.Machine Sys2Proof.Claims

/-! ### Reset and the phases of bring-up -/

/-- The cluster of an identifier once a reset has kept the generations alone (R181). -/
theorem tgetD_generations {t : Table Cluster} (hn : (t.map (·.1)).Nodup) (c : Nat) :
    tgetD ((t.filter (fun x => x.2.gen != 0)).map (fun x => (x.1, ({ gen := x.2.gen } : Cluster)))) c {} =
      { gen := (tgetD t c {}).gen } := by
  induction t with
  | nil => rfl
  | cons x t ih =>
    obtain ⟨k, K⟩ := x
    obtain ⟨hk, hn⟩ := List.nodup_cons.mp hn
    have hrest := ih hn
    have hhead : tgetD ((k, K) :: t) c {} = if k = c then K else tgetD t c {} := by
      unfold tgetD
      rw [tget]
      split_ifs <;> rfl
    rw [hhead]
    by_cases hg : K.gen = 0
    · rw [List.filter_cons_of_neg (by simp [hg]), hrest]
      split_ifs with hkc
      · subst hkc
        have hnone : tget t k = none := by
          cases e : tget t k with
          | none => rfl
          | some C => exact absurd (List.mem_map.mpr ⟨_, mem_of_tget e, rfl⟩) hk
        rw [hg, tgetD, hnone]
        rfl
      · rfl
    · rw [List.filter_cons_of_pos (by simpa using hg), List.map_cons]
      split_ifs with hkc
      · unfold tgetD
        rw [tget, if_pos hkc]
        rfl
      · rw [← hrest]
        unfold tgetD
        rw [tget, if_neg hkc]

/-- A reset keeps what outlasts it and gives everything else its reset value (R181, R422). -/
theorem resetClause_holds : resetClause := by
  intro s hn
  refine ⟨_, rfl, rfl, Nat.zero_div _, rfl, fun c => ?_, fun k => ?_⟩
  · have h : State.cluster { State.reset with
        clusters := (s.clusters.filter (fun x => x.2.gen != 0)).map (fun x => (x.1, ({ gen := x.2.gen } : Cluster))) } c =
          { gen := (s.cluster c).gen } := tgetD_generations hn c
    exact ⟨(congrArg Cluster.gen h :), (congrArg Cluster.live h :)⟩
  · refine (cellGet_filter s.mem outlasts k).trans (if_congr ?_ rfl rfl)
    simp [outlasts, or_assoc]

/-- An event of bring-up acts in its own phase alone (R422). -/
theorem phase_guarded {s v : State} {p : Phase} {P : State → Prop} (hv : s.boot.phase = p → P v) :
    ∃ u, (Host.Outcome.next (if s.boot.phase != p then s else v) : Host.Outcome State Fault Refusal) = .next u ∧
      if s.boot.phase ≠ p then u = s else P u := by
  refine ⟨_, rfl, ?_⟩
  by_cases hp : s.boot.phase = p
  · rw [if_neg (not_not.mpr hp), if_neg (by simp [hp])]
    exact hv hp
  · rw [if_pos hp, if_pos (by simpa using hp)]

/-- HBM training passes with all of HBM zero, or leaves recovery (R420, R422). -/
theorem hbmTraining_phase (s : State) (ok : Bool) : ∃ u, exec (.hbmTraining ok) s = .next u ∧
    if s.boot.phase ≠ .verified then u = s
    else if ok then u.boot = { s.boot with phase := .memory } ∧ u.hbmErr = [] ∧
      u = { s with mem := u.mem, poison := u.poison, hbmErr := u.hbmErr, boot := u.boot } ∧
      ∀ k, u.byte k = if k < 768 * 2 ^ 30 then 0 else s.byte k
    else u = { s with boot := { s.boot with phase := .recovery, fail := 0x05, erased := [] } } := by
  refine phase_guarded (p := .verified) fun _ => ?_
  cases ok with
  | false => exact rfl
  | true =>
    refine ⟨rfl, rfl, rfl, fun k => (cellGet_filter s.mem (fun a => !inHbm a) k).trans ?_⟩
    by_cases hk : k < 768 * 2 ^ 30
    · rw [if_pos hk, if_neg (by simpa [inHbm] using hk)]
    · rw [if_neg hk, if_pos (by simpa [inHbm] using hk)]
      rfl

/-- Link training passes, or leaves recovery (R420, R422). -/
theorem linkTraining_phase (s : State) (ok : Bool) : ∃ u, exec (.linkTraining ok) s = .next u ∧
    if s.boot.phase ≠ .memory then u = s
    else if ok then u = { s with boot := { s.boot with phase := .links } }
    else u = { s with boot := { s.boot with phase := .recovery, fail := 0x06, erased := [] } } := by
  refine phase_guarded (p := .memory) fun _ => ?_
  cases ok <;> exact rfl

/-- What enumeration learns of the expander behind a die's port (R423). -/
def enumerated (caps : List Nat) (s : State) (d : Nat) : State :=
  s.updDie d (fun x => { x with
    cxlwin := BitVec.ofNat 11 (min 1024 (caps.getD d 0 / 2 ^ 30)), cxlUp := min 1024 (caps.getD d 0 / 2 ^ 30) != 0 })

theorem enumerated_die (caps : List Nat) (s : State) (d e : Nat) : (enumerated caps s d).die e =
    if e = d then { s.die d with
      cxlwin := BitVec.ofNat 11 (min 1024 (caps.getD d 0 / 2 ^ 30)), cxlUp := min 1024 (caps.getD d 0 / 2 ^ 30) != 0 }
    else s.die e := die_updDie s d e _

/-- Each die has the window of the expander behind its port once all are enumerated. -/
theorem enumerated_all (caps : List Nat) (ds : List Nat) (s : State) : s.OnlyDies (ds.foldl (enumerated caps) s) ∧
    ∀ d ∈ ds, ((ds.foldl (enumerated caps) s).die d).cxlwin = BitVec.ofNat 11 (min 1024 (caps.getD d 0 / 2 ^ 30)) ∧
      ((ds.foldl (enumerated caps) s).die d).cxlUp = (min 1024 (caps.getD d 0 / 2 ^ 30) != 0) := by
  refine ⟨onlyDies_foldl (fun s d => onlyDies_updDie s d _) ds s, fun d hd => ?_⟩
  induction ds using List.reverseRecOn with
  | nil => cases hd
  | append_singleton ds a ih =>
    rw [List.foldl_append, List.foldl_cons, List.foldl_nil, enumerated_die]
    by_cases e : d = a
    · subst e
      rw [if_pos rfl]
      exact ⟨rfl, rfl⟩
    · rw [if_neg e]
      exact ih ((List.mem_append.mp hd).resolve_right fun h => e (List.mem_singleton.mp h))

/-- Enumeration gives each die the window of its expander (R422, R423). -/
theorem cxlEnumeration_phase (s : State) (caps : List Nat) : ∃ u, exec (.cxlEnumeration caps) s = .next u ∧
    if s.boot.phase ≠ .links then u = s
    else u = { s with dies := u.dies, boot := { s.boot with phase := .windows } } ∧
      ∀ d, d < 4 → (u.die d).cxlwin.toNat = min 1024 (caps.getD d 0 / 2 ^ 30) ∧
        (u.die d).cxlUp = decide (2 ^ 30 ≤ caps.getD d 0) := by
  obtain ⟨honly, hdies⟩ := enumerated_all caps (List.range 4) s
  refine phase_guarded (p := .links) (v := { (List.range 4).foldl (enumerated caps) s with
    boot := { ((List.range 4).foldl (enumerated caps) s).boot with phase := .windows } }) fun _ => ⟨?_, fun d hd => ?_⟩
  · rw [honly]
  · obtain ⟨hwin, hup⟩ := hdies d (List.mem_range.mpr hd)
    refine ⟨(congrArg BitVec.toNat hwin).trans ?_, hup.trans ?_⟩
    · rw [BitVec.toNat_ofNat]
      omega
    · rw [Bool.eq_iff_iff, bne_iff_ne, decide_eq_true_eq]
      omega

/-- READY is set with the die scratchpads zero (R422). -/
theorem bringUpReady_phase (s : State) : ∃ u, exec .bringUpReady s = .next u ∧
    if s.boot.phase ≠ .windows then u = s
    else u = { s with mem := u.mem, poison := u.poison, boot := { s.boot with phase := .ready } } ∧
      ∀ k, u.byte k = if k / 2 ^ 100 = 1 then 0 else s.byte k := by
  refine phase_guarded (p := .windows) fun _ => ⟨rfl, fun k => ?_⟩
  refine (cellGet_filter s.mem (fun a => a / 2 ^ 100 != 1) k).trans ?_
  by_cases hk : k / 2 ^ 100 = 1
  · rw [if_neg (by rw [bne_iff_ne]; exact not_not.mpr hk), if_pos hk]
  · rw [if_pos (bne_iff_ne.mpr hk), if_neg hk]
    rfl

/-- Each phase goes by its own rule (R419, R420, R422, R423). -/
theorem phaseClause_holds : phaseClause := by
  refine fun s => ⟨⟨_, rfl, ?_⟩, ⟨_, rfl, ?_⟩, hbmTraining_phase s, linkTraining_phase s, cxlEnumeration_phase s,
    bringUpReady_phase s⟩ <;>
  · split_ifs
    · exact verify_verifies s
    · rfl

/-! ### The flash window -/

section
variable (s : State) (b : Nat) (bs : List Byte)

/-- A block of slot B is erased, its bytes those given, on the first write of it (R419). -/
def erasedFor : State :=
  if s.boot.erased.contains b then s
  else { s with mem := putBytes s.mem (flashKey (2 ^ 32 + b * 65536)) bs, boot := { s.boot with erased := s.boot.erased ++ [b] } }

theorem erasedFor_rest : erasedFor s b bs =
    { s with mem := (erasedFor s b bs).mem, boot := { s.boot with erased := (erasedFor s b bs).boot.erased } } := by
  unfold erasedFor
  split_ifs <;> rfl

theorem mem_erasedFor (x : Nat) : x ∈ (erasedFor s b bs).boot.erased ↔ x ∈ s.boot.erased ∨ x = b := by
  unfold erasedFor
  split_ifs with h
  · exact ⟨.inl, fun e => e.elim id fun e => e ▸ List.contains_iff_mem.mp h⟩
  · exact List.mem_append.trans (or_congr_right List.mem_singleton)

theorem byte_erasedFor (k : Nat) : (erasedFor s b bs).byte k =
    if (flashKey (2 ^ 32 + b * 65536) ≤ k ∧ k < flashKey (2 ^ 32 + b * 65536) + bs.length) ∧ b ∉ s.boot.erased then
      bs.getD (k - flashKey (2 ^ 32 + b * 65536)) emptyByte
    else s.byte k := by
  unfold erasedFor
  by_cases h : s.boot.erased.contains b = true
  · rw [if_pos h, if_neg fun e => e.2 (List.contains_iff_mem.mp h)]
  · rw [if_neg h]
    refine (cellGet_putBytes s.mem _ k _).trans (if_congr ?_ rfl rfl)
    exact ⟨fun e => ⟨e, fun hin => h (List.contains_iff_mem.mpr hin)⟩, And.left⟩

end

theorem getD_erased {n i : Nat} (h : i < n) (d : Byte) : (List.replicate n Config.erasedByte).getD i d = Config.erasedByte := by
  rw [List.getD_eq_getElem?_getD, List.getElem?_replicate, if_pos h]
  rfl

/-- A write of the flash window lands in slot B, whose block is erased first (R419). -/
theorem flashClause_holds : flashClause := by
  intro off v s
  obtain ⟨bs, hbs⟩ : ∃ bs, bs = List.replicate 65536 Config.erasedByte := ⟨_, rfl⟩
  have hexec : exec (.flashWindowWrite off v) s = .next (if s.boot.phase = .recovery ∧ off % 8 = 0 ∧ off < 2 ^ 32 then
      { erasedFor s (off / 65536) bs with
        mem := putBytes (erasedFor s (off / 65536) bs).mem (flashKey (2 ^ 32 + off)) (leBytes 8 v.toNat) }
      else s) := by
    show execFlashWindowWrite off v s = _
    unfold execFlashWindowWrite
    rw [← hbs]
    refine congrArg Host.Outcome.next ?_
    by_cases hgo : s.boot.phase = .recovery ∧ off % 8 = 0 ∧ off < 2 ^ 32
    · obtain ⟨h1, h2, h3⟩ := hgo
      rw [if_neg (by simp [h1, h2]; omega), if_pos ⟨h1, h2, h3⟩]
      rfl
    · rw [if_pos (by simp only [not_and_or] at hgo; simpa [or_assoc] using hgo), if_neg hgo]
  refine ⟨_, hexec, ?_⟩
  by_cases hgo : s.boot.phase = .recovery ∧ off % 8 = 0 ∧ off < 2 ^ 32
  · rw [if_pos hgo, if_pos hgo]
    refine ⟨by rw [erasedFor_rest], mem_erasedFor s (off / 65536) bs, fun k => ?_⟩
    refine (cellGet_putBytes (erasedFor s (off / 65536) bs).mem (flashKey (2 ^ 32 + off)) k _).trans ?_
    rw [Laws.leBytes_length]
    refine if_congr Iff.rfl rfl ((byte_erasedFor s (off / 65536) bs k).trans ?_)
    rw [hbs, List.length_replicate]
    exact if_ctx_congr and_assoc (fun e => getD_erased (by omega) _) fun _ => rfl
  · rw [if_neg hgo, if_neg hgo]

/-! ### Attestation -/

section
variable {s : State} {req : List Byte}

/-- A request of its event's code reaches the responder once the module is ready (R421). -/
theorem spdmReq_ready (hp : s.boot.phase = .ready) {code : Byte} {n : Nat} (hl : n ≤ req.length)
    (hc : req.getD 1 0 = code) (k : State → State) : s.spdmReq req code n k = k s := by
  have hcode : reqCode req = code := hc
  unfold State.spdmReq
  rw [if_neg (by simp [hp]), if_neg (by simp [hcode]; omega)]

/-- A request in version 1.3 after the algorithms have been agreed is taken (R421). -/
theorem spdmAgreed_taken (ha : s.boot.algs = true ∧ req.headD 0 = 0x13) (k : State → State) : s.spdmAgreed req k = k s := by
  obtain ⟨halgs, hversion⟩ := ha
  unfold State.spdmAgreed
  rw [halgs, hversion]
  rfl

/-- A reply that leaves transcript and phase to the responder is a reply (R421). -/
theorem spdmReply_replies (resp : List Byte) {f : Boot → Boot}
    (hf : ∀ b, (f b).transcript = b.transcript ∧ (f b).phase = b.phase) : Replies s (s.spdmReply req resp f) req resp := by
  obtain ⟨h1, h2⟩ := hf { s.boot with transcript := s.boot.transcript ++ req ++ resp }
  exact ⟨rfl, h1, h2⟩

/-- A reply after a nonce has been drawn. -/
theorem spdmReply_fresh (resp : List Byte) (n : Nat) :
    Replies s (State.spdmReply { s with fresh := n } req resp id) req resp := ⟨rfl, rfl, rfl⟩

end

/-- A measurement block as the specification lays it out (R421). -/
theorem measBlock_eq (s : State) {i : Nat} (h1 : 1 ≤ i) (h4 : i ≤ 4) : s.measBlock i = blockOf s i := by
  obtain rfl | rfl | rfl | rfl : i = 1 ∨ i = 2 ∨ i = 3 ∨ i = 4 := by omega
  all_goals rfl

theorem blockOf_length (s : State) (i : Nat) : (blockOf s i).length = 39 := by
  unfold blockOf
  rw [List.length_append, sha256_length]
  rfl

section
variable {s : State} {req : List Byte} (hp : s.boot.phase = .ready) (hl : 45 ≤ req.length)
include hp hl

theorem getVersion_replies (hc : req.getD 1 0 = 0x84) : ∃ u, exec (.getVersion req) s = .next u ∧
    u = { s with sent := s.sent ++ [.spdm [0x10, 0x04, 0, 0, 0, 1, 0, 0x13]], boot := { s.boot with
      transcript := req ++ [0x10, 0x04, 0, 0, 0, 1, 0, 0x13], version := true, caps := false, algs := false } } :=
  ⟨_, congrArg Host.Outcome.next (spdmReq_ready hp (by omega) hc _), rfl⟩

theorem getCapabilities_replies (hc : req.getD 1 0 = 0xE1) (hv : s.boot.version = true) (h13 : req.headD 0 = 0x13) :
    ∃ u, exec (.getCapabilities req) s = .next u ∧
      u.boot.caps = true ∧ u.boot.algs = s.boot.algs ∧ ∃ resp, Replies s u req resp ∧ resp.take 4 = [0x13, 0x61, 0, 0] ∧
        (resp.drop 8).take 4 = [0x16, 0, 0, 0] := by
  refine ⟨_, congrArg Host.Outcome.next (spdmReq_ready hp (by omega) hc _), ?_⟩
  rw [hv, h13, if_neg (by decide), if_neg (by decide)]
  refine ⟨rfl, rfl, _, spdmReply_replies _ fun _ => ⟨rfl, rfl⟩, ?_, ?_⟩ <;> rfl

theorem negotiateAlgorithms_replies (hc : req.getD 1 0 = 0xE3) (hcaps : s.boot.caps = true) (h13 : req.headD 0 = 0x13) :
    ∃ u, exec (.negotiateAlgorithms req) s = .next u ∧
      u.boot.algs = true ∧ ∃ resp, Replies s u req resp ∧ resp.take 4 = [0x13, 0x63, 0, 0] ∧ resp.length = 40 := by
  refine ⟨_, congrArg Host.Outcome.next (spdmReq_ready hp (by omega) hc _), ?_⟩
  rw [hcaps, h13, if_neg (by decide), if_neg (by decide)]
  refine ⟨rfl, _, spdmReply_replies _ fun _ => ⟨rfl, rfl⟩, ?_, ?_⟩ <;> rfl

variable (ha : s.boot.algs = true ∧ req.headD 0 = 0x13)
include ha

/-- A request of its event's code is taken once the algorithms have been agreed (R421). -/
theorem spdm_taken {code : Byte} {n : Nat} (hn : n ≤ 45) (hc : req.getD 1 0 = code) (k : State → State) :
    (s.spdmReq req code n fun s => s.spdmAgreed req k) = k s :=
  (spdmReq_ready hp (hn.trans hl) hc _).trans (spdmAgreed_taken ha k)

theorem getDigests_replies (hc : req.getD 1 0 = 0x81) : ∃ u, exec (.getDigests req) s = .next u ∧
    Replies s u req ([0x13, 0x01, 1, 1] ++ sha256 Config.certChain) :=
  ⟨_, congrArg Host.Outcome.next (spdm_taken hp hl ha (by omega) hc _), spdmReply_replies _ fun _ => ⟨rfl, rfl⟩⟩

/-- A portion of the certificate chain of slot 0 (R421). -/
theorem getCertificate_replies (hc : req.getD 1 0 = 0x82) (hslot : (req.getD 2 0).toNat % 16 = 0) :
    ∃ u, exec (.getCertificate req) s = .next u ∧
      let off := leNat ((req.drop 4).take 2)
      let n := min (leNat ((req.drop 6).take 2)) (min 0xFFFF (Config.certChain.length - off))
      if off < Config.certChain.length then
        Replies s u req ([0x13, 0x02, 0, 0] ++ leBytes 2 n ++ leBytes 2 (Config.certChain.length - off - n)
          ++ (Config.certChain.drop off).take n)
      else Sends s u [0x13, 0x7F, 0x01, 0] := by
  refine ⟨_, congrArg Host.Outcome.next (spdm_taken hp hl ha (by omega) hc _), ?_⟩
  dsimp only [recNum]
  by_cases hoff : leNat ((req.drop 4).take 2) < Config.certChain.length
  · rw [if_pos hoff, if_neg (by rw [hslot]; simpa using hoff)]
    exact spdmReply_replies _ fun _ => ⟨rfl, rfl⟩
  · rw [if_neg hoff, if_pos (by simp; omega)]
    rfl

/-- CHALLENGE is signed over the transcript (R421). -/
theorem challenge_replies (hc : req.getD 1 0 = 0x83) (hslot : (req.getD 2 0).toNat % 16 = 0)
    (hkind : req.getD 3 0 = 0 ∨ req.getD 3 0 = 1 ∨ req.getD 3 0 = 0xFF) : ∃ u, exec (.challenge req) s = .next u ∧
      let summary := if req.getD 3 0 = 0 then [] else sha256 (if req.getD 3 0 = 1 then blockOf s 1
        else blockOf s 1 ++ blockOf s 2 ++ blockOf s 3 ++ blockOf s 4)
      let body := [0x13, 0x03, 0, 1] ++ sha256 Config.certChain ++ s.spdmNonce ++ summary ++ [0, 0] ++ (req.drop 36).take 8
      Replies s u req (body ++ spdmSign challengeContext (s.boot.transcript ++ req ++ body)) := by
  refine ⟨_, congrArg Host.Outcome.next (spdm_taken hp hl ha (by omega) hc _), ?_⟩
  have hall : (List.range 4).flatMap (fun i => s.measBlock (i + 1)) = blockOf s 1 ++ blockOf s 2 ++ blockOf s 3 ++ blockOf s 4 := by
    rw [← measBlock_eq s (i := 1), ← measBlock_eq s (i := 2), ← measBlock_eq s (i := 3), ← measBlock_eq s (i := 4)]
    · simp [List.range_succ]
    all_goals omega
  rw [hall, measBlock_eq s (i := 1) (by omega) (by omega)]
  generalize blockOf s 1 ++ blockOf s 2 ++ blockOf s 3 ++ blockOf s 4 = all
  have hguard : ((req.getD 2 0).toNat % 16 != 0 || !((req.getD 3 0).toNat == 0 || (req.getD 3 0).toNat == 1 ||
      (req.getD 3 0).toNat == 255)) = false := by
    rw [hslot]
    rcases hkind with e | e | e <;> rw [e] <;> rfl
  have hsummary : (if ((req.getD 3 0).toNat == 0) = true then [] else
      sha256 (if ((req.getD 3 0).toNat == 1) = true then blockOf s 1 else all)) =
      if req.getD 3 0 = 0 then [] else sha256 (if req.getD 3 0 = 1 then blockOf s 1 else all) := by
    rcases hkind with e | e | e <;> rw [e] <;> rfl
  dsimp only
  rw [hguard, hsummary, if_neg Bool.false_ne_true]
  exact spdmReply_fresh _ _

/-- One measurement, signed when the request asks for it (R421). -/
theorem getMeasurements_replies (hc : req.getD 1 0 = 0xE0) (hslot : (req.getD 36 0).toNat % 16 = 0) {i : Nat}
    (hi : req.getD 3 0 = BitVec.ofNat 8 i ∧ 1 ≤ i ∧ i ≤ 4) : ∃ u, exec (.getMeasurements req) s = .next u ∧
      let signed := (req.getD 2 0).getLsbD 0
      let body := [0x13, 0x60, 0, 0, 1, 39, 0, 0] ++ blockOf s i ++ s.spdmNonce ++ [0, 0]
        ++ (req.drop (if signed then 37 else 4)).take 8
      Replies s u req (body ++ if signed then spdmSign measurementsContext (s.boot.transcript ++ req ++ body) else []) := by
  obtain ⟨hop, h1, h4⟩ := hi
  have hnum : (req.getD 3 0).toNat = i := by
    rw [hop, BitVec.toNat_ofNat]
    omega
  refine ⟨_, congrArg Host.Outcome.next (spdm_taken hp hl ha (by omega) hc _), ?_⟩
  have hone : (if (i == 255) = true then [1, 2, 3, 4] else if (i == 0) = true then [] else [i]) = [i] := by
    rw [if_neg (by simp; omega), if_neg (by simp; omega)]
  have hkind : (if (i == 0) = true then (4 : Byte) else 0) = 0 := if_neg (by simp; omega)
  have hrecord : [i].flatMap s.measBlock = blockOf s i := by
    rw [List.flatMap_singleton, measBlock_eq s h1 h4]
  have hguard : (decide (4 < i) && i != 255 || decide (req.length < (if (req.getD 2 0).getLsbD 0 = true then 45 else 12)) ||
      (req.getD 2 0).getLsbD 0 && (req.getD 36 0).toNat % 16 != 0) = false := by
    rw [hslot]
    cases (req.getD 2 0).getLsbD 0 <;> simp <;> omega
  dsimp only
  rw [hnum, hone, hkind, hrecord, blockOf_length, hguard, if_neg Bool.false_ne_true]
  cases (req.getD 2 0).getLsbD 0 <;> exact spdmReply_fresh _ _

end

/-- Every other request is unsupported (R421). -/
theorem spdmUnsupportedRequest_sends {s : State} {req : List Byte} (hp : s.boot.phase = .ready)
    (hc : req.getD 1 0 ∉ ([0x84, 0xE1, 0xE3, 0x81, 0x82, 0x83, 0xE0] : List Byte)) :
    ∃ u, exec (.spdmUnsupportedRequest req) s = .next u ∧ Sends s u [0x13, 0x7F, 0x07, req.getD 1 0] := by
  have hmem : reqCode req ∉ spdmKnown := hc
  have hknown : (s.boot.phase != .ready || spdmKnown.contains (reqCode req)) = false := by
    rw [hp, List.contains_eq_mem, decide_eq_false hmem]
    rfl
  refine ⟨_, congrArg Host.Outcome.next (if_neg ?_), rfl⟩
  rw [hknown]
  exact Bool.false_ne_true

/-- The responder answers as the specification says (R421). -/
theorem spdmClause_holds : spdmClause := fun _ _ hp hl =>
  ⟨getVersion_replies hp hl, getCapabilities_replies hp hl, negotiateAlgorithms_replies hp hl,
    fun hc ha => getDigests_replies hp hl ha hc, fun hc ha => getCertificate_replies hp hl ha hc,
    fun hc ha => challenge_replies hp hl ha hc, fun hc ha hslot _ hi => getMeasurements_replies hp hl ha hc hslot hi,
    spdmUnsupportedRequest_sends hp⟩

/-- Settles O52: reset, the phases of bring-up, the flash window and the responder, each by its own clause. -/
theorem bringUpEvents : Obligations.BringUpEvents :=
  ⟨resetClause_holds, phaseClause_holds, flashClause_holds, spdmClause_holds⟩

end Sys2Proof.Proofs
end
